-- ==== Sys2Proof/Word.lean ====
section
/-! DEFINITION. Words of the module and tables with one entry for each index. -/

namespace Sys2Proof

/-- One byte of memory. -/
abbrev Byte := BitVec 8
/-- A register of the register space (R4). -/
abbrev W32 := BitVec 32
/-- A data register of a replica (R80). -/
abbrev W64 := BitVec 64
/-- The data of one 16-byte granule. -/
abbrev Gran := BitVec 128
/-- A physical address (R233). -/
abbrev Addr := BitVec 36

/-- A table with one entry for each value of a `k`-bit index. -/
abbrev Tbl (k : Nat) (α : Type) := Vector α (2 ^ k)

/-- Entry `i`. -/
def Tbl.get {k : Nat} {α : Type} (t : Tbl k α) (i : BitVec k) : α := t[i.toNat]'i.isLt

/-- The table with entry `i` replaced. -/
def Tbl.set {k : Nat} {α : Type} (t : Tbl k α) (i : BitVec k) (x : α) : Tbl k α :=
  Vector.set t i.toNat x i.isLt

/-- The table with entry `i` changed by `f`. -/
def Tbl.upd {k : Nat} {α : Type} (t : Tbl k α) (i : BitVec k) (f : α → α) : Tbl k α :=
  Tbl.set t i (f (Tbl.get t i))

/-- Every entry `x`. -/
def Tbl.all {α : Type} (k : Nat) (x : α) : Tbl k α := Vector.replicate (2 ^ k) x

end Sys2Proof
end

