-- ==== Sys2Proof/Syntax.lean ====
section
/-! DEFINITION. The commands of the module: one constructor for each row of spec/opcode_table.json.
Operands are what the spec lets come from outside the block: the engine, channel, tile, port or ring that the
event is about, the identity and the value of a register access, and data that only the outside can supply. -/

namespace Sys2Proof

/-- Who makes an access: the masters of R260, and the keeper firmware acting through a replica. -/
inductive Master where
  | replica | mint | hostA | hostB | channel | yunal | debug
  deriving DecidableEq, Repr

/-- The identity of a register access: its master; the engine, compartment and ring of the access (R113); the
address of the storing instruction, the tick in which it retired and its slot position (R443, R445). -/
structure Who where
  master : Master
  eng    : BitVec 7
  comp   : BitVec 10
  ring   : BitVec 2
  pc     : Addr
  tick   : BitVec 64
  pos    : BitVec 6
  deriving DecidableEq, Repr

/-- What can go wrong between a fabric response and the lanes: a parity error on the distribution path (R193), and
a disturbance of the copy that one lane receives. DEDUCED: log entry 63. -/
structure Upset where
  parity : Bool
  lane   : BitVec 2
  mask   : BitVec 64
  deriving DecidableEq, Repr

/-- What can strike a bisque (R207, R200): an uncorrectable error in copy 0 or 1 of the record as it is written, and a
difference in the state that a promoted grog reads back. -/
structure BisqueUpset where
  bad0 : Bool
  bad1 : Bool
  readBack : Bool
  deriving DecidableEq, Repr

/-- Nothing strikes. -/
def BisqueUpset.none : BisqueUpset := ⟨false, false, false⟩

/-- What an exchange of EXCHANGE_TRIPLE meets (R189, R190): the lanes for which a channel clock begins within their slip, so
that they take a later moment than lane 0; the lanes whose agreement register's copy fails its parity; and a parity error on
the distribution path (R193). DEDUCED: log entry 63. -/
structure Exchange where
  late   : BitVec 3
  agr    : BitVec 3
  parity : Bool
  deriving DecidableEq, Repr

/-- What the monitors of a channel measure (R289): the current in µA, the voltage in mV, the resistance in mΩ, whether the
supply or driver is at its limit, and whether the tracking supply is at its maximum. -/
structure Probe where
  ua       : Int
  mv       : Int
  mohm     : Nat
  limit    : Bool
  trackMax : Bool
  deriving DecidableEq, Repr

/-- One constructor for each row of the opcode table. The docstring gives the row and its rule. -/
inductive Instr where
  /-- TICK_EDGE (R19): The tick generator produces edge n: the tick counter advances, records of tick n-1 are frozen and P0 begins. -/
  | tickEdge (grpOut : BitVec 32) (reread : List (BitVec 5 × BitVec 2))
  /-- APPLY_OUTPUTS (R21): At edge + 5 µs every output with a checked record committed in the previous tick changes at once, others hold or take CH_SAFE. -/
  | applyOutputs
  /-- P1_START (R19): At edge + 10 µs P1 begins on every engine at once and slot 0 of each list starts. -/
  | p1Start
  /-- COMMIT_CLOSE (R19): At C the commit window closes, running slots are aborted and marked output records are collected and checked. -/
  | commitClose
  /-- SLOT_BUDGET_EXPIRE (R33): A slot still running at the end of its budget is aborted as an overrun and the next slot starts. -/
  | slotBudgetExpire (e : BitVec 7)
  /-- BUDGET_WARNING (R176): With 5 µs of budget left in a slot longer than 20 µs, the budget warning interrupt becomes pending. -/
  | budgetWarning (e : BitVec 7)
  /-- TICK_SYNC_EDGE (R13): A rising edge on the tick-sync input is taken as the next tick edge if inside the window, otherwise counted as spurious. -/
  | tickSyncEdge (at_ : Nat)
  /-- HOLDOVER_ENTRY (R14): With no tick-sync edge by E + 2 µs the generator places the edge itself and enters holdover. -/
  | holdoverEntry
  /-- HOLD_EXPIRED (R16): After TICK_HOLD.LIMIT ticks of holdover HOLD_EXPIRED is set and the tick-holdover fault is reported. -/
  | holdExpired
  /-- TICK_CTL_WRITE (R17): A write to TICK_CTL is accepted in WAKE or COMMISSION for the next edge, or ignored with WERR. -/
  | tickCtlWrite (w : Who) (v : BitVec 32)
  /-- TICK_PERIOD_WRITE (R11): A write to TICK_PERIOD sets the period for the next edge if in range and mode permits, otherwise sets WERR. -/
  | tickPeriodWrite (w : Who) (v : BitVec 32)
  /-- TICK_HOLD_WRITE (R17): A write to TICK_HOLD sets LIMIT and REACQ for the next edge, or is ignored with WERR. -/
  | tickHoldWrite (w : Who) (v : BitVec 32)
  /-- TICK_STAT_READ (R38): A read of TICK_STAT returns the status and clears the SPURIOUS count. -/
  | tickStatRead (w : Who)
  /-- TICK_COUNT_READ (R38): A read of TICK_COUNT_LO returns the low tick bits and latches the high bits into TICK_COUNT_HI. -/
  | tickCountRead (w : Who)
  /-- TILTH_SWAP_REQUEST (R31): A write of 1 to TILTH_CTL.SWAP sets SWAP_PEND for a bank swap at the next edge. -/
  | tilthSwapRequest (w : Who) (v : BitVec 32)
  /-- REGISTER_WRITE (R5): A write to a register with no row of its own acts on each field by its access type, or is refused under R4. -/
  | registerWrite (w : Who) (addr : BitVec 36) (len : BitVec 5) (v : BitVec 32)
  /-- MODE_REQ_WRITE (R43): The keeper writes MODE_REQ; the request becomes pending or is refused with a REFUSE code. -/
  | modeReqWrite (w : Who) (v : BitVec 32)
  /-- OUT_RELEASE_WRITE (R46): A write of 1 to MODE_CTL.OUT_RELEASE in OPERATE sets OUT_REL so committed records are applied. -/
  | outReleaseWrite (w : Who) (v : BitVec 32)
  /-- WAKE_TIMEOUT (R47): WAKE not ended 60 s after edge 0 ends in HARDPAN with the wake-timeout fault. -/
  | wakeTimeout (step : BitVec 8)
  /-- HARDPAN_SAFE_REACHED (R449): Within 2 ms of hardpan entry every output is at its CH_SAFE action and HP_STAT.SAFE is set. -/
  | hardpanSafeReached
  /-- HOST_ABORT_COMPLETIONS (R365): After hardpan entry the ports write ABORTED completions for every fetched descriptor not yet completed. -/
  | hostAbortCompletions
  /-- LOGIC_SUPPLIES_IN_REGULATION (R484): With MAIN valid the logic rails come up in order and, once in regulation, DORMANT passes to WAKE. -/
  | logicSuppliesInRegulation (slot : BitVec 8) (dt : Nat)
  /-- MARCH_TEST_END (R255): The start-up checker tests and March C- test over SRAM and DRAM complete, passing or ending WAKE in HARDPAN. -/
  | marchTestEnd (pass : Bool) (bad : BitVec 36) (corr : List (Nat × BitVec 5)) (spst0 spst1 : BitVec 32)
  /-- START_UP_CHECKS_COMPLETE (R41): The last boot check passes and WAKE ends in COMMISSION or OPERATE at the next edge. -/
  | startUpChecksComplete (ok : Bool) (kind : BitVec 4) (dev : Bool) (res : BitVec 4)
  /-- FLOOR_BURN (R421): Within 1 s of a successful boot the keeper burns KEY_FLOOR and SVN_FLOOR up to their new counts. -/
  | floorBurn (fail weak : BitVec 384)
  /-- STORE_ACCEPT (R67): A target accepts a store-buffer entry in issue order, freeing the entry, or refuses it. -/
  | storeAccept (e : BitVec 7) (parity : Bool)
  /-- LOAD_RESPONSE (R64): The data of a fabric load arrives and is delivered to the lanes after their slip. -/
  | loadResponse (e : BitVec 7) (hostData : BitVec 128) (upset : Upset)
  /-- HOST_WINDOW_TIMEOUT (R65): A host-window access with no completion after 100 µs ends with a data-access exception or an imprecise notice. -/
  | hostWindowTimeout (e : BitVec 7)
  /-- LINE_FILL (R62): An instruction-cache line fill completes and delivers its granules to the waiting fetch. -/
  | lineFill (e : BitVec 7) (line : BitVec 36) (err : BitVec 152)
  /-- LOAD_DELAY_WRITE (R72): A load writes A at the end of the instruction that follows it. -/
  | loadDelayWrite (e : BitVec 7)
  /-- LONG_OP_RESULT (R73): A long operation reaches its distance and writes M, and E where it does, with its sticky flags. -/
  | longOpResult (e : BitVec 7)
  /-- RESERVATION_EXPIRE (R107): A reservation lapses 256 clocks after its LR. -/
  | reservationExpire (e : BitVec 7)
  /-- POWER_FAIL_WARNING (R487): After ride-through ends, the power-fail warning stops instruction issue, asserts hardpan lines and starts the power-fail sequence. -/
  | powerFailWarning (done weak : BitVec 32) (flashDone : Nat) (sector : List Byte)
  /-- POWER_FAIL_DRAIN_EXPIRE (R71): Store-buffer entries not accepted within 2 µs of the warning are discarded and counted in fault 0x0806. -/
  | powerFailDrainExpire
  /-- POWER_FAIL_SEQUENCE_END (R487): The logic rails go down in reverse order and the module enters DORMANT on the backup cell. -/
  | powerFailSequenceEnd
  /-- MAIN_INTERRUPTION (R486): MAIN falls below 16.0 V and the ride-through begins; an interruption ending within it is counted in DIPS. -/
  | mainInterruption (back : Bool)
  /-- NOP (R86): Opcode 0x01 does nothing. -/
  | nop (e : BitVec 7) (mode : BitVec 4) (opnd : BitVec 20)
  /-- CALL (R86): Pushes a return capability on S and the shadow stack and jumps to the PCC-relative target. -/
  | call (e : BitVec 7) (mode : BitVec 4) (opnd : BitVec 20)
  /-- CALLX (R86): Pushes a return capability as CALL does and sets PCC to X. -/
  | callx (e : BitVec 7) (mode : BitVec 4) (opnd : BitVec 20)
  /-- RET (R156): Pops a capability from S, compares it with the shadow stack top and returns through it. -/
  | ret (e : BitVec 7) (mode : BitVec 4) (opnd : BitVec 20)
  /-- GCALL (R147): Calls through the sealed gate in X into its compartment and ring, switching stacks and pushing a frame. -/
  | gcall (e : BitVec 7) (mode : BitVec 4) (opnd : BitVec 20)
  /-- GRET (R149): Returns through the top gate frame, or ends the slot normally at a slot frame. -/
  | gret (e : BitVec 7) (mode : BitVec 4) (opnd : BitVec 20)
  /-- SYSC (R153): Makes a fast system call into a lower ring through its entry register, saving LINK and SLINK. -/
  | sysc (e : BitVec 7) (mode : BitVec 4) (opnd : BitVec 20)
  /-- SYSR (R154): Returns from a fast system call through LINK and SLINK. -/
  | sysr (e : BitVec 7) (mode : BitVec 4) (opnd : BitVec 20)
  /-- ERET (R169): Returns from an exception through the task-state block, or chains to a pending interrupt. -/
  | eret (e : BitVec 7) (mode : BitVec 4) (opnd : BitVec 20)
  /-- TRAP (R86): Raises the software-trap exception with the code in OPND. -/
  | trap (e : BitVec 7) (mode : BitVec 4) (opnd : BitVec 20)
  /-- FENCE (R86): Waits until the store buffer is empty. -/
  | fence (e : BitVec 7) (mode : BitVec 4) (opnd : BitVec 20)
  /-- CINV (R63): Invalidates the instruction cache of this tile or of every tile. -/
  | cinv (e : BitVec 7) (mode : BitVec 4) (opnd : BitVec 20)
  /-- RINV (R265): Empties the fence-map region caches of this tile's port or of every port. -/
  | rinv (e : BitVec 7) (mode : BitVec 4) (opnd : BitVec 20)
  /-- WFI (R179): Waits for an interrupt that the engine could take. -/
  | wfi (e : BitVec 7) (mode : BitVec 4) (opnd : BitVec 20)
  /-- WFI_WAKE (R179): A waiting WFI completes when an eligible interrupt becomes pending, taking it if IB = 0. -/
  | wfiWake (e : BitVec 7) (x : Exchange)
  /-- BKPT (R474): A breakpoint halts the engine if claimed by a debug session, otherwise raises vector 0x0A. -/
  | bkpt (e : BitVec 7) (mode : BitVec 4) (opnd : BitVec 20)
  /-- LDA (R86): Loads 64 bits of the operand into A. -/
  | lda (e : BitVec 7) (mode : BitVec 4) (opnd : BitVec 20)
  /-- LDAW (R86): Loads 32 bits zero-extended into A. -/
  | ldaw (e : BitVec 7) (mode : BitVec 4) (opnd : BitVec 20)
  /-- LDAWS (R86): Loads 32 bits sign-extended into A. -/
  | ldaws (e : BitVec 7) (mode : BitVec 4) (opnd : BitVec 20)
  /-- LDAH (R86): Loads 16 bits zero-extended into A. -/
  | ldah (e : BitVec 7) (mode : BitVec 4) (opnd : BitVec 20)
  /-- LDAHS (R86): Loads 16 bits sign-extended into A. -/
  | ldahs (e : BitVec 7) (mode : BitVec 4) (opnd : BitVec 20)
  /-- LDAB (R86): Loads 8 bits zero-extended into A. -/
  | ldab (e : BitVec 7) (mode : BitVec 4) (opnd : BitVec 20)
  /-- LDABS (R86): Loads 8 bits sign-extended into A. -/
  | ldabs (e : BitVec 7) (mode : BitVec 4) (opnd : BitVec 20)
  /-- LDE (R86): Loads 64 bits of the operand into E. -/
  | lde (e : BitVec 7) (mode : BitVec 4) (opnd : BitVec 20)
  /-- STA (R86): Stores 8 bytes of A. -/
  | sta (e : BitVec 7) (mode : BitVec 4) (opnd : BitVec 20)
  /-- STAW (R86): Stores A[31:0]. -/
  | staw (e : BitVec 7) (mode : BitVec 4) (opnd : BitVec 20)
  /-- STAH (R86): Stores A[15:0]. -/
  | stah (e : BitVec 7) (mode : BitVec 4) (opnd : BitVec 20)
  /-- STAB (R86): Stores A[7:0]. -/
  | stab (e : BitVec 7) (mode : BitVec 4) (opnd : BitVec 20)
  /-- STE (R86): Stores 8 bytes of E. -/
  | ste (e : BitVec 7) (mode : BitVec 4) (opnd : BitVec 20)
  /-- STZ (R86): Stores 8 zero bytes. -/
  | stz (e : BitVec 7) (mode : BitVec 4) (opnd : BitVec 20)
  /-- LR (R106): Loads 8 bytes into A and reserves the granule. -/
  | lr (e : BitVec 7) (mode : BitVec 4) (opnd : BitVec 20)
  /-- SC (R106): Stores A if the reservation holds, setting Z, after draining the store buffer. -/
  | sc (e : BitVec 7) (mode : BitVec 4) (opnd : BitVec 20)
  /-- ADD (R86): A := A + op with flags. -/
  | add (e : BitVec 7) (mode : BitVec 4) (opnd : BitVec 20)
  /-- ADC (R86): A := A + op + C with flags. -/
  | adc (e : BitVec 7) (mode : BitVec 4) (opnd : BitVec 20)
  /-- SUB (R86): A := A - op with flags. -/
  | sub (e : BitVec 7) (mode : BitVec 4) (opnd : BitVec 20)
  /-- SBC (R86): A := A - op - C with flags. -/
  | sbc (e : BitVec 7) (mode : BitVec 4) (opnd : BitVec 20)
  /-- RSB (R86): A := op - A with flags. -/
  | rsb (e : BitVec 7) (mode : BitVec 4) (opnd : BitVec 20)
  /-- AND (R86): A := A AND op. -/
  | and_ (e : BitVec 7) (mode : BitVec 4) (opnd : BitVec 20)
  /-- OR (R86): A := A OR op. -/
  | or_ (e : BitVec 7) (mode : BitVec 4) (opnd : BitVec 20)
  /-- XOR (R86): A := A XOR op. -/
  | xor (e : BitVec 7) (mode : BitVec 4) (opnd : BitVec 20)
  /-- ANDN (R86): A := A AND NOT op. -/
  | andn (e : BitVec 7) (mode : BitVec 4) (opnd : BitVec 20)
  /-- CMP (R86): Sets flags of A - op. -/
  | cmp (e : BitVec 7) (mode : BitVec 4) (opnd : BitVec 20)
  /-- TST (R86): Sets flags of A AND op. -/
  | tst (e : BitVec 7) (mode : BitVec 4) (opnd : BitVec 20)
  /-- SHL (R86): Shifts A left. -/
  | shl (e : BitVec 7) (mode : BitVec 4) (opnd : BitVec 20)
  /-- SHR (R86): Shifts A right logically. -/
  | shr (e : BitVec 7) (mode : BitVec 4) (opnd : BitVec 20)
  /-- SAR (R86): Shifts A right arithmetically. -/
  | sar (e : BitVec 7) (mode : BitVec 4) (opnd : BitVec 20)
  /-- ROL (R86): Rotates A left. -/
  | rol (e : BitVec 7) (mode : BitVec 4) (opnd : BitVec 20)
  /-- ROR (R86): Rotates A right. -/
  | ror (e : BitVec 7) (mode : BitVec 4) (opnd : BitVec 20)
  /-- MFE (R86): A := E. -/
  | mfe (e : BitVec 7) (mode : BitVec 4) (opnd : BitVec 20)
  /-- MTE (R86): E := A. -/
  | mte (e : BitVec 7) (mode : BitVec 4) (opnd : BitVec 20)
  /-- MFM (R86): A := M. -/
  | mfm (e : BitVec 7) (mode : BitVec 4) (opnd : BitVec 20)
  /-- MTM (R86): M := A. -/
  | mtm (e : BitVec 7) (mode : BitVec 4) (opnd : BitVec 20)
  /-- NEG (R86): A := 0 - A. -/
  | neg (e : BitVec 7) (mode : BitVec 4) (opnd : BitVec 20)
  /-- NOT (R86): A := NOT A. -/
  | not_ (e : BitVec 7) (mode : BitVec 4) (opnd : BitVec 20)
  /-- ABS (R86): A := |A|, setting V for the most negative value. -/
  | abs_ (e : BitVec 7) (mode : BitVec 4) (opnd : BitVec 20)
  /-- CLZ (R86): A := leading zero count. -/
  | clz (e : BitVec 7) (mode : BitVec 4) (opnd : BitVec 20)
  /-- CTZ (R86): A := trailing zero count. -/
  | ctz (e : BitVec 7) (mode : BitVec 4) (opnd : BitVec 20)
  /-- POPC_BITS (R86): Opcode 0x39: A := number of one bits of A. -/
  | popcBits (e : BitVec 7) (mode : BitVec 4) (opnd : BitVec 20)
  /-- BSWAP (R86): Reverses the 8 bytes of A. -/
  | bswap (e : BitVec 7) (mode : BitVec 4) (opnd : BitVec 20)
  /-- SEXT (R86): Sign-extends A from bit 7, 15 or 31. -/
  | sext (e : BitVec 7) (mode : BitVec 4) (opnd : BitVec 20)
  /-- MIN (R86): A := signed minimum of A and op. -/
  | min_ (e : BitVec 7) (mode : BitVec 4) (opnd : BitVec 20)
  /-- MAX (R86): A := signed maximum of A and op. -/
  | max_ (e : BitVec 7) (mode : BitVec 4) (opnd : BitVec 20)
  /-- MINU (R86): A := unsigned minimum. -/
  | minu (e : BitVec 7) (mode : BitVec 4) (opnd : BitVec 20)
  /-- MAXU (R86): A := unsigned maximum. -/
  | maxu (e : BitVec 7) (mode : BitVec 4) (opnd : BitVec 20)
  /-- MUL (R73): Issues a signed 128-bit multiply into E:M. -/
  | mul (e : BitVec 7) (mode : BitVec 4) (opnd : BitVec 20)
  /-- MULU (R73): Issues an unsigned multiply into E:M. -/
  | mulu (e : BitVec 7) (mode : BitVec 4) (opnd : BitVec 20)
  /-- MAC (R73): Issues a signed multiply-accumulate onto E:M. -/
  | mac (e : BitVec 7) (mode : BitVec 4) (opnd : BitVec 20)
  /-- MACU (R73): Issues an unsigned multiply-accumulate onto E:M. -/
  | macu (e : BitVec 7) (mode : BitVec 4) (opnd : BitVec 20)
  /-- DIV (R93): Issues a signed divide giving quotient in M and remainder in E. -/
  | div (e : BitVec 7) (mode : BitVec 4) (opnd : BitVec 20)
  /-- DIVU (R93): Issues an unsigned divide. -/
  | divu (e : BitVec 7) (mode : BitVec 4) (opnd : BitVec 20)
  /-- REM (R93): Issues a signed remainder into M. -/
  | rem (e : BitVec 7) (mode : BitVec 4) (opnd : BitVec 20)
  /-- REMU (R93): Issues an unsigned remainder into M. -/
  | remu (e : BitVec 7) (mode : BitVec 4) (opnd : BitVec 20)
  /-- FADD (R94): Issues a binary64 addition into M. -/
  | fadd (e : BitVec 7) (mode : BitVec 4) (opnd : BitVec 20)
  /-- FSUB (R94): Issues a binary64 subtraction into M. -/
  | fsub (e : BitVec 7) (mode : BitVec 4) (opnd : BitVec 20)
  /-- FMUL (R94): Issues a binary64 multiplication into M. -/
  | fmul (e : BitVec 7) (mode : BitVec 4) (opnd : BitVec 20)
  /-- FDIV (R94): Issues a binary64 division into M. -/
  | fdiv (e : BitVec 7) (mode : BitVec 4) (opnd : BitVec 20)
  /-- FSQRT (R94): Issues a binary64 square root of A into M. -/
  | fsqrt (e : BitVec 7) (mode : BitVec 4) (opnd : BitVec 20)
  /-- FCVTI (R95): Issues a conversion of binary64 A to int64 with saturation. -/
  | fcvti (e : BitVec 7) (mode : BitVec 4) (opnd : BitVec 20)
  /-- FCVTF (R86): Issues a conversion of int64 A to binary64. -/
  | fcvtf (e : BitVec 7) (mode : BitVec 4) (opnd : BitVec 20)
  /-- FCVTS (R86): Issues a conversion of A to binary32. -/
  | fcvts (e : BitVec 7) (mode : BitVec 4) (opnd : BitVec 20)
  /-- FCVTD (R86): Issues a conversion of binary32 A to binary64. -/
  | fcvtd (e : BitVec 7) (mode : BitVec 4) (opnd : BitVec 20)
  /-- FCMP (R86): Compares binary64 A with op and sets Z, N and U. -/
  | fcmp (e : BitVec 7) (mode : BitVec 4) (opnd : BitVec 20)
  /-- FNEG (R86): Inverts A[63]. -/
  | fneg (e : BitVec 7) (mode : BitVec 4) (opnd : BitVec 20)
  /-- FABS (R86): Clears A[63]. -/
  | fabs (e : BitVec 7) (mode : BitVec 4) (opnd : BitVec 20)
  /-- FMIN (R86): A := binary64 minimum. -/
  | fmin (e : BitVec 7) (mode : BitVec 4) (opnd : BitVec 20)
  /-- FMAX (R86): A := binary64 maximum. -/
  | fmax (e : BitVec 7) (mode : BitVec 4) (opnd : BitVec 20)
  /-- FCLASS (R86): A := class bit of binary64 A. -/
  | fclass (e : BitVec 7) (mode : BitVec 4) (opnd : BitVec 20)
  /-- BCC (R91): Branches to the PCC-relative target if the condition holds. -/
  | bcc (e : BitVec 7) (cond : BitVec 4) (mode : BitVec 4) (opnd : BitVec 20)
  /-- JMPX (R86): PCC := X. -/
  | jmpx (e : BitVec 7) (mode : BitVec 4) (opnd : BitVec 20)
  /-- LDCX (R86): Loads a tagged capability into X. -/
  | ldcx (e : BitVec 7) (mode : BitVec 4) (opnd : BitVec 20)
  /-- LDCY (R86): Loads a tagged capability into Y. -/
  | ldcy (e : BitVec 7) (mode : BitVec 4) (opnd : BitVec 20)
  /-- LDCD (R86): Loads a tagged capability into D. -/
  | ldcd (e : BitVec 7) (mode : BitVec 4) (opnd : BitVec 20)
  /-- LDCS (R86): Loads a tagged capability into S. -/
  | ldcs (e : BitVec 7) (mode : BitVec 4) (opnd : BitVec 20)
  /-- STCX (R115): Stores X with its tag. -/
  | stcx (e : BitVec 7) (mode : BitVec 4) (opnd : BitVec 20)
  /-- STCY (R115): Stores Y with its tag. -/
  | stcy (e : BitVec 7) (mode : BitVec 4) (opnd : BitVec 20)
  /-- STCD (R115): Stores D with its tag. -/
  | stcd (e : BitVec 7) (mode : BitVec 4) (opnd : BitVec 20)
  /-- STCS (R115): Stores S with its tag. -/
  | stcs (e : BitVec 7) (mode : BitVec 4) (opnd : BitVec 20)
  /-- PCOPY (R118): Copies a capability register. -/
  | pcopy (e : BitVec 7) (mode : BitVec 4) (opnd : BitVec 20)
  /-- PTRIM (R118): Narrows a capability's bounds to A and E. -/
  | ptrim (e : BitVec 7) (mode : BitVec 4) (opnd : BitVec 20)
  /-- PMASK (R118): Removes rights from a capability. -/
  | pmask (e : BitVec 7) (mode : BitVec 4) (opnd : BitVec 20)
  /-- PSTEP (R118): Moves a capability's cursor by A plus the immediate. -/
  | pstep (e : BitVec 7) (mode : BitVec 4) (opnd : BitVec 20)
  /-- PAIM (R118): Sets a capability's cursor to A. -/
  | paim (e : BitVec 7) (mode : BitVec 4) (opnd : BitVec 20)
  /-- PWRAP (R118): Seals a capability as a gate or object with Y as authority. -/
  | pwrap (e : BitVec 7) (mode : BitVec 4) (opnd : BitVec 20)
  /-- PUNWRAP (R118): Unseals a sealed object with Y as authority. -/
  | punwrap (e : BitVec 7) (mode : BitVec 4) (opnd : BitVec 20)
  /-- PFLD (R118): Reads a capability field into A. -/
  | pfld (e : BitVec 7) (mode : BitVec 4) (opnd : BitVec 20)
  /-- MOVS (R99): Starts a string move from Y to X. -/
  | movs (e : BitVec 7) (mode : BitVec 4) (opnd : BitVec 20)
  /-- FILLS (R99): Starts a string fill of X with A. -/
  | fills (e : BitVec 7) (mode : BitVec 4) (opnd : BitVec 20)
  /-- CMPS (R99): Starts a string compare of X with Y. -/
  | cmps (e : BitVec 7) (mode : BitVec 4) (opnd : BitVec 20)
  /-- SCANS (R99): Starts a scan of Y for a byte. -/
  | scans (e : BitVec 7) (mode : BitVec 4) (opnd : BitVec 20)
  /-- MOVC (R99): Starts a tagged granule move from Y to X. -/
  | movc (e : BitVec 7) (mode : BitVec 4) (opnd : BitVec 20)
  /-- CRCS (R99): Starts a CRC-32C update over the bytes at Y. -/
  | crcs (e : BitVec 7) (mode : BitVec 4) (opnd : BitVec 20)
  /-- STRING_STEP (R98): One step of a string instruction handles n bytes and updates X, Y, RCNT and RSTATE. -/
  | stringStep (e : BitVec 7) (host0 host1 host2 host3 : BitVec 128)
  /-- REP (R102): Starts a repeat block of 1 to 16 instructions. -/
  | rep (e : BitVec 7) (mode : BitVec 4) (opnd : BitVec 20)
  /-- REPEAT_ITERATION_END (R104): After the last body instruction RCNT decrements and the body repeats or the repeat ends. -/
  | repeatIterationEnd (e : BitVec 7)
  /-- LDRC (R86): RCNT := op. -/
  | ldrc (e : BitVec 7) (mode : BitVec 4) (opnd : BitVec 20)
  /-- PUSH (R86): Pushes A on S. -/
  | push (e : BitVec 7) (mode : BitVec 4) (opnd : BitVec 20)
  /-- POP (R86): Pops 8 bytes from S into A. -/
  | pop (e : BitVec 7) (mode : BitVec 4) (opnd : BitVec 20)
  /-- PUSHC (R86): Pushes a capability register on S. -/
  | pushc (e : BitVec 7) (mode : BitVec 4) (opnd : BitVec 20)
  /-- POPC (R92): Opcode 0x93: pops a capability from S into X, Y, D or S. -/
  | popc (e : BitVec 7) (mode : BitVec 4) (opnd : BitVec 20)
  /-- MFF (R86): A := F. -/
  | mff (e : BitVec 7) (mode : BitVec 4) (opnd : BitVec 20)
  /-- MTF (R90): F := A in its RW fields. -/
  | mtf (e : BitVec 7) (mode : BitVec 4) (opnd : BitVec 20)
  /-- MFSR (R96): A := a system register. -/
  | mfsr (e : BitVec 7) (mode : BitVec 4) (opnd : BitVec 20)
  /-- MTSR (R96): Writes A to a system register. -/
  | mtsr (e : BitVec 7) (mode : BitVec 4) (opnd : BitVec 20)
  /-- LSI (R86): A := (A shifted left by 20) OR OPND. -/
  | lsi (e : BitVec 7) (mode : BitVec 4) (opnd : BitVec 20)
  /-- XCHG (R86): Exchanges A and E. -/
  | xchg (e : BitVec 7) (mode : BitVec 4) (opnd : BitVec 20)
  /-- SETC (R86): A := 1 if the condition holds, else 0. -/
  | setc (e : BitVec 7) (mode : BitVec 4) (opnd : BitVec 20)
  /-- SELC (R86): A := A if the condition holds, else E. -/
  | selc (e : BitVec 7) (mode : BitVec 4) (opnd : BitVec 20)
  /-- TICKR (R108): A := the current tick number. -/
  | tickr (e : BitVec 7) (mode : BitVec 4) (opnd : BitVec 20) (x : Exchange)
  /-- TPOS (R108): A := channel clocks since the current tick edge. -/
  | tpos (e : BitVec 7) (mode : BitVec 4) (opnd : BitVec 20) (x : Exchange)
  /-- BUDG (R108): A := channel clocks left in the slot's budget. -/
  | budg (e : BitVec 7) (mode : BitVec 4) (opnd : BitVec 20) (x : Exchange)
  /-- WHO (R108): A := engine, compartment, ring and grouping code. -/
  | who (e : BitVec 7) (mode : BitVec 4) (opnd : BitVec 20) (x : Exchange)
  /-- HINT (R89): Opcodes 0xE0 to 0xE7 execute as NOP. -/
  | hint (e : BitVec 7) (num : BitVec 3) (mode : BitVec 4) (opnd : BitVec 20)
  /-- BLANK_MEMORY_ZEROED (R88): Opcode 0x00 raises the blank-memory exception with cause zeroed. -/
  | blankMemoryZeroed (e : BitVec 7) (mode : BitVec 4) (opnd : BitVec 20)
  /-- BLANK_MEMORY_ERASED (R88): Opcode 0xFF raises the blank-memory exception with cause erased. -/
  | blankMemoryErased (e : BitVec 7) (mode : BitVec 4) (opnd : BitVec 20)
  /-- UNDEFINED_OPCODE (R87): An undefined opcode raises the illegal-instruction exception with cause 0x01. -/
  | undefinedOpcode (e : BitVec 7) (opc : BitVec 8) (mode : BitVec 4) (opnd : BitVec 20)
  /-- INTERRUPT_ENTRY (R177): An eligible pending interrupt is taken at an instruction boundary and enters its vector. -/
  | interruptEntry (e : BitVec 7) (x : Exchange)
  /-- RECOVERY_DECISION (R217): Once the unwind ends the pair resumes if budget permits, otherwise the slot fails. -/
  | recoveryDecision (e : BitVec 7) (differs : Bool)
  /-- STATE_SWEEP (R194): At edge + P/2 of sweep ticks every compared group compares its whole architected state. -/
  | stateSweep (e : BitVec 7)
  /-- BISQUE (R209): Once store buffers drain, the engine's state is compared, the undo log committed and the record written. -/
  | bisque (e : BitVec 7) (u : BisqueUpset)
  /-- FORCED_BISQUE (R213): A pair takes a bisque when its undo log reaches 216 entries or after a register or host access. -/
  | forcedBisque (e : BitVec 7)
  /-- GROG_BIST_PASS_END (R203): A replica's BIST pass ends clean or failed, moving it toward GROG, FENCED or RETIRED. -/
  | grogBistPassEnd (t : BitVec 5) (r : BitVec 2) (clean : Bool)
  /-- TILE_GROUP_COMMIT (R185): A write of 1 to TILE_GROUP.COMMIT requests the staged code for the next edge or is rejected. -/
  | tileGroupCommit (w : Who) (t : BitVec 5) (v : BitVec 32)
  /-- TILE_STAT_READ (R205): A read of TILE_STAT returns status and clears MISM and DROP. -/
  | tileStatRead (w : Who) (t : BitVec 5)
  /-- SPAN_COMPARE (R227): 1 µs after the last member ends the span's signatures are compared and records committed or withheld. -/
  | spanCompare (k : BitVec 6)
  /-- CMINT_GO (R135): A write of 1 to CMINT_CTL.GO checks and mints a tagged capability into memory. -/
  | cmintGo (w : Who) (v : BitVec 32)
  /-- MINT_COMPLETE (R136): The mint's store is accepted or refused by the fence map and BUSY clears. -/
  | mintComplete
  /-- PATROL_SCRUB_LINE (R249): The patrol scrubber reads the next DRAM line and writes back corrected codewords. -/
  | patrolScrubLine (err0 err1 err2 err3 : BitVec 152)
  /-- SRAM_SCRUB_PASS (R250): A scrub pass over shared and tile SRAM corrects and logs words every 10 s. -/
  | sramScrubPass (errs : List (Nat × BitVec 152))
  /-- DEMAND_WRITE_BACK (R251): A queued write-back of a corrected word is written unless a newer write was accepted. -/
  | demandWriteBack
  /-- FENCE_WRITE (R258): A write of FENCE_CTL.WRITE writes fence entry IDX or refuses with ERR. -/
  | fenceWrite (w : Who) (v : BitVec 32)
  /-- FENCE_READ (R258): A write of FENCE_CTL.READ loads FENCE_W0 to FENCE_W3 from entry IDX. -/
  | fenceRead (w : Who) (v : BitVec 32)
  /-- MEM_CNT0_READ (R266): A read of MEM_CNT0 returns and clears the corrected SRAM and DRAM counts. -/
  | memCnt0Read (w : Who)
  /-- MEM_CNT1_READ (R266): A read of MEM_CNT1 returns and clears the check, parity and uncorrectable counts. -/
  | memCnt1Read (w : Who)
  /-- REFERENCE_CHECK (R282): Every 100 µs each die checks its three references pairwise and reaches a verdict. -/
  | referenceCheck (d : BitVec 2) (acOut bcOut abOut : Bool)
  /-- AFE_STAT_READ (R300): A read of AFE_STATd returns reference status and clears REF_EVT. -/
  | afeStatRead (w : Who) (d : BitVec 2)
  /-- CALIBRATION_START (R306): A path is switched to its internal calibration points at mode start or every 600 s. -/
  | calibrationStart (c : BitVec 8) (isMain : Bool)
  /-- CALIBRATION_RESULT (R307): From the two point readings a gain and offset are computed and accepted or rejected. -/
  | calibrationResult (c : BitVec 8) (zero full : List (BitVec 4))
  /-- DETECTOR_EVAL (R288): Every 100 µs the open, short and line-break detectors are evaluated. -/
  | detectorEval (c : BitVec 8) (p : Probe)
  /-- SHORT_SWITCH_OFF (R286): A DO or PWM-O output at its current limit for 500 µs is switched off and reported short. -/
  | shortSwitchOff (c : BitVec 8)
  /-- SHORT_RETRY (R286): A shorted output with its command on retries every 100 ms for 500 µs. -/
  | shortRetry (c : BitVec 8) (still : Bool)
  /-- HART_GO_ACCEPT (R293): At the modem's 100 µs check a written GO is accepted and the request queued. -/
  | hartGoAccept (c : BitVec 8)
  /-- HART_TRANSMIT (R293): With the line quiet 20 ms and DEVID valid the modem transmits the request. -/
  | hartTransmit (c : BitVec 8)
  /-- HART_RESPONSE (R293): A HART frame is received and ends the transaction, counts as an error, or is discarded. -/
  | hartResponse (c : BitVec 8) (frame : List Byte) (answers good : Bool) (id : BitVec 40)
  /-- HART_TIMEOUT (R291): No carrier 305 ms after a request uses up a retry or ends the transaction with no response. -/
  | hartTimeout (c : BitVec 8)
  /-- HART_IDENTITY_SEQUENCE (R294): On entry to mode 10 or 11, or every 10 s until answered, the modem sends command 0. -/
  | hartIdentitySequence (c : BitVec 8)
  /-- OUTPUT_SAMPLE (R301): The pipeline completes an output sample: calibration, comparison, limits and rate of change. -/
  | outputSample (c : BitVec 8) (mainCodes shadCodes : List (BitVec 4)) (levels : List (Int × Int)) (above : BitVec 2)
  /-- CHANNEL_COMMIT_REQUEST (R328): A write of 1 to CH_CTLSTAT.COMMIT sets CPEND for a commit at the next edge. -/
  | channelCommitRequest (w : Who) (c : BitVec 8) (v : BitVec 32)
  /-- CHANNEL_STAGED_WRITE (R327): A write to CH_MODE, CH_PROC, CH_LIM or CH_SAFE sets the staged copy, or the live value under live-write. -/
  | channelStagedWrite (w : Who) (c : BitVec 8) (reg : BitVec 2) (v : BitVec 32)
  /-- LIVE_SET (R332): A write to CH_CTLSTAT.LIVE enables or ends live-write in COMMISSION. -/
  | liveSet (w : Who) (c : BitVec 8) (v : BitVec 32)
  /-- CH_CTLSTAT_READ (R340): A read of CH_CTLSTAT returns status and clears EVT. -/
  | chCtlstatRead (w : Who) (c : BitVec 8)
  /-- RAMP_END (R334): An output shutdown ramp reaches its end after CH_SAFE.RAMP milliseconds. -/
  | rampEnd (c : BitVec 8)
  /-- CHANNEL_EVENT (R336): At edge + 2 µs the enabled channel event causes raise the channel event for the latched owner. -/
  | channelEvent (c : BitVec 8)
  /-- TIM_CTL_WRITE (R343): A write to TIM_CTL sets use and options for the next edge; W1C bits act at once. -/
  | timCtlWrite (w : Who) (c : BitVec 8) (v : BitVec 32)
  /-- TIM_TOP_WRITE (R347): A write to TIM_TOP changes the live top of count, or is ignored with WERR. -/
  | timTopWrite (w : Who) (c : BitVec 8) (v : BitVec 32)
  /-- TIM_CMP_WRITE (R350): A write to TIM_CMP replaces the live comparator, setting MWARN if not safe. -/
  | timCmpWrite (w : Who) (c : BitVec 8) (v : BitVec 32)
  /-- TIM_PHASE_WRITE (R352): A write to TIM_PHASE sets stagger position K and size N for the next start. -/
  | timPhaseWrite (w : Who) (c : BitVec 8) (v : BitVec 32)
  /-- TIM_PHASE_READ (R354): A read of TIM_PHASE returns the capture low bits and latches CAP_HI and CAPD. -/
  | timPhaseRead (w : Who) (c : BitVec 8)
  /-- PERIOD_START (R346): The waveform counter wraps or turns at 0 and a new period starts. -/
  | periodStart (c : BitVec 8)
  /-- COMPARATOR_CROSSING (R348): The count crosses the comparator and the mode 9 output switches. -/
  | comparatorCrossing (c : BitVec 8)
  /-- PULSE_EDGE (R342): A rising edge on a PI input is counted or timed by the channel's timer. -/
  | pulseEdge (c : BitVec 8) (dt : Nat)
  /-- PERIOD_TIMEOUT (R356): In the period use more than TOP clocks pass without a rising edge and the result times out. -/
  | periodTimeout (c : BitVec 8)
  /-- PORT_RESET (R366): A link-down, hot reset or PERST# resets the port and takes its rings DOWN. -/
  | portReset (port perst : Bool)
  /-- PERST_DEASSERT (R396): After PERST# is deasserted the port answers configuration and trains its link. -/
  | perstDeassert (port : Bool)
  /-- STATUS_PAGE_UPDATE (R368): At edge + 20 µs the BAR4 status page is rewritten between UPD_BEGIN and UPD_END. -/
  | statusPageUpdate
  /-- HOST_WINDOW_WRITE (R372): A write of HW_CTL.WRITE writes host-window entry IDX or refuses with ERR. -/
  | hostWindowWrite (w : Who) (v : BitVec 32)
  /-- HOST_WINDOW_READ (R372): A write of HW_CTL.READ loads HW_W0 to HW_W3 from entry IDX. -/
  | hostWindowRead (w : Who) (v : BitVec 32)
  /-- KREADY_SET (R365): The keeper writes HOST_CTL.KREADY so rings may be fetched. -/
  | kreadySet (w : Who) (v : BitVec 32)
  /-- SQ_TAIL_DOORBELL (R378): A host write to a ring's SQ tail doorbell sets the new tail, or is dropped and counted. -/
  | sqTailDoorbell (port : Bool) (page : BitVec 10) (r : BitVec 8) (v : BitVec 32)
  /-- CQ_HEAD_DOORBELL (R374): A host write to a ring's CQ head doorbell frees completion entries, or is dropped. -/
  | cqHeadDoorbell (port : Bool) (page : BitVec 10) (r : BitVec 8) (v : BitVec 32)
  /-- KEEPER_DOORBELL (R376): A write to page 0 offset 0 raises the doorbell event for compartment 0. -/
  | keeperDoorbell (port : Bool) (v : BitVec 32)
  /-- DESCRIPTOR_FETCH (R378): The port reads the next descriptor, checks it and delivers a message or queues a service. -/
  | descriptorFetch (r : BitVec 8) (desc : BitVec 512) (data : List Byte)
  /-- OUTBOUND_PASS (R385): Every 10 µs the port takes posted outbound slots, performs DMA_OUT and writes completions. -/
  | outboundPass
  /-- SERVICE_NOP (R387): Service 0x00 completes with result 0. -/
  | serviceNop
  /-- IDENTIFY (R387): Service 0x01 returns the identity block by DMA_OUT. -/
  | identify
  /-- CREATE_RING (R388): Service 0x02 allocates a ring area and makes a new ring ACTIVE. -/
  | createRing (area : BitVec 36)
  /-- DELETE_RING (R389): Service 0x03 sets a ring DELETING and stops fetching. -/
  | deleteRing
  /-- DELETE_RING_TIMEOUT (R389): 100 ms after DELETE_RING outstanding descriptors are dropped, the ring freed and the completion written. -/
  | deleteRingTimeout (r : BitVec 8)
  /-- MAP_WINDOW (R387): Service 0x04 maps a host window for a compartment. -/
  | mapWindow
  /-- UNMAP_WINDOW (R387): Service 0x05 unmaps a host window slot. -/
  | unmapWindow
  /-- SET_QUOTA (R393): Service 0x06 sets a compartment's quota limit up to its ceiling. -/
  | setQuota
  /-- GET_QUOTA (R387): Service 0x07 returns a compartment's quota use and limit. -/
  | getQuota
  /-- ALLOC_PAGES (R387): Service 0x08 allocates module pages and delivers a capability through gate 1. -/
  | allocPages (addr : BitVec 36)
  /-- FREE_PAGES (R387): Service 0x09 frees module pages of a compartment. -/
  | freePages
  /-- MODE_REQUEST (R387): Service 0x0A writes MODE_REQ for the host and completes when accepted or refused. -/
  | modeRequest
  /-- OUT_RELEASE (R387): Service 0x0B confirms hand-over so the keeper writes OUT_RELEASE. -/
  | outRelease
  /-- LOAD_COMPARTMENT (R387): Service 0x0C loads and verifies a signed compartment image. -/
  | loadCompartment (data : List Byte) (stage dst : BitVec 36)
  /-- TILTH_UPDATE (R387): Service 0x0D checks a bank image, writes it to the inactive bank and swaps. -/
  | tilthUpdate (data : List Byte)
  /-- READ_LOG (R387): Service 0x0E returns the fault log by DMA_OUT. -/
  | readLog
  /-- ATTEST (R387): Service 0x0F returns a signed attestation report for a nonce. -/
  | attest
  /-- SET_TICK (R387): Service 0x10 writes the tick registers. -/
  | setTick
  /-- RESET_MODULE (R387): Service 0x11 resets the module. -/
  | resetModule
  /-- PREPARE_REMOVAL (R397): Service 0x12 runs the hand-over, drains rings and signals removal ready. -/
  | prepareRemoval
  /-- INVALID_OPCODE (R387): A service opcode 0x13 to 0x3F completes with INVALID_OPCODE. -/
  | invalidOpcode
  /-- HP_RESET_WRITE (R400): A host write to HP_RESET with the key resets the module, or is refused in OPERATE. -/
  | hpResetWrite (port : Bool) (v : BitVec 32)
  /-- ADMIN_RING_ENABLE (R400): A write of ADM_CTL.EN from 0 to 1 makes the admin ring ACTIVE or sets ADM_ERR. -/
  | adminRingEnable (port : Bool) (area : BitVec 36)
  /-- ADMIN_RING_DISABLE (R400): A write of ADM_CTL.EN from 1 to 0 deletes the admin ring. -/
  | adminRingDisable (port : Bool)
  /-- FUSE_BURN (R406): A write of FUSE_CTL.BURN with the key starts burning the masked bits or refuses with ERR. -/
  | fuseBurn (w : Who) (v : BitVec 32)
  /-- FUSE_BURN_COMPLETE (R406): A fuse burn ends after programming and verifying each bit. -/
  | fuseBurnComplete (fail weak : BitVec 32)
  /-- VERIFY (R410): Security command 1 checks, decrypts and measures a staged image. -/
  | verify (w : Who) (ksel nolog : Bool)
  /-- SLOT_BUILD (R429): Security command 2 verifies a key package and builds a key slot image. -/
  | slotBuild (w : Who)
  /-- SEC_ATTEST (R427): Security command 3 composes and signs an attestation report. -/
  | secAttest (w : Who)
  /-- RECORD_MAC (R429): Security command 4 computes or checks the GMAC of the spare record. -/
  | recordMac (w : Who)
  /-- SEC_INVALID_COMMAND (R429): Security command 0, 5, 6 or 7 ends with FORMAT. -/
  | secInvalidCommand (w : Who) (k : BitVec 2)
  /-- SEC_COMMAND_COMPLETE (R429): A security command ends and SEC_STAT.RES gives its result. -/
  | secCommandComplete
  /-- FLASH_READ (R430): Flash operation 1 copies flash bytes into module memory. -/
  | flashRead (w : Who)
  /-- FLASH_PROGRAM (R430): Flash operation 2 programs module memory bytes into flash. -/
  | flashProgram (w : Who) (key : BitVec 16)
  /-- FLASH_ERASE (R430): Flash operation 3 erases one 4 KiB sector. -/
  | flashErase (w : Who) (key : BitVec 16)
  /-- FLASH_OP_COMPLETE (R430): A flash operation ends and BUSY clears with its ERR code. -/
  | flashOpComplete (devErr : Bool) (n : Nat)
  /-- KEY_UPDATE (R420): The keeper writes a new key slot from a verified package. -/
  | keyUpdate (e : BitVec 7)
  /-- STORE_IMAGE (R420): The keeper verifies an image and writes it to both flash devices. -/
  | storeImage (e : BitVec 7) (off : BitVec 26)
  /-- RNG_REQUEST (R424): A write of RNG_CTL.REQ queues a generate request or sets OVF. -/
  | rngRequest (w : Who) (v : BitVec 32)
  /-- RNG_POP (R424): A write of RNG_CTL.POP removes the head request. -/
  | rngPop (w : Who)
  /-- RNG_REQUEST_SERVED (R423): The DRBG serves the head request with numbers, or with entropy-unavailable when exhausted. -/
  | rngRequestServed
  /-- TRNG_STARTUP_TEST_END (R423): The start-up health test over 1024 samples ends; a pass seeds or reseeds the DRBG. -/
  | trngStartupTestEnd (samples : BitVec 1024)
  /-- DRBG_RESEED (R423): After 4096 generate calls or 1 s the DRBG reseeds. -/
  | drbgReseed (samples : BitVec 1024)
  /-- CONTINUOUS_TEST_FAILURE (R423): A continuous health test fails and the DRBG becomes DEGRADED. -/
  | continuousTestFailure
  /-- WD_SERVICE (R443): A store to WD_SVC services, is ignored by, or bites the writing engine's watchdog. -/
  | wdService (w : Who) (v : BitVec 32)
  /-- WD_EVID1_READ (R444): A read of WD_EVID1 returns the evidence and clears BIT. -/
  | wdEvid1Read (w : Who)
  /-- MODULE_WATCHDOG_SERVICE (R446): A keeper store to MWD_SVC services the module watchdog or bites it. -/
  | moduleWatchdogService (w : Who) (v : BitVec 32)
  /-- MODULE_WATCHDOG_EXPIRE (R446): The module watchdog count reaches 10 ms × WMAX and bites with fault 0x0604. -/
  | moduleWatchdogExpire
  /-- MAIN_CLOCK_LOST (R447): Two channel-clock counts out of range assert the hardpan lines directly. -/
  | mainClockLost (cnt0 cnt1 : BitVec 12)
  /-- BACKUP_OSCILLATOR_LOST (R448): The backup oscillator is out of range or stopped and BKP_LOST is set. -/
  | backupOscillatorLost
  /-- FAULT_LOG_ENTRY (R439): The collector writes a queued fault to the log and carries out its reaction. -/
  | faultLogEntry
  /-- LOG_MIRROR (R441): The keeper mirrors the fault log to the older half in flash. -/
  | logMirror
  /-- HARDPAN_REQUEST (R453): A keeper write of HP_CTL.ENTER with the key enters HARDPAN with fault 0x0E05. -/
  | hardpanRequest (w : Who) (v : BitVec 32)
  /-- HARDPAN_RESET (R452): A keeper write of HP_CTL.RESET with the key resets the module. -/
  | hardpanReset (w : Who) (v : BitVec 32)
  /-- SOFTWARE_FAULT_LOG (R454): A write to FLT_SW logs a keeper or owner code with ARG from FLT_SWA0 and FLT_SWA1. -/
  | softwareFaultLog (w : Who) (v : BitVec 32)
  /-- SET_ESCALATION (R436): The fast system call 0x102 sets the FLT_ESC bits in COMMISSION. -/
  | setEscalation (e : BitVec 7)
  /-- OWNER_EVENT (R454): The fast system call 0x103 logs an owner event code. -/
  | ownerEvent (e : BitVec 7)
  /-- TAP_RESET (R456): The TAP enters Test-Logic-Reset and selects IDCODE without closing a session. -/
  | tapReset
  /-- EXTEST (R457): TAP instruction 0x00 drives and captures the boundary-scan register while BSCAN = 1. -/
  | extest (bits pins : List Bool)
  /-- SAMPLE_PRELOAD (R456): TAP instruction 0x01 samples or preloads the boundary-scan register. -/
  | samplePreload (bits pins : List Bool)
  /-- IDCODE (R456): TAP instruction 0x02 returns the 32-bit identification. -/
  | idcode
  /-- BYPASS (R456): TAP instruction 0xFF and undefined codes select the bypass register. -/
  | bypass (ir : BitVec 8) (bits : List Bool)
  /-- DBG_CHAL (R459): A session request byte is checked and a nonce is drawn. -/
  | dbgChal (req : BitVec 8)
  /-- DBG_RESP (R459): A signed response is shifted in and its check starts. -/
  | dbgResp (resp : BitVec 1536)
  /-- SESSION_OPEN (R459): The response check ends, opening the session or counting a failure. -/
  | sessionOpen
  /-- LOCKOUT_END (R461): The 60 s lockout after three failures ends. -/
  | lockoutEnd
  /-- NONCE_LAPSE (R459): A nonce lapses 10 s after it is issued. -/
  | nonceLapse
  /-- SESSION_TIMEOUT (R463): A session with no DBG_ACC scan for 10 s closes. -/
  | sessionTimeout
  /-- SESSION_CLOSE (R463): A write of DCTL.CLOSE closes the session and releases halts and freezes. -/
  | sessionClose (v : BitVec 32)
  /-- DEBUG_MEMORY_READ (R465): DBG_ACC OP 0b01 reads memory as a checked fabric transaction without side effects. -/
  | debugMemoryRead (addr : BitVec 36)
  /-- DEBUG_MEMORY_WRITE (R467): DBG_ACC OP 0b10 writes memory as an ordinary checked write. -/
  | debugMemoryWrite (addr : BitVec 36) (v : BitVec 32)
  /-- DEBUG_REGISTER_READ (R482): DBG_ACC OP 0b11 with WR = 0 reads a debug register. -/
  | debugRegisterRead (off : BitVec 12)
  /-- DEBUG_REGISTER_WRITE (R482): DBG_ACC OP 0b11 with WR = 1 writes a debug register with no row of its own. -/
  | debugRegisterWrite (off : BitVec 12) (v : BitVec 32)
  /-- HALT (R468): A write of DRUN.HALT requests a halt of the selected engine. -/
  | halt (v : BitVec 32)
  /-- HALT_COMPLETE (R469): Every lane has stopped at the boundary and its stores drained, so HALTED is set. -/
  | haltComplete (e : BitVec 7)
  /-- HALT_RESERVATION_WAIT_EXPIRE (R471): A halt waiting for an SC halts after 64 clocks, clearing the reservation and setting RESV. -/
  | haltReservationWaitExpire (e : BitVec 7)
  /-- RESUME (R473): A write of DRUN.RESUME restarts the engine, or defers it to edge + 10 µs. -/
  | resume (v : BitVec 32)
  /-- STEP (R474): A write of DRUN.STEP runs one instruction and halts again. -/
  | step (v : BitVec 32)
  /-- DREG_READ (R476): A read of DREG returns the selected word of live state, bisque or shadow stack. -/
  | dregRead
  /-- DREG_WRITE (R477): A write of DREG changes a permitted live-state word in every lane. -/
  | dregWrite (v : BitVec 32)
  /-- DHIT_READ (R482): A read of DHIT returns and clears the range-hit bits. -/
  | dhitRead
  /-- BSCAN_ENABLE (R457): A write of DCTL.BSCAN_EN enables or disables boundary scan under its conditions. -/
  | bscanEnable (v : BitVec 32)
  /-- CHANNEL_FREEZE (R480): DFRZ.CFRZ stops a channel's records and outputs at the next edge, or releases it. -/
  | channelFreeze (v : BitVec 32)
  /-- TIMER_FREEZE (R481): DFRZ.TFRZ stops or resumes a channel's timer. -/
  | timerFreeze (v : BitVec 32)
  /-- FIELD_RAIL_LOW (R485): The field rail falls below or returns above 16.0 V, suspending or restoring T+-driven channels. -/
  | fieldRailLow (low fp1 fp2 : Bool) (ma : BitVec 16)
  /-- FIELD_LIMIT_DROP (R485): A field draw above 8.0 A for 1 s drops the limit to 8.0 A and sets FLIM. -/
  | fieldLimitDrop (ma : BitVec 16)
  /-- FIELD_LIMIT_RESTORE (R485): A field draw below 8.0 A for 9 s restores the 12.0 A limit and clears FLIM. -/
  | fieldLimitRestore (ma : BitVec 16)
  /-- PWR_STAT_READ (R510): A read of PWR_STAT returns power status and clears DIPS. -/
  | pwrStatRead (w : Who)
  /-- SENTINEL_SCAN (R490): The sentinel scans its inputs, logs changes and pulses alarm relays when the guard passes. -/
  | sentinelScan (contacts : BitVec 8) (reserve cell : BitVec 16)
  /-- SENTINEL_RELAY_RESET (R510): A write of SENT_CTL.RESET returns a relay to normal and clears its PEND. -/
  | sentinelRelayReset (w : Who) (v : BitVec 32)
  /-- SENTINEL_RELAY_TEST (R510): A write of SENT_CTL.TEST drives a relay to alarm under R491. -/
  | sentinelRelayTest (w : Who) (v : BitVec 32)
  /-- RTC_NOW_READ (R492): A read of RTC_NOW_LO returns the low RTC bits and latches the high bits. -/
  | rtcNowRead (w : Who)
  /-- RTC_SET (R492): A write of RTC_CTL.SET with the key loads the RTC at the next oscillator edge and sets VALID. -/
  | rtcSet (w : Who) (v : BitVec 32)
  /-- RTC_ALARM (R492): The RTC seconds match RTC_ALM, setting ALM_HIT and raising a wake or module event. -/
  | rtcAlarm
  /-- THERMAL_READING (R496): Every 100 µs the junction and DRAM sensors are read and the governor's thresholds acted on. -/
  | thermalReading (a b c d ctl dram0 dram1 : BitVec 16)
  /-- TILE_POWER_UP_COMPLETE (R493): A tile's power-up ends and its engines' slot lists start at the next edge. -/
  | tilePowerUpComplete (t : BitVec 5)
  /-- TILE_SHUTDOWN_COMPLETE (R494): A tile's shutdown ends and a latched re-enable starts its power-up. -/
  | tileShutdownComplete (t : BitVec 5)
  /-- HEARTBEAT_SEND (R507): Every 100 µs the module sends a 32-byte heartbeat on lane 0. -/
  | heartbeatSend
  /-- HEARTBEAT_RECEIVED (R508): A valid partner heartbeat updates presence and partner flags. -/
  | heartbeatReceived (l : List Byte)
  /-- PARTNER_LOST (R508): No valid heartbeat for 1 ms declares the partner lost with fault 0x0902. -/
  | partnerLost
  /-- LINK_TRAINING_DONE (R506): Training at full rate ends within 200 µs and the link enters FULL or returns to SILT. -/
  | linkTrainingDone (ok : Bool)
  /-- LINK_IDLE (R506): After 16 ticks with no FULLREQ on either side the link returns to SILT. -/
  | linkIdle
  /-- MIRROR_SEND (R509): At edge + 10 µs in FULL each valid mirror entry's pages and bisques are sent. -/
  | mirrorSend (started : Nat)
  /-- MIRROR_FRAME_RECEIVED (R509): The partner writes a received mirror frame into shared SRAM as master class 3. -/
  | mirrorFrameReceived (k : BitVec 4) (comp : BitVec 10) (size : BitVec 5) (base : BitVec 8) (tick : BitVec 64) (pages : List Byte) (bisques : List (BitVec 2048))
  /-- YL_STAT_READ (R510): A read of YL_STAT returns link status and clears MLAG. -/
  | ylStatRead (w : Who)
  /-- ATTN_ASSERT (R519): ATTN# held low for 20 ms is recognised as the attention input for ordered removal. -/
  | attnAssert
  /-- BACKUP_CELL_CONNECTED (R489): A backup cell is connected for the first time, or after the backup domain was lost: the RTC is invalid, the fault log header fails and is rebuilt, and the first sentinel scan sets the baseline. -/
  | backupCellConnected
  /-- BACKUP_CELL_REMOVED (R489): The backup cell is removed while the domain runs on it, in DORMANT, and the backup domain with the RTC, fault log, sentinel and kept registers is lost. -/
  | backupCellRemoved
  /-- PCIE_LINK_UP (R396): A port's link completes training and comes up: OTHER_UP changes, host-window traffic and MSI-X become possible, and device vector 1029 goes out on the other port. -/
  | pcieLinkUp (port busMaster msixEn : Bool)
  /-- YUNAL_LANE_SHUTDOWN_COMPLETE (R494): Yunal lane 1 finishes its 50 µs shutdown on leaving FULL, and a latched re-enable then starts training. -/
  | yunalLaneShutdownComplete
  /-- HOST_DMA_TIMEOUT (R382): A memory request that a port issued for message or descriptor DMA has no completion after 100 µs, so the transfer stops and the descriptor completes with HOST_DMA. -/
  | hostDmaTimeout (r : BitVec 8) (desc : Option (BitVec 512)) (data : List Byte)
  deriving DecidableEq, Repr

end Sys2Proof
end

