-- ==== Sys2Proof/WellFormed.lean ====
section
/-! DEFINITION. When a command is well formed: what its operands must satisfy beyond their types for the event to be one that
the spec describes. The meanings are total and do not depend on it. -/

namespace Sys2Proof

/-- The sizes of an access to the register space as a master may make it (R4). -/
def lenOk (n : BitVec 5) : Bool := decide (n = 1#5 ∨ n = 2#5 ∨ n = 4#5 ∨ n = 8#5 ∨ n = 16#5)

/-- Granules of a list of found errors in rising order, none twice. -/
def rising {β : Type} : List (Nat × β) → Bool
  | [] => true
  | [_] => true
  | (a, _) :: (b, y) :: r => decide (a < b) && rising ((b, y) :: r)

/-- The operands fit the event. -/
def Instr.wf : Instr → Bool
  | .registerWrite _ addr len _ => lenOk len && decide (addr.toNat % len.toNat = 0)
  | .hartResponse _ frame answers good _ => decide (frame.length ≤ 267) && (answers || !good)
  | .outputSample _ mainCodes shadCodes _ _ => decide (shadCodes.length = mainCodes.length)
  | .calibrationResult _ zero full => decide (zero.length = 20480 ∧ full.length = 20480)
  | .sramScrubPass errs => rising errs && errs.all fun x => decide (x.2 ≠ 0#152)
  | .marchTestEnd pass bad _ _ _ => !pass || decide (bad = 0#36)
  | .extest bits pins => decide (bits.length = pins.length)
  | .samplePreload bits pins => decide (bits.length = pins.length)
  | .heartbeatReceived l => decide (l.length = 32)
  | .mirrorFrameReceived _ _ size _ _ pages bisques =>
    decide (2 ≤ size.toNat ∧ size.toNat ≤ 16) && decide (pages.length = 4096 * (size.toNat - 1)) && decide (bisques.length ≤ 15)
  | .powerFailWarning _ _ n sector => decide (n ≤ 0x10_0000) && decide (sector.length ≤ 4096)
  | _ => true

end Sys2Proof
end

