-- ==== Sys2Proof/Decode.lean ====
section
/-! DEFINITION. The reading of a command from a word. The block's commands are events and register accesses: the opcode
table gives no row any bits, so no word spells a command. (The instruction words of the engines' own instruction set reach
the model as the operands of the commands that are those instructions.) -/

namespace Sys2Proof

/-- The command that the table's bits spell: none, for no row has bits. DESIGN CHOICE: log entry 62. -/
def decodeTableWord (_nbits _w : Nat) : Option Instr := none

end Sys2Proof
end

