-- ==== Sys2Proof/Config.lean ====
section
/-! DEFINITION. The free values: what the spec leaves open has no body here, so nothing can be proved of a value of it
and every claim holds whatever it is. A constant applied to a `Nat` takes the state's counter `free` as that argument,
which the step that draws the value advances. -/

namespace Sys2Proof.Config

/-- The bytes of the boot ROM (R233), which the spec does not list. DESIGN CHOICE: log entry 5. -/
opaque bootRom : Nat → Byte

/-- Data that a load returns from a host window when nothing says what the host delivered. DESIGN CHOICE: log entry 5. -/
opaque hostData : Nat → Gran

/-- The level that a code of a modulator's 4-bit quantiser stands for (R280), which the spec does not give.
DESIGN CHOICE: log entry 26. -/
opaque codeLevel : BitVec 4 → BitVec 8

/-- The value that the FIR takes from an output of a CIC of order N and ratio R (R301): its scale is not given.
DESIGN CHOICE: log entry 26. -/
opaque cicScale : BitVec 80 → Nat → Nat → W64

/-- Where, within the levels that R278 gives, a Schmitt comparator of each variant switches on, and its hysteresis where the
spec gives none: distances in mV or µA below the ON level. DESIGN CHOICE: log entry 28. -/
opaque schmittBelow : BitVec 2 → Nat
/-- DESIGN CHOICE: log entry 28. -/
opaque schmittHyst : BitVec 2 → Nat

/-- The order in which an FIR of T taps adds its products (R301), which the spec leaves open. DESIGN CHOICE: log entry 26. -/
opaque firOrder : Nat → List Nat

/-- Which of two forms of the linear interpolation of R309 is computed: the quotient first or the product first.
DESIGN CHOICE: log entry 26. -/
opaque linForm : Bool

/-- +75 % of the range and the span of the modes DI, DO, PI and PWM-O (R276, R307), for which no range is given; by mode
and variant. DESIGN CHOICE: log entry 26. -/
opaque digitalU75 : BitVec 4 → BitVec 2 → W64
/-- DESIGN CHOICE: log entry 26. -/
opaque digitalSpan : BitVec 4 → BitVec 2 → W64

/-- The random number of an ECDSA signature that the module makes (R427), which the standard leaves open.
DESIGN CHOICE: log entry 5. DESIGN CHOICE: log entry 40. -/
opaque signNonce : Nat → Nat

/-- What a port takes for a descriptor whose read the host never completed (R382): its CID and IRQ are not known.
DESIGN CHOICE: log entry 5. DEDUCED: log entry 34. -/
opaque lostDescriptor : Nat → BitVec 512

/-- Bytes that a port's DMA reads from a word that cannot be corrected, which the spec does not give.
DESIGN CHOICE: log entry 5. DESIGN CHOICE: log entry 5. DESIGN CHOICE: log entry 24. -/
opaque badData : Nat → Gran

/-- The reason in RESULT0 of a service that the keeper refuses, where the spec names none (R386).
DESIGN CHOICE: log entry 5. DESIGN CHOICE: log entry 35. -/
opaque refuseReason : Nat → W64

/-- How GET_QUOTA packs the use and the limit of the items of R392 into RESULT0 and RESULT1. DESIGN CHOICE: log entry 35. -/
opaque quotaWords : List (W32 × W32) → W64 × W64

/-- The numbers that the controller die and a DRAM channel's case have in the ARG of the thermal faults (R435).
DESIGN CHOICE: log entry 52. -/
opaque controllerDie : Byte
/-- DESIGN CHOICE: log entry 52. -/
opaque dramDie : Nat → Byte

/-- Whether the copy of an engine's list in a tick sees an entry that is stored within its window (R32): by the count of the
tick and the address of the entry. DESIGN CHOICE: log entry 24. -/
opaque copySees : Nat → Nat → Bool

/-- For how many channel clocks an access to the fence store or the host windows, made at a clock, is in progress: the spec
bounds it by 100 ns, which is less than 11 clocks (R258, R372). DEDUCED: log entry 20. -/
opaque entryBusy : Nat → Fin 11

/-- What BUDG reads on an engine that runs no slot (R86): the spec gives the budget's rest of a slot only.
DESIGN CHOICE: log entry 5. DEDUCED: log entry 17. -/
opaque noBudget : Nat → W64

/-- What an entry writes to LVAL (0), LOPA (1) and LOPB (2) of its block while no load or long operation is pending
(R163): the spec gives these places a value only for a pending one.
DESIGN CHOICE: log entry 5. DESIGN CHOICE: log entry 18. -/
opaque idleLatch : Nat → BitVec 2 → W64

end Sys2Proof.Config
end

