-- ==== Sys2Proof/Machine/Bits.lean ====
section
/-! DEFINITION. Bit fields, sign extension, byte order and lists kept in one canonical form. -/

namespace Sys2Proof.Machine

open Sys2Proof

/-- The `len` bits of `v` from bit `lo` upwards. -/
def fld {n : Nat} (v : BitVec n) (lo len : Nat) : BitVec len := v.extractLsb' lo len

/-- Bit `i` of `v`. -/
def bit {n : Nat} (v : BitVec n) (i : Nat) : Bool := v.getLsbD i

/-- `v` with the field of `len` bits at `lo` replaced by `x`. -/
def setFld {n : Nat} (v : BitVec n) (lo len : Nat) (x : BitVec len) : BitVec n :=
  (v &&& ~~~(((BitVec.allOnes len).setWidth n) <<< lo)) ||| ((x.setWidth n) <<< lo)

/-- A Boolean as a bit at position `i` of a word of `n` bits. -/
def at_ {n : Nat} (b : Bool) (i : Nat) : BitVec n := if b then (1#n) <<< i else 0#n

/-- `x` placed at position `lo` of a word of `n` bits. -/
def put {k : Nat} (n : Nat) (x : BitVec k) (lo : Nat) : BitVec n := (x.setWidth n) <<< lo

/-- Byte `i` of `v`, the least significant first (R2). -/
def byteOf {n : Nat} (v : BitVec n) (i : Nat) : Byte := v.extractLsb' (8 * i) 8

/-- The little-endian number of a list of bytes (R2). -/
def leNat : List Byte → Nat
  | [] => 0
  | b :: bs => b.toNat + 256 * leNat bs

/-- `k` bytes from byte `lo` of `v` upwards. -/
def bytesOf {n : Nat} (v : BitVec n) (lo : Nat) : Nat → List Byte
  | 0 => []
  | k + 1 => byteOf v lo :: bytesOf v (lo + 1) k

/-- Sign extension from `m` bits to `n`. -/
def sext {m : Nat} (n : Nat) (v : BitVec m) : BitVec n := v.signExtend n

/-- A saturating increment of a counter of `n` bits. -/
def satInc {n : Nat} (v : BitVec n) : BitVec n := if v = BitVec.allOnes n then v else v + 1#n

/-- A saturating sum of a counter of `n` bits and a number. -/
def satAdd {n : Nat} (v : BitVec n) (k : Nat) : BitVec n :=
  if v.toNat + k < 2 ^ n then BitVec.ofNat n (v.toNat + k) else BitVec.allOnes n

/-- What a list of pairs holds at `k`; `d` where it lists nothing. -/
def look {β : Type} (d : β) : List (Nat × β) → Nat → β
  | [], _ => d
  | (a, v) :: r, k => if a = k then v else look d r k

/-- The list without what it holds at `k`. -/
def drop {β : Type} (l : List (Nat × β)) (k : Nat) : List (Nat × β) := l.filter fun x => x.1 != k

/-- The sorted list with `v` at `k`; a default is not listed. -/
def store {β : Type} [DecidableEq β] (d : β) : List (Nat × β) → Nat → β → List (Nat × β)
  | [], k, v => if v = d then [] else [(k, v)]
  | (a, w) :: r, k, v =>
    if v = d then drop ((a, w) :: r) k
    else if a = k then (k, v) :: r
    else if k < a then (k, v) :: (a, w) :: r
    else (a, w) :: store d r k v

/-- The canonical form: keys strictly rising, no entry equal to the default. -/
def canon {β : Type} [DecidableEq β] (d : β) : List (Nat × β) → Bool
  | [] => true
  | [(_, v)] => decide (v ≠ d)
  | (a, v) :: (b, w) :: r => decide (v ≠ d) && decide (a < b) && canon d ((b, w) :: r)

/-- The first `n` numbers from `lo`. -/
def range (lo : Nat) : Nat → List Nat
  | 0 => []
  | k + 1 => lo :: range (lo + 1) k

/-- A list with the element at `i` replaced. -/
def setAt {α : Type} : List α → Nat → α → List α
  | [], _, _ => []
  | _ :: r, 0, x => x :: r
  | y :: r, k + 1, x => y :: setAt r k x

end Sys2Proof.Machine
end

