-- ==== Sys2Proof/Machine/Ecc.lean ====
section
/-! DEFINITION. The codes of the memories: the extended Hamming code of SRAM (R237, R238) and the RS(19,17) code of
DRAM (R240 to R244). -/

namespace Sys2Proof.Machine

open Sys2Proof

/-! ### SRAM: 146-bit extended Hamming code -/

/-- The positions of a codeword that hold covered bits, in ascending order: those of 3 to 145 that are no power of
two (R237). -/
def hamPos : List Nat :=
  (range 3 143).filter fun p => !(p == 4 || p == 8 || p == 16 || p == 32 || p == 64 || p == 128)

/-- The bits of `v` from `i` upwards, laid on the positions of a list. -/
def hamSpread (v : BitVec 137) : List Nat → Nat → BitVec 146
  | [], _ => 0#146
  | p :: ps, i => at_ (bit v i) p ||| hamSpread v ps (i + 1)

/-- The bits on the positions of a list, gathered from `i` upwards. -/
def hamGather (w : BitVec 146) : List Nat → Nat → BitVec 137
  | [], _ => 0#137
  | p :: ps, i => at_ (bit w p) i ||| hamGather w ps (i + 1)

/-- The exclusive or of the indexes of the positions 1 to 145 that hold a 1: its bit `i` is the parity that check bit
2^i makes even (R237). -/
def hamSyndrome (w : BitVec 146) : BitVec 8 :=
  (range 1 145).foldl (fun acc p => if bit w p then acc ^^^ BitVec.ofNat 8 p else acc) 0#8

/-- The parity of the whole codeword. -/
def hamParity (w : BitVec 146) : Bool := (range 0 146).foldl (fun acc p => acc ^^ bit w p) false

/-- The check bits of positions 1, 2, 4, … , 128 that give a syndrome of 0. -/
def hamChecks (s : BitVec 8) : BitVec 146 :=
  at_ (bit s 0) 1 ||| at_ (bit s 1) 2 ||| at_ (bit s 2) 4 ||| at_ (bit s 3) 8 |||
  at_ (bit s 4) 16 ||| at_ (bit s 5) 32 ||| at_ (bit s 6) 64 ||| at_ (bit s 7) 128

/-- The codeword of a granule and its tag (R237): data bits 0 to 127, the tag as bit 128, and eight 0 bits that
complete the 137 covered bits. DEDUCED: log entry 19. -/
def hamEncode (data : Gran) (tag : Bool) : BitVec 146 :=
  let w := hamSpread (data.setWidth 137 ||| at_ tag 128) hamPos 0
  let w := w ||| hamChecks (hamSyndrome w)
  w ||| at_ (hamParity w) 0

/-- What a decoder says of a codeword: clean, corrected, or uncorrectable. -/
inductive Decoded where
  | clean (data : Gran) (tag pois : Bool)
  | corrected (data : Gran) (tag pois : Bool) (symbol : BitVec 5)
  | bad (data : Gran)
  deriving DecidableEq, Repr

/-- The granule and tag that a codeword's covered bits hold. -/
def hamData (w : BitVec 146) : Gran × Bool :=
  let v := hamGather w hamPos 0
  (v.setWidth 128, bit v 128)

/-- A read of an SRAM codeword (R238): even parity with syndrome 0 is clean, odd parity a single error at the
position that the syndrome names, anything else uncorrectable. DEDUCED: log entry 19. -/
def hamDecode (w : BitVec 146) : Decoded :=
  let s := hamSyndrome w
  let d := hamData w
  if hamParity w then
    if s.toNat ≤ 145 then
      let d' := hamData (w ^^^ at_ true s.toNat)
      .corrected d'.1 d'.2 false 0#5
    else .bad d.1
  else if s = 0#8 then .clean d.1 d.2 false
  else .bad d.1

/-! ### DRAM: RS(19,17) over GF(2^8) -/

/-- A product by α = 0x02 modulo 0x11D (R242). -/
def gfDouble (a : Byte) : Byte := if bit a 7 then (a <<< 1) ^^^ 0x1D#8 else a <<< 1

/-- `a` times α to the power `n`. -/
def gfPow (a : Byte) : Nat → Byte
  | 0 => a
  | n + 1 => gfDouble (gfPow a n)

/-- The symbols 0 to 16 of a granule: 16 data bytes and the metadata (R241). -/
def rsSymbols (data : Gran) (tag pois : Bool) : List Byte :=
  bytesOf data 0 16 ++ [at_ tag 0 ||| at_ pois 1]

/-- The remainder of a polynomial, its leading coefficient first, shifted up by x^2 and divided by
g(x) = x^2 + 3x + 2 (R242): the coefficients of x^1 and x^0. -/
def rsRemainder : List Byte → Byte × Byte → Byte × Byte
  | [], r => r
  | c :: cs, (r1, r0) =>
    let q := c ^^^ r1
    rsRemainder cs (r0 ^^^ (gfDouble q ^^^ q), gfDouble q)

/-- A codeword as its 19 symbols, symbol i in bits [8i+7:8i] (R241). -/
def rsEncode (data : Gran) (tag pois : Bool) : BitVec 152 :=
  let r := rsRemainder (rsSymbols data tag pois) (0#8, 0#8)
  put 152 data 0 ||| at_ tag 128 ||| at_ pois 129 ||| put 152 r.1 136 ||| put 152 r.2 144

/-- S0 = c(1): the exclusive or of every symbol. -/
def rsS0 (w : BitVec 152) : Byte := (range 0 19).foldl (fun acc i => acc ^^^ byteOf w i) 0#8

/-- S1 = c(α), symbol i being the coefficient of x^(18 - i). -/
def rsS1 (w : BitVec 152) : Byte := (range 0 19).foldl (fun acc i => gfDouble acc ^^^ byteOf w i) 0#8

/-- The p up to `n` for which S1 = S0 · α^p, if any. -/
def rsLog (s0 s1 : Byte) : Nat → Option Nat
  | 0 => if s0 = s1 then some 0 else none
  | n + 1 => match rsLog s0 s1 n with
    | some p => some p
    | none => if gfPow s0 (n + 1) = s1 then some (n + 1) else none

/-- The metadata check of R243: bits [7:2] of symbol 16 of the corrected codeword `w` are 0; else the data symbols stand as
read. -/
def rsMeta (read w : BitVec 152) (sym : Option (BitVec 5)) : Decoded :=
  let d := w.setWidth 128
  if fld w 130 6 = 0#6 then
    match sym with
    | none => .clean d (bit w 128) (bit w 129)
    | some i => .corrected d (bit w 128) (bit w 129) i
  else .bad (read.setWidth 128)

/-- A read of a DRAM codeword with no device marked dead (R243). DEDUCED: log entry 19. -/
def rsDecode (w : BitVec 152) : Decoded :=
  let s0 := rsS0 w
  let s1 := rsS1 w
  if s0 = 0#8 && s1 = 0#8 then rsMeta w w none
  else if s0 ≠ 0#8 && s1 ≠ 0#8 then
    match rsLog s0 s1 18 with
    | some p => rsMeta w (w ^^^ put 152 s0 (8 * (18 - p))) (some (BitVec.ofNat 5 (18 - p)))
    | none => .bad (w.setWidth 128)
  else .bad (w.setWidth 128)

/-- A read of a DRAM codeword while device `d` is marked dead (R244). DEDUCED: log entry 19. -/
def rsDecodeDead (w : BitVec 152) (d : BitVec 5) : Decoded :=
  let s0 := rsS0 w
  if rsS1 w = gfPow s0 (18 - d.toNat) then
    rsMeta w (w ^^^ put 152 s0 (8 * d.toNat)) (if s0 = 0#8 then none else some d)
  else .bad (w.setWidth 128)

/-! ### The checker test (R256) -/

/-- The granules and tags on which the checkers are tried. -/
def testWords : List (Gran × Bool) := [(0#128, false), (BitVec.allOnes 128, true)]

/-- An SRAM checker corrects every single-bit error and finds a double-bit error (R238, R256). -/
def hamChecker (dec : BitVec 146 → Decoded) : Bool :=
  testWords.all fun x =>
    let w := hamEncode x.1 x.2
    ((range 0 146).all fun k => match dec (w ^^^ at_ true k) with
      | .corrected d t p _ => decide (d = x.1) && (t == x.2) && !p
      | _ => false) &&
    (match dec (w ^^^ 3#146) with
      | .bad _ => true
      | _ => false)

/-- A codeword in which the S0 of its two wrong symbols is 0, one in which p is out of range, and one whose metadata symbol has
bit 2 set (R243, R256). -/
def rsBadWords (w : BitVec 152) : List (BitVec 152) := [w ^^^ put 152 0x0101#16 0, w ^^^ put 152 0x0201#16 0, w ^^^ at_ true 130]

/-- A DRAM checker corrects a single-symbol error in each of the 19 positions and finds the bad codewords (R243, R244, R256).
`dead` is the device that it takes for marked. -/
def rsChecker (dec : BitVec 152 → Decoded) (dead : Option (BitVec 5)) : Bool :=
  testWords.all fun x =>
    let w := rsEncode x.1 x.2 false
    ((range 0 19).all fun k => match dec (w ^^^ put 152 0x3C#8 (8 * k)) with
      | .corrected d t p s => decide (d = x.1) && (t == x.2) && !p && decide (s.toNat = k)
      | .bad _ => dead.any fun i => i.toNat != k
      | _ => false) &&
    ((rsBadWords w).all fun y => match dec y with
      | .bad _ => true
      | _ => false)

/-- Every checker does what R238, R243 and R244 require (R256). -/
def checkersPass : Bool :=
  hamChecker hamDecode && rsChecker rsDecode none
    && (range 0 19).all fun k => rsChecker (fun w => rsDecodeDead w (BitVec.ofNat 5 k)) (some (BitVec.ofNat 5 k))

end Sys2Proof.Machine
end

