-- ==== Sys2Proof/Machine/State.lean ====
section
/-! DEFINITION. The state of the module: plain data, chapter by chapter, with the state right after reset.
Addresses of memory cells are physical addresses in which a tile's SRAM stands at its global window (R233, R235);
the tile-local alias is another name of the same cells. Times are counts of periods of the 102.4 MHz channel clock
since the module first had power. -/

namespace Sys2Proof.Machine

open Sys2Proof

/-! ### Tick and schedule (01) -/

/-- How far the current tick has come (R19): before the apply, after it, in P1, after the commit close. -/
inductive TickPhase where
  | p0 | applied | p1 | closed
  deriving DecidableEq, Repr

/-- The tick generator and the tilth registers (R11 to R18, R31, R38). `periodNext`, `srcNext`, `holdNext` are
writes accepted for the next edge (R17). `copied` counts the engines whose lists have been copied, and `window` is
the list of the next one as it stood when its window opened (R27, R32). `seqEdge`, `seqNum` are the edge 0 of R12 and the number of edges since;
`nextEdge` is an edge that a tick-sync edge has fixed (R13); `streak` counts the windows of R15 and R53 that were hit, `hit` and
`early` are hits of the current edge's window and, before that edge, of the next one's; `expDone` that the fault of R16 was reported
for this holdover. -/
structure TickSt where
  count : BitVec 64
  countHi : BitVec 32
  period : BitVec 17
  src : Bool
  limit : BitVec 16
  reacq : BitVec 4
  periodNext : Option (BitVec 17)
  srcNext : Option Bool
  limitNext : Option (BitVec 16)
  reacqNext : Option (BitVec 4)
  extLock : Bool
  holdover : Bool
  holdExpired : Bool
  werr : Bool
  spurious : BitVec 16
  holdTicks : Nat
  streak : Nat
  hit : Bool
  early : Bool
  expDone : Bool
  edgeAt : Nat
  seqEdge : Nat
  seqNum : Nat
  nextEdge : Option Nat
  phase : TickPhase
  active : Bool
  swapPend : Bool
  malformed : Bool
  skip : Bool
  copied : Nat
  window : Option (List Host.Cell)
  ovrLimit : BitVec 8
  deriving DecidableEq, Repr

/-! ### Modes (02) -/

/-- The six modes (R39). -/
inductive Mode where
  | dormant | wake | commission | operate | sleep | hardpan
  deriving DecidableEq, Repr

/-- What can wake the keeper in SLEEP (R49). -/
inductive WakeSource where
  | doorbell | sentinel | partner | rtc
  deriving DecidableEq, Repr

/-- The mode registers (R54), the pending request with the tick in which it takes effect (R42), and OUT_REL as it was
at C (R46). `prevKept` is PREV in the backup domain. `awake` is the keeper resumed by a wake event in SLEEP (R49), `wakeLog`
the events that an enable of 0 kept from waking it, with their ticks, `wakeAt` the clock of edge 0 (R18). -/
structure ModeSt where
  mode : Mode
  pend : Option Mode
  pendTick : BitVec 64
  outRel : Bool
  outRelAtC : Bool
  refuse : BitVec 4
  autostart : Bool
  wkHost : Bool
  wkSent : Bool
  wkPeer : Bool
  wkRtc : Bool
  wakeCause : BitVec 4
  prev : BitVec 4
  prevKept : BitVec 4
  checksPassed : Bool
  marchDone : Bool
  awake : Bool
  wakeLog : List (WakeSource × BitVec 64)
  wakeAt : Nat
  deriving DecidableEq, Repr

/-! ### Replicas (03 to 06) -/

/-- A capability with its tag (R109). -/
structure Cap where
  bits : BitVec 128
  tag : Bool
  deriving DecidableEq, Repr

/-- An entry of a store buffer (R66): the granule, its bytes, its byte-valid mask and its tag bit, with the identity
that the store carries (R192), the address and tick of the storing instruction (R443), and the slot it belongs to,
withheld when that slot has failed (R35).
`cap` marks a capability store, `merged` an entry that a store of part of the granule has filled after another, `odd` one
that holds a store of another width than 32 bits (R4). `issued` says that the entry has been issued to its target, with the
answer of the fence map (R66, R67, R125). -/
structure SbEntry where
  gran : Addr
  data : Gran
  mask : BitVec 16
  tag : Bool
  cap : Bool
  merged : Bool
  odd : Bool
  issued : Option Bool
  comp : BitVec 10
  ring : BitVec 2
  pc : Addr
  tick : BitVec 64
  pos : BitVec 6
  withheld : Bool
  deriving DecidableEq, Repr

/-- The architected state of one replica: the registers of R80, the hidden bits of R141 and R153, the entry registers
of R152, a pending load (R72), the long operation in flight (R73, R164), and the reservation (R106). -/
structure Arch where
  a : W64
  e : W64
  m : W64
  x : Cap
  y : Cap
  d : Cap
  s : Cap
  pcc : Cap
  f : W64
  rcnt : W64
  rstate : W64
  tsbr : Addr
  link : Cap
  slink : Cap
  ssp : Addr
  ring : BitVec 2
  ib : Bool
  exl : Bool
  dfl : Bool
  fast : Bool
  fring : BitVec 2
  fib : Bool
  ent0 : Cap
  ent1 : Cap
  ent2 : Cap
  lpend : Bool
  lval : W64
  lop : BitVec 8
  lopa : W64
  lopb : W64
  ldist : BitVec 5
  lrm : BitVec 2
  resv : Option Addr
  deriving DecidableEq, Repr

/-- The state of a replica (R205). -/
inductive RepState where
  | active | grog | fenced | retired
  deriving DecidableEq, Repr

/-- One replica: its copy of the architected state, its store buffer and prefetch queue (R58, R66), its lane and
state (R183, R205), and its BIST history (R203, R204). `ldue` is a loaded value whose write to A is due (R72);
`repEnd` says that the end-of-iteration step is due (R104). `bist` is a pass in progress; `bistTick` the
tick in which the next pass is due. -/
structure Replica where
  arch : Arch
  sb : List SbEntry
  prefetch : List W32
  ldue : Option W64
  repEnd : Bool
  state : RepState
  lane : BitVec 2
  pass : BitVec 2
  fail : BitVec 2
  drops : Nat
  bist : Bool
  bistTick : BitVec 64
  deriving DecidableEq, Repr

/-- A line of an instruction cache or line buffer (R61), with the words it was filled with, and for each granule what its
fill met (R60, R62): 0 nothing, 1 to 4 the cause of vector 0x08 (R158), 5 a refusal by the fence map (R262). -/
structure ICLine where
  line : BitVec 30
  data : BitVec 512
  bad : Tbl 2 (BitVec 4)
  deriving DecidableEq, Repr

/-- The four words of a fence entry (R257). -/
structure FenceEntry where
  w0 : W32
  w1 : W32
  w2 : W32
  w3 : W32
  deriving DecidableEq, Repr

/-- A tile: its grouping registers (R205), its replicas, its instruction cache (most recently used line first) and
the region cache of its port (R263, most recently used entry first). -/
structure Tile where
  code : BitVec 3
  live : BitVec 3
  pend : Bool
  rej : BitVec 3
  sweep : BitVec 8
  werr : Bool
  mism : BitVec 8
  drop : BitVec 8
  mPos : BitVec 2
  mRepl : BitVec 4
  mCase : BitVec 4
  mTick : BitVec 16
  noGrog : Bool
  reps : Tbl 2 Replica
  icache : List ICLine
  rcache : List (BitVec 6 × FenceEntry)
  deriving DecidableEq, Repr

/-- A slot copied by the copier (R26, R27), with its position in the list. -/
structure Slot where
  pos : BitVec 6
  comp : BitVec 10
  gate : BitVec 16
  budget : BitVec 20
  span : Bool
  notify : Bool
  arg : W32
  deriving DecidableEq, Repr

/-- An imprecise notice (R70, R165). -/
structure Notice where
  addr : Addr
  eng : BitVec 7
  comp : BitVec 10
  ring : BitVec 2
  cause : BitVec 4
  deriving DecidableEq, Repr

/-- An entry of the undo log (R212). -/
structure UndoEntry where
  old : Gran
  gaddr : BitVec 32
  otag : Bool
  opois : Bool
  target : BitVec 2
  seq : Byte
  deriving DecidableEq, Repr

/-- A copy of the bisque record (R206) and whether an uncorrectable error has struck it (R207). -/
structure BisqueCopy where
  arch : Arch
  gen : BitVec 16
  pos : BitVec 6
  forced : Bool
  bad : Bool
  deriving DecidableEq, Repr

/-- A span member's captured output command record (R225): the channel, the buffer, and the record's 16 bytes. -/
structure SpanRec where
  chan : BitVec 8
  buf : Bool
  data : Gran
  deriving DecidableEq, Repr

/-- The slot that an engine runs. `start` is the first clock of its first bisque, from which the budget runs once `begun`;
`bisqueAt` the first clock of the latest bisque (R217); `count` the instructions since the start (R191);
`overrun` says that an overrun notice was delivered at its entry (R26). `captured` are the span records captured,
`capBase` those captured before the latest bisque, `marked` the output records marked by the slot before it (R221). -/
structure Run where
  slot : Slot
  begun : Bool
  start : Nat
  bisqueAt : Nat
  warned : Bool
  recovered : Bool
  retaken : Bool
  overrun : Bool
  count : Nat
  captured : List SpanRec
  capBase : List SpanRec
  marked : List (BitVec 8 × Bool)
  deriving DecidableEq, Repr

/-- The instructions that read memory as an operand (R86): value operands of class V, the loads of class M, and the
pops. -/
inductive LdOp where
  | lda | ldaw | ldaws | ldah | ldahs | ldab | ldabs | lde | ldrc
  | add | adc | sub | sbc | rsb | and_ | or_ | xor | andn | cmp | tst | shl | shr | sar | rol | ror
  | min_ | max_ | minu | maxu | mul | mulu | mac | macu | div | divu | rem | remu
  | fadd | fsub | fmul | fdiv | fcmp | fmin | fmax
  | lr | ldc (dst : BitVec 2) | pop | popc (dst : BitVec 2) | ret
  deriving DecidableEq, Repr

/-- A fabric load that an instruction waits for (R64): the instruction, its mode and operand field, and the address. -/
structure FabLoad where
  op : LdOp
  mode : BitVec 4
  opnd : BitVec 20
  addr : Addr
  deriving DecidableEq, Repr

/-- What an engine is doing: nothing (no slot), about to take its slot-start bisque, running code, waiting for a
load, for an interrupt (R179), in a string instruction (R98), in a recovery whose unwind has been done (R216; the
time of the mismatch), or stopped until a reset. -/
inductive Activity where
  | idle
  | bisque
  | run
  | load (l : FabLoad)
  | wfi
  | string (opc : BitVec 8)
  | recovery (mismatchAt : Nat)
  | stopped
  deriving DecidableEq, Repr

/-- An engine. `todo` are the slots still to run; `keeper` says that it runs the keeper outside the schedule (R40);
`taken` are the interrupts taken since the latest bisque (R221); `forcedDue` that a forced bisque is due (R213,
R214); `resets` the ticks of the resets of row 7 of R196; `ran` the latest slot position run for each
compartment since WAKE (R445); `budgetPend` a pending budget warning; `halted` a debug
halt in force (R468). `fed` says that the latest instruction took a value from the distribution path (R187), `reread` that
the lanes' state after a reload is being read back (R218). -/
structure Engine where
  act : Activity
  cur : Option Run
  todo : List Slot
  keeper : Bool
  notices : List Notice
  lostNotices : BitVec 8
  budgetPend : Bool
  taken : List (BitVec 6 × BitVec 10)
  forcedDue : Bool
  fed : Bool
  reread : Bool
  halted : Bool
  resets : List (BitVec 64)
  ran : List (Nat × BitVec 6)
  lineBuf : List ICLine
  copy0 : BisqueCopy
  copy1 : BisqueCopy
  undo : List UndoEntry
  deriving DecidableEq, Repr

/-! ### Spans and ownership latches (05, 08) -/

/-- A latched entry of the span table (R223): its first granule and the stacks of its members. -/
structure SpanEntry where
  w : Gran
  stk0 : Cap
  stk1 : Cap
  stk2 : Cap
  deriving DecidableEq, Repr

/-- What a member of a span has brought in this tick (R227). -/
inductive MemberResult where
  | waiting
  | ended (signature : BitVec 128) (records : List SpanRec) (time : Nat) (pos : BitVec 6)
  | absent
  deriving DecidableEq, Repr

/-- The compare of one span in this tick. -/
structure SpanRun where
  m0 : MemberResult
  m1 : MemberResult
  m2 : MemberResult
  compared : Bool
  deriving DecidableEq, Repr

/-! ### Memory (09) -/

/-- Memory: bytes that are not 0, by physical address; granules (by number) whose tag is 1, whose poison bit is 1;
and the bits of stored codewords that have flipped since they were written (R237, R241). Every list is strictly
rising and lists no default. -/
structure Memory where
  cells : List Host.Cell
  tags : List (Nat × Bool)
  pois : List (Nat × Bool)
  errs : List (Nat × BitVec 152)
  deriving DecidableEq, Repr

/-- The capability mint (R137) with the store in progress. -/
structure Mint where
  w0 : W32
  w1 : W32
  w2 : W32
  w3 : W32
  addrLo : W32
  addrHi : BitVec 4
  busy : Bool
  err : BitVec 3
  target : Addr
  value : Gran
  deriving DecidableEq, Repr

/-- The memory registers (R266), the fence store (R257), the region caches of the ports that are not tiles (R263:
host A, host B, channel shells, Yunal link), the scrubbers, the correction counts of R247 and R253 with what they have reported
in this pass, and the queued write-backs of R251. -/
structure MemCtl where
  fence : Tbl 6 FenceEntry
  sel : BitVec 6
  fw : FenceEntry
  fbusyUntil : Nat
  ferr : BitVec 3
  portCaches : Tbl 2 (List (BitVec 6 × FenceEntry))
  mark0 : Option (BitVec 5)
  mark1 : Option (BitVec 5)
  passH : BitVec 8
  deadThr : BitVec 8
  rowThr : BitVec 4
  scrubOn : Bool
  scrubLine : BitVec 29
  passes : BitVec 8
  devCnt : Tbl 6 Nat
  rowCnt : List (Nat × Nat)
  devTold : BitVec 64
  rowTold : List Nat
  spst0 : W32
  spst1 : W32
  sramc : BitVec 16
  dramc : BitVec 16
  chkc : BitVec 16
  icpar : BitVec 8
  ueSram : BitVec 4
  ueDram : BitVec 4
  writeBack : List Nat
  dramFrozen : Bool
  deriving DecidableEq, Repr
/-! ### What leaves the module -/

/-- What the module has sent: memory writes and MSI-X messages of a port (false A, true B), HART requests (the bytes from
the delimiter through the last data byte, to which the modem adds preamble and checksum, R292), heartbeats and mirror
frames of the Yunal link, removal ready on the panel of the host, and what the test access port shifts out. -/
inductive Out where
  | hostWrite (port : Bool) (addr : BitVec 64) (data : List Byte)
  | msix (port : Bool) (vec : BitVec 11)
  | hart (c : BitVec 8) (frame : List Byte)
  | heartbeat (data : List Byte)
  | mirror (k : BitVec 4) (comp : BitVec 10) (size : BitVec 5) (base : Byte) (tick : BitVec 64) (pages : List Byte)
      (bisques : List (BitVec 2048))
  | tdo (data : List Byte)
  deriving DecidableEq, Repr

/-! ### The analogue front end (10) -/

/-- A die's reference monitor (R282, R283): the verdict reached (0 good, 1 REF_A, 2 REF_B, 3 REF_C bad, 4 inconclusive),
whether one has been reached, the last pattern with its count, the checks in a row all in window, the OK bits and the
groups of R300, the groups' ticks in a row in window, and REF_EVT. DEDUCED: log entry 29. -/
structure Die where
  judged : Bool
  verdict : BitVec 3
  pattern : BitVec 3
  same : Nat
  allIn : Nat
  refOk : BitVec 3
  grpSeen : BitVec 8
  grpOk : BitVec 8
  grpIn : Tbl 3 Nat
  refEvt : BitVec 8
  deriving DecidableEq, Repr

/-- A HART modem (R291 to R296): the mailbox state and tries, whether the identity sequence runs, its tries of this
round, whether it waits for an answer, the moment of its next round, the end of the latest request on the wire, and
the end of the latest carrier on the line (0: none yet). -/
structure Hart where
  state : BitVec 3
  tries : BitVec 2
  rxLen : BitVec 8
  discard : BitVec 16
  idValid : Bool
  idRun : Bool
  idTries : Nat
  idWait : Bool
  idNext : Nat
  txEnd : Nat
  quiet : Nat
  deriving DecidableEq, Repr

/-! ### The channel shell (11) -/

/-- A channel's live configuration (R327): the four registers, the parameters copied at a commit, the filter's
coefficients and the linearisation table. -/
structure ChanCfg where
  mode : W32
  proc : W32
  lim : W32
  safe : W32
  mainGain : W32
  mainOff : W32
  shadGain : W32
  shadOff : W32
  hh : W32
  h : W32
  l : W32
  ll : W32
  hyst : W32
  roc : W32
  div : W32
  safeVal : W32
  ringBase : BitVec 64
  ringLog : W32
  taps : Byte
  coef : List W32
  lin : List (W32 × W32)
  deriving DecidableEq, Repr

/-- The filter memories of one path (R301): the integrators and combs of the CIC as fixed-point words, and the delay
line of the FIR; the output samples that still settle (R304); and what the path's calibration has found (R307):
the gain and offset in use, and 0 factory, 1 run-time, 2 rejected. -/
structure Path where
  integ : List (BitVec 80)
  comb : List (BitVec 80)
  line : List W64
  settle : Nat
  gain : W64
  offset : W64
  cal : BitVec 2
  sense : Bool
  deriving DecidableEq, Repr

/-- A record collected at C (R324): none, one that passed with its VALUE, or the number of the check that failed. -/
inductive OutRec where
  | none
  | passed (v : W32)
  | failed (check : BitVec 3)
  deriving DecidableEq, Repr

/-! ### Timers (12) -/

/-- A channel's timer unit (R341 to R361). `next` is a TIM_CTL write for the next edge (USE, UD, TSYNC, EVT_EN);
`level` the output of mode 9; `edges`, `first`, `last` the rising edges of the tick with the clocks of the first and
last; `latest` the clock of the latest rising edge; `since` the start; `period` the latest complete period, `ended`
that one ended in the tick, `timedOut` that R356's timeout holds; `stopped` the freeze of R481. -/
structure Timer where
  use : BitVec 3
  ud : Bool
  tsync : Bool
  evtEn : BitVec 4
  next : Option (BitVec 9)
  run : Bool
  cap : BitVec 48
  capPresent : Bool
  capd : Bool
  capHi : BitVec 16
  werr : Bool
  mwarn : Bool
  top : W32
  cmp : W32
  k : BitVec 8
  nm1 : BitVec 8
  count : BitVec 48
  up : Bool
  level : Bool
  edges : Nat
  first : Nat
  last : Nat
  latest : Option Nat
  since : Nat
  period : BitVec 48
  ended : Bool
  timedOut : Bool
  stopped : Bool
  deriving DecidableEq, Repr

/-- A channel: the staged registers, the live configuration, CH_CTLSTAT (R340), and the machinery behind them.
`term` is CH_MODE as the terminals stand (0 is OFF), `termAt` the tick at whose edge a new mode takes effect (R275);
`held` a commit held by a ramp, `holdAt` the tick of its edge (R335). `drive` is the output's setting as binary32,
`atSafe` that it stands at its CH_SAFE action, `last` the value last applied since OFF (R326), `cmdAt` the latest
apply that changed it (R310). `rampDue` is a ramp that begins at the next apply, `rampFrom` and `rampAt` the one in
progress and `rampLen` its length. `shortOff` is an output switched off under R286. `above` are the overloads of both paths
at the latest sample (R311). -/
structure Chan where
  stMode : W32
  stProc : W32
  stLim : W32
  stSafe : W32
  cfg : ChanCfg
  comEn : Bool
  live : Bool
  cpend : Bool
  reenPend : Bool
  held : Bool
  holdAt : Option (BitVec 64)
  cres : BitVec 2
  cfail : BitVec 5
  outfail : Bool
  strmErr : Bool
  evtEn : Byte
  evt : Byte
  evtNow : Byte
  term : W32
  termAt : Option (BitVec 64)
  ramping : Bool
  rampDue : Bool
  rampFrom : W32
  rampAt : Nat
  rampLen : Nat
  drive : W32
  atSafe : Bool
  last : Option W32
  cmdAt : Nat
  outRec : OutRec
  openCnt : Nat
  openSet : Bool
  shortCnt : Nat
  shortSet : Bool
  shortOff : Option Nat
  main : Path
  shadow : Path
  calOn : Option Bool
  altBack : Bool
  above : BitVec 2
  calPoint : Nat
  calNextMain : Nat
  calNextShadow : Nat
  liveBad : BitVec 5
  value : W32
  aux : W32
  status : BitVec 16
  seq : BitVec 16
  samples : BitVec 16
  isNew : Bool
  rocTick : Bool
  prev : Option (Bool × W64)
  limPlain : Bool
  lastDi : W32
  divRun : Nat
  divSame : Nat
  devRun : Nat
  devSame : Nat
  stMin : W64
  stMax : W64
  stSum : W64
  stCount : Nat
  ringWr : W32
  ringStop : Bool
  frozen : Bool
  hart : Hart
  timer : Timer
  deriving DecidableEq, Repr

/-! ### The host (13) -/

/-- The four words of a host-window entry (R371). -/
structure HostWin where
  w0 : W32
  w1 : W32
  w2 : W32
  w3 : W32
  deriving DecidableEq, Repr

/-- A port: its link, PERST#, the host's grants of bus mastering and MSI-X, the set-up registers (R400), the words of its
MSI-X table that are not at their reset values and its pending bits (R390), and its dropped doorbells (R377). `oneShot`
are the device vectors sent in this tick (R391). -/
structure HPort where
  perst : Bool
  up : Bool
  busMaster : Bool
  msixEn : Bool
  admErr : Bool
  rstRef : Bool
  asq : BitVec 64
  acq : BitVec 64
  admCfg : Byte
  table : List (Nat × W32)
  pba : List (Nat × Bool)
  dropped : BitVec 16
  oneShot : BitVec 16
  deriving DecidableEq, Repr

/-- The state of a ring (R367). -/
inductive RingState where
  | free | active | down | error | deleting
  deriving DecidableEq, Repr

/-- A fetched message that waits for firmware's answer (R385): the low 16 bits of its count, and what the port holds, with the
bytes that its DMA in has moved. -/
structure Msg where
  k : BitVec 16
  moved : W32
  cid : BitVec 16
  irq : Bool
  dmaOut : Bool
  dmaLen : W32
  haddr : BitVec 64
  maddr : Addr
  deriving DecidableEq, Repr

/-- A completion that waits for room in the CQ (R374, R384). -/
structure Compl where
  r0 : W64
  r1 : W64
  xfer : W32
  cid : BitVec 16
  status : Byte
  irq : Bool
  deriving DecidableEq, Repr

/-- A ring context (R373 to R375, R389): `f`, `t` are the fetch index and the tail of its SQ, `msgs` the messages not yet
completed, `svcs` the CID and IRQ of its services not yet completed, `waiting` completions for which the CQ has no room.
`delBy` is the ring, CID and IRQ of the DELETE_RING that ends it, none where an admin ring is being disabled; `delAt` its
moment. -/
structure Ring where
  st : RingState
  owner : BitVec 10
  port : Bool
  fmt : Bool
  sqLog : BitVec 4
  cqLog : BitVec 4
  sqAddr : BitVec 64
  cqAddr : BitVec 64
  compat : W32
  area : Addr
  f : BitVec 16
  t : BitVec 16
  cqTail : BitVec 16
  cqHead : BitVec 16
  phase : Bool
  inWr : W32
  outRd : W32
  badOut : W32
  msgs : List Msg
  svcs : List (BitVec 16 × Bool)
  waiting : List Compl
  delBy : Option (BitVec 8 × BitVec 16 × Bool)
  delAt : Nat
  deriving DecidableEq, Repr

/-- A service queued for the keeper (R379). -/
structure Svc where
  ring : BitVec 8
  desc : BitVec 512
  deriving DecidableEq, Repr

/-- The limits and ceilings of a compartment's quotas by item (R392), and the bytes of message DMA in this tick. -/
structure Quota where
  limit : Tbl 3 W32
  ceil : Tbl 3 W32
  dma : Nat
  deriving DecidableEq, Repr

/-- Pages held by a compartment (R387, R392). -/
structure Alloc where
  comp : BitVec 10
  addr : Addr
  pages : Nat
  deriving DecidableEq, Repr

/-- The host interface: windows and their registers (R372, R399), ports, rings, queued services, quotas, allocations, the
completions with IRQ since the last pass (R390), the status page with its two marks (R368), a removal in progress (R397,
R504, R519) with the ring, CID and IRQ of its service and the moment at which the drain of the rings began. `attnHeld` is an
attention input held until KREADY, `attnSeen` one that has acted. `delivered` are the capabilities that the keeper has
passed through gate 1 of a compartment with the value in A (R375, R387). -/
structure HostIf where
  win : Tbl 8 HostWin
  sel : Byte
  hw : HostWin
  busyUntil : Nat
  err : BitVec 2
  kready : Bool
  slot : Byte
  portA : HPort
  portB : HPort
  rings : Tbl 8 Ring
  svc : List Svc
  quota : Tbl 10 Quota
  allocs : List Alloc
  irqs : List (Bool × BitVec 10)
  page : List Host.Cell
  removal : Bool
  removalBy : Option (BitVec 8 × BitVec 16 × Bool)
  drainAt : Option Nat
  attnHeld : Bool
  attnSeen : Bool
  delivered : List (BitVec 10 × Cap × W64)
  deriving DecidableEq, Repr

/-! ### Trust and random numbers (14) -/

/-- The readings of the 256 fuse words at the low threshold M0 and the high threshold M1 (R402, R404). -/
structure Fuses where
  m0 : Tbl 8 W32
  m1 : Tbl 8 W32
  deriving DecidableEq, Repr

/-- A key slot as the boot found it (R417, R418): its generation, the owner signing key and the owner image key. -/
structure KeySlot where
  gen : W32
  pub : List Byte
  key : List Byte
  deriving DecidableEq, Repr

/-- An entry of the measurement log (R426). -/
structure Measure where
  digest : BitVec 384
  comp : BitVec 16
  kind : BitVec 16
  svn : W32
  tick : BitVec 64
  deriving DecidableEq, Repr

/-- The states of the DRBG (R423). -/
inductive Drbg where
  | startup | ready | degraded | exhausted
  deriving DecidableEq, Repr

/-- A queued random-number request (R424): its blocks, and its numbers, or `some none` for entropy-unavailable. -/
structure RngReq where
  blocks : BitVec 2
  out : Option (Option (BitVec 512))
  deriving DecidableEq, Repr

/-- A flash operation in progress (R430): 1 read, 2 program, 3 erase; the device, the offset, the module address and the
length, as they stood at its GO. -/
structure FlashJob where
  op : BitVec 2
  dev : Bool
  off : BitVec 26
  mem : Addr
  len : BitVec 21
  deriving DecidableEq, Repr

/-- The security block, the fuse, flash and random-number registers (R401 to R431). `fuse` are the latest readings of the
fuses, `hView` the H fields as resolved at boot; `burn` a burn in progress; `slotA`, `slotB` the valid key slots;
`flashA`, `flashB` the bytes of the devices that are not 0xFF; `next` the result a running command will give; `keySvn` the
security version of the keeper image, `recFails` the owner configuration records that failed since the slot in force was
last chosen (R418). -/
structure Sec where
  fuse : Fuses
  hView : Tbl 8 W32
  bootStat : W32
  keyGen : W32
  fSel : Byte
  fMask : W32
  fErr : BitVec 3
  burn : Option (Byte × W32)
  slotA : Option KeySlot
  slotB : Option KeySlot
  arg0 : W32
  arg1 : W32
  arg2 : W32
  arg3 : W32
  busy : Bool
  res : BitVec 4
  next : BitVec 4
  len : BitVec 16
  nextLen : BitVec 16
  log : List Measure
  flashA : List Host.Cell
  flashB : List Host.Cell
  flAddr : BitVec 26
  flDev : Bool
  flLo : W32
  flHi : BitVec 4
  flLen : BitVec 21
  flErr : BitVec 3
  flJob : Option FlashJob
  drbg : Drbg
  drbgKey : BitVec 256
  drbgV : BitVec 128
  reqs : List RngReq
  ovf : Bool
  calls : BitVec 17
  startFails : Nat
  reseedAt : Nat
  floorDue : Bool
  keySvn : W32
  recFails : Nat
  deriving DecidableEq, Repr

/-! ### Watchdogs, faults and hardpan (15) -/

/-- A detected fault on its way to the log (R434, R439): code, ARG, tick and moment of detection, and the data of its
continuation entries (R438). -/
structure FaultEvent where
  code : BitVec 16
  arg : W64
  tick : BitVec 64
  time : Nat
  cont : List (BitVec 224)
  deriving DecidableEq, Repr

/-- The collector's queue (R439); the fault log in the backup domain (R438): whether its header stands, WR, LOST, MIRWR,
HPCODE and the entries; `hpDue` that HARDPAN has begun and its entry is not complete (R449), `hpMark` that the event which began it
waits in the queue; the newest entry's code, ARG, moment and number; the FLT registers and HP_STAT (R455); the latest code
and the count that the status page shows (R367); the owner events of this tick by compartment (R454); the flash mirror (R441): when the latest one was
made, 0 if none was, the half that holds it, and the half that held the newest before the log was started anew. -/
structure Faults where
  queue : List FaultEvent
  headerOk : Bool
  wr : W32
  lost : W32
  mirwr : W32
  hpcode : BitVec 16
  entries : Tbl 7 (BitVec 256)
  newest : Option (BitVec 16 × W64 × Nat × W32)
  last : BitVec 16
  logged : BitVec 16
  fresh : Bool
  werr : Bool
  esc : BitVec 5
  swa0 : W32
  swa1 : W32
  hpCause : BitVec 16
  hpSafe : Bool
  hpAt : Nat
  hpDue : Bool
  hpMark : Bool
  ownerEvents : List (Nat × Nat)
  mirrorAt : Nat
  mirrorHalf : Bool
  keepHalf : Bool
  deriving DecidableEq, Repr

/-- An engine watchdog (R442 to R445); `due` says that the reset of a bite is about to follow. -/
structure Watchdog where
  en : Bool
  crit : Bool
  owner : BitVec 10
  salt : BitVec 16
  wmin : BitVec 10
  wmax : BitVec 10
  run : Bool
  age : Nat
  bitten : Bool
  due : Bool
  pc : Addr
  comp : BitVec 10
  tick : BitVec 16
  deriving DecidableEq, Repr

/-- The watchdogs, the module watchdog with the clock at which its count last began (R446), and the clock monitor
(R447, R448). -/
structure Watch where
  wd : Tbl 7 Watchdog
  sel : BitVec 7
  mSalt : BitVec 16
  mMin : BitVec 8
  mMax : BitVec 8
  mAt : Nat
  cnt : BitVec 12
  bkpLost : Bool
  mainLost : Bool
  resetWanted : Option (BitVec 4)
  deriving DecidableEq, Repr

/-! ### Debug (16) -/

/-- A break or watch range (R478, R482). -/
structure DRange where
  lo : W32
  hi : W32
  q : W32
  deriving DecidableEq, Repr

/-- The debug registers of one engine (R482), a halt requested and not yet complete with its cause and source, the wait
for an SC (R471), a resume that has not yet run its first instruction (`pass`), and a step under way (R474). -/
structure DEng where
  hgrp : BitVec 3
  hgen : Bool
  hcause : BitVec 4
  resv : Bool
  defer : Bool
  deferStep : Bool
  src : BitVec 7
  want : Bool
  wantCause : BitVec 4
  wantSrc : BitVec 7
  waitSc : Bool
  pass : Bool
  step : Bool
  ranges : Tbl 3 DRange
  hit : Byte
  hadr : Addr
  deriving DecidableEq, Repr

/-- The test access port and the debug session (R456 to R482). `level` is 0 with no session; `nonce` the nonce in force
with the clock of its issue and its request byte, `check` a response check in progress with its outcome; `lastAcc` the
clock of the last DBG_ACC scan, `acc` the result of the latest access; `scan` the boundary-scan register's latches,
`pins` what it drives. CFRZ, TFRZ and ONHALT are kept for each channel. -/
structure Debug where
  ir : Byte
  level : BitVec 2
  owner : Bool
  bscan : Bool
  fails : BitVec 4
  lockout : Option Nat
  rcause : BitVec 4
  comp : BitVec 10
  ring : BitVec 2
  eng : BitVec 7
  idx : BitVec 12
  status : Byte
  nonce : Option (BitVec 256 × Nat × Byte)
  check : Option (Bool × Byte)
  lastAcc : Nat
  res : BitVec 2
  accAddr : Addr
  accData : W32
  scan : List Bool
  extest : Bool
  frzCh : Byte
  frz : Tbl 8 (BitVec 3)
  engs : Tbl 7 DEng
  deriving DecidableEq, Repr

/-! ### Power, heat and the Yunal link (17) -/

/-- The phases of the supplies (R484, R486, R487): off or coming up, running, riding through an interruption of MAIN, in
the power-fail sequence. -/
inductive Supply where
  | off | on | ride | fail
  deriving DecidableEq, Repr

/-- A tile's power domain (R493, R494): on; shutting down, with a latched re-enable; off; powering up; powered up since the
latest edge, so that its slot lists start at the next one. -/
inductive TilePower where
  | on | down (again : Bool) | off | up | warm
  deriving DecidableEq, Repr

/-- Supplies and the thermal governor (R483 to R499). `cool120`, `cool130`, `cool137` are the clocks since which each die's
junction lies below that many degrees; `warned` are the thresholds of R496 in force for each die, of which die 4 is the
controller's. -/
structure Power where
  supply : Supply
  rideAt : Nat
  mainOk : Bool
  pfw : Bool
  fp1 : Bool
  fp2 : Bool
  railLow : Bool
  flim : Bool
  cellLow : Bool
  dips : Byte
  fieldMa : BitVec 16
  coreClk : BitVec 2
  clkNext : Option (BitVec 2)
  rdy : Bool
  level : BitVec 2
  warned : Tbl 3 (BitVec 4)
  dram2x : BitVec 2
  dramThr : BitVec 2
  dramHot : BitVec 2
  tmax : BitVec 16
  surgeEn : Bool
  cool130 : Tbl 3 (Option Nat)
  cool120 : Tbl 3 (Option Nat)
  cool137 : Tbl 3 (Option Nat)
  tiles : Tbl 5 TilePower
  selfRefresh : Bool
  discards : Tbl 5 Byte
  drainOpen : Bool
  deriving DecidableEq, Repr

/-- The backup domain but for the fault log (R489 to R492, R510): the sentinel, the RTC and the keeper's scratch words.
`runs` counts for each input the scans in a row that found it in the other state; `rtcRem` the channel
clocks since the latest oscillator edge; `rtcLoad` a value to load at the next one; `almLast` the second in which the alarm
last matched; `cell` that a backup cell is connected. -/
structure Backup where
  sentCfg : W32
  sentIn : Byte
  rly : BitVec 2
  pend : BitVec 2
  guard : Bool
  baseline : Bool
  runs : Tbl 3 Nat
  scr : Tbl 2 W32
  rtc : BitVec 64
  rtcRem : Nat
  rtcHi : W32
  setLo : W32
  setHi : W32
  rtcLoad : Option (BitVec 64)
  alm : W32
  almEn : Bool
  almHit : Bool
  almLast : Option (BitVec 48)
  valid : Bool
  cell : Bool
  deriving DecidableEq, Repr

/-- The states of the Yunal link (R506). -/
inductive YlState where
  | off | silt | train | full
  deriving DecidableEq, Repr

/-- The Yunal link (R506 to R510): YL_CTL, YL_STAT, the partner's latest heartbeat with its clock, FULLREQ of both sides
with the ticks since either showed it, the mirror entries, lane 1 going down with a latched re-enable (R494), and the
bisques taken in this tick and in the last by compartment; `mirSent` that the mirror of this tick has gone out. -/
structure Yunal where
  fullEn : Bool
  takeover : Bool
  take : Bool
  rmv : Bool
  wake : Bool
  st : YlState
  pres : Bool
  pflags : BitVec 5
  pslot : Byte
  mlag : Byte
  mfence : Bool
  ptick : W32
  pgive : W32
  pfull : Bool
  lastHb : Nat
  idleTicks : Nat
  mirSent : Bool
  mir : Tbl 4 W32
  lane1Down : Option Bool
  trainAt : Nat
  bisques : List (BitVec 10 × BitVec 2048)
  lastBisques : List (BitVec 10 × BitVec 2048)
  deriving DecidableEq, Repr


/-! ### The module -/

/-- Everything that the module's rules give it, chapter by chapter. `clk` is the channel clock, `outbox` what has left the module, oldest first; `free` counts the free
values drawn so far (Config), `bus` is the data of the latest read, `none` when it was refused; `ints` the pending
interrupt bits of each compartment (R176: doorbell, channel, timer, module event). `resv` lists the reservations
that stand (R106, R107), `marks` the writers of each channel's two output command buffers (R324). -/
structure Mach where
  clk : Nat
  free : Nat
  bus : Option (BitVec 128)
  outbox : List Out
  tick : TickSt
  mode : ModeSt
  tiles : Tbl 5 Tile
  engines : Tbl 7 Engine
  ints : Tbl 10 (BitVec 4)
  supNotices : List Notice
  supOverruns : List (BitVec 10 × BitVec 7 × BitVec 6)
  resv : List (BitVec 7 × Addr)
  owner : Tbl 8 (BitVec 10)
  spans : Tbl 6 SpanEntry
  spanRuns : Tbl 6 SpanRun
  marks : Tbl 8 (Option (BitVec 7 × BitVec 6) × Option (BitVec 7 × BitVec 6))
  mint : Mint
  mem : Memory
  mc : MemCtl
  dies : Tbl 2 Die
  chans : Tbl 8 Chan
  host : HostIf
  sec : Sec
  faults : Faults
  watch : Watch
  dbg : Debug
  pwr : Power
  bkp : Backup
  yl : Yunal
  deriving DecidableEq, Repr

/-- The state: the commands waiting, first in, first out; the fuse array, of which the module's own copy holds the latest
readings (R402, R404); and the module. -/
structure State where
  pending : List Instr
  fuses : Fuses
  m : Mach
  deriving DecidableEq, Repr

/-- Reasons for which a step could stop the machine. There is none: to every command the spec gives an effect, or no
effect at all. -/
inductive Fault where
  deriving DecidableEq, Repr

/-- Reasons for which a step could be refused. -/
inductive Refusal where
  /-- Raised by the dispatch alone, for a command without a meaning, by its mnemonic. Safe: the machine stops. -/
  | notModelled (mnemonic : String)
  deriving DecidableEq, Repr

/-! ### The state right after reset: edge 0 of the first WAKE (R7) -/

/-- The null capability (R112). -/
def Cap.null : Cap := ⟨0xC000_0000_0000_0000_0000_0000_0000_0000#128, false⟩

/-- A capability of its fields (R110). -/
def Cap.make (cursor base limit : Addr) (rights : BitVec 8) (owner : BitVec 10) (kind : BitVec 2) (tag : Bool) : Cap :=
  ⟨kind ++ owner ++ rights ++ limit ++ base ++ cursor, tag⟩

/-- The root capability (R134). -/
def Cap.root : Cap := Cap.make 0#36 0#36 0#36 0xFF#8 0#10 0#2 true

/-- PCC of E0 at edge 0 of WAKE (R413). -/
def Cap.boot : Cap := Cap.make 0x100#36 0#36 0x1_0000#36 0x0D#8 0#10 0#2 true

/-- The registers of an engine at position `p` after an engine reset (R90, R112, R155, R162). DESIGN CHOICE: log entry 12. -/
def resetArch (p : BitVec 2) : Arch :=
  { a := 0, e := 0, m := 0, x := Cap.null, y := Cap.null, d := Cap.null, s := Cap.null, pcc := Cap.null, f := 0
    rcnt := 0, rstate := 0, tsbr := 0x1000_0800#36 + put 36 p 8, link := Cap.null, slink := Cap.null
    ssp := 0x1003_9000#36 + put 36 p 12, ring := 0, ib := false, exl := false, dfl := false, fast := false, fring := 0
    fib := false, ent0 := Cap.null, ent1 := Cap.null, ent2 := Cap.null, lpend := false, lval := 0, lop := 0, lopa := 0
    lopb := 0, ldist := 0, lrm := 0, resv := none }

/-- E0's registers at edge 0 of WAKE (R134, R413). DESIGN CHOICE: log entry 12. -/
def bootArch : Arch := { resetArch 0#2 with pcc := Cap.boot, d := Cap.root }

/-- Replica `r` at edge 0 of WAKE (R184): 0, 1 and 2 in lanes 0, 1 and 2, replica 3 the grog. -/
def Replica.reset (a : Arch) (r : BitVec 2) : Replica :=
  { arch := a, sb := [], prefetch := [], ldue := none, repEnd := false
    state := if r = 3#2 then .grog else .active, lane := if r = 3#2 then 0#2 else r
    pass := 0, fail := 0, drops := 0, bist := false, bistTick := 500 }

def Tile.reset (a : Arch) : Tile :=
  { code := 0, live := 0, pend := false, rej := 0, sweep := 0x10, werr := false, mism := 0, drop := 0
    mPos := 0, mRepl := 0, mCase := 0, mTick := 0, noGrog := false
    reps := Vector.ofFn fun (r : Fin (2 ^ 2)) => Replica.reset a (BitVec.ofNat 2 r.val)
    icache := [], rcache := [] }

/-- DESIGN CHOICE: log entry 21. -/
def Engine.reset (a : Arch) : Engine :=
  { act := .idle, cur := none, todo := [], keeper := false, notices := [], lostNotices := 0, budgetPend := false
    taken := [], forcedDue := false, fed := false, reread := false, halted := false, resets := [], ran := [], lineBuf := []
    copy0 := ⟨a, 0, 0, false, false⟩, copy1 := ⟨a, 0, 0, false, false⟩, undo := [] }

def FenceEntry.reset : FenceEntry := ⟨0, 0, 0, 0⟩

def TickSt.reset (now : Nat) : TickSt :=
  { count := 0, countHi := 0, period := 1000, src := false, limit := 1000, reacq := 8
    periodNext := none, srcNext := none, limitNext := none, reacqNext := none
    extLock := false, holdover := false, holdExpired := false, werr := false, spurious := 0, holdTicks := 0
    streak := 0, hit := false, early := false, expDone := false, edgeAt := now, seqEdge := now, seqNum := 0, nextEdge := none
    phase := .p0, active := false, swapPend := false, malformed := false, skip := false, copied := 128, window := none
    ovrLimit := 3 }

/-- DESIGN CHOICE: log entry 11. -/
def ModeSt.reset (now : Nat) : ModeSt :=
  { mode := .wake, pend := none, pendTick := 0, outRel := false, outRelAtC := false, refuse := 0, autostart := false
    wkHost := true, wkSent := true, wkPeer := true, wkRtc := false, wakeCause := 0, prev := 0, prevKept := 0
    checksPassed := false, marchDone := false, awake := false, wakeLog := [], wakeAt := now }

/-- DEDUCED: log entry 29. -/
def Die.reset : Die :=
  { judged := false, verdict := 0, pattern := 0, same := 0, allIn := 0, refOk := 0, grpSeen := 0, grpOk := 0
    grpIn := Vector.replicate _ 0, refEvt := 0 }

def ChanCfg.reset : ChanCfg :=
  { mode := 0, proc := 0x0018_0402, lim := 0, safe := 0x29, mainGain := 0, mainOff := 0, shadGain := 0, shadOff := 0
    hh := 0, h := 0, l := 0, ll := 0, hyst := 0, roc := 0, div := 0, safeVal := 0, ringBase := 0, ringLog := 0
    taps := 0, coef := [], lin := [] }

def Path.reset : Path := { integ := [], comb := [], line := [], settle := 0, gain := 0, offset := 0, cal := 0, sense := false }

def Hart.reset : Hart :=
  { state := 0, tries := 0, rxLen := 0, discard := 0, idValid := false, idRun := false, idTries := 0, idWait := false
    idNext := 0, txEnd := 0, quiet := 0 }

def Timer.reset : Timer :=
  { use := 0, ud := false, tsync := false, evtEn := 0, next := none, run := false, cap := 0, capPresent := false
    capd := false, capHi := 0, werr := false, mwarn := false, top := 0xC7FF, cmp := 0, k := 0, nm1 := 0, count := 0
    up := true, level := false, edges := 0, first := 0, last := 0, latest := none, since := 0, period := 0
    ended := false, timedOut := false, stopped := false }

def Chan.reset : Chan :=
  { stMode := 0, stProc := 0x0018_0402, stLim := 0, stSafe := 0x29, cfg := ChanCfg.reset
    comEn := false, live := false, cpend := false, reenPend := false, held := false, holdAt := none, cres := 0, cfail := 0
    outfail := false, strmErr := false, evtEn := 0, evt := 0, evtNow := 0, term := 0, termAt := none
    ramping := false, rampDue := false, rampFrom := 0, rampAt := 0, rampLen := 0, drive := 0, atSafe := true, last := none, cmdAt := 0
    outRec := .none, openCnt := 0, openSet := false, shortCnt := 0, shortSet := false, shortOff := none
    main := Path.reset, shadow := Path.reset, calOn := none, altBack := false, above := 0, calPoint := 0, calNextMain := 0
    calNextShadow := 0, liveBad := 0, value := 0, aux := 0, status := 0, seq := 0, samples := 0, isNew := false
    rocTick := false, prev := none, limPlain := true, lastDi := 0, divRun := 0, divSame := 0, devRun := 0, devSame := 0
    stMin := 0, stMax := 0, stSum := 0, stCount := 0, ringWr := 0, ringStop := false, frozen := false
    hart := Hart.reset, timer := Timer.reset }

def HostWin.reset : HostWin := ⟨0, 0, 0, 0⟩

/-- PRESUMED: log entry 33. -/
def HPort.reset : HPort :=
  { perst := true, up := false, busMaster := false, msixEn := false, admErr := false, rstRef := false, asq := 0, acq := 0
    admCfg := 0x44, table := [], pba := [], dropped := 0, oneShot := 0 }

def Ring.reset : Ring :=
  { st := .free, owner := 0, port := false, fmt := false, sqLog := 0, cqLog := 0, sqAddr := 0, cqAddr := 0, compat := 0
    area := 0, f := 0, t := 0, cqTail := 0, cqHead := 0, phase := false, inWr := 0, outRd := 0, badOut := 0, msgs := []
    svcs := [], waiting := [], delBy := none, delAt := 0 }

def Quota.reset : Quota := { limit := Vector.replicate _ 0, ceil := Vector.replicate _ 0, dma := 0 }

/-- DESIGN CHOICE: log entry 11. -/
def HostIf.reset : HostIf :=
  { win := Vector.replicate _ HostWin.reset, sel := 0, hw := HostWin.reset, busyUntil := 0, err := 0, kready := false
    slot := 0, portA := HPort.reset, portB := HPort.reset, rings := Vector.replicate _ Ring.reset, svc := []
    quota := Vector.replicate _ Quota.reset, allocs := [], irqs := [], page := [], removal := false, removalBy := none, drainAt := none
    attnHeld := false, attnSeen := false, delivered := [] }

/-- Fuses of which none is burned. DESIGN CHOICE: log entry 3. -/
def Fuses.blank : Fuses := ⟨Vector.replicate _ 0, Vector.replicate _ 0⟩

/-- DESIGN CHOICE: log entry 3. -/
def Sec.reset (f : Fuses) : Sec :=
  { fuse := f, hView := Vector.replicate _ 0, bootStat := 0, keyGen := 0, fSel := 0, fMask := 0, fErr := 0, burn := none
    slotA := none, slotB := none, arg0 := 0, arg1 := 0, arg2 := 0, arg3 := 0, busy := false, res := 0, next := 0, len := 0
    nextLen := 0, log := [], flashA := [], flashB := [], flAddr := 0, flDev := false, flLo := 0, flHi := 0, flLen := 0
    flErr := 0, flJob := none, drbg := .startup, drbgKey := 0, drbgV := 0, reqs := [], ovf := false, calls := 0, startFails := 0, reseedAt := 0
    floorDue := false, keySvn := 0, recFails := 0 }

/-- DESIGN CHOICE: log entry 11. -/
def Faults.reset : Faults :=
  { queue := [], headerOk := false, wr := 0, lost := 0, mirwr := 0, hpcode := 0, entries := Vector.replicate _ 0
    newest := none, last := 0, logged := 0, fresh := false, werr := false, esc := 0, swa0 := 0, swa1 := 0, hpCause := 0
    hpSafe := false, hpAt := 0, hpDue := false, hpMark := false, ownerEvents := [], mirrorAt := 0, mirrorHalf := false, keepHalf := false }

def Watchdog.reset : Watchdog :=
  { en := false, crit := false, owner := 0, salt := 0, wmin := 1, wmax := 2, run := false, age := 0, bitten := false
    due := false, pc := 0, comp := 0, tick := 0 }

def Watch.reset (now : Nat) : Watch :=
  { wd := Vector.replicate _ Watchdog.reset, sel := 0, mSalt := 0, mMin := 0, mMax := 0x64, mAt := now, cnt := 0
    bkpLost := false, mainLost := false, resetWanted := none }

def DEng.reset : DEng :=
  { hgrp := 0, hgen := false, hcause := 0, resv := false, defer := false, deferStep := false, src := 0, want := false
    wantCause := 0, wantSrc := 0, waitSc := false, pass := false, step := false, ranges := Vector.replicate _ ⟨0, 0, 0⟩, hit := 0
    hadr := 0 }

/-- DESIGN CHOICE: log entry 11. -/
def Debug.reset : Debug :=
  { ir := 2, level := 0, owner := false, bscan := false, fails := 0, lockout := none, rcause := 0, comp := 2, ring := 1
    eng := 0, idx := 0, status := 0, nonce := none, check := none, lastAcc := 0, res := 0, accAddr := 0, accData := 0
    scan := [], extest := false, frzCh := 0, frz := Vector.replicate _ 0, engs := Vector.replicate _ DEng.reset }

/-- DESIGN CHOICE: log entry 11. -/
def Power.reset : Power :=
  { supply := .on, rideAt := 0, mainOk := true, pfw := false, fp1 := false, fp2 := false, railLow := true, flim := false
    cellLow := false, dips := 0, fieldMa := 0, coreClk := 0, clkNext := none, rdy := false, level := 0
    warned := Vector.replicate _ 0, dram2x := 0, dramThr := 0, dramHot := 0, tmax := 0, surgeEn := false, cool130 := Vector.replicate _ none
    cool120 := Vector.replicate _ none, cool137 := Vector.replicate _ none, tiles := Vector.replicate _ .on, selfRefresh := false
    discards := Vector.replicate _ 0, drainOpen := false }

/-- DESIGN CHOICE: log entry 11. -/
def Backup.reset : Backup :=
  { sentCfg := 0, sentIn := 0, rly := 0, pend := 0, guard := false, baseline := false, runs := Vector.replicate _ 0
    scr := Vector.replicate _ 0, rtc := 0, rtcRem := 0, rtcHi := 0, setLo := 0, setHi := 0, rtcLoad := none, alm := 0
    almEn := false, almHit := false, almLast := none, valid := false, cell := true }

def Yunal.reset : Yunal :=
  { fullEn := false, takeover := false, take := false, rmv := false, wake := false, st := .silt, pres := false
    pflags := 0, pslot := 0, mlag := 0, mfence := false, ptick := 0, pgive := 0, pfull := false, lastHb := 0
    idleTicks := 0, mirSent := false, mir := Vector.replicate _ 0, lane1Down := none, trainAt := 0, bisques := []
    lastBisques := [] }

def MemCtl.reset : MemCtl :=
  { fence := Vector.replicate _ FenceEntry.reset, sel := 0, fw := FenceEntry.reset, fbusyUntil := 0, ferr := 0
    portCaches := Vector.replicate _ [], mark0 := none, mark1 := none, passH := 0x18, deadThr := 0x40, rowThr := 4
    scrubOn := false, scrubLine := 0, passes := 0, devCnt := Vector.replicate _ 0, rowCnt := [], devTold := 0, rowTold := [], spst0 := 0, spst1 := 0
    sramc := 0, dramc := 0, chkc := 0, icpar := 0, ueSram := 0, ueDram := 0, writeBack := [], dramFrozen := false }

/-- The module at edge 0 of a WAKE at clock `now`, with fuse readings `f` and nothing kept from before.
DESIGN CHOICE: log entry 4. -/
def Mach.reset (now : Nat) (f : Fuses) : Mach :=
  { clk := now, free := 0, bus := none, outbox := [], tick := TickSt.reset now, mode := ModeSt.reset now
    tiles := Vector.ofFn fun (t : Fin (2 ^ 5)) => Tile.reset (if t.val = 0 then bootArch else resetArch 0#2)
    engines := Vector.ofFn fun (e : Fin (2 ^ 7)) =>
      if e.val = 0 then { Engine.reset bootArch with keeper := true, act := .run }
      else Engine.reset (resetArch (BitVec.ofNat 2 e.val))
    ints := Vector.replicate _ 0, supNotices := [], supOverruns := [], resv := [], owner := Vector.replicate _ 0
    spans := Vector.replicate _ ⟨0, Cap.null, Cap.null, Cap.null⟩
    spanRuns := Vector.replicate _ ⟨.waiting, .waiting, .waiting, false⟩, marks := Vector.replicate _ (none, none)
    mint := ⟨0, 0, 0, 0, 0, 0, false, 0, 0, 0⟩, mem := ⟨[], [], [], []⟩, mc := MemCtl.reset
    dies := Vector.replicate _ Die.reset, chans := Vector.replicate _ Chan.reset, host := HostIf.reset, sec := Sec.reset f
    faults := Faults.reset, watch := Watch.reset now, dbg := Debug.reset, pwr := Power.reset, bkp := Backup.reset
    yl := Yunal.reset }

/-- The machine right after reset: power has come for the first time, the module is at edge 0 of WAKE, no fuse is burned,
the flash is erased, the backup domain is new, and no command waits. DESIGN CHOICE: log entry 3. -/
def State.reset : State := { pending := [], fuses := Fuses.blank, m := Mach.reset 0 Fuses.blank }

end Sys2Proof.Machine
end

