-- ==== Sys2Proof/Machine/Ops.lean ====
section
/-! DEFINITION. Named operations over the parts of the module: the address map, memory through its codes, fault
reports, and what leaves the module. -/

namespace Sys2Proof.Machine

open Sys2Proof

/-! ### Parts -/

/-- What a command answers. -/
abbrev Res := Host.Outcome State Fault Refusal

/-- A command that takes effect on the module: the queue is not its concern. -/
def State.on (s : State) (f : Mach → Mach) : Res := .next { s with m := f s.m }

/-- The module with tile `t` changed. -/
def modTile (t : BitVec 5) (f : Tile → Tile) (m : Mach) : Mach := { m with tiles := m.tiles.upd t f }

/-- The module with engine `e` changed. -/
def modEng (e : BitVec 7) (f : Engine → Engine) (m : Mach) : Mach := { m with engines := m.engines.upd e f }

/-- The module with replica `r` of tile `t` changed. -/
def modRep (t : BitVec 5) (r : BitVec 2) (f : Replica → Replica) (m : Mach) : Mach :=
  modTile t (fun tl => { tl with reps := tl.reps.upd r f }) m

/-- The module with the memory registers changed. -/
def modMc (f : MemCtl → MemCtl) (m : Mach) : Mach := { m with mc := f m.mc }

/-- The tile of an engine (R9). -/
def tileOf (e : BitVec 7) : BitVec 5 := fld e 2 5

/-- The position of an engine in its tile (R9). -/
def posOf (e : BitVec 7) : BitVec 2 := fld e 0 2

/-! ### Faults (R434, R439) -/

/-- The reactions of R433. -/
inductive Reaction where
  | l | n | e | h
  deriving DecidableEq, Repr

/-- The codes whose reaction is L alone (R435). -/
def logOnly (k : Nat) : Bool :=
  decide (k ∈ [0x0102, 0x0305, 0x030C, 0x0405, 0x0603, 0x0806, 0x0807, 0x0808])
    || decide (0x0203 ≤ k ∧ k ≤ 0x0207) || decide (0x0E01 ≤ k ∧ k ≤ 0x0E04) || decide (0x0F00 ≤ k)

/-- The codes whose reaction is H (R435). -/
def hardpanCode (k : Nat) : Bool :=
  decide (k ∈ [0x0105, 0x0202, 0x0406, 0x0604, 0x0605, 0x0701, 0x0702, 0x0703, 0x0804, 0x0805, 0x0E05])

/-- The bit of FLT_ESC that escalates a code (R435). -/
def escalates (k : Nat) : Option Nat :=
  match k with
  | 0x0103 => some 0
  | 0x0304 => some 1
  | 0x030A => some 2
  | 0x0404 => some 3
  | 0x0201 => some 4
  | _ => none

/-- The engine that an EC layout names (R434). -/
def ecEngine (arg : W64) : BitVec 7 := fld arg 0 7

/-- The reaction to a fault (R435), before HARDPAN changes it. DEDUCED: log entry 22. -/
def reactionOf (m : Mach) (code : BitVec 16) (arg : W64) : Reaction :=
  let k := code.toNat
  if logOnly k then .l
  else if hardpanCode k then .h
  else if k = 0x0601 ∨ k = 0x0602 then (if (m.watch.wd.get (ecEngine arg)).crit then .h else .e)
  else
    match escalates k with
    | some b => if bit m.faults.esc b then .h else .n
    | none => .n

/-- The modes from which HARDPAN is entered (R41); a power-fail warning overrides the transition (R51, R487). -/
def hardpanFrom (m : Mach) : Bool :=
  decide (m.mode.mode ≠ .dormant) && decide (m.mode.mode ≠ .hardpan) && !m.pwr.pfw

/-- HARDPAN begins at the detection of a fault (R48, R449, time 0): MODE and CAUSE are set, a pending request is dropped; the
module watchdog, which stands in SLEEP, counts anew (R446). DEDUCED: log entry 22. -/
def beginHardpan (code : BitVec 16) (m : Mach) : Mach :=
  if !hardpanFrom m then m
  else
    { m with
      mode := { m.mode with mode := .hardpan, pend := none }
      watch := { m.watch with mAt := if m.mode.mode = .sleep then m.clk else m.watch.mAt }
      faults := { m.faults with
        hpCause := code, hpcode := code, hpSafe := false, hpAt := m.clk, hpDue := true } }

/-- A fault joins the collector's queue of up to 64 events, or is dropped and counted (R439). The tick of detection is all
ones in DORMANT (R438). -/
def queueFault (code : BitVec 16) (arg : W64) (cont : List (BitVec 224)) (m : Mach) : Mach :=
  if m.faults.queue.length < 64 then
    let t := if m.mode.mode = .dormant then BitVec.allOnes 64 else m.tick.count
    { m with faults := { m.faults with queue := m.faults.queue ++ [⟨code, arg, t, m.clk, cont⟩] } }
  else { m with faults := { m.faults with lost := satInc m.faults.lost } }

/-- A fault is detected: HARDPAN begins if that is its reaction, also where the event itself is dropped. -/
def reportC (code : BitVec 16) (arg : W64) (cont : List (BitVec 224)) (m : Mach) : Mach :=
  if reactionOf m code arg = .h ∧ hardpanFrom m = true then
    let room := decide (m.faults.queue.length < 64)
    let m := queueFault code arg cont (beginHardpan code m)
    { m with faults := { m.faults with hpMark := room } }
  else queueFault code arg cont m

/-- A fault without continuation entries. DEDUCED: log entry 22. -/
def report (code : BitVec 16) (arg : W64) (m : Mach) : Mach := reportC code arg [] m

/-- The EC layout of ARG (R434). -/
def argEC (e : BitVec 7) (comp : BitVec 10) (pos : BitVec 6) : W64 :=
  put 64 e 0 ||| put 64 comp 8 ||| put 64 pos 18 ||| put 64 (tileOf e) 24

/-- The AD layout of ARG (R434). -/
def argAD (a : Addr) (eng : BitVec 7) (ring : BitVec 2) (comp : BitVec 10) : W64 :=
  put 64 a 0 ||| put 64 eng 36 ||| put 64 ring 43 ||| put 64 comp 45

/-! ### The address map (R233) -/

/-- What stands at a physical address. -/
inductive Region where
  | bootRom | tileAlias | tile (t : BitVec 5) | shared | regs | hostWin | dram | unmapped
  deriving DecidableEq, Repr

/-- The region of an address (R233). -/
def region (a : Addr) : Region :=
  let n := a.toNat
  if n < 0x1_0000 then .bootRom
  else if 0x1000_0000 ≤ n ∧ n < 0x1004_0000 then .tileAlias
  else if 0x2000_0000 ≤ n ∧ n < 0x2080_0000 then .tile (fld a 18 5)
  else if 0x4000_0000 ≤ n ∧ n < 0x4100_0000 then .shared
  else if 0x8000_0000 ≤ n ∧ n < 0xC000_0000 then .regs
  else if 0xC000_0000 ≤ n ∧ n < 0x1_0000_0000 then .hostWin
  else if 0x8_0000_0000 ≤ n then .dram
  else .unmapped

/-- An address as memory keys it: the tile-local alias of tile `t` is that tile's SRAM (R233, R235). -/
def phys (t : BitVec 5) (a : Addr) : Addr :=
  match region a with
  | .tileAlias => 0x2000_0000#36 + put 36 t 18 + (a &&& 0x3_FFFF#36)
  | _ => a

/-- The offset of an address within its tile's SRAM (R235). -/
def tileOff (a : Addr) : BitVec 18 := fld a 0 18

/-- The number of the granule that holds an address. -/
def granOf (a : Addr) : Nat := a.toNat / 16

/-- The address of a granule. -/
def granAddr (g : Nat) : Addr := BitVec.ofNat 36 (16 * g)

/-- An address with its four low bits cleared. -/
def alignG (a : Addr) : Addr := a &&& ~~~0xF#36

/-- A window that memory holds: SRAM or DRAM. -/
def Region.isMem : Region → Bool
  | .tileAlias | .tile _ | .shared | .dram => true
  | _ => false

/-! ### Memory as data -/

/-- The byte that memory holds at an address; 0 where nothing is listed (R255). DESIGN CHOICE: log entry 4. -/
def Memory.byte (mem : Memory) (a : Nat) : Byte := look 0#8 mem.cells a

/-- Bytes stored at consecutive addresses. -/
def storeBytes : List Host.Cell → Nat → List Byte → List Host.Cell
  | cs, _, [] => cs
  | cs, a, b :: bs => storeBytes (store 0#8 cs a b) (a + 1) bs

/-- The data bits of a granule. -/
def Memory.data (mem : Memory) (g : Nat) : Gran :=
  BitVec.ofNat 128 (leNat ((range (16 * g) 16).map mem.byte))

/-- The tag of a granule (R114). -/
def Memory.tag (mem : Memory) (g : Nat) : Bool := look false mem.tags g

/-- The poison bit of a granule (R241). -/
def Memory.poison (mem : Memory) (g : Nat) : Bool := look false mem.pois g

/-- The bits of a granule's codeword that have flipped since it was written. -/
def Memory.err (mem : Memory) (g : Nat) : BitVec 152 := look 0#152 mem.errs g

/-- A granule written whole: new check bits, so no error is left (R239, R245). -/
def Memory.putGran (mem : Memory) (g : Nat) (d : Gran) (tag pois : Bool) : Memory :=
  { cells := storeBytes mem.cells (16 * g) (bytesOf d 0 16)
    tags := store false mem.tags g tag
    pois := store false mem.pois g pois
    errs := store 0#152 mem.errs g 0#152 }

/-- Flipped bits added to a granule's codeword. DEDUCED: log entry 19. -/
def Memory.flip (mem : Memory) (g : Nat) (x : BitVec 152) : Memory :=
  { mem with errs := store 0#152 mem.errs g (mem.err g ^^^ x) }

/-- The canonical form of memory. -/
def Memory.wf (mem : Memory) : Bool :=
  canon 0#8 mem.cells && canon false mem.tags && canon false mem.pois && canon 0#152 mem.errs

/-- A granule of DRAM. -/
def isDram (g : Nat) : Bool := decide (0x8000_0000 ≤ g)

/-- The DRAM channel of a granule: address bit 6 (R240). -/
def dramChan (g : Nat) : Bool := decide ((g / 4) % 2 = 1)

/-- The marked device of a channel (R247). -/
def MemCtl.mark (mc : MemCtl) (ch : Bool) : Option (BitVec 5) := if ch then mc.mark1 else mc.mark0

/-- A granule as its decoder gives it (R238, R243, R244). A codeword in which no bit has flipped is clean.
DEDUCED: log entry 19. -/
def decodeGran (mc : MemCtl) (mem : Memory) (g : Nat) : Decoded :=
  let d := mem.data g
  let t := mem.tag g
  let p := mem.poison g
  let x := mem.err g
  if x = 0#152 then .clean d t p
  else if isDram g then
    match mc.mark (dramChan g) with
    | none => rsDecode (rsEncode d t p ^^^ x)
    | some k => rsDecodeDead (rsEncode d t p ^^^ x) k
  else hamDecode (hamEncode d t ^^^ x.setWidth 146)

/-! ### Counting corrections (R247, R248, R253) -/

/-- The DRAM channel address of a granule's first byte (R240). -/
def chanAddr (g : Nat) : BitVec 34 :=
  let off := BitVec.ofNat 35 (16 * g)
  (fld off 7 28) ++ (fld off 0 6)

/-- The entry of R254 that names a row of a device. -/
def spareEntry (g : Nat) (dev : BitVec 5) : W32 :=
  let c := chanAddr g
  put 32 (fld c 17 17) 0 ||| put 32 (fld c 15 2) 17 ||| put 32 (fld c 13 2) 19 ||| put 32 dev 21
    ||| at_ (dramChan g) 26 ||| at_ true 31

/-- A codeword was corrected in the symbol of device `dev` (R247, R253): a second device of a marked channel and a candidate row
are reported once in a pass, at the first correction that finds the threshold reached. DEDUCED: log entry 51. -/
def countDevice (g : Nat) (dev : BitVec 5) (m : Mach) : Mach :=
  let ch := dramChan g
  let ix : BitVec 6 := at_ ch 5 ||| put 6 dev 0
  let old := m.mc.devCnt.get ix
  let row := (spareEntry g dev).toNat
  let rows := look 0 m.mc.rowCnt row + 1
  let m1 := modMc (fun c => { c with devCnt := c.devCnt.set ix (old + 1), rowCnt := store 0 c.rowCnt row rows }) m
  let arg : W64 := at_ ch 0 ||| put 64 dev 8
  let m2 :=
    if m.mc.deadThr.toNat ≤ old + 1 then
      match m.mc.mark ch with
      | none => report 0x0403 arg
          (modMc (fun c => if ch then { c with mark1 := some dev } else { c with mark0 := some dev }) m1)
      | some k =>
        if k = dev ∨ bit m.mc.devTold ix.toNat = true then m1
        else report 0x0404 arg (modMc (fun c => { c with devTold := c.devTold ||| at_ true ix.toNat }) m1)
    else m1
  if m.mc.rowThr.toNat ≤ rows ∧ row ∉ m.mc.rowTold then
    report 0x0405 (put 64 (spareEntry g dev) 0) (modMc (fun c => { c with rowTold := row :: c.rowTold }) m2)
  else m2

/-- A correction is counted and its write-back queued (R238, R243, R248, R251). DEDUCED: log entry 64. -/
def countCorrected (g : Nat) (sym : BitVec 5) (m : Mach) : Mach :=
  let m := modMc (fun c => { c with writeBack := if g ∈ c.writeBack then c.writeBack else c.writeBack ++ [g] }) m
  if isDram g then
    let m := if sym = 17#5 ∨ sym = 18#5 then modMc (fun c => { c with chkc := satInc c.chkc }) m
      else modMc (fun c => { c with dramc := satInc c.dramc }) m
    countDevice g sym m
  else modMc (fun c => { c with sramc := satInc c.sramc }) m

/-! ### Accesses -/

/-- The identity of a memory access: whether a replica makes it, the engine (0x7F in reports for a master that is no
replica), compartment and ring. -/
structure Acc where
  replica : Bool
  eng : BitVec 7
  comp : BitVec 10
  ring : BitVec 2
  deriving DecidableEq, Repr

/-- A master that is no replica. -/
def Acc.other : Acc := ⟨false, 0x7F#7, 0#10, 0#2⟩

/-- What a read of a granule gives: its data and tag, and the cause of vector 0x08 where it fails (R158). -/
structure GranRead where
  data : Gran
  tag : Bool
  bad : Option (BitVec 8)
  deriving DecidableEq, Repr

/-- The cause of vector 0x08 for an uncorrectable word (R158). -/
def badCause (a : Addr) : BitVec 8 :=
  match region a with
  | .shared => 2#8
  | .dram => 3#8
  | _ => 1#8

/-- A granule read through its code (R238, R243 to R245, R248): corrections are counted, an uncorrectable word is
counted and logged, and in DRAM it is rewritten poisoned. -/
def readGran (w : Acc) (g : Nat) (m : Mach) : GranRead × Mach :=
  match decodeGran m.mc m.mem g with
  | .clean d t p => (⟨d, t, if p then some 4#8 else none⟩, m)
  | .corrected d t p k => (⟨d, t, if p then some 4#8 else none⟩, countCorrected g k m)
  | .bad d =>
    let a := granAddr g
    if isDram g then
      (⟨d, false, some 3#8⟩,
        report 0x0402 (argAD a w.eng w.ring w.comp)
          (modMc (fun c => { c with ueDram := satInc c.ueDram }) { m with mem := m.mem.putGran g d false true }))
    else
      (⟨d, false, some (badCause a)⟩,
        report 0x0401 (argAD a w.eng w.ring w.comp) (modMc (fun c => { c with ueSram := satInc c.ueSram }) m))

/-- Bytes of `old` replaced by those of `new` that a mask names. -/
def mergeBytes (old new : Gran) (mask : BitVec 16) : Gran :=
  let wide := (range 0 16).foldl (fun acc i => if bit mask i then acc ||| ((0xFF#128) <<< (8 * i)) else acc) 0#128
  (old &&& ~~~wide) ||| (new &&& wide)

/-- A granule of the channel ownership table (R138). -/
def ownerGran (g : Nat) : Bool := decide (0x40F_5000 ≤ g ∧ g < 0x40F_5040)

/-- A write to a granule of SRAM or DRAM (R115, R239, R245, R246): whole, with its tag, or of part, merged into the
decoded word with tag 0; a partial write of an uncorrectable SRAM word is not performed, but for the channel ownership table,
where a store of a word rewrites it (R139). DEDUCED: log entry 61. A queued write-back of the
granule is dropped (R251), and a reservation that any other engine than the writer holds on it is cleared (R107).
DEDUCED: log entry 61. -/
def writeGran (w : Acc) (g : Nat) (d : Gran) (mask : BitVec 16) (tag : Bool) (m : Mach) : Mach :=
  let m := { m with
    mc := { m.mc with writeBack := m.mc.writeBack.filter (· ≠ g) }
    resv := m.resv.filter fun x => !(granOf x.2 == g && (!w.replica || x.1 != w.eng)) }
  if mask = 0xFFFF#16 then { m with mem := m.mem.putGran g d tag false }
  else
    let (r, m) := readGran w g m
    if r.bad.isSome && !isDram g && !ownerGran g then m
    else { m with mem := m.mem.putGran g (mergeBytes r.data d mask) false r.bad.isSome }

/-- A granule as hardware takes it through its code; the value of one that cannot be read is free, for the spec gives none.
DESIGN CHOICE: log entry 24. -/
def hwData (g : Nat) (m : Mach) : Gran :=
  match decodeGran m.mc m.mem g with
  | .clean d _ p => if p then Config.badData m.free else d
  | .corrected d _ p _ => if p then Config.badData m.free else d
  | .bad _ => Config.badData m.free

/-- What reading granules leaves behind: corrections counted and queued, uncorrectable words counted and logged (R238, R245,
R251). -/
def hwTouch (l : List Nat) (m : Mach) : Mach := l.foldl (fun m g => (readGran Acc.other g m).2) m

/-- A granule that a master other than a replica reads: from the boot ROM, whose bytes are free, or through the code of memory; a
word that cannot be corrected gives free bytes. DESIGN CHOICE: log entry 24. -/
def codedGran (w : Acc) (g : Nat) (m : Mach) : Gran × Mach :=
  if g < 0x1000 then (BitVec.ofNat 128 (leNat ((range (16 * g) 16).map Config.bootRom)), m)
  else
    let (r, m) := readGran w g m
    if r.bad.isSome then (Config.badData m.free, { m with free := m.free + 1 }) else (r.data, m)

/-- The bytes of `n` granules from `g` on, each read in its turn. -/
def codedFrom (w : Acc) : Nat → Nat → Mach → List Byte × Mach
  | 0, _, m => ([], m)
  | n + 1, g, m =>
    let (d, m) := codedGran w g m
    let (l, m) := codedFrom w n (g + 1) m
    (bytesOf d 0 16 ++ l, m)

/-- Bytes that a master other than a replica reads through the codes (R238, R245, R251). -/
def codedBytes (w : Acc) (a : Addr) (n : Nat) (m : Mach) : List Byte × Mach :=
  let g := granOf a
  let (l, m) := codedFrom w ((a.toNat + n + 15) / 16 - g) g m
  ((l.drop (a.toNat % 16)).take n, m)

/-- A word of 32 bits that hardware writes into memory as part of its granule. -/
def hwWrite32 (a : Addr) (v : W32) (m : Mach) : Mach :=
  writeGran Acc.other (granOf a) (put 128 v (8 * (a.toNat % 16))) ((0xF#16) <<< (a.toNat % 16)) false m

/-- A word of 32 bits of a granule that hardware reads. -/
def hwRead32 (a : Addr) (m : Mach) : W32 := fld (hwData (granOf a) m) (8 * (a.toNat % 16)) 32

/-- A byte that hardware writes into memory as part of its granule. -/
def hwWrite8 (a : Addr) (v : Byte) (m : Mach) : Mach :=
  writeGran Acc.other (granOf a) (put 128 v (8 * (a.toNat % 16))) ((1#16) <<< (a.toNat % 16)) false m

/-- A byte of a granule that hardware reads. -/
def hwRead8 (a : Addr) (m : Mach) : Byte := fld (hwData (granOf a) m) (8 * (a.toNat % 16)) 8

/-- A whole granule that hardware writes. -/
def hwWriteGran (a : Addr) (d : Gran) (m : Mach) : Mach :=
  writeGran Acc.other (granOf a) d 0xFFFF#16 false m

/-- Bytes of memory as they stand; the boot ROM's are free. -/
def memBytes (m : Mach) (a : Addr) (n : Nat) : List Byte :=
  (range a.toNat n).map fun k => if k < 0x1_0000 then Config.bootRom k else m.mem.byte k

/-- Bytes written at an address, granule by granule; `fuel` bounds the granules. -/
def writeBytesFuel (w : Acc) : Nat → Addr → List Byte → Mach → Mach
  | 0, _, _, m => m
  | n + 1, a, l, m =>
    if l.isEmpty then m
    else
      let o := a.toNat % 16
      let k := min (16 - o) l.length
      let d : Gran := BitVec.ofNat 128 (leNat (l.take k) * 2 ^ (8 * o))
      let mask : BitVec 16 := BitVec.ofNat 16 ((2 ^ k - 1) * 2 ^ o)
      writeBytesFuel w n (a + BitVec.ofNat 36 k) (l.drop k) (writeGran w (granOf a) d mask false m)

/-- Bytes written by hardware in the name of a master that is no replica. -/
def writeBytes (a : Addr) (l : List Byte) (m : Mach) : Mach := writeBytesFuel Acc.other (l.length + 1) a l m

/-! ### Identities -/

/-- The keeper context: compartment 0 in ring 0 (R113). -/
def keeperCtx (comp : BitVec 10) (ring : BitVec 2) : Bool := decide (comp = 0#10) && decide (ring = 0#2)

/-- An access in the keeper context, made by a replica, or by a debug session in its name (R465). -/
def whoKeeper (w : Who) : Bool := decide (w.master = .replica ∨ w.master = .debug) && keeperCtx w.comp w.ring

/-- The identity that a memory access carries. -/
def whoAcc (w : Who) : Acc :=
  if w.master = .replica then ⟨true, w.eng, w.comp, w.ring⟩ else ⟨false, 0x7F#7, w.comp, w.ring⟩

/-- An interrupt becomes pending for a compartment (R176): bit 0 doorbell, 1 channel, 2 timer, 3 module event. -/
def pend (comp : BitVec 10) (b : Nat) (m : Mach) : Mach :=
  { m with ints := m.ints.upd comp fun x => x ||| at_ true b }

/-- The logic has power. -/
def powered (m : Mach) : Bool := decide (m.mode.mode ≠ .dormant)

/-- The module event becomes pending for compartment 0. -/
def moduleEvent (m : Mach) : Mach := pend 0#10 3 m

end Sys2Proof.Machine
end

