-- ==== Sys2Proof/Machine/Caps.lean ====
section
/-! DEFINITION. Capabilities (R109 to R130) and the fence map (R257 to R264). -/

namespace Sys2Proof.Machine

open Sys2Proof

/-! ### Fields of a capability (R109) -/

def Cap.cursor (c : Cap) : Addr := fld c.bits 0 36
def Cap.base (c : Cap) : Addr := fld c.bits 36 36
def Cap.limitField (c : Cap) : Addr := fld c.bits 72 36
def Cap.rights (c : Cap) : BitVec 8 := fld c.bits 108 8
def Cap.owner (c : Cap) : BitVec 10 := fld c.bits 116 10
def Cap.kind (c : Cap) : BitVec 2 := fld c.bits 126 2

/-- The decoded limit: a field of 0 stands for 2^36 (R110). -/
def Cap.limit (c : Cap) : Nat := if c.limitField = 0#36 then 2 ^ 36 else c.limitField.toNat

def Cap.setCursor (c : Cap) (a : Addr) : Cap := { c with bits := setFld c.bits 0 36 a }
def Cap.setRights (c : Cap) (r : BitVec 8) : Cap := { c with bits := setFld c.bits 108 8 r }
def Cap.setKind (c : Cap) (k : BitVec 2) : Cap := { c with bits := setFld c.bits 126 2 k }

/-- A tagged value of KIND 0b11 is never produced (R112). -/
def Cap.norm (c : Cap) : Cap := if c.kind = 3#2 then { c with tag := false } else c

/-- An access of `s` bytes at `a` is within bounds (R110). -/
def Cap.inBounds (c : Cap) (a : Addr) (s : Nat) : Bool :=
  decide (c.base.toNat ≤ a.toNat) && decide (a.toNat + s ≤ c.limit)

/-! Rights, by their place in RIGHTS (R111). -/

def rRD : Nat := 0
def rWR : Nat := 1
def rEX : Nat := 2
def rLDC : Nat := 3
def rSTC : Nat := 4
def rDRV : Nat := 5
def rDEV : Nat := 6
def rSEAL : Nat := 7

/-- A capability holds a right. -/
def Cap.has (c : Cap) (r : Nat) : Bool := bit c.rights r

/-! Causes of the capability exception (R124). -/

def cTAG : BitVec 8 := 0x01#8
def cSEALED : BitVec 8 := 0x02#8
def cKIND : BitVec 8 := 0x03#8
def cOWNER : BitVec 8 := 0x04#8
def cRD : BitVec 8 := 0x05#8
def cWR : BitVec 8 := 0x06#8
def cEX : BitVec 8 := 0x07#8
def cLDC : BitVec 8 := 0x08#8
def cSTC : BitVec 8 := 0x09#8
def cDRV : BitVec 8 := 0x0A#8
def cSEAL : BitVec 8 := 0x0B#8
def cDEV : BitVec 8 := 0x0C#8
def cDEVRING : BitVec 8 := 0x0D#8
def cBOUNDS : BitVec 8 := 0x0E#8
def cWIDEN : BitVec 8 := 0x0F#8
def cCHANNEL : BitVec 8 := 0x10#8

/-- A synchronous exception: vector, cause, capability register number and fault address (R158, R165). -/
structure Exc where
  vec : BitVec 6
  cause : BitVec 8
  reg : BitVec 4
  faddr : Addr
  deriving DecidableEq, Repr

def excIllegal (cause : BitVec 8) : Exc := ⟨0x02#6, cause, 0#4, 0#36⟩
def excPriv (cause : BitVec 8) : Exc := ⟨0x04#6, cause, 0#4, 0#36⟩
def excCap (cause : BitVec 8) (reg : BitVec 4) (a : Addr) : Exc := ⟨0x05#6, cause, reg, a⟩
def excData (cause : BitVec 8) (a : Addr) : Exc := ⟨0x06#6, cause, 0#4, a⟩
def excShadow (cause : BitVec 8) : Exc := ⟨0x07#6, cause, 0#4, 0#36⟩
def excUncorr (cause : BitVec 8) (a : Addr) : Exc := ⟨0x08#6, cause, 0#4, a⟩

/-! ### The checks of R120 -/

/-- The channel whose register block, output command records or parameter RAM an address lies in, for a load or a
store (R139). -/
def channelOf (a : Addr) (isWrite : Bool) : Option (BitVec 8) :=
  let n := a.toNat
  if 0x8004_0000 ≤ n ∧ n < 0x8004_4000 then some (fld a 6 8)
  else if isWrite && decide (0x40F8_0000 ≤ n ∧ n < 0x40F8_8000 ∧ 0x40 ≤ n % 0x80 ∧ n % 0x80 < 0x60) then some (fld a 7 8)
  else if isWrite && decide (0x40FC_0000 ≤ n ∧ n < 0x4100_0000) then some (fld a 10 8)
  else none

/-- The channel ownership table (R138). -/
def inOwnership (a : Addr) : Bool := decide (0x40F5_0000 ≤ a.toNat ∧ a.toNat < 0x40F5_0400)

/-- The span table (R223). -/
def inSpanTable (a : Addr) : Bool := decide (0x40F4_8000 ≤ a.toNat ∧ a.toNat < 0x40F4_9000)

/-- What an access is: its width in bytes, the alignment it needs (its width, or 1 for a string step, R98), whether it
writes, and whether it moves a capability. -/
structure AccKind where
  size : Nat
  align : Nat
  write : Bool
  cap : Bool
  deriving DecidableEq, Repr

/-- The first failing check of R120 for an access at `a` through capability `c`, register `reg`, by compartment
`comp` in ring `ring`, under the latched owners `own`. -/
def checkAccess (own : Tbl 8 (BitVec 10)) (comp : BitVec 10) (ring : BitVec 2) (c : Cap) (reg : BitVec 4) (a : Addr)
    (k : AccKind) : Option Exc :=
  let keeper := keeperCtx comp ring
  let r := region a
  if !c.tag then some (excCap cTAG reg a)
  else if c.kind ≠ 0#2 then some (excCap cSEALED reg a)
  else if !keeper && decide (c.owner ≠ comp) then some (excCap cOWNER reg a)
  else if !k.write && !c.has rRD then some (excCap cRD reg a)
  else if k.write && !c.has rWR then some (excCap cWR reg a)
  else if k.cap && !k.write && !c.has rLDC then some (excCap cLDC reg a)
  else if k.cap && k.write && !c.has rSTC then some (excCap cSTC reg a)
  else if k.cap && (r == .regs || r == .hostWin) then some (excData 0x02 a)
  else if r == .regs && !c.has rDEV then some (excCap cDEV reg a)
  else if r == .regs && decide (ring.toNat ≥ 2) then some (excCap cDEVRING reg a)
  else if !c.inBounds a k.size then some (excCap cBOUNDS reg a)
  else if a.toNat % k.align ≠ 0 then some (excData 0x01 a)
  else if k.write && inOwnership a && (k.size != 4 || a.toNat % 4 != 0) then some (excData 0x01 a)
  else if k.write && inSpanTable a && k.size != 16 then some (excData 0x01 a)
  else if k.write && (inOwnership a || inSpanTable a) && !keeper then some (excCap cCHANNEL reg a)
  else match channelOf a k.write with
    | some ch => if !keeper && decide (own.get ch ≠ comp) then some (excCap cCHANNEL reg a) else none
    | none => none

/-- The checks of R121 on an instruction address or branch target. -/
def checkFetch (comp : BitVec 10) (ring : BitVec 2) (c : Cap) (reg : BitVec 4) (a : Addr) : Option Exc :=
  if !c.tag then some (excCap cTAG reg a)
  else if c.kind ≠ 0#2 then some (excCap cSEALED reg a)
  else if !keeperCtx comp ring && decide (c.owner ≠ comp) then some (excCap cOWNER reg a)
  else if !c.has rEX then some (excCap cEX reg a)
  else if !c.inBounds a 4 then some (excCap cBOUNDS reg a)
  else none

/-! ### The fence map -/

/-- Who the fence map checks: a ring of a compartment, or a master class of a compartment (R260). -/
inductive FenceId where
  | ring (comp : BitVec 10) (r : BitVec 2)
  | cls (comp : BitVec 10) (c : BitVec 2)
  deriving DecidableEq, Repr

/-- The port an access goes through: a tile's, or one of the four others, each with a region cache (R263); the mint
and the checks of debug accesses have none. -/
inductive Port where
  | tile (t : BitVec 5)
  | other (k : BitVec 2)
  | direct
  deriving DecidableEq, Repr

def portHostA : Port := .other 0#2
def portHostB : Port := .other 1#2
def portChannels : Port := .other 2#2
def portYunal : Port := .other 3#2

def FenceId.comp : FenceId → BitVec 10
  | .ring c _ => c
  | .cls c _ => c

def FenceEntry.valid (f : FenceEntry) : Bool := bit f.w2 10
def FenceEntry.locked (f : FenceEntry) : Bool := bit f.w2 9
def FenceEntry.cmatch (f : FenceEntry) : Bool := bit f.w2 8
def FenceEntry.comp (f : FenceEntry) : BitVec 10 := fld f.w2 12 10

/-- The first page of an entry, and the page after its last; a LIMIT of 0 stands for 2^36 (R257). -/
def FenceEntry.lo (f : FenceEntry) : Nat := (fld f.w0 0 24).toNat
def FenceEntry.hi (f : FenceEntry) : Nat := if fld f.w1 0 24 = 0#24 then 2 ^ 24 else (fld f.w1 0 24).toNat

/-- A valid entry matches an access (R259). -/
def FenceEntry.matches (f : FenceEntry) (comp : BitVec 10) (a : Addr) : Bool :=
  let p := a.toNat / 4096
  f.valid && decide (f.lo ≤ p) && decide (p < f.hi) && (!f.cmatch || decide (f.comp = comp))

/-- What an entry grants (R257). -/
def FenceEntry.grants (f : FenceEntry) (i : FenceId) (write : Bool) : Bool :=
  let k := if write then 1 else 0
  match i with
  | .ring _ r => bit f.w2 (2 * r.toNat + k)
  | .cls _ c => bit f.w3 (2 * c.toNat + k)

/-- The default map of R261, for ring 0. -/
def defaultMap (a : Addr) (write : Bool) : Bool :=
  match region a with
  | .bootRom => !write
  | .tile _ | .shared | .regs => true
  | _ => false

/-- Without a matching entry (R260). -/
def fenceDefault (i : FenceId) (a : Addr) (write : Bool) : Bool :=
  match i with
  | .ring _ r => decide (r = 0#2) && defaultMap a write
  | .cls _ _ => false

/-- The matching entry of lowest number in a cache. -/
def cacheFind (comp : BitVec 10) (a : Addr) : List (BitVec 6 × FenceEntry) → Option (BitVec 6 × FenceEntry)
  | [] => none
  | x :: r =>
    match cacheFind comp a r with
    | some y => if x.2.matches comp a && decide (x.1.toNat < y.1.toNat) then some x else some y
    | none => if x.2.matches comp a then some x else none

/-- The matching entry of lowest number in the fence store. DEDUCED: log entry 20. -/
def fenceFind (store : Tbl 6 FenceEntry) (comp : BitVec 10) (a : Addr) : Option (BitVec 6 × FenceEntry) :=
  ((range 0 64).map fun i => (BitVec.ofNat 6 i, store.get (BitVec.ofNat 6 i))).find? fun x => x.2.matches comp a

/-- An entry used: first in the order of recent use, in the place of an older copy, and at most eight (R263).
DEDUCED: log entry 20. -/
def cacheUse (x : BitVec 6 × FenceEntry) (c : List (BitVec 6 × FenceEntry)) : List (BitVec 6 × FenceEntry) :=
  (x :: c.filter (fun y => y.1 ≠ x.1)).take 8

/-- A port's region cache. DEDUCED: log entry 20. -/
def portCache (p : Port) (m : Mach) : List (BitVec 6 × FenceEntry) :=
  match p with
  | .tile t => (m.tiles.get t).rcache
  | .other k => m.mc.portCaches.get k
  | .direct => []

/-- A port's region cache replaced. -/
def setPortCache (p : Port) (c : List (BitVec 6 × FenceEntry)) (m : Mach) : Mach :=
  match p with
  | .tile t => modTile t (fun tl => { tl with rcache := c }) m
  | .other k => modMc (fun mc => { mc with portCaches := mc.portCaches.set k c }) m
  | .direct => m

/-- Whether the fence map permits an access, and the region cache after it (R259 to R263). An unmapped address, a
write to the boot ROM, and DRAM writes by a fabric master once HARDPAN has frozen DRAM (R249) are refused whatever the
map says (R234). The alias is no fabric address. -/
def fenceCheck (p : Port) (i : FenceId) (a : Addr) (write : Bool) (m : Mach) : Bool × Mach :=
  let r := region a
  if r == .unmapped || r == .tileAlias || (write && r == .bootRom) || (write && r == .dram && m.mc.dramFrozen) then (false, m)
  else
    let c := portCache p m
    match cacheFind i.comp a c with
    | some x => (x.2.grants i write, setPortCache p (cacheUse x c) m)
    | none =>
      match fenceFind m.mc.fence i.comp a with
      | some x => (x.2.grants i write, setPortCache p (cacheUse x c) m)
      | none => (fenceDefault i a write, m)

/-! ### Areas with their own rules -/

/-- The shadow-stack areas of a tile's SRAM (R155), by an address as memory keys it. -/
def inShadow (a : Addr) : Bool :=
  match region a with
  | .tile _ => decide (0x3_8000 ≤ (tileOff a).toNat ∧ (tileOff a).toNat < 0x3_C000)
  | _ => false

/-- The notice cause with which a write is refused by the rule of the area it lies in, for a store by compartment
`comp` in ring `ring`, or by another master (R30, R37, R138, R144, R155, R223, R228, R315, R316). `whole` says that it is
one whole 16-byte store; `a` is the address as memory keys it. -/
def areaRefusal (replica keeper whole : Bool) (a : Addr) : Option (BitVec 4) :=
  let n := a.toNat
  match region a with
  | .tile _ => if inShadow a then some 5#4 else none
  | .shared =>
    if n < 0x40F0_0000 then none
    else if n < 0x40F4_0000 then (if whole then none else some 2#4)
    else if n < 0x40F4_4000 then some 2#4
    else if inOwnership a then (if replica && keeper then none else some 2#4)
    else if inSpanTable a then (if replica && keeper && whole then none else some 2#4)
    else if 0x40F4_9000 ≤ n ∧ n < 0x40F4_9400 then some 2#4
    else if 0x40F6_0000 ≤ n ∧ n < 0x40F8_0000 then (if replica && keeper then none else some 5#4)
    else if 0x40F8_0000 ≤ n ∧ n < 0x40F8_8000 then
      (if 0x40 ≤ n % 0x80 ∧ n % 0x80 < 0x60 ∧ replica then none else some 2#4)
    else if 0x40F8_8000 ≤ n ∧ n < 0x40F9_0000 then some 2#4
    else if 0x40F9_0000 ≤ n ∧ n < 0x40F9_4000 then (if replica && keeper then none else some 2#4)
    else if 0x40F9_4000 ≤ n ∧ n < 0x40FC_0000 then some 2#4
    else if 0x40FC_0000 ≤ n then (if replica then none else some 2#4)
    else none
  | _ => none

/-- The bytes of a store to parameter RAM that are written: CAL_FACT only by the keeper, CAL_RUN, HSTAT and DEVID by none
(R317, R292). The store is not refused. -/
def paramMask (keeper : Bool) (a : Addr) (mask : BitVec 16) : BitVec 16 :=
  let n := a.toNat
  if 0x40FC_0000 ≤ n ∧ n < 0x4100_0000 then
    (if n % 0x400 < 0x10 then (if keeper then mask else 0#16)
     else if n % 0x400 < 0x20 then 0#16
     else if 0x200 ≤ n % 0x400 ∧ n % 0x400 < 0x210 then mask &&& 0x000F#16
     else mask)
  else mask

end Sys2Proof.Machine
end

