-- ==== Sys2Proof/Machine/Crc.lean ====
section
/-! DEFINITION. CRC-32C (R99, R320) and the signature register of a span (R226). -/

namespace Sys2Proof.Machine

open Sys2Proof

/-- One bit of the reflected CRC-32C register, polynomial 0x1EDC6F41 (reflected 0x82F63B78). -/
def crcBit (r : W32) : W32 := if bit r 0 then (r >>> 1) ^^^ 0x82F6_3B78#32 else r >>> 1

/-- One byte, least significant bit first (R99). -/
def crcByte (r : W32) (b : Byte) : W32 :=
  crcBit (crcBit (crcBit (crcBit (crcBit (crcBit (crcBit (crcBit (r ^^^ b.setWidth 32))))))))

/-- The register after a list of bytes, neither preset nor inverted. -/
def crcRun (r : W32) (bs : List Byte) : W32 := bs.foldl crcByte r

/-- The CRC-32C of a list of bytes: preset, reflected and inverted (R320). -/
def crc32c (bs : List Byte) : W32 := ~~~(crcRun 0xFFFF_FFFF#32 bs)

/-- One block of the 128-bit signature register with polynomial x^128 + x^7 + x^2 + x + 1 (R226). -/
def misrStep (r b : Gran) : Gran := (if bit r 127 then (r <<< 1) ^^^ 0x87#128 else r <<< 1) ^^^ b

end Sys2Proof.Machine
end

