-- ==== Sys2Proof/Machine/Float.lean ====
section
/-! DEFINITION. IEEE 754 arithmetic of binary64 and binary32 (R94, R95): operands taken apart exactly, results computed
exactly as numbers m·2^e with a sticky bit for what lies below, and rounded once. Sticky flags are five bits: 0 NX,
1 UF, 2 OF, 3 DZ, 4 NV, as F[13:9] holds them (R90). -/

namespace Sys2Proof.Machine

open Sys2Proof

abbrev FFlags := BitVec 5

def fNX : FFlags := 1#5
def fUF : FFlags := 2#5
def fOF : FFlags := 4#5
def fDZ : FFlags := 8#5
def fNV : FFlags := 16#5

/-- A format: precision, exponent field width. -/
structure FFmt where
  prec : Nat
  ew : Nat
  deriving DecidableEq, Repr

def binary64 : FFmt := ⟨53, 11⟩
def binary32 : FFmt := ⟨24, 8⟩

def FFmt.bias (f : FFmt) : Int := (2 ^ (f.ew - 1) : Int) - 1
def FFmt.emin (f : FFmt) : Int := 1 - f.bias

/-- A value taken apart: a finite number is (-1)^s · m · 2^e. -/
inductive FVal where
  | nan (signalling : Bool)
  | inf (s : Bool)
  | fin (s : Bool) (m : Nat) (e : Int)
  deriving DecidableEq, Repr

/-- A bit pattern of a format taken apart. -/
def unpack (f : FFmt) (w : Nat) : FVal :=
  let fr := w % 2 ^ (f.prec - 1)
  let ex := (w / 2 ^ (f.prec - 1)) % 2 ^ f.ew
  let s := decide ((w / 2 ^ (f.prec - 1 + f.ew)) % 2 = 1)
  if ex = 2 ^ f.ew - 1 then
    if fr = 0 then .inf s else .nan (decide (fr / 2 ^ (f.prec - 2) = 0))
  else if ex = 0 then .fin s fr (f.emin - (f.prec - 1 : Nat))
  else .fin s (fr + 2 ^ (f.prec - 1)) ((ex : Int) - f.bias - (f.prec - 1 : Nat))

def signBit (f : FFmt) (s : Bool) : Nat := if s then 2 ^ (f.prec - 1 + f.ew) else 0
def packInf (f : FFmt) (s : Bool) : Nat := signBit f s + (2 ^ f.ew - 1) * 2 ^ (f.prec - 1)
def packMax (f : FFmt) (s : Bool) : Nat := packInf f s - 1
def packNaN (f : FFmt) : Nat := packInf f false + 2 ^ (f.prec - 2)

/-- Whether a magnitude is rounded up, given its last kept bit, the half bit and what lies below (R90: 00 to nearest
even, 01 toward zero, 10 toward +∞, 11 toward -∞). -/
def roundUp (rm : BitVec 2) (s odd half below : Bool) : Bool :=
  if rm = 0#2 then half && (below || odd)
  else if rm = 1#2 then false
  else if rm = 2#2 then !s && (half || below)
  else s && (half || below)

/-- m·2^e, with something below m's last bit if `sticky`, rounded to a multiple of 2^q; and whether it was inexact. -/
def roundAt (rm : BitVec 2) (s : Bool) (m : Nat) (e : Int) (sticky : Bool) (q : Int) : Nat × Bool :=
  if q ≤ e then (m * 2 ^ (e - q).toNat, sticky)
  else
    let k := (q - e).toNat
    let n := m / 2 ^ k
    let half := decide ((m / 2 ^ (k - 1)) % 2 = 1)
    let below := decide (m % 2 ^ (k - 1) ≠ 0) || sticky
    (if roundUp rm s (decide (n % 2 = 1)) half below then n + 1 else n, half || below)

/-- A nonzero exact value rounded into a format with its flags; tininess is detected after rounding (R94). -/
def roundPack (f : FFmt) (rm : BitVec 2) (s : Bool) (m : Nat) (e : Int) (sticky : Bool) : Nat × FFlags :=
  let top : Int := (Nat.log2 m : Int) + e
  let qn := top - (f.prec - 1 : Nat)
  let qmin := f.emin - (f.prec - 1 : Nat)
  let free := roundAt rm s m e sticky qn
  let topFree := if free.1 = 2 ^ f.prec then top + 1 else top
  let q := if qn < qmin then qmin else qn
  let r := roundAt rm s m e sticky q
  let n := if r.1 = 2 ^ f.prec then 2 ^ (f.prec - 1) else r.1
  let q := if r.1 = 2 ^ f.prec then q + 1 else q
  let ex := q + (f.prec - 1 : Nat) + f.bias
  if n < 2 ^ (f.prec - 1) then
    (signBit f s + n, (if r.2 then fNX ||| fUF else 0#5))
  else if (2 ^ f.ew : Int) - 1 ≤ ex then
    let toInf := rm = 0#2 ∨ (rm = 2#2 ∧ s = false) ∨ (rm = 3#2 ∧ s = true)
    (if toInf then packInf f s else packMax f s, fOF ||| fNX)
  else
    (signBit f s + ex.toNat * 2 ^ (f.prec - 1) + (n - 2 ^ (f.prec - 1)),
      (if r.2 then (if topFree < f.emin then fNX ||| fUF else fNX) else 0#5))

def packZero (f : FFmt) (s : Bool) : Nat := signBit f s

/-- A NaN operand gives the canonical NaN, with NV for a signalling one. -/
def nanResult (f : FFmt) (a b : FVal) : Option (Nat × FFlags) :=
  match a, b with
  | .nan x, .nan y => some (packNaN f, if x || y then fNV else 0#5)
  | .nan x, _ => some (packNaN f, if x then fNV else 0#5)
  | _, .nan y => some (packNaN f, if y then fNV else 0#5)
  | _, _ => none

/-- The exact sum of two finite values, rounded. -/
def addFin (f : FFmt) (rm : BitVec 2) (sa : Bool) (ma : Nat) (ea : Int) (sb : Bool) (mb : Nat) (eb : Int) : Nat × FFlags :=
  let e := if ea ≤ eb then ea else eb
  let va : Int := (if sa then -1 else 1) * ((ma * 2 ^ (ea - e).toNat : Nat) : Int)
  let vb : Int := (if sb then -1 else 1) * ((mb * 2 ^ (eb - e).toNat : Nat) : Int)
  let v := va + vb
  if v = 0 then
    (packZero f (if ma = 0 ∧ mb = 0 ∧ sa = sb then sa else decide (rm = 3#2)), 0#5)
  else roundPack f rm (decide (v < 0)) v.natAbs e false

def addF (f : FFmt) (rm : BitVec 2) (a b : FVal) : Nat × FFlags :=
  match nanResult f a b with
  | some r => r
  | none =>
    match a, b with
    | .inf x, .inf y => if x = y then (packInf f x, 0#5) else (packNaN f, fNV)
    | .inf x, _ => (packInf f x, 0#5)
    | _, .inf y => (packInf f y, 0#5)
    | .fin sa ma ea, .fin sb mb eb => addFin f rm sa ma ea sb mb eb
    | _, _ => (packNaN f, 0#5)

def negF : FVal → FVal
  | .nan s => .nan s
  | .inf s => .inf (!s)
  | .fin s m e => .fin (!s) m e

def mulF (f : FFmt) (rm : BitVec 2) (a b : FVal) : Nat × FFlags :=
  match nanResult f a b with
  | some r => r
  | none =>
    match a, b with
    | .inf x, .inf y => (packInf f (x ^^ y), 0#5)
    | .inf x, .fin s m _ => if m = 0 then (packNaN f, fNV) else (packInf f (x ^^ s), 0#5)
    | .fin s m _, .inf y => if m = 0 then (packNaN f, fNV) else (packInf f (s ^^ y), 0#5)
    | .fin sa ma ea, .fin sb mb eb =>
      if ma = 0 ∨ mb = 0 then (packZero f (sa ^^ sb), 0#5) else roundPack f rm (sa ^^ sb) (ma * mb) (ea + eb) false
    | _, _ => (packNaN f, 0#5)

def divF (f : FFmt) (rm : BitVec 2) (a b : FVal) : Nat × FFlags :=
  match nanResult f a b with
  | some r => r
  | none =>
    match a, b with
    | .inf _, .inf _ => (packNaN f, fNV)
    | .inf x, .fin s _ _ => (packInf f (x ^^ s), 0#5)
    | .fin s _ _, .inf y => (packZero f (s ^^ y), 0#5)
    | .fin sa ma ea, .fin sb mb eb =>
      if mb = 0 then (if ma = 0 then (packNaN f, fNV) else (packInf f (sa ^^ sb), fDZ))
      else if ma = 0 then (packZero f (sa ^^ sb), 0#5)
      else
        let num := ma * 2 ^ 128
        roundPack f rm (sa ^^ sb) (num / mb) (ea - eb - 128) (decide (num % mb ≠ 0))
    | _, _ => (packNaN f, 0#5)

/-- The integer square root of `n`, found bit by bit from bit `k` downwards. -/
def isqrt (n : Nat) : Nat → Nat → Nat
  | 0, r => if (r + 1) * (r + 1) ≤ n then r + 1 else r
  | k + 1, r =>
    let c := r + 2 ^ (k + 1)
    isqrt n k (if c * c ≤ n then c else r)

def sqrtF (f : FFmt) (rm : BitVec 2) (a : FVal) : Nat × FFlags :=
  match a with
  | .nan x => (packNaN f, if x then fNV else 0#5)
  | .inf s => if s then (packNaN f, fNV) else (packInf f false, 0#5)
  | .fin s m e =>
    if m = 0 then (packZero f s, 0#5)
    else if s then (packNaN f, fNV)
    else
      let odd := e % 2 ≠ 0
      let n := (if odd then 2 * m else m) * 2 ^ 128
      let e2 := (if odd then e - 1 else e) - 128
      let r := isqrt n 92 0
      roundPack f rm false r (e2 / 2) (decide (r * r ≠ n))

/-- A value of one format rounded into another. -/
def convF (f : FFmt) (rm : BitVec 2) (a : FVal) : Nat × FFlags :=
  match a with
  | .nan x => (packNaN f, if x then fNV else 0#5)
  | .inf s => (packInf f s, 0#5)
  | .fin s m e => if m = 0 then (packZero f s, 0#5) else roundPack f rm s m e false

/-- A signed integer as a value of a format. -/
def ofIntF (f : FFmt) (rm : BitVec 2) (v : Int) : Nat × FFlags :=
  if v = 0 then (packZero f false, 0#5) else roundPack f rm (decide (v < 0)) v.natAbs 0 false

/-- FCVTI (R95): rounded by RM, saturating, 0 for a NaN; NV and no NX in those three cases. -/
def toI64 (rm : BitVec 2) (a : FVal) : W64 × FFlags :=
  match a with
  | .nan _ => (0#64, fNV)
  | .inf s => (if s then 0x8000_0000_0000_0000#64 else 0x7FFF_FFFF_FFFF_FFFF#64, fNV)
  | .fin s m e =>
    let r := if 1100 < e then (2 ^ 64 * m, false) else roundAt rm s m e false 0
    let v : Int := if s then -(r.1 : Int) else r.1
    if (2 ^ 63 : Int) ≤ v then (0x7FFF_FFFF_FFFF_FFFF#64, fNV)
    else if v < -(2 ^ 63 : Int) then (0x8000_0000_0000_0000#64, fNV)
    else (BitVec.ofInt 64 v, if r.2 then fNX else 0#5)

/-- How two values compare: less, equal, greater, or unordered. -/
inductive FOrd where
  | lt | eq | gt | un
  deriving DecidableEq, Repr

/-- A finite value as a multiple of 2^lo, for a `lo` no greater than its exponent. -/
def scaled (s : Bool) (m : Nat) (e lo : Int) : Int :=
  (if s then -1 else 1) * ((m * 2 ^ (e - lo).toNat : Nat) : Int)

def cmpF (a b : FVal) : FOrd :=
  match a, b with
  | .nan _, _ => .un
  | _, .nan _ => .un
  | .inf x, .inf y => if x = y then .eq else if x then .lt else .gt
  | .inf x, _ => if x then .lt else .gt
  | _, .inf y => if y then .gt else .lt
  | .fin sa ma ea, .fin sb mb eb =>
    let lo := if ea ≤ eb then ea else eb
    let x := scaled sa ma ea lo
    let y := scaled sb mb eb lo
    if x < y then .lt else if x = y then .eq else .gt

/-- A signalling NaN. -/
def FVal.snan : FVal → Bool
  | .nan x => x
  | _ => false

def FVal.isNaN : FVal → Bool
  | .nan _ => true
  | _ => false

def FVal.sign : FVal → Bool
  | .nan _ => false
  | .inf s => s
  | .fin s _ _ => s

/-- The class of a value, as the number of the bit FCLASS sets (R86). -/
def classF (f : FFmt) (a : FVal) : Nat :=
  match a with
  | .inf s => if s then 0 else 7
  | .nan x => if x then 8 else 9
  | .fin s m _ =>
    if m = 0 then (if s then 3 else 4)
    else if m < 2 ^ (f.prec - 1) then (if s then 2 else 5)
    else if s then 1 else 6

def f64 (w : W64) : FVal := unpack binary64 w.toNat
def f32 (w : W32) : FVal := unpack binary32 w.toNat
def ofF64 (r : Nat × FFlags) : W64 × FFlags := (BitVec.ofNat 64 r.1, r.2)
def ofF32 (r : Nat × FFlags) : W32 × FFlags := (BitVec.ofNat 32 r.1, r.2)

/-- A value is finite. -/
def FVal.finite : FVal → Bool
  | .fin _ _ _ => true
  | _ => false

/-- The canonical quiet NaN of binary32. -/
def nan32 : W32 := 0x7FC0_0000#32

/-! Binary32 arithmetic to nearest even, as the shells use it. -/

def add32 (a b : W32) : W32 := (ofF32 (addF binary32 0#2 (f32 a) (f32 b))).1
def sub32 (a b : W32) : W32 := (ofF32 (addF binary32 0#2 (f32 a) (negF (f32 b)))).1
def mul32 (a b : W32) : W32 := (ofF32 (mulF binary32 0#2 (f32 a) (f32 b))).1
def div32 (a b : W32) : W32 := (ofF32 (divF binary32 0#2 (f32 a) (f32 b))).1
def neg32 (a : W32) : W32 := a ^^^ 0x8000_0000#32
def abs32 (a : W32) : W32 := a &&& 0x7FFF_FFFF#32
def lt32 (a b : W32) : Bool := cmpF (f32 a) (f32 b) == .lt
def le32 (a b : W32) : Bool := cmpF (f32 a) (f32 b) == .lt || cmpF (f32 a) (f32 b) == .eq
def nat32 (n : Nat) : W32 := (ofF32 (ofIntF binary32 0#2 n)).1

end Sys2Proof.Machine
end

