-- ==== Sys2Proof/Machine/Timers.lean ====
section
/-! DEFINITION. Timer units (R341 to R361): counting, crossings, starts, comparator writes, captures and results. -/

namespace Sys2Proof.Machine

open Sys2Proof

/-! ### Channels -/

/-- The module with channel `c` changed. -/
def modChan (c : BitVec 8) (f : Chan → Chan) (m : Mach) : Mach := { m with chans := m.chans.upd c f }

/-- The mode and the variant as the terminals stand. -/
def Chan.mode (x : Chan) : BitVec 4 := fld x.term 0 4
def Chan.var (x : Chan) : BitVec 2 := fld x.term 4 2

/-- Output modes: AO-I, AO-V, DO, PWM-O, AO-I with HART. -/
def isOutMode (k : BitVec 4) : Bool :=
  decide (k = 4#4) || decide (k = 5#4) || decide (k = 7#4) || decide (k = 9#4) || decide (k = 11#4)

/-- Every channel. -/
def allChans : List (BitVec 8) := (range 0 256).map (BitVec.ofNat 8)

/-- RAMP of the live CH_SAFE, in channel clocks (R334). -/
def Chan.rampClk (x : Chan) : Nat := (fld x.cfg.safe 2 7).toNat * 102400

/-- The value of a ramp `t` clocks after its start: from `x.rampFrom` linearly to 0 (R334). DEDUCED: log entry 27. -/
def rampValue (x : Chan) (t : Nat) : W32 :=
  let n := x.rampLen
  if n ≤ t then 0#32
  else match f32 x.rampFrom with
    | .fin s m e => if m = 0 then 0#32
      else BitVec.ofNat 32 (roundPack binary32 0#2 s (m * (n - t) * 2 ^ 64 / n) (e - 64)
        (decide (m * (n - t) * 2 ^ 64 % n ≠ 0))).1
    | _ => 0#32

/-! ### Periods and duties -/

/-- The period of the waveform (R346). -/
def Timer.period_ (t : Timer) : Nat := if t.ud then 2 * t.top.toNat else t.top.toNat + 1

/-- floor(d × n + 0.5) and floor(d × n) for a value d that is not negative. -/
def scaleHalf (v : FVal) (n : Nat) : Nat :=
  match v with
  | .fin false m e => if 0 ≤ e then m * 2 ^ e.toNat * n else (2 * m * n + 2 ^ (-e).toNat) / 2 ^ ((-e).toNat + 1)
  | _ => 0
def scaleFloor (v : FVal) (n : Nat) : Nat :=
  match v with
  | .fin false m e => if 0 ≤ e then m * 2 ^ e.toNat * n else m * n / 2 ^ (-e).toNat
  | _ => 0

/-- A duty as a comparator value with the TOP in force (R349). -/
def dutyCmp (t : Timer) (d : W32) : W32 :=
  let v := f32 d
  if t.ud then
    if cmpF v (f32 0#32) == .eq then 0#32
    else if cmpF v (f32 0x3F80_0000#32) == .eq then t.top + 1#32
    else BitVec.ofNat 32 (scaleFloor v t.top.toNat + 1)
  else BitVec.ofNat 32 (scaleHalf v (t.top.toNat + 1))

/-! ### Comparator writes (R350, R351) -/

/-- A comparator write: in force from the next clock; MWARN unless the count is below both values, or at or above
both. DEDUCED: log entry 28. -/
def Timer.writeCmp (t : Timer) (v : W32) : Timer :=
  let c := t.count.toNat
  let safe := (c < t.cmp.toNat ∧ c < v.toNat) ∨ (t.cmp.toNat ≤ c ∧ v.toNat ≤ c)
  { t with cmp := v, mwarn := t.mwarn || !decide safe }

/-! ### Counting (R346 to R348) -/

/-- Timer events, in the order of EVT_EN: a period start, a crossing, a capture, a timeout (R357). -/
abbrev TEv := BitVec 4

/-- Clocks to the next one at which the count wraps, turns, reaches 0 or crosses the comparator. -/
def Timer.nextDist (t : Timer) : Nat :=
  let c := t.count.toNat
  let top := t.top.toNat
  let cmp := t.cmp.toNat
  if t.up then
    if top ≤ c then 1
    else
      let e := if t.ud then top - c else top - c + 1
      if c < cmp ∧ cmp ≤ top then min e (cmp - c) else e
  else if c = 0 then 1
  else if 1 ≤ cmp ∧ cmp ≤ c then min c (c - (cmp - 1)) else c

/-- One channel clock of the waveform count (R346), the crossings and period starts of R348, with `w` a value that the
shell writes at a period start during a ramp (R349). `out` says that the output of mode 9 follows. -/
def Timer.clock (out : Bool) (w : Option W32) (t : Timer) : Timer × TEv :=
  let c := t.count
  let top : BitVec 48 := t.top.setWidth 48
  let (c', up', step) :=
    if !t.ud then (if top ≤ c then (0#48, true, false) else (c + 1#48, true, true))
    else if t.up then (if top ≤ c then (c - 1#48, false, false) else (c + 1#48, true, true))
    else if c = 0#48 then (1#48, true, true) else (c - 1#48, false, false)
  let cmp : BitVec 48 := t.cmp.setWidth 48
  let upX := step && decide (c' = cmp)
  let downX := !up' && decide (c' + 1#48 = cmp)
  let start := decide (c' = 0#48)
  let cmp' := if start then w.getD t.cmp else t.cmp
  let level := if start then decide (0 < cmp'.toNat) else if upX then false else if downX then true else t.level
  ({ t with count := c', up := up', cmp := cmp', level := if out then level else t.level },
    at_ start 0 ||| at_ (upX || downX) 1)

/-- `k` clocks without an event. -/
def Timer.glide (k : Nat) (t : Timer) : Timer :=
  { t with count := if t.up then t.count + BitVec.ofNat 48 k else t.count - BitVec.ofNat 48 k }

/-- `n` clocks of the waveform from clock `now` on, from event to event. `w` gives what a ramp writes at a clock. -/
def waveRun (out : Bool) (w : Nat → Option W32) : Nat → Nat → Nat → Timer × TEv → Timer × TEv
  | 0, _, _, x => x
  | fuel + 1, now, n, x =>
    if n = 0 then x
    else
      let d := x.1.nextDist
      if n < d then (x.1.glide n, x.2)
      else
        let r := (x.1.glide (d - 1)).clock out (w (now + d))
        waveRun out w fuel (now + d) (n - d) (r.1, x.2 ||| r.2)

/-- The timeout of the period use (R356): more than TOP clocks since the latest rising edge or the start. -/
def Timer.late (t : Timer) (now : Nat) : Bool :=
  decide (t.use = 4#3) && t.run && decide (t.top.toNat < now - t.latest.getD t.since)

/-- `n` clocks in which a frozen timer does not count (R481): they do not pass for what it measures. -/
def Timer.rest (n : Nat) (t : Timer) : Timer :=
  { t with latest := t.latest.map (· + n), since := t.since + n, first := t.first + n, last := t.last + n }

/-- A timer from clock `a` to clock `b`. DEDUCED: log entry 28. -/
def Timer.advance (out : Bool) (w : Nat → Option W32) (a b : Nat) (t : Timer) : Timer × TEv :=
  if !t.run then (t, 0#4)
  else if t.stopped then (t.rest (b - a), 0#4)
  else
    match t.use.toNat with
    | 1 => waveRun out w (b - a + 1) a (b - a) (t, 0#4)
    | 3 => ({ t with count := t.count + BitVec.ofNat 48 (b - a) }, 0#4)
    | 4 =>
      let t' := { t with count := t.count + BitVec.ofNat 48 (b - a) }
      if !t.timedOut && t'.late b then ({ t' with timedOut := true, period := 0#48 }, 8#4) else (t', 0#4)
    | _ => (t, 0#4)

/-- Enabled timer events become pending for the channel's latched owner (R357). -/
def timerEvents (c : BitVec 8) (ev : TEv) (m : Mach) : Mach :=
  if ev &&& (m.chans.get c).timer.evtEn = 0#4 then m else pend (m.owner.get c) 2 m

/-- What a ramp of a channel in mode 9 writes to its comparator at a clock (R349). -/
def Chan.rampCmp (x : Chan) (t : Nat) : Option W32 :=
  if x.ramping && decide (x.mode = 9#4) then some (dutyCmp x.timer (rampValue x (t - x.rampAt))) else none

/-- A channel's timer and ramp from clock `a` to clock `b`; a ramp changes the command all the while. -/
def advanceChan (a b : Nat) (c : BitVec 8) (m : Mach) : Mach :=
  let x := m.chans.get c
  let mode9 := decide (x.mode = 9#4)
  if !x.ramping && !x.timer.run then m
  else
    let r := x.timer.advance mode9 x.rampCmp a b
    timerEvents c r.2 (modChan c (fun x => { x with
      timer := r.1
      drive := if x.ramping then rampValue x (b - x.rampAt) else x.drive
      cmdAt := if x.ramping then b else x.cmdAt }) m)

/-! ### Starts and edges (R344, R345, R352, R355) -/

/-- Modes in which timers run (R345). -/
def timersRun (k : Mode) : Bool := decide (k = .commission) || decide (k = .operate) || decide (k = .hardpan)

/-- A start: the waveform at its position, the other uses from 0; the capture is gone (R352, R355). `w` is what a ramp writes,
for a start begins a period (R346, R349). -/
def Timer.start (out : Bool) (w : Option W32) (now : Nat) (t : Timer) : Timer × TEv :=
  let n := t.nm1.toNat + 1
  let p := t.k.toNat * t.period_ / n
  let top := t.top.toNat
  let t := { t with
    run := true, cap := 0#48, capPresent := false, edges := 0, first := 0, last := 0, latest := none, since := now
    period := 0#48, ended := false, timedOut := false, count := 0#48, up := true }
  if t.use = 1#3 then
    let t := { t with cmp := w.getD t.cmp }
    let t := if t.ud && decide (top < p) then { t with count := BitVec.ofNat 48 (2 * top - p), up := false }
      else { t with count := BitVec.ofNat 48 p }
    ({ t with level := if out then decide (t.count.toNat < t.cmp.toNat) else t.level }, 1#4)
  else (t, 0#4)

/-- The capture of an edge (R342). DEDUCED: log entry 28. -/
def Timer.capture (t : Timer) : Timer :=
  let v : BitVec 48 := match t.use.toNat with
    | 1 | 2 => t.count
    | 3 => BitVec.ofNat 48 t.edges
    | _ => t.period
  { t with cap := v, capPresent := true }

/-- The VALUE and NEW of mode 8 for the tick that has ended (R356); frequency and period in binary64, rounded once more
to binary32. DEDUCED: log entry 28. -/
def Timer.result (t : Timer) : W32 × Bool :=
  let to32 (w : Nat) : W32 := BitVec.ofNat 32 (convF binary32 0#2 (unpack binary64 w)).1
  match t.use.toNat with
  | 2 => (nat32 t.edges, true)
  | 3 =>
    if t.edges < 2 then (0#32, true)
    else
      let num := (ofIntF binary64 0#2 (((t.edges - 1) * 102400000 : Nat) : Int)).1
      let den := (ofIntF binary64 0#2 ((t.last - t.first : Nat) : Int)).1
      (to32 (divF binary64 0#2 (unpack binary64 num) (unpack binary64 den)).1, true)
  | 4 =>
    if t.timedOut then (0#32, true)
    else
      let num := (ofIntF binary64 0#2 (t.period.toNat : Int)).1
      let den := (ofIntF binary64 0#2 102400000).1
      (to32 (divF binary64 0#2 (unpack binary64 num) (unpack binary64 den)).1, t.ended)
  | _ => (0#32, false)

/-- A written TIM_CTL set is refused (R343). -/
def timRefused (mode : BitVec 4) (w : BitVec 9) : Bool :=
  let use : BitVec 3 := fld w 0 3
  let permitted := decide (use = 0#3) || (decide (use = 1#3) && decide (mode ≠ 8#4))
    || (decide (2 ≤ use.toNat ∧ use.toNat ≤ 4) && decide (mode = 8#4))
  decide (5 ≤ use.toNat) || !permitted || (bit w 3 && decide (use ≠ 1#3))

/-- The actions of an edge after the capture (R344, R345): the pending write, and a start where one is due. A frozen timer
starts where a change asks for it, and stands there (R481). While RUN = 0 the driver is off (R348). `w` is what a ramp writes.
DEDUCED: log entry 28. -/
def Timer.edge (mode : BitVec 4) (runs : Bool) (w : Option W32) (now : Nat) (t : Timer) : Timer × TEv :=
  let old := t
  let t := match t.next with
    | none => t
    | some w =>
      if timRefused mode w then { t with next := none, werr := true }
      else { t with next := none, use := fld w 0 3, ud := bit w 3, tsync := bit w 4, evtEn := fld w 5 4 }
  if t.use = 0#3 then ({ t with run := false, level := false }, 0#4)
  else if !runs then (t, 0#4)
  else if t.use ≠ old.use || t.ud != old.ud || t.tsync != old.tsync || !t.run
      || (decide (t.use = 1#3) && t.tsync && !t.stopped) then
    t.start (decide (mode = 9#4) && !t.stopped) w now
  else (t, 0#4)

/-- The timer of a channel stops as the channel reaches OFF, its capture taken: USE := 0 (R344, R345). A write that is pending
is applied after that. DEDUCED: log entry 28. -/
def Timer.off (t : Timer) : Timer := { t with run := false, use := 0#3, level := false }

/-- The timer holds at the entry to SLEEP (R345). -/
def Timer.hold (t : Timer) : Timer := { t with run := false, level := false }

/-- A new tick begins for the counts of the input uses. -/
def Timer.newTick (t : Timer) : Timer := { t with edges := 0, ended := false }

/-! ### Registers (R343, R347, R350, R352, R354, R358 to R361) -/

def Timer.ctlWord (t : Timer) : W32 :=
  put 32 t.use 0 ||| at_ t.ud 3 ||| at_ t.tsync 4 ||| put 32 t.evtEn 5 ||| at_ t.run 9 ||| at_ t.capd 10
    ||| at_ t.werr 11 ||| at_ t.mwarn 12 ||| put 32 t.capHi 16

/-- A write to TIM_CTL: fields for the next edge, W1C bits at once (R343). -/
def Timer.writeCtl (t : Timer) (v : W32) : Timer :=
  { t with next := some (fld v 0 9), werr := t.werr && !bit v 11, mwarn := t.mwarn && !bit v 12 }

/-- A write to TIM_TOP: 0 and 1 are ignored (R347). -/
def Timer.writeTop (t : Timer) (v : W32) : Timer :=
  if v.toNat < 2 then { t with werr := true } else { t with top := v }

/-- A firmware write to TIM_CMP: ignored in mode 9 (R349, R350). -/
def Timer.writeCmpReg (mode : BitVec 4) (t : Timer) (v : W32) : Timer :=
  if mode = 9#4 then { t with werr := true } else t.writeCmp v

/-- A write to TIM_PHASE: K ≥ N is ignored (R352). -/
def Timer.writePhase (t : Timer) (v : W32) : Timer :=
  let k : BitVec 8 := fld v 0 8
  let n : BitVec 8 := fld v 8 8
  if n.toNat < k.toNat then { t with werr := true } else { t with k := k, nm1 := n }

/-- What a read of TIM_PHASE returns (R354, R355). -/
def Timer.capWord (t : Timer) : W32 := fld t.cap 0 32

/-- The effect of a read of TIM_PHASE. -/
def Timer.readPhase (t : Timer) : Timer := { t with capHi := fld t.cap 32 16, capd := t.capPresent }

end Sys2Proof.Machine
end

