-- ==== Sys2Proof/Machine/Shell.lean ====
section
/-! DEFINITION. The channel shell: the staged set and its coherence (R327 to R329), commits, ramps and OFF (R275, R328 to
R335), and the output command records (R21, R323 to R326). -/

namespace Sys2Proof.Machine

open Sys2Proof

/-! ### Binary64 as the shell uses it (R301) -/

def wide (w : W32) : W64 := (ofF64 (convF binary64 0#2 (f32 w))).1
def narrow (w : W64) : W32 := (ofF32 (convF binary32 0#2 (f64 w))).1
def add64 (a b : W64) : W64 := (ofF64 (addF binary64 0#2 (f64 a) (f64 b))).1
def sub64 (a b : W64) : W64 := (ofF64 (addF binary64 0#2 (f64 a) (negF (f64 b)))).1
def mul64 (a b : W64) : W64 := (ofF64 (mulF binary64 0#2 (f64 a) (f64 b))).1
def div64 (a b : W64) : W64 := (ofF64 (divF binary64 0#2 (f64 a) (f64 b))).1
def abs64 (a : W64) : W64 := a &&& 0x7FFF_FFFF_FFFF_FFFF#64
def nat64 (n : Nat) : W64 := (ofF64 (ofIntF binary64 0#2 n)).1
def lt64 (a b : W64) : Bool := cmpF (f64 a) (f64 b) == .lt
def le64 (a b : W64) : Bool := lt64 a b || cmpF (f64 a) (f64 b) == .eq
def fin32 (w : W32) : Bool := (f32 w).finite

/-- 1.0 of binary32. -/
def one32 : W32 := 0x3F80_0000#32

/-! ### Places in memory (R315 to R317) -/

def recAddr (c : BitVec 8) (o : Nat) : Addr := 0x40F8_0000#36 + put 36 c 7 + BitVec.ofNat 36 o
def parAddr (c : BitVec 8) (o : Nat) : Addr := 0x40FC_0000#36 + put 36 c 10 + BitVec.ofNat 36 o

def par (m : Mach) (c : BitVec 8) (o : Nat) : W32 := hwRead32 (parAddr c o) m

/-- The FIR set `s`: TAPS and its coefficients. -/
def firSet (m : Mach) (s : BitVec 4) : Byte × List W32 :=
  let a : Addr := 0x40F9_0000#36 + put 36 s 9
  (hwRead8 a m, (range 0 64).map fun i => hwRead32 (a + BitVec.ofNat 36 (0x10 + 4 * i)) m)

/-- The linearisation table `t`. -/
def linTab (m : Mach) (t : BitVec 4) : List (W32 × W32) :=
  let a : Addr := 0x40F9_2000#36 + put 36 t 9
  (range 0 33).map fun i =>
    (hwRead32 (a + BitVec.ofNat 36 (8 * i)) m, hwRead32 (a + BitVec.ofNat 36 (8 * i + 4)) m)

/-! ### Fields of CH_PROC, CH_LIM and CH_SAFE (R337 to R339) -/

def ChanCfg.cicN (g : ChanCfg) : Nat := (fld g.proc 0 2 : BitVec 2).toNat + 3
def ChanCfg.cicR (g : ChanCfg) : Nat := (fld g.proc 2 13 : BitVec 13).toNat
def ChanCfg.bypass (g : ChanCfg) : Bool := bit g.proc 24
def ChanCfg.dec (g : ChanCfg) : Nat := if g.bypass then 1 else (fld g.proc 19 5 : BitVec 5).toNat + 1
def ChanCfg.tapN (g : ChanCfg) : Nat := if g.bypass then 1 else (fld g.taps 0 7 : BitVec 7).toNat
def ChanCfg.ratio (g : ChanCfg) : Nat := g.cicR * g.dec
def ChanCfg.linEn (g : ChanCfg) : Bool := bit g.proc 29
def ChanCfg.stats (g : ChanCfg) : Bool := bit g.proc 30
def ChanCfg.strm (g : ChanCfg) : Bool := bit g.proc 31
def ChanCfg.divCnt (g : ChanCfg) : Nat := (fld g.lim 6 4 : BitVec 4).toNat
def ChanCfg.act (g : ChanCfg) : BitVec 2 := fld g.safe 0 2
def ChanCfg.inSub (g : ChanCfg) : BitVec 2 := fld g.safe 9 2
/-- DEDUCED: log entry 31. -/
def ChanCfg.ring (g : ChanCfg) : Addr := fld g.ringBase 0 36
def ChanCfg.ringLen (g : ChanCfg) : Nat := 2 ^ (fld g.ringLog 0 5 : BitVec 5).toNat
def ChanCfg.chMode (g : ChanCfg) : BitVec 4 := fld g.mode 0 4
def ChanCfg.coefs (g : ChanCfg) : List W32 := g.coef.take g.tapN

/-- The order in which an FIR of `n` taps adds its products: each tap once, in an order that the spec leaves open.
DESIGN CHOICE: log entry 26. -/
def tapOrder (n : Nat) : List Nat :=
  let l := Config.firOrder n
  if l.isPerm (range 0 n) then l else range 0 n

/-- The sum of a set's coefficients, in the order in which the FIR adds (R301). -/
def ChanCfg.coefSum (g : ChanCfg) : W64 :=
  (tapOrder g.tapN).foldl (fun acc i => add64 acc (wide (g.coefs.getD i 0#32))) 0#64

/-- The granules of the parameters that the shell takes at a commit, and of a FIR set and a table. -/
def parGranules (c : BitVec 8) : List Nat := range (granOf (parAddr c 0)) 5
def setGranules (p : W32) : List Nat :=
  range (granOf (0x40F9_0000#36 + put 36 (fld p 15 4 : BitVec 4) 9)) 17
    ++ range (granOf (0x40F9_2000#36 + put 36 (fld p 25 4 : BitVec 4) 9)) 17

/-- The staged set of a channel (R327). -/
def stagedCfg (m : Mach) (c : BitVec 8) (x : Chan) : ChanCfg :=
  let f := firSet m (fld x.stProc 15 4)
  { mode := x.stMode, proc := x.stProc, lim := x.stLim, safe := x.stSafe
    mainGain := par m c 0x00, mainOff := par m c 0x04, shadGain := par m c 0x08, shadOff := par m c 0x0C
    hh := par m c 0x20, h := par m c 0x24, l := par m c 0x28, ll := par m c 0x2C
    hyst := par m c 0x30, roc := par m c 0x34, div := par m c 0x38, safeVal := par m c 0x3C
    ringBase := par m c 0x44 ++ par m c 0x40, ringLog := par m c 0x48
    taps := f.1, coef := f.2, lin := linTab m (fld x.stProc 25 4) }

/-! ### Coherence (R272, R273, R329) -/

/-- CH_MODE is valid (R272, R273). -/
def modeValid (w : W32) : Bool :=
  let k : BitVec 4 := fld w 0 4
  let v := (fld w 4 2 : BitVec 2).toNat
  let varOk := match k.toNat with
    | 2 | 10 => decide (v ≤ 1)
    | 3 | 8 => true
    | 6 => decide (v ≤ 2)
    | _ => decide (v = 0)
  decide (k.toNat ≤ 11) && varOk && (!bit w 6 || decide (k = 9#4)) && (!bit w 7 || decide (k = 7#4))
    && (!bit w 8 || decide (k = 2#4) || decide (k = 10#4)) && decide (fld w 9 23 = 0#23)

/-- x strictly increasing and every point finite. -/
def linOk : List (W32 × W32) → Bool
  | [] => true
  | [(x, y)] => fin32 x && fin32 y
  | (x, y) :: (x', y') :: r => fin32 x && fin32 y && lt32 x x' && linOk ((x', y') :: r)

/-- The enabled limits keep HH ≥ H > L ≥ LL. -/
def limitsOk (g : ChanCfg) : Bool :=
  let e (i : Nat) := bit g.lim i
  let ge (i j : Nat) (a b : W32) := !(e i && e j) || le32 b a
  let gt (i j : Nat) (a b : W32) := !(e i && e j) || lt32 b a
  (!e 0 || fin32 g.hh) && (!e 1 || fin32 g.h) && (!e 2 || fin32 g.l) && (!e 3 || fin32 g.ll)
    && ge 0 1 g.hh g.h && gt 0 2 g.hh g.l && gt 0 3 g.hh g.ll && gt 1 2 g.h g.l && gt 1 3 g.h g.ll && ge 2 3 g.l g.ll

/-- A value finite and above 0. -/
def positive (w : W32) : Bool := fin32 w && lt32 0#32 w

/-- SAFE_VAL lies in the VALUE range of an output mode (R277, R323). -/
def safeValOk (k : BitVec 4) (v : W32) : Bool :=
  let within (lo hi : W32) := fin32 v && le32 lo v && le32 v hi
  match k.toNat with
  | 4 | 11 => within 0#32 0x41C0_0000#32
  | 5 => within 0xC123_D70A#32 0x4123_D70A#32
  | 7 => cmpF (f32 v) (f32 0#32) == .eq || cmpF (f32 v) (f32 one32) == .eq
  | 9 => within 0#32 one32
  | _ => true

/-- The streaming ring lies wholly in shared SRAM or in DRAM. -/
def ringOk (g : ChanCfg) : Bool :=
  let n := (fld g.ringLog 0 5 : BitVec 5).toNat
  let lo := g.ring.toNat
  let hi := lo + 8 * 2 ^ n
  decide (lo % 16 = 0) && decide (4 ≤ n ∧ n ≤ 16)
    && (decide (0x4000_0000 ≤ lo ∧ hi ≤ 0x4100_0000) || decide (0x8_0000_0000 ≤ lo ∧ hi ≤ 0x10_0000_0000))

/-- Whether a check of R329 fails. -/
def checkFails (g : ChanCfg) : Nat → Bool
  | 1 => !modeValid g.mode
  | 2 => decide (fld g.lim 10 22 ≠ 0#22) || decide (fld g.safe 11 21 ≠ 0#21)
  | 3 => decide (fld g.proc 0 2 = 3#2) || decide (g.cicR < 16 ∨ 4096 < g.cicR)
  | 4 => !g.bypass && (decide (g.tapN < 1 ∨ 64 < g.tapN) || !(g.coefs.all fin32)
      || cmpF (f64 g.coefSum) (f64 0#64) == .eq)
  | 5 => decide (102400 < g.ratio ∨ g.ratio < 128)
  | 6 => (decide (g.chMode = 10#4) || decide (g.chMode = 11#4)) && decide (g.ratio < 10240)
  | 7 => g.linEn && !linOk g.lin
  | 8 => !limitsOk g
  | 9 => !fin32 g.hyst || lt32 g.hyst 0#32
      || (bit g.lim 1 && bit g.lim 2 && le64 (sub64 (wide g.h) (wide g.l)) (wide g.hyst))
  | 10 => bit g.lim 4 && !positive g.roc
  | 11 => bit g.lim 5 && (!positive g.div || decide (g.divCnt = 0))
  | 12 => decide (g.act = 3#2) || decide (g.inSub = 3#2)
      || decide (fld g.safe 2 7 = 0#7) || decide (100 < (fld g.safe 2 7 : BitVec 7).toNat)
  | 13 => decide (g.act = 2#2) && isOutMode g.chMode && !safeValOk g.chMode g.safeVal
  | 14 => g.strm && !ringOk g
  | 15 => !(fin32 g.mainGain && fin32 g.mainOff && fin32 g.shadGain && fin32 g.shadOff)
      || cmpF (f32 g.mainGain) (f32 0#32) == .eq || cmpF (f32 g.shadGain) (f32 0#32) == .eq
  | _ => false

/-- The first failing check from number `lo` on; 0 if none fails. -/
def firstFail (g : ChanCfg) (lo : Nat) : BitVec 5 :=
  match (range lo (16 - lo)).find? (checkFails g) with
  | some k => BitVec.ofNat 5 k
  | none => 0#5

/-! ### The setting of an output (R21, R40, R277, R326, R349, R450) -/

/-- A command as the driver takes it (R277). DEDUCED: log entry 27. -/
def clampOut (k : BitVec 4) (v : W32) : W32 :=
  match k.toNat with
  | 4 | 11 => if lt32 0x41C4_0000#32 v then 0x41C4_0000#32 else if lt32 v 0#32 then 0#32 else v
  | 5 => if lt32 0x4128_0000#32 v then 0x4128_0000#32 else if lt32 v 0xC128_0000#32 then 0xC128_0000#32 else v
  | _ => v

/-- The value of the CH_SAFE action: the value last applied, zero, or SAFE_VAL (R326, R339, R450). -/
def safeValue (x : Chan) : W32 :=
  match x.cfg.act.toNat with
  | 0 => x.last.getD 0#32
  | 2 => clampOut x.mode x.cfg.safeVal
  | _ => 0#32

/-- A value that an output stands on at, and one at which it is off: zero of either sign (R286, R324). -/
def isOn (v : W32) : Bool := !(cmpF (f32 v) (f32 0#32) == .eq)

/-- The output's setting; off ends the retries of R286. -/
def putDrive (v : W32) (x : Chan) : Chan :=
  { x with drive := v, shortOff := if isOn v then x.shortOff else none }

/-- The output set to a value; in mode 9 the comparator is written (R349). -/
def setOut (v : W32) (x : Chan) : Chan :=
  let x := putDrive v x
  if x.mode = 9#4 then { x with timer := x.timer.writeCmp (dutyCmp x.timer v) } else x

/-- The output at zero: a PWM output is switched off with CMP := 0 (R349, R450). -/
def outZero (x : Chan) : Chan :=
  let x := putDrive 0#32 x
  if x.mode = 9#4 then { x with timer := { x.timer.writeCmp 0#32 with level := false } } else x

/-- The channel at its CH_SAFE action (R326, R349, R450): hold leaves CMP, and is zero before a value has been applied. -/
def toSafe (x : Chan) : Chan :=
  let x := { x with atSafe := true }
  match x.cfg.act.toNat with
  | 0 => if x.last.isNone then outZero x else putDrive (safeValue x) x
  | 2 => if x.drive = safeValue x then x else setOut (safeValue x) x
  | _ => outZero x

/-- Zero, where the safe action itself is incoherent (R333). -/
def toZero (x : Chan) : Chan := outZero { x with atSafe := true }

/-- A change of the command at `now`, the moment that R310 counts from. -/
def commanded (now : Nat) (f : Chan → Chan) (x : Chan) : Chan :=
  let y := f x
  if y.drive = x.drive then y else { y with cmdAt := now }

/-! ### Starting and stopping a channel (R52, R275, R304 to R306, R330, R334) -/

/-- Output samples that settle after a start (R304). -/
def ChanCfg.settleN (g : ChanCfg) : Nat :=
  let l := g.cicN * (g.cicR - 1) + g.cicR * (g.tapN - 1) + 1
  (l + g.ratio - 1) / g.ratio

/-- A path with its filter memories cleared, settling (R304, R330). -/
def Path.clear (g : ChanCfg) (p : Path) : Path :=
  { p with integ := List.replicate g.cicN 0#80, comb := List.replicate g.cicN 0#80, line := [], settle := g.settleN }

/-- Both paths restart. -/
def restart (x : Chan) : Chan := { x with main := x.main.clear x.cfg, shadow := x.shadow.clear x.cfg }

/-- A HART channel begins its identity sequence (R294). -/
def Hart.begin (now : Nat) (k : BitVec 4) (h : Hart) : Hart :=
  if k = 10#4 ∨ k = 11#4 then
    { h with state := 0#3, tries := 0#2, idValid := false, idRun := true, idTries := 0, idWait := false, idNext := now,
             quiet := 0 }
  else { h with idValid := false, idRun := false, idWait := false }

/-- The channel leaves OFF in its live mode: factory values, no history, calibration of the shadow path at once and of
the main path 4 ms later, the output at its CH_SAFE action (R52, R304 to R306, R318, R326). -/
def enterMode (now : Nat) (x : Chan) : Chan :=
  let g := x.cfg
  let fact (p : Path) (gain off : W32) : Path := { p with gain := wide gain, offset := wide off, cal := 0#2, sense := false }
  let x := { x with
    term := g.mode, termAt := none
    main := fact x.main g.mainGain g.mainOff, shadow := fact x.shadow g.shadGain g.shadOff
    calOn := none, altBack := false, above := 0#2, calPoint := 0, calNextShadow := now, calNextMain := now + 409600
    value := 0#32, aux := nan32, status := 2#16, seq := 0#16, samples := 0#16, isNew := false, rocTick := false
    prev := none, limPlain := true, lastDi := 0#32, divRun := 0, divSame := 0, devRun := 0, devSame := 0
    stMin := 0#64, stMax := 0#64, stSum := 0#64, stCount := 0
    openCnt := 0, openSet := false, shortCnt := 0, shortSet := false, shortOff := none
    last := none, outRec := .none, cmdAt := now
    hart := x.hart.begin now (fld g.mode 0 4) }
  let x := restart x
  if isOutMode x.mode then toSafe x else x

/-- The mailbox status word (R292). -/
def Hart.word (h : Hart) : W32 := put 32 h.state 0 ||| put 32 h.tries 4 ||| put 32 h.rxLen 8 ||| put 32 h.discard 16

/-- HSTAT and DEVID written by the module (R292). -/
def putHstat (c : BitVec 8) (m : Mach) : Mach := hwWrite32 (parAddr c 0x204) (m.chans.get c).hart.word m

/-- DEVID and ID_VALID written by the module. -/
def putDevid (c : BitVec 8) (id : BitVec 40) (valid : Bool) (m : Mach) : Mach :=
  writeGran Acc.other (granOf (parAddr c 0x208)) (put 128 id 64 ||| at_ valid 120) 0xFF00#16 false m

/-- The end of a transaction: HSTAT, and the channel event in every case (R293, R336). -/
def endHart (c : BitVec 8) (st : BitVec 3) (m : Mach) : Mach :=
  pend (m.owner.get c) 1 (putHstat c (modChan c (fun x => { x with hart := { x.hart with state := st } }) m))

/-- A running transaction is aborted (R296). -/
def abortHart (c : BitVec 8) (m : Mach) : Mach :=
  let h := (m.chans.get c).hart
  if h.state = 1#3 ∨ h.state = 2#3 ∨ h.state = 3#3 then endHart c 7#3 m else m

/-- A channel reaches OFF at an edge (R271, R334, R345): passive, its timer stopped; a held commit and a
second part of R275 follow one tick later. -/
def reachOff (c : BitVec 8) (m : Mach) : Mach :=
  let m := abortHart c m
  modChan c (fun x =>
    { x with
      term := 0#32, ramping := false, rampDue := false, drive := 0#32, atSafe := true, last := none, outRec := .none
      shortOff := none, calOn := none, altBack := false, timer := x.timer.off
      hart := { x.hart with idRun := false, idWait := false }
      evtNow := x.evtNow ||| 0x20#8
      holdAt := if x.held then some (m.tick.count + 1#64) else none
      termAt := if x.cfg.chMode = 0#4 then none else some (m.tick.count + 1#64) }) m

/-- The new mode of a channel that is OFF takes effect (R275): DEVID is cleared for a HART mode (R294). -/
def takeMode (c : BitVec 8) (m : Mach) : Mach :=
  let m := modChan c (enterMode m.clk) m
  let k := (m.chans.get c).mode
  if k = 10#4 ∨ k = 11#4 then putHstat c (putDevid c 0#40 false m) else m

/-! ### Commits (R328 to R331, R335) -/

/-- Parameters whose change makes R312 take the plain set points (R312, R330). -/
def limitsDiffer (a b : ChanCfg) : Bool :=
  decide (fld a.lim 0 5 ≠ (fld b.lim 0 5 : BitVec 5)) || decide (a.roc ≠ b.roc)
    || decide (fld a.proc 25 5 ≠ (fld b.proc 25 5 : BitVec 5)) || (b.linEn && a.lin != b.lin) || decide (a.hh ≠ b.hh) || decide (a.h ≠ b.h) || decide (a.l ≠ b.l)
    || decide (a.ll ≠ b.ll) || decide (a.hyst ≠ b.hyst)

/-- A change that clears the filters (R330). -/
def filterDiffers (a b : ChanCfg) : Bool :=
  decide (fld a.proc 0 25 ≠ (fld b.proc 0 25 : BitVec 25)) || (!b.bypass && (a.coefs != b.coefs || a.tapN != b.tapN))

/-- The factory values in use on a path follow CAL_FACT; a run-time result stands (R305, R317). -/
def Path.factory (gain off : W32) (p : Path) : Path :=
  if p.cal = 1#2 then p else { p with gain := wide gain, offset := wide off }

/-- A live configuration replaced (R305, R330, R332). -/
def takeCfg (g : ChanCfg) (x : Chan) : Chan :=
  let o := x.cfg
  let anew := decide (o.div ≠ g.div) || decide (o.divCnt ≠ g.divCnt)
  let n (k : Nat) := if anew then 0 else k
  let x := { x with
    cfg := g, limPlain := x.limPlain || limitsDiffer o g, ringStop := false
    main := x.main.factory g.mainGain g.mainOff, shadow := x.shadow.factory g.shadGain g.shadOff
    divRun := n x.divRun, divSame := n x.divSame, devRun := n x.devRun, devSame := n x.devSame }
  if x.mode ≠ 0#4 && filterDiffers o g then restart x else x

/-- Which modes accept a commit (R328). -/
def commitMode (k : Mode) : Bool := decide (k = .commission) || decide (k = .operate)

/-- A commit result (R328, R340). -/
def commitResult (r : BitVec 2) (k : BitVec 5) (x : Chan) : Chan :=
  { x with cres := r, cfail := if r = 3#2 then x.cfail else k, cpend := false, held := false, holdAt := none
           reenPend := false, evtNow := x.evtNow ||| 0x10#8 }

/-- The live mode of a channel takes effect one tick after OFF, where no held commit takes its place (R275). -/
def termEdge (c : BitVec 8) (m : Mach) : Mach :=
  if (m.chans.get c).termAt = some m.tick.count then takeMode c m else m

/-- The pending commit of a channel at an edge, in the mode in force after it (R328, R330, R334). DEDUCED: log entry 27. -/
def applyCommit (c : BitVec 8) (m : Mach) : Mach :=
  let x := m.chans.get c
  let due := x.cpend && !x.ramping && (!x.held || x.holdAt == some m.tick.count)
  if !due then m
  else if !commitMode m.mode.mode then termEdge c (modChan c (commitResult 3#2 0#5) m)
  else
    let g := stagedCfg m c x
    let k := firstFail g 1
    let m := hwTouch (parGranules c ++ setGranules x.stProc) m
    if k ≠ 0#5 then termEdge c (modChan c (commitResult 2#2 k) m)
    else
      let m := modChan c (fun x => commitResult 1#2 0#5 (takeCfg g x)) m
      let old := x.term
      if x.mode = 0#4 then (if g.chMode = 0#4 then modChan c (fun x => { x with termAt := none }) m else takeMode c m)
      else if fld old 0 6 = (fld g.mode 0 6 : BitVec 6) then modChan c (fun x => { x with term := g.mode }) m
      else
        let m := if x.mode = 10#4 ∨ x.mode = 11#4 then abortHart c m else m
        if isOutMode x.mode then modChan c (fun x => { x with rampDue := true, shortOff := none }) m
        else reachOff c m

/-- A channel at an edge, before commits: a ramp that has ended reaches OFF, and a mode waiting behind an OFF takes
effect (R275, R334). -/
def rampEdge (c : BitVec 8) (m : Mach) : Mach :=
  let x := m.chans.get c
  if x.ramping && decide (x.rampAt + x.rampLen ≤ m.clk) then reachOff c m
  else if x.held && x.holdAt == some m.tick.count then m
  else termEdge c m

/-! ### Records (R320, R324) -/

/-- The 22 bytes of a record's CRC: the first 12, the channel, the tick (R320). -/
def recBytes (d : Gran) (n : Nat) (c : BitVec 8) (tick : BitVec 64) : List Byte :=
  bytesOf d 0 n ++ [c, 0#8] ++ bytesOf tick 0 8

def recCrc (d : Gran) (c : BitVec 8) (tick : BitVec 64) : W32 := crc32c (recBytes d 12 c tick)

/-- The VALUE of an output command record is acceptable to a mode (R324). -/
def valueOk (k : BitVec 4) (v : W32) : Bool :=
  fin32 v && (match k.toNat with
    | 7 => cmpF (f32 v) (f32 0#32) == .eq || cmpF (f32 v) (f32 one32) == .eq
    | 9 => le32 0#32 v && le32 v one32
    | _ => true)

/-- The first failing check of an output command record, in the order of R324; 0 if it passes. -/
def recFails (k : BitVec 4) (c : BitVec 8) (tick : BitVec 64) (d : Gran) : BitVec 3 :=
  if fld d 96 32 ≠ recCrc d c tick then 1#3
  else if fld d 32 16 ≠ (put 16 c 0 : BitVec 16) then 2#3
  else if fld d 64 32 ≠ (fld tick 0 32 : BitVec 32) then 3#3
  else if fld d 48 16 ≠ 0#16 then 4#3
  else if !valueOk k (fld d 0 32) then 5#3
  else 0#3

/-- The marked buffer of tick n collected and checked at C (R324). Records of input modes are ignored.
DEDUCED: log entry 27. -/
def collect (c : BitVec 8) (m : Mach) : Mach :=
  let x := m.chans.get c
  let b := bit m.tick.count 0
  let mk := m.marks.get c
  if (if b then mk.2 else mk.1).isNone || !isOutMode x.mode then m
  else
    let a := granOf (recAddr c (if b then 0x50 else 0x40))
    let d := hwData a m
    let m := hwTouch [a] m
    let k := recFails x.mode c m.tick.count d
    modChan c (fun x => { x with outRec := if k = 0#3 then .passed (fld d 0 32) else .failed k }) m

/-! ### The apply (R21, R46, R325, R330, R333 to R335) -/

/-- The CH layout of ARG (R434). -/
def argCH (c : BitVec 8) : W64 := put 64 c 0 ||| put 64 (fld c 6 2 : BitVec 2) 8 ||| put 64 (fld c 3 5 : BitVec 5) 10

/-- Whether the mode in force lets a channel apply its record (R40, R46). -/
def mayApply (m : Mach) (x : Chan) : Bool :=
  match m.mode.mode with
  | .commission => x.comEn
  | .operate => m.mode.outRelAtC
  | _ => false

/-- A record that failed its check is reported (R325). -/
def reportRecord (c : BitVec 8) (k : BitVec 3) (m : Mach) : Mach :=
  report 0x0505 (argCH c ||| put 64 k 16)
    (modChan c (fun x => { x with outfail := true, evtNow := x.evtNow ||| 0x80#8 }) m)

/-- The setting that the apply moment brings to an output that neither ramps nor is frozen: its record, its CH_SAFE action, or
the setting it has (R21, R46, R325, R333). -/
def applied (may : Bool) (r : OutRec) (x : Chan) : Chan :=
  if x.live && decide (x.liveBad ≠ 0#5) then (if x.liveBad = 12#5 ∨ x.liveBad = 13#5 then toZero x else toSafe x)
  else if !may then toSafe x
  else match r with
    | .passed v => let v := clampOut x.mode v; setOut v { x with atSafe := false, last := some v }
    | .failed _ => toSafe x
    | .none => if x.atSafe then toSafe x else x

/-- A ramp begins, for the length that is live then (R334); DO switches off. -/
def rampStart (now : Nat) (x : Chan) : Chan :=
  let v := if x.mode = 7#4 then 0#32 else x.drive
  { x with rampDue := false, ramping := true, rampAt := now, rampLen := x.rampClk, rampFrom := v, drive := v, cmdAt := now }

/-- One channel at the apply moment. `bscan` is boundary scan (R457). DEDUCED: log entry 27. -/
def applyOut (bscan : Bool) (c : BitVec 8) (m : Mach) : Mach :=
  let x := m.chans.get c
  let m := modChan c (fun x => { x with outRec := .none }) m
  if !isOutMode x.mode || x.frozen then m
  else
    let m := match x.outRec with
      | .failed k => reportRecord c k m
      | _ => m
    if x.ramping then m
    else if x.rampDue then modChan c (rampStart m.clk) m
    else modChan c (commanded m.clk (applied (!bscan && mayApply m x) x.outRec)) m

/-! ### HARDPAN at the shells (R335, R449, R450) -/

/-- Pending and held commits are dropped, ramps end, and every output goes to its CH_SAFE action. -/
def shellHardpan (c : BitVec 8) (m : Mach) : Mach :=
  let m := abortHart c m
  modChan c (fun x =>
    let x := if x.cpend then commitResult 3#2 0#5 x else x
    let x := { x with ramping := false, rampDue := false, outRec := .none }
    if isOutMode x.mode then commanded m.clk toSafe x else x) m

end Sys2Proof.Machine
end

