-- ==== Sys2Proof/Machine/Samples.lean ====
section
/-! DEFINITION. The sample pipeline (R301 to R313), streaming (R322), and the records of an edge (R318 to R321). -/

namespace Sys2Proof.Machine

open Sys2Proof

/-! ### Stages 1 and 2: CIC and FIR (R301) -/

/-- One modulator code into the integrators. -/
def cicIn : List (BitVec 80) → BitVec 80 → List (BitVec 80)
  | [], _ => []
  | a :: r, v => (a + v) :: cicIn r (a + v)

/-- One decimated word through the combs: the combs after it, and the output. -/
def cicOut : List (BitVec 80) → BitVec 80 → List (BitVec 80) × BitVec 80
  | [], v => ([], v)
  | a :: r, v => let p := cicOut r (v - a); (v :: p.1, p.2)

/-- The last integrator. -/
def cicTop (l : List (BitVec 80)) : BitVec 80 := l.getLastD 0#80

/-- The codes of one decimation through the integrators. -/
def cicBlock (i : List (BitVec 80)) (codes : List (BitVec 4)) : List (BitVec 80) :=
  codes.foldl (fun i c => cicIn i (sext 80 (Config.codeLevel c))) i

/-- `d` decimated values of a path, each from R codes, shifted into the FIR's line, newest first. -/
def cicRun (g : ChanCfg) : Nat → List (BitVec 4) → Path → Path
  | 0, _, p => p
  | d + 1, codes, p =>
    let i := cicBlock p.integ (codes.take g.cicR)
    let o := cicOut p.comb (cicTop i)
    let x := Config.cicScale o.2 g.cicN g.cicR
    cicRun g d (codes.drop g.cicR) { p with integ := i, comb := o.1, line := (x :: p.line).take g.tapN }

/-- The FIR: products added in order, divided by the sum of the coefficients; bypassed it passes its input on. -/
def firOut (g : ChanCfg) (line : List W64) : W64 :=
  if g.bypass then line.getD 0 0#64
  else
    let s := (tapOrder g.tapN).foldl
      (fun acc i => add64 acc (mul64 (wide (g.coefs.getD i 0#32)) (line.getD i 0#64))) 0#64
    div64 s g.coefSum

/-- An output sample of one path before calibration, and the path after it. DESIGN CHOICE: log entry 26. -/
def pathSample (g : ChanCfg) (codes : List (BitVec 4)) (p : Path) : W64 × Path :=
  let p := cicRun g g.dec codes p
  (firOut g p.line, p)

/-! ### Stages 3 and 4: calibration and linearisation (R305, R309) -/

def Path.calibrate (p : Path) (x : W64) : W64 := add64 (mul64 p.gain x) p.offset

/-- Interpolation along the segment from (x0, y0) to (x1, y1). -/
def segment (x0 y0 x1 y1 : W32) (x : W64) : W64 :=
  let dx := sub64 x (wide x0)
  let wx := sub64 (wide x1) (wide x0)
  let dy := sub64 (wide y1) (wide y0)
  add64 (wide y0) (if Config.linForm then mul64 (div64 dx wx) dy else div64 (mul64 dx dy) wx)

/-- A table of points: the first segment whose end lies above x, or the last one. DESIGN CHOICE: log entry 26. -/
def linearise : List (W32 × W32) → W64 → W64
  | (x0, y0) :: (x1, y1) :: r, x =>
    if lt64 x (wide x1) || r.isEmpty then segment x0 y0 x1 y1 x else linearise ((x1, y1) :: r) x
  | _, x => x

def ChanCfg.stage34 (g : ChanCfg) (p : Path) (x : W64) : W64 :=
  let y := p.calibrate x
  if g.linEn then linearise g.lin y else y

/-! ### Stage 5: comparison (R310) -/

/-- One comparison: the run lengths and the bit after it. `none` suspends it. DEDUCED: log entry 27. -/
def compareRun (n : Nat) (differs : Option Bool) (bad good : Nat) (set : Bool) : Nat × Nat × Bool :=
  match differs with
  | none => (bad, good, set)
  | some true => (bad + 1, 0, set || decide (n ≤ bad + 1))
  | some false => (0, good + 1, set && !decide (n ≤ good + 1))

/-- |a − b| > DIV_THR. -/
def apart (a b : W64) (thr : W32) : Bool := lt64 (wide thr) (abs64 (sub64 a b))

/-! ### Stage 6: validity, limits, rate of change (R290, R311 to R313) -/

/-- R290: a class in which the sample is not valid. -/
def ne43Bad (g : ChanCfg) (v : W64) : Bool :=
  bit g.mode 8 && (lt64 v 0x400C_CCCC_CCCC_CCCD#64 || lt64 0x4035_0000_0000_0000#64 v)

/-- A limit above which H or HH is set, and below which, less the hysteresis, it is cleared. -/
def highLimit (plain : Bool) (v : W64) (s hyst : W32) (old : Bool) : Bool :=
  if le64 (wide s) v then true else if plain then false else old && !lt64 v (sub64 (wide s) (wide hyst))

def lowLimit (plain : Bool) (v : W64) (s hyst : W32) (old : Bool) : Bool :=
  if le64 v (wide s) then true else if plain then false else old && !lt64 (add64 (wide s) (wide hyst)) v

/-- The four limit bits HH, H, L, LL in bits 0 to 3 (R312, R319). -/
def limitBits (g : ChanCfg) (plain : Bool) (v : W64) (old : BitVec 4) : BitVec 4 :=
  at_ (bit g.lim 0 && highLimit plain v g.hh g.hyst (bit old 0)) 0
    ||| at_ (bit g.lim 1 && highLimit plain v g.h g.hyst (bit old 1)) 1
    ||| at_ (bit g.lim 2 && lowLimit plain v g.l g.hyst (bit old 2)) 2
    ||| at_ (bit g.lim 3 && lowLimit plain v g.ll g.hyst (bit old 3)) 3

/-- The output data rate as binary64. -/
def ChanCfg.odr (g : ChanCfg) : W64 := div64 (nat64 10240000) (nat64 g.ratio)

/-- What stage 5 and stage 6 are given of one sample: the value of the VALUE path, its current in mA before linearisation
(R290), what VALUE and AUX hold, whether that path settles, whether it is the shadow path, an overload of its input, and the two comparisons. -/
structure Smp where
  v : W64
  ma : W64
  out : W32
  aux : W32
  settling : Bool
  alt : Bool
  above : Bool
  differs : Option Bool
  deviates : Option Bool
  deriving DecidableEq, Repr

/-- The die of a channel. -/
def dieOf (m : Mach) (c : BitVec 8) : Die := m.dies.get (fld c 6 2)

/-- REF_A and REF_B good, and the group in window, or not yet judged (R282, R283). DEDUCED: log entry 25. -/
def refsGood (m : Mach) (c : BitVec 8) : Bool :=
  let d := dieOf m c
  let k := (fld c 3 3 : BitVec 3).toNat
  (decide (d.verdict = 0#3) || decide (d.verdict = 3#3)) && (bit d.grpOk k || !bit d.grpSeen k)

/-- Input modes. -/
def isInMode (k : BitVec 4) : Bool := decide (k ≠ 0#4) && !isOutMode k

/-- The field rail drives T+ in this mode (R285, R485). -/
def drivesT (x : Chan) : Bool :=
  match x.mode.toNat with
  | 2 | 10 => decide (x.var = 0#2)
  | 4 | 5 | 7 | 9 | 11 => true
  | 6 | 8 => decide (x.var = 2#2)
  | _ => false

/-- Stages 5 and 6 and the statistics of one sample. `railLow` is the field rail below 16.0 V (R485). -/
def finish (railLow : Bool) (s : Smp) (c : BitVec 8) (m : Mach) : Mach :=
  let x := m.chans.get c
  let g := x.cfg
  let n := g.divCnt
  let en := bit g.lim 5
  let old := x.status
  let d := if en then compareRun n s.differs x.divRun x.divSame (bit old 2) else (0, 0, false)
  let e := if en then compareRun n s.deviates x.devRun x.devSame (bit old 15) else (0, 0, false)
  let valid := !s.settling && refsGood m c && !s.above && !(isInMode x.mode && (x.openSet || x.shortSet))
    && !ne43Bad g s.ma && !d.2.2 && !(x.live && decide (x.liveBad ≠ 0#5))
    && decide (m.mode.mode ≠ .hardpan) && !(railLow && drivesT x)
  let lim : BitVec 4 := if valid then limitBits g x.limPlain s.v (fld old 3 4) else fld old 3 4 &&& fld g.lim 0 4
  let roc := valid && bit g.lim 4 && (match x.prev with
    | some (a, w) => decide (a = s.alt) && lt64 (wide g.roc) (mul64 (abs64 (sub64 s.v w)) g.odr)
    | none => false)
  let out := if x.mode = 6#4 ∧ valid = false then
      (match g.inSub.toNat with
        | 1 => 0#32
        | 2 => one32
        | _ => x.lastDi)
    else s.out
  let cal := if s.alt then x.shadow.cal else x.main.cal
  let st : BitVec 16 := at_ valid 0 ||| at_ s.settling 1 ||| at_ d.2.2 2 ||| put 16 lim 3 ||| put 16 cal 10
    ||| at_ s.alt 14 ||| at_ e.2.2 15
  let ev : Byte := at_ (decide (lim ≠ (fld old 3 4 : BitVec 4))) 0
    ||| at_ ((d.2.2 && !bit old 2) || (e.2.2 && !bit old 15)) 1 ||| at_ (bit old 0 && !valid) 3
  modChan c (fun x => { x with
    value := out, aux := s.aux, status := st, isNew := true, rocTick := x.rocTick || roc
    samples := x.samples + 1#16
    prev := if valid then some (s.alt, s.v) else none
    limPlain := if valid then false else true
    lastDi := if valid then s.out else x.lastDi
    divRun := d.1, divSame := d.2.1, devRun := e.1, devSame := e.2.1
    stMin := if !valid then x.stMin else if x.stCount = 0 || lt64 s.v x.stMin then s.v else x.stMin
    stMax := if !valid then x.stMax else if x.stCount = 0 || lt64 x.stMax s.v then s.v else x.stMax
    stSum := if !valid then x.stSum else if x.stCount = 0 then s.v else add64 x.stSum s.v
    stCount := if valid then x.stCount + 1 else x.stCount
    evtNow := x.evtNow ||| ev }) m

/-! ### Streaming (R322) -/

/-- The busy bit of a HART modem (R293). -/
def Hart.busy (h : Hart) : Bool :=
  decide (h.state = 1#3) || decide (h.state = 2#3) || decide (h.state = 3#3) || h.idRun

/-- STATUS as the record holds it (R288, R318, R319). -/
def recStatus (m : Mach) (x : Chan) : BitVec 16 :=
  let s := x.status &&& 0xDC7F#16
  (if m.mode.mode = .hardpan then s &&& 0xFFFE#16 else s) ||| at_ x.rocTick 7 ||| at_ x.openSet 8 ||| at_ x.shortSet 9
    ||| at_ ((decide (x.mode = 10#4) || decide (x.mode = 11#4)) && x.hart.busy) 12 ||| at_ x.isNew 13

/-- One output sample to the streaming ring, under the channel's latched owner as master class 2. -/
def stream (c : BitVec 8) (m : Mach) : Mach :=
  let x := m.chans.get c
  let g := x.cfg
  if !g.strm || x.ringStop then m
  else
    let len := BitVec.ofNat 32 g.ringLen
    let used := x.ringWr - par m c 0x4C
    let m := hwTouch [granOf (parAddr c 0x4C)] m
    if used = len then
      hwWrite32 (recAddr c 0x64) (satInc (hwRead32 (recAddr c 0x64) m)) m
    else
      let a := g.ring + BitVec.ofNat 36 (8 * (x.ringWr.toNat % g.ringLen))
      let p := fenceCheck portChannels (.cls (m.owner.get c) 2#2) a true m
      if p.1 && (areaRefusal false false false a).isNone then
        let d : BitVec 64 := (x.samples - 1#16) ++ recStatus m x ++ x.value
        let m := writeGran Acc.other (granOf a) (put 128 d (8 * (a.toNat % 16))) ((0xFF#16) <<< (a.toNat % 16)) false p.2
        let half := decide (g.ringLen / 2 ≤ (used + 1#32).toNat) && decide (used.toNat < g.ringLen / 2)
        modChan c (fun x => { x with ringWr := x.ringWr + 1#32, evtNow := x.evtNow ||| at_ half 6 }) m
      else
        report 0x0504 (argCH c ||| put 64 a 28) (modChan c (fun x => { x with ringStop := true, strmErr := true }) p.2)

/-! ### Output samples (R301, R304, R308) -/

/-- The VALUE of DI from a comparator's state. -/
def diValue (b : Bool) : W32 := if b then one32 else 0#32

/-- The set that live-write makes live: the registers and parameters as they stand (R332). A FIR set or table is copied when
CH_PROC comes to name another (R315). -/
def liveCfg (m : Mach) (c : BitVec 8) (x : Chan) : ChanCfg :=
  let g := stagedCfg m c x
  let o := x.cfg
  let sameSet := decide ((fld g.proc 15 4 : BitVec 4) = fld o.proc 15 4)
  let sameTab := decide ((fld g.proc 25 4 : BitVec 4) = fld o.proc 25 4)
  { g with
    mode := o.mode, taps := if sameSet then o.taps else g.taps, coef := if sameSet then o.coef else g.coef
    lin := if sameTab then o.lin else g.lin }

/-- Live-write: the live set follows the registers and parameters, and its checks are run (R332, R333). An incoherent
set is not taken over. DEDUCED: log entry 27. -/
def liveStep (c : BitVec 8) (m : Mach) : Mach :=
  let x := m.chans.get c
  if !x.live then m
  else
    let g := liveCfg m c x
    let k := firstFail g 2
    modChan c (fun x =>
      let x := if k = 0#5 then { takeCfg g x with ringStop := x.ringStop } else { x with cfail := k }
      { x with liveBad := k }) (hwTouch (parGranules c) m)

/-! ### Schmitt comparators (R278) -/

/-- The levels of a variant of DI and PI: the highest that is OFF and the lowest that is ON, in mV, with NAMUR in µA. -/
def schmittBand (var : BitVec 2) : Nat × Nat :=
  match var.toNat with
  | 0 => (5000, 15000)
  | 1 => (5000, 11000)
  | 2 => (1200, 2100)
  | _ => (2300, 2700)

/-- A comparator's hysteresis, and the level at which it switches on, within the band. DESIGN CHOICE: log entry 28. -/
def schmittHyst (var : BitVec 2) : Nat :=
  let b := schmittBand var
  if var = 2#2 then 200 else Config.schmittHyst var % (b.2 - b.1)
def schmittOn (var : BitVec 2) : Nat :=
  let b := schmittBand var
  b.2 - Config.schmittBelow var % (b.2 - b.1 - schmittHyst var)

/-- A comparator's state at a level of its input. -/
def schmitt (var : BitVec 2) (old : Bool) (level : Int) : Bool :=
  if (schmittOn var : Int) ≤ level then true
  else if level < (schmittOn var - schmittHyst var : Int) then false
  else old

/-- Both comparators of a channel run over the levels of their inputs, main and shadow, since the last sample. -/
def sense (levels : List (Int × Int)) (x : Chan) : Chan :=
  { x with
    main := { x.main with sense := (levels.map Prod.fst).foldl (schmitt x.var) x.main.sense }
    shadow := { x.shadow with sense := (levels.map Prod.snd).foldl (schmitt x.var) x.shadow.sense } }

/-- A path after an output sample of its own. -/
def Path.tickSettle (p : Path) : Path := { p with settle := p.settle - 1 }

/-- Whether a channel samples: in COMMISSION, OPERATE and HARDPAN, and in SLEEP where it drives an output (R40, R280). -/
def samplesRun (k : Mode) (mode : BitVec 4) : Bool :=
  match k with
  | .commission | .operate | .hardpan => true
  | .sleep => isOutMode mode
  | _ => false

/-- Whether the main and the shadow path read the terminal: neither is on its calibration points (R308). -/
def Chan.mainOn (x : Chan) : Bool := decide (x.calOn ≠ some true)
def Chan.shadOn (x : Chan) : Bool := decide (x.calOn ≠ some false)

/-- VALUE comes from the shadow path while the main path is away, and until it has settled after that (R308). -/
def Chan.alt (x : Chan) : Bool := !x.mainOn || (x.altBack && decide (0 < x.main.settle))

/-- The VALUE path settles; its input is above 90 % of full scale (R304, R311). -/
def Chan.settling (x : Chan) : Bool := if x.alt then decide (0 < x.shadow.settle) else decide (0 < x.main.settle)
def Chan.overload (x : Chan) : Bool := bit x.above (if x.alt then 1 else 0)

/-- The comparison of the two paths in a sample of mode 8, whose other stages wait for the tick's timer result (R310, R336,
R342). -/
def pulseCompare (differs : Option Bool) (x : Chan) : Chan :=
  let en := bit x.cfg.lim 5
  let old := bit x.status 2
  let d := if en then compareRun x.cfg.divCnt differs x.divRun x.divSame old else (0, 0, false)
  { x with
    divRun := d.1, divSame := d.2.1, status := setFld x.status 2 1 (BitVec.ofBool d.2.2)
    evtNow := x.evtNow ||| at_ (d.2.2 && !old) 1 }

/-- OUTPUT SAMPLE: the codes of both modulators since the last one, the levels of both inputs in that time, main first, and
the overloads of both paths, main in bit 0. -/
def outputSample (railLow : Bool) (mainCodes shadCodes : List (BitVec 4)) (levels : List (Int × Int)) (above : BitVec 2)
    (c : BitVec 8) (m : Mach) : Mach :=
  let m := liveStep c m
  let x := m.chans.get c
  let g := x.cfg
  if x.mode = 0#4 || x.frozen || !samplesRun m.mode.mode x.mode || mainCodes.length ≠ g.ratio || shadCodes.length ≠ g.ratio
  then m
  else
    let k := x.mode
    let digital := decide (k = 6#4) || decide (k = 8#4)
    let x : Chan := { (if digital then sense levels x else x) with above := above }
    let pm := if x.mainOn then pathSample g mainCodes x.main else (0#64, x.main)
    let ps := if x.shadOn then pathSample g shadCodes x.shadow else (0#64, x.shadow)
    let vm := g.stage34 pm.2 pm.1
    let vs := g.stage34 ps.2 ps.1
    let both := x.mainOn && x.shadOn && decide (x.main.settle = 0) && decide (x.shadow.settle = 0)
    let v := if k = 6#4 then wide (diValue (if x.alt then x.shadow.sense else x.main.sense)) else if x.alt then vs else vm
    let differs := if !both then none
      else if digital then some (x.main.sense != x.shadow.sense) else some (apart vm vs g.div)
    let deviates := if both && isOutMode k && decide (x.cmdAt + 102400 ≤ m.clk) then some (apart vm (wide x.drive) g.div) else none
    let aux := if x.alt || !x.shadOn || decide (0 < x.shadow.settle) then nan32 else narrow vs
    let s : Smp := {
      v := v, ma := if x.alt then ps.2.calibrate ps.1 else pm.2.calibrate pm.1, out := narrow v, aux := aux
      settling := x.settling, alt := x.alt, above := x.overload, differs := differs, deviates := deviates }
    let y := { x with
      main := if x.mainOn then pm.2.tickSettle else x.main
      shadow := if x.shadOn then ps.2.tickSettle else x.shadow
      altBack := x.altBack && decide (1 < x.main.settle) }
    if k = 8#4 then modChan c (fun _ => pulseCompare differs { y with aux := aux }) m
    else stream c (finish railLow s c (modChan c (fun _ => y) m))

/-- The timer result of mode 8 as the VALUE of the tick that has ended (R342, R356). DEDUCED: log entry 28. -/
def timerSample (railLow : Bool) (c : BitVec 8) (m : Mach) : Mach :=
  let x := m.chans.get c
  let r := x.timer.result
  if x.mode = 8#4 ∧ x.timer.run = true ∧ r.2 = true ∧ samplesRun m.mode.mode x.mode = true ∧ x.frozen = false then
    stream c (finish railLow
      { v := wide r.1, ma := wide r.1, out := r.1, aux := x.aux, settling := x.settling, alt := x.alt, above := x.overload
        differs := none, deviates := none } c m)
  else m

/-! ### The records of an edge (R318 to R322) -/

/-- The statistics record's first 14 bytes and its CRC (R321). -/
def statRecord (x : Chan) (c : BitVec 8) (tick : BitVec 64) : Gran :=
  if !x.cfg.stats then 0#128
  else
    let n := if x.stCount < 32767 then x.stCount else 32767
    let v (w : W64) : W32 := if x.stCount = 0 then nan32 else narrow w
    let d : Gran := put 128 (v x.stMin) 0 ||| put 128 (v x.stMax) 32 ||| put 128 (v (div64 x.stSum (nat64 x.stCount))) 64
      ||| put 128 (BitVec.ofNat 15 n) 96 ||| at_ (decide (0 < x.stCount)) 111
    d ||| put 128 (fld (crc32c (recBytes d 14 c tick)) 0 16 : BitVec 16) 112

/-- The sample record that describes `tick` (R318). -/
def sampleRecord (m : Mach) (x : Chan) (c : BitVec 8) (tick : BitVec 64) : Gran :=
  let d : Gran := put 128 x.value 0 ||| put 128 x.aux 32 ||| put 128 (recStatus m x) 64 ||| put 128 x.seq 80
  d ||| put 128 (recCrc d c tick) 96

/-- At the edge that ends `tick`: both records written into buffer tick mod 2, WR published, and the tick's
accumulators begin anew. -/
def freeze (tick : BitVec 64) (c : BitVec 8) (m : Mach) : Mach :=
  let x := m.chans.get c
  if x.mode = 0#4 || x.frozen || !samplesRun m.mode.mode x.mode then m
  else
    let b := if bit tick 0 then 0x10 else 0
    let m := hwWriteGran (recAddr c b) (sampleRecord m x c tick) m
    let m := hwWriteGran (recAddr c (0x20 + b)) (statRecord x c tick) m
    let m := if x.cfg.strm then hwWrite32 (recAddr c 0x60) x.ringWr m else m
    modChan c (fun x => { x with
      seq := x.seq + 1#16, isNew := false, rocTick := false, stCount := 0, stMin := 0#64, stMax := 0#64, stSum := 0#64 }) m

/-- CHANNEL EVENT (R336): the enabled causes since the last edge raise the event for the latched owner.
DEDUCED: log entry 27. -/
def channelEvent (c : BitVec 8) (m : Mach) : Mach :=
  let x := m.chans.get c
  let on := x.evtNow &&& x.evtEn
  let m := modChan c (fun x => { x with evt := x.evt ||| on, evtNow := 0#8 }) m
  if on = 0#8 then m else pend (m.owner.get c) 1 m

end Sys2Proof.Machine
end

