-- ==== Sys2Proof/Machine/FrontEnd.lean ====
section
/-! DEFINITION. The analogue front end: references (R282, R283), self-calibration (R284, R306, R307), the detectors and
short protection (R286 to R289), and the HART modems (R291 to R296). -/

namespace Sys2Proof.Machine

open Sys2Proof

/-- The module with die `d` changed. -/
def modDie (d : BitVec 2) (f : Die → Die) (m : Mach) : Mach := { m with dies := m.dies.upd d f }

/-- What leaves the module. DESIGN CHOICE: log entry 6. -/
def send (o : Out) (m : Mach) : Mach := { m with outbox := m.outbox ++ [o] }

/-! ### References (R282, R283) -/

/-- The verdict of a pattern of out-of-window pairs: bit 0 A–C, bit 1 B–C, bit 2 A–B. DEDUCED: log entry 25. -/
def verdictOf (p : BitVec 3) : BitVec 3 :=
  match p.toNat with
  | 0 => 0#3
  | 5 => 1#3
  | 6 => 2#3
  | 3 => 3#3
  | _ => 4#3

/-- The OK bits under a verdict (R300). DEDUCED: log entry 25. -/
def okBits (v : BitVec 3) : BitVec 3 :=
  match v.toNat with
  | 0 => 7#3
  | 1 => 6#3
  | 2 => 5#3
  | 3 => 3#3
  | _ => 0#3

/-- The channels of a die, and of a group. -/
def dieChans (d : BitVec 2) : List (BitVec 8) := (range (64 * d.toNat) 64).map (BitVec.ofNat 8)

/-- A path comes back from a calibration point and settles (R304, R308). -/
def calReturn (x : Chan) : Chan :=
  match x.calOn with
  | none => x
  | some true => { x with calOn := none, altBack := true, main := { x.main with settle := x.cfg.settleN } }
  | some false => { x with calOn := none, shadow := { x.shadow with settle := x.cfg.settleN } }

/-- One check of a die's references every 100 µs: a verdict after three checks in a row with one pattern, back to all
good after 30 in a row all in window. DEDUCED: log entry 25. -/
def referenceCheck (d : BitVec 2) (p : BitVec 3) (m : Mach) : Mach :=
  let x := m.dies.get d
  let same := if x.pattern = p then x.same + 1 else 1
  let allIn := if p = 0#3 then x.allIn + 1 else 0
  let m := modDie d (fun x => { x with pattern := p, same := same, allIn := allIn }) m
  let v := verdictOf p
  let reached := decide (3 ≤ same) && (!x.judged || (if v = 0#3 then decide (30 ≤ allIn) else true))
  if !reached || (x.judged && x.verdict == v) then m
  else
    let m := modDie d (fun x => { x with
      judged := true, verdict := v, refOk := okBits v
      refEvt := if v = 0#3 then x.refEvt else satInc x.refEvt }) m
    if v = 0#3 then m
    else
      let m := (dieChans d).foldl (fun m c => modChan c calReturn m) m
      report 0x0501 (0xFF#64 ||| put 64 d 8 ||| put 64 v 16) m

/-- The group check of an edge: bit k says that the buffers of group k are out of window (R283). -/
def groupCheck (g : Nat) (out : Bool) (m : Mach) : Mach :=
  let d : BitVec 2 := BitVec.ofNat 2 (g / 8)
  let k : BitVec 3 := BitVec.ofNat 3 g
  let x := m.dies.get d
  let ok := bit x.grpOk k.toNat
  let seen := bit x.grpSeen k.toNat
  let n := if out then 0 else x.grpIn.get k + 1
  let ok' := if out then false else ok || !seen || decide (30 ≤ n)
  let m := modDie d (fun x => { x with
    grpSeen := x.grpSeen ||| at_ true k.toNat, grpIn := x.grpIn.set k n
    grpOk := setFld x.grpOk k.toNat 1 (BitVec.ofBool ok') }) m
  if out && (ok || !seen) then
    report 0x0502 (0xFF#64 ||| put 64 d 8 ||| put 64 (BitVec.ofNat 5 g) 10)
      (modDie d (fun x => { x with refEvt := satInc x.refEvt }) m)
  else m

/-- AFE_STATd (R300). -/
def afeStatWord (x : Die) : W32 := put 32 x.refOk 0 ||| put 32 x.grpOk 4 ||| put 32 x.refEvt 16

/-- REFERENCE_CHECK (R282): Every 100 µs each die checks its three references pairwise and reaches a verdict. -/
def execReferenceCheck (d : BitVec 2) (acOut bcOut abOut : Bool) (s : State) : Res :=
  s.on fun m => if powered m then referenceCheck d (at_ acOut 0 ||| at_ bcOut 1 ||| at_ abOut 2) m else m

/-! ### Self-calibration (R284, R306 to R308) -/

/-- +75 % of a mode's range (R276, R277, R284). -/
def u75 (x : Chan) : W64 :=
  match x.mode.toNat with
  | 1 | 5 => 0x401E_B851_EB85_1EB8#64
  | 2 | 4 | 10 | 11 => 0x4032_0000_0000_0000#64
  | 3 => if x.var = 2#2 ∨ x.var = 3#2 then 0x40A7_7000_0000_0000#64 else 0x4072_C000_0000_0000#64
  | _ => Config.digitalU75 x.mode x.var

/-- The span of a mode. -/
def spanOf (x : Chan) : W64 :=
  match x.mode.toNat with
  | 1 | 5 => 0x4034_7AE1_47AE_147B#64
  | 2 | 4 | 10 | 11 => 0x4038_0000_0000_0000#64
  | 3 => if x.var = 2#2 ∨ x.var = 3#2 then 0x40AF_4000_0000_0000#64 else 0x4079_0000_0000_0000#64
  | _ => Config.digitalSpan x.mode x.var

/-- 600 s and 300 s in channel clocks. -/
def s600 : Nat := 61_440_000_000
def s300 : Nat := 30_720_000_000

/-- A path goes on its calibration points, when that is due and no path of the channel is on one. -/
def calStart (isMain : Bool) (c : BitVec 8) (m : Mach) : Mach :=
  let x := m.chans.get c
  let due := if isMain then x.calNextMain else x.calNextShadow
  if x.mode = 0#4 || x.calOn.isSome || decide (m.clk < due) || decide ((dieOf m c).verdict ≠ 0#3) then m
  else modChan c (fun x => { x with
    calOn := some isMain, calPoint := m.clk
    calNextMain := if isMain then due + s600 else x.calNextMain
    calNextShadow := if isMain then x.calNextShadow else x.calNextMain + s300 }) m

/-- Codes of a modulator on one calibration point: 2 ms at 10.24 MHz. -/
def pointCodes : Nat := 20480

/-- The decimated values of the calibration decimator, a CIC of order 3 and ratio 1024 (R306). -/
def calValues : Nat → List (BitVec 4) → List (BitVec 80) × List (BitVec 80) → List W64
  | 0, _, _ => []
  | n + 1, codes, s =>
    let i := cicBlock s.1 (codes.take 1024)
    let o := cicOut s.2 (cicTop i)
    Config.cicScale o.2 3 1024 :: calValues n (codes.drop 1024) (i, o.1)

/-- The reading of a point: the mean over the last 1.5 ms of its 2 ms, fifteen of the twenty values (R306). -/
def calReading (codes : List (BitVec 4)) : W64 :=
  let v := (calValues 20 codes (List.replicate 3 0#80, List.replicate 3 0#80)).drop 5
  div64 (v.foldl add64 0#64) (nat64 v.length)

/-- A result is accepted within 2 % of the factory gain and 0.5 % of span of the factory offset (R307). -/
def calAccepts (span gain off fg fo : W64) : Bool :=
  (f64 gain).finite && (f64 off).finite
    && le64 (abs64 (sub64 gain fg)) (mul64 0x3F94_7AE1_47AE_147B#64 (abs64 fg))
    && le64 (abs64 (sub64 off fo)) (mul64 0x3F74_7AE1_47AE_147B#64 span)

/-- The readings at zero and at +75 % give gain and offset (R307), once each point has stood for 2 ms. -/
def calResult (zero full : List (BitVec 4)) (c : BitVec 8) (m : Mach) : Mach :=
  let x := m.chans.get c
  match x.calOn with
  | none => m
  | some isMain =>
    if m.clk < x.calPoint + 409600 || zero.length ≠ pointCodes || full.length ≠ pointCodes then m
    else
      let z := calReading zero
      let gain := div64 (u75 x) (sub64 (calReading full) z)
      let off := mul64 (gain ^^^ 0x8000_0000_0000_0000#64) z
      let fg := wide (if isMain then x.cfg.mainGain else x.cfg.shadGain)
      let fo := wide (if isMain then x.cfg.mainOff else x.cfg.shadOff)
      let ok := calAccepts (spanOf x) gain off fg fo
      let use (p : Path) : Path :=
        if ok then { p with gain := wide (narrow gain), offset := wide (narrow off), cal := 1#2 }
        else { p with gain := fg, offset := fo, cal := 2#2 }
      let m := modChan c (fun x => calReturn (if isMain then { x with main := use x.main } else { x with shadow := use x.shadow })) m
      if ok then
        let o := if isMain then 0x10 else 0x18
        hwWrite32 (parAddr c (o + 4)) (narrow off) (hwWrite32 (parAddr c o) (narrow gain) m)
      else report 0x0503 (argCH c ||| at_ (!isMain) 16) m

/-! ### Detectors (R286, R288, R289) -/

/-- A condition is set after three evaluations in a row that find it and cleared after three that do not. The count is
that of evaluations in a row that differ from the bit. -/
def debounce (found : Bool) (cnt : Nat) (set : Bool) : Nat × Bool :=
  if found = set then (0, set) else if 2 ≤ cnt then (0, found) else (cnt + 1, set)

/-- mA of binary32 against an integer of µA: v × 1000 > u. -/
def aboveUa (v : W32) (u : Int) : Bool :=
  match f32 v with
  | .fin s n e => cmpF (.fin s (n * 1000) e) (.fin (decide (u < 0)) u.natAbs 0) == .gt
  | _ => false

/-- What R289 finds open, and short, from the terminal's current in µA, its voltage V(T+, T−) or T+ in mV, its
resistance in mΩ, the loop supply or driver at its limit, and the tracking supply at its maximum. -/
def finds (x : Chan) (p : Probe) : Bool × Bool :=
  match x.mode.toNat with
  | 2 | 10 => (decide (p.ua < 200), decide (x.var = 0#2) && p.limit)
  | 3 =>
    let hi := decide (x.var = 2#2) || decide (x.var = 3#2)
    (decide ((if hi then 1200 else 480) < p.mv), decide (p.mohm < (if hi then 50000 else 5000)))
  | 4 | 11 => (p.trackMax && aboveUa x.drive (p.ua + 500), decide (p.mv < 1000) && decide (4000 < p.ua))
  | 5 => (false, p.limit)
  | 6 | 8 => if x.var = 2#2 then (decide (p.ua < 150), decide (6000 < p.ua)) else (false, false)
  | 7 =>
    let on := isOn x.drive && x.shortOff.isNone
    (bit x.term 7 && (if on then decide (p.ua < 2000) else decide (12000 < p.mv)), x.shortOff.isSome)
  | 9 => (false, x.shortOff.isSome)
  | _ => (false, false)

/-- One evaluation of a channel's detectors; with the field rail low those of T+-driven channels rest (R485). -/
def detect (railLow : Bool) (p : Probe) (c : BitVec 8) (m : Mach) : Mach :=
  let x := m.chans.get c
  if x.mode = 0#4 || (railLow && drivesT x) then m
  else
    let f := finds x p
    let o := debounce f.1 x.openCnt x.openSet
    let s := debounce f.2 x.shortCnt x.shortSet
    modChan c (fun x => { x with
      openCnt := o.1, openSet := o.2, shortCnt := s.1, shortSet := s.2
      evtNow := x.evtNow ||| at_ ((o.2 && !x.openSet) || (s.2 && !x.shortSet)) 2 }) m

/-- DO and PWM-O. -/
def isSwitch (x : Chan) : Bool := decide (x.mode = 7#4) || decide (x.mode = 9#4)

/-- An output that has stood at its limit for 500 µs is switched off and reported short (R286). -/
def shortOffNow (c : BitVec 8) (m : Mach) : Mach :=
  let x := m.chans.get c
  if isSwitch x && isOn x.drive && x.shortOff.isNone then
    modChan c (fun x => { x with
      shortOff := some m.clk, shortSet := true, shortCnt := 0, evtNow := x.evtNow ||| at_ (!x.shortSet) 2 }) m
  else m

/-- A retry, 100 ms after the switch-off or the last retry, while the command stays on: the output stands, or is
switched off again. -/
def shortRetry (still : Bool) (c : BitVec 8) (m : Mach) : Mach :=
  let x := m.chans.get c
  match x.shortOff with
  | some t =>
    if isSwitch x && isOn x.drive && decide (t + 10_240_000 ≤ m.clk) then
      modChan c (fun x => { x with shortOff := if still then some m.clk else none }) m
    else m
  | none => m

/-! ### HART (R291 to R296) -/

def isHart (x : Chan) : Bool := decide (x.mode = 10#4) || decide (x.mode = 11#4)

/-- `n` characters of 11 bits at 1200 bit/s, in channel clocks. -/
def hartChars (n : Nat) : Nat := n * 11 * 102_400_000 / 1200

/-- A modem after a change, its mailbox status with it. -/
def modHart (c : BitVec 8) (f : Hart → Hart) (m : Mach) : Mach :=
  putHstat c (modChan c (fun x => { x with hart := f x.hart }) m)

/-- A written GO at the modem's check (R293): cleared and queued; ignored while a transaction runs; ended in state 6
where TX_LEN is out of range. DEDUCED: log entry 30. -/
def hartGo (c : BitVec 8) (m : Mach) : Mach :=
  let x := m.chans.get c
  let ctl := par m c 0x200
  let m := if isHart x then hwTouch [granOf (parAddr c 0x200)] m else m
  if !isHart x || !bit ctl 0 then m
  else
    let m := hwWrite32 (parAddr c 0x200) (ctl &&& ~~~1#32) m
    let len : BitVec 8 := fld ctl 8 8
    let st := x.hart.state
    if st = 1#3 ∨ st = 2#3 ∨ st = 3#3 then m
    else if len = 0#8 ∨ 240 < len.toNat then endHart c 6#3 m
    else modHart c (fun h => { h with state := 1#3, tries := 0#2 }) m

/-- 20 ms of line without carrier (R295); a line that has carried none is quiet. -/
def lineQuiet (m : Mach) (h : Hart) : Bool := decide (h.quiet = 0) || decide (h.quiet + 2_048_000 ≤ m.clk)

/-- The queued request is sent (R293): DEVID valid, the line quiet, the identity sequence done; a length that has gone out of
range meanwhile ends it in state 6. DEDUCED: log entry 30. -/
def hartTransmit (c : BitVec 8) (m : Mach) : Mach :=
  let x := m.chans.get c
  let h := x.hart
  if isHart x && decide (h.state = 1#3) && h.idValid && !h.idRun && lineQuiet m h then
    let len : BitVec 8 := fld (par m c 0x200) 8 8
    let bytes := (range 0 len.toNat).map fun i => hwRead8 (parAddr c (0x210 + i)) m
    let m := hwTouch (range (granOf (parAddr c 0x200)) (1 + (len.toNat + 15) / 16)) m
    if len = 0#8 ∨ 240 < len.toNat then endHart c 6#3 m
    else send (.hart c bytes) (modHart c (fun h => { h with
      state := 2#3, tries := h.tries + 1#2, txEnd := m.clk + hartChars (5 + len.toNat + 1) }) m)
  else m

/-- The transmission of a request has ended by now: the modem waits (R293). -/
def hartWaits (c : BitVec 8) (m : Mach) : Mach :=
  let h := (m.chans.get c).hart
  if h.state = 2#3 ∧ h.txEnd ≤ m.clk then modHart c (fun h => { h with state := 3#3, quiet := h.txEnd }) m else m

/-- An attempt of a transaction has failed: another try, or the end in state `st` (R291, R293). DEDUCED: log entry 30. -/
def hartFailed (c : BitVec 8) (st : BitVec 3) (m : Mach) : Mach :=
  if (m.chans.get c).hart.tries = 3#2 then endHart c st m else modHart c (fun h => { h with state := 1#3 }) m

/-- An attempt of the identity sequence has failed: three of them are repeated 10 s later (R294). -/
def idFailed (c : BitVec 8) (m : Mach) : Mach :=
  modChan c (fun x => { x with hart := { x.hart with
    idWait := false
    idNext := if x.hart.idTries = 3 then m.clk + 1_024_000_000 else m.clk
    idTries := if x.hart.idTries = 3 then 0 else x.hart.idTries } }) m

/-- The identity sequence sends command 0 as a short frame to polling address 0 (R294). DEDUCED: log entry 30. -/
def idSend (c : BitVec 8) (m : Mach) : Mach :=
  let x := m.chans.get c
  let h := x.hart
  if isHart x && h.idRun && !h.idWait && decide (h.idNext ≤ m.clk) && decide (h.state ≠ 2#3) && decide (h.state ≠ 3#3)
      && lineQuiet m h then
    send (.hart c [0x02#8, 0x80#8, 0x00#8, 0x00#8]) (modChan c (fun x => { x with hart := { x.hart with
      idWait := true, idTries := x.hart.idTries + 1, txEnd := m.clk + hartChars 10 } }) m)
  else m

/-- A frame has been received (R293 to R295): `answers` that it answers the module's request, `good` that parity, framing
and checksum are right; `id` the long-frame address that an answer to command 0 gives. DEDUCED: log entry 30. -/
def hartFrame (frame : List Byte) (answers good : Bool) (id : BitVec 40) (c : BitVec 8) (m : Mach) : Mach :=
  let x := m.chans.get c
  if !isHart x then m
  else
    let m := modChan c (fun x => { x with hart := { x.hart with quiet := m.clk } }) (hartWaits c m)
    let h := (m.chans.get c).hart
    let fine := good && decide (frame.length ≤ 256)
    if answers && h.idWait then
      if fine then
        putDevid c id true (modChan c (fun x => { x with hart := { x.hart with
          idRun := false, idWait := false, idValid := true } }) m)
      else idFailed c m
    else if answers && decide (h.state = 3#3) then
      if fine then
        let m := (range 0 frame.length).foldl (fun m i => hwWrite8 (parAddr c (0x300 + i)) (frame.getD i 0#8) m) m
        endHart c 4#3 (modChan c (fun x => { x with hart := { x.hart with rxLen := BitVec.ofNat 8 frame.length } }) m)
      else hartFailed c 6#3 m
    else modHart c (fun h => { h with discard := satInc h.discard }) m

/-- No carrier 305 ms after a request (R291). -/
def hartTimeout (c : BitVec 8) (m : Mach) : Mach :=
  let m := hartWaits c m
  let h := (m.chans.get c).hart
  let late := decide (h.txEnd + 31_232_000 ≤ m.clk)
  if !isHart (m.chans.get c) || !late then m
  else if h.idWait then idFailed c m
  else if h.state = 3#3 then hartFailed c 5#3 m
  else m

end Sys2Proof.Machine
end

