-- ==== Sys2Proof/Machine/ChanRegs.lean ====
section
/-! DEFINITION. The register blocks of the channels (R139, R327, R332, R340, R358 to R361, R535, R538). -/

namespace Sys2Proof.Machine

open Sys2Proof

/-- The latched owner of a channel, or the keeper context (R139, R535 code CH). -/
def chanAccess (w : Who) (c : BitVec 8) (m : Mach) : Bool :=
  whoKeeper w || (decide (w.master = .replica ∨ w.master = .debug) && decide (m.owner.get c = w.comp))

/-- CH_CTLSTAT (R340). -/
def ctlstatWord (x : Chan) : W32 :=
  at_ x.comEn 1 ||| at_ x.live 2 ||| at_ x.cpend 3 ||| at_ x.reenPend 4 ||| at_ x.ramping 5 ||| put 32 x.cres 6
    ||| put 32 x.cfail 8 ||| at_ x.outfail 13 ||| at_ x.strmErr 14 ||| put 32 x.evtEn 16 ||| put 32 x.evt 24

/-- A commit requested (R328, R335): pending for the next edge, held during a ramp, refused by mode.
DEDUCED: log entry 27. -/
def requestCommit (k : Mode) (x : Chan) : Chan :=
  if x.cpend then x
  else if !commitMode k then commitResult 3#2 0#5 x
  else if x.ramping || x.rampDue then
    { x with cpend := true, held := true, holdAt := none, reenPend := decide (fld x.stMode 0 4 ≠ 0#4) }
  else { x with cpend := true }

/-- LIVE set or cleared (R332): setting it, in COMMISSION only, gives the staged copies the live values. -/
def setLive (k : Mode) (b : Bool) (x : Chan) : Chan :=
  if x.live = b then x
  else if b then
    (if k = .commission then
      { x with live := true, liveBad := 0#5, stProc := x.cfg.proc, stLim := x.cfg.lim, stSafe := x.cfg.safe }
    else x)
  else { x with live := false, liveBad := 0#5 }

/-- A write to CH_CTLSTAT (R328, R332, R340). -/
def ctlstatWrite (k : Mode) (v : W32) (x : Chan) : Chan :=
  let x := { x with
    comEn := if k = .commission then bit v 1 else x.comEn
    evtEn := fld v 16 8
    outfail := x.outfail && !bit v 13
    strmErr := x.strmErr && !bit v 14 }
  let x := setLive k (bit v 2) x
  if bit v 0 then requestCommit k x else x

/-- The value of a register of a channel block, and the effect of reading it. -/
def chanRead (off : Nat) (x : Chan) : W32 × Chan :=
  match off with
  | 0x00 => (x.stMode, x)
  | 0x04 => (x.stProc, x)
  | 0x08 => (x.stLim, x)
  | 0x0C => (x.stSafe, x)
  | 0x10 => (ctlstatWord x, { x with evt := 0#8 })
  | 0x14 => (x.timer.ctlWord, x)
  | 0x18 => (x.timer.top, x)
  | 0x1C => (x.timer.cmp, x)
  | 0x20 => (x.timer.capWord, { x with timer := x.timer.readPhase })
  | _ => (0#32, x)

/-- A write to a register of a channel block. -/
def chanWrite (k : Mode) (off : Nat) (v : W32) (x : Chan) : Chan :=
  match off with
  | 0x00 => { x with stMode := v }
  | 0x04 => { x with stProc := v }
  | 0x08 => { x with stLim := v }
  | 0x0C => { x with stSafe := v }
  | 0x10 => ctlstatWrite k v x
  | 0x14 => { x with timer := x.timer.writeCtl v }
  | 0x18 => { x with timer := x.timer.writeTop v }
  | 0x1C => { x with timer := x.timer.writeCmpReg x.mode v }
  | 0x20 => { x with timer := x.timer.writePhase v }
  | _ => x

def chanBlock (c : BitVec 8) : Addr := 0x8004_0000#36 + put 36 c 6

/-- A load from a channel block. -/
def chanBusRead (w : Who) (c : BitVec 8) (off : Nat) (m : Mach) : Option W32 × Mach :=
  if chanAccess w c m then
    let r := chanRead off (m.chans.get c)
    (some r.1, modChan c (fun _ => r.2) m)
  else (none, m)

/-- A store to a channel block. -/
def chanBusWrite (w : Who) (c : BitVec 8) (off : Nat) (v : W32) (m : Mach) : Bool × Mach :=
  if chanAccess w c m then (true, modChan c (chanWrite m.mode.mode off v) m) else (false, m)

end Sys2Proof.Machine
end

