-- ==== Sys2Proof/Machine/MemRegs.lean ====
section
/-! DEFINITION. The capability mint (R135 to R137) and the memory registers with the fence store (R257, R258, R266). -/

namespace Sys2Proof.Machine

open Sys2Proof

/-! ### The mint -/

def modMint (f : Mint → Mint) (m : Mach) : Mach := { m with mint := f m.mint }

def Mint.cap (x : Mint) : Cap := ⟨x.w3 ++ x.w2 ++ x.w1 ++ x.w0, true⟩
def Mint.addr (x : Mint) : Addr := x.addrHi ++ x.addrLo

/-- An area whose own rule refuses the mint's store (R135, ERR 0x6). -/
def mintArea (a : Addr) : Bool :=
  (areaRefusal false false true a).isSome && !decide (0x40F6_0000 ≤ a.toNat ∧ a.toNat < 0x40F8_0000)

/-- The first check of R135 that fails, but for the fence map's; 0 if none does. -/
def mintCheck (x : Mint) : BitVec 3 :=
  let c := x.cap
  let r := region x.addr
  if c.kind = 3#2 ∨ c.limit < c.base.toNat then 2#3
  else if x.addr.toNat % 16 ≠ 0 then 3#3
  else if r.isMem = false ∨ r = .tileAlias then 4#3
  else if mintArea x.addr then 6#3
  else 0#3

/-- A write of 1 to CMINT_CTL.GO (R135, R136). -/
def mintGo (m : Mach) : Mach :=
  if m.mint.busy then modMint (fun x => { x with err := 1#3 }) m
  else
    let k := mintCheck m.mint
    modMint (fun x => { x with
      err := k, busy := decide (k = 0#3)
      target := if k = 0#3 then x.addr else x.target
      value := if k = 0#3 then x.cap.bits else x.value }) m

/-- The mint's store reaches memory, or the fence map refuses it (R135, R136). -/
def mintStore (m : Mach) : Mach :=
  if m.mint.busy then
    let p := fenceCheck .direct (.ring 0#10 0#2) m.mint.target true m
    if p.1 then
      modMint (fun x => { x with busy := false }) (writeGran Acc.other (granOf m.mint.target) m.mint.value 0xFFFF#16 true p.2)
    else modMint (fun x => { x with busy := false, err := 5#3 }) p.2
  else m

def mintRegRead (off : Nat) (m : Mach) : W32 :=
  let x := m.mint
  match off with
  | 0x200 => x.w0
  | 0x204 => x.w1
  | 0x208 => x.w2
  | 0x20C => x.w3
  | 0x210 => x.addrLo
  | 0x214 => put 32 x.addrHi 0
  | 0x21C => at_ x.busy 0 ||| put 32 x.err 1
  | _ => 0#32

/-- A write to a mint register by the keeper; while BUSY = 1 the value and address registers ignore it (R136). -/
def mintRegWrite (off : Nat) (v : W32) (m : Mach) : Mach :=
  let keep (f : Mint → Mint) : Mach := if m.mint.busy then m else modMint f m
  match off with
  | 0x200 => keep fun x => { x with w0 := v }
  | 0x204 => keep fun x => { x with w1 := v }
  | 0x208 => keep fun x => { x with w2 := v }
  | 0x20C => keep fun x => { x with w3 := v }
  | 0x210 => keep fun x => { x with addrLo := v }
  | 0x214 => keep fun x => { x with addrHi := fld v 0 4 }
  | 0x218 => if bit v 0 then mintGo m else m
  | _ => m

/-! ### The fence store (R257, R258) -/

/-- A reserved bit of an entry is not 0 (R257). -/
def FenceEntry.reserved (f : FenceEntry) : Bool :=
  decide (fld f.w0 24 8 ≠ 0#8) || decide (fld f.w1 24 8 ≠ 0#8) || bit f.w2 11 || decide (fld f.w2 22 10 ≠ 0#10)
    || decide (fld f.w3 8 24 ≠ 0#24)

/-- Two valid entries overlap without the excuse of different compartments. -/
def FenceEntry.clash (f g : FenceEntry) : Bool :=
  f.valid && g.valid && decide (f.lo < g.hi) && decide (g.lo < f.hi)
    && !(f.cmatch && g.cmatch && decide (f.comp ≠ g.comp))

/-- The first cause of R258 that refuses a write of entry `i`; 0 if none does. -/
def fenceRefusal (mc : MemCtl) (now : Nat) (i : BitVec 6) (f : FenceEntry) : BitVec 3 :=
  if now < mc.fbusyUntil then 1#3
  else if (mc.fence.get i).locked then 2#3
  else if f.valid && (f.reserved || decide (f.hi ≤ f.lo)) then 3#3
  else if (range 0 64).any (fun k => decide (BitVec.ofNat 6 k ≠ i) && f.clash (mc.fence.get (BitVec.ofNat 6 k))) then 4#3
  else 0#3

/-- A write to FENCE_CTL: the write, then the read (R258). BUSY lasts a free time within 100 ns. DEDUCED: log entry 20. -/
def fenceCtl (v : W32) (m : Mach) : Mach :=
  let c := m.mc
  let k := fenceRefusal c m.clk c.sel c.fw
  let m := if bit v 0 then
      modMc (fun c => { c with
        ferr := k
        fence := if k = 0#3 then c.fence.set c.sel c.fw else c.fence
        fbusyUntil := if k = 1#3 then c.fbusyUntil else m.clk + (Config.entryBusy m.clk).val }) m
    else m
  if bit v 1 then modMc (fun c => { c with fw := c.fence.get c.sel, fbusyUntil := max c.fbusyUntil (m.clk + (Config.entryBusy m.clk).val) }) m else m

/-! ### Registers (R266) -/

def dramDeadWord (c : MemCtl) : W32 :=
  put 32 (c.mark0.getD 0#5) 0 ||| at_ c.mark0.isSome 8 ||| put 32 (c.mark1.getD 0#5) 9 ||| at_ c.mark1.isSome 16

def memRegRead (off : Nat) (m : Mach) : W32 :=
  let c := m.mc
  match off with
  | 0x300 => put 32 c.sel 0
  | 0x304 => c.fw.w0
  | 0x308 => c.fw.w1
  | 0x30C => c.fw.w2
  | 0x310 => c.fw.w3
  | 0x318 => at_ (decide (m.clk < c.fbusyUntil)) 0 ||| put 32 c.ferr 1
  | 0x320 => dramDeadWord c
  | 0x324 => put 32 c.passH 0 ||| put 32 c.deadThr 8 ||| put 32 c.rowThr 16
  | 0x328 => put 32 (fld c.scrubLine 5 24) 0 ||| put 32 c.passes 24
  | 0x32C => c.spst0
  | 0x330 => put 32 c.sramc 0 ||| put 32 c.dramc 16
  | 0x334 => put 32 c.chkc 0 ||| put 32 c.icpar 16 ||| put 32 c.ueSram 24 ||| put 32 c.ueDram 28
  | 0x338 => c.spst1
  | _ => 0#32

def memRegReadFx (off : Nat) (m : Mach) : Mach :=
  match off with
  | 0x330 => modMc (fun c => { c with sramc := 0#16, dramc := 0#16 }) m
  | 0x334 => modMc (fun c => { c with chkc := 0#16, icpar := 0#8, ueSram := 0#4, ueDram := 0#4 }) m
  | _ => m

def memRegWrite (off : Nat) (v : W32) (m : Mach) : Mach :=
  match off with
  | 0x300 => modMc (fun c => { c with sel := fld v 0 6 }) m
  | 0x304 => modMc (fun c => { c with fw := { c.fw with w0 := v } }) m
  | 0x308 => modMc (fun c => { c with fw := { c.fw with w1 := v } }) m
  | 0x30C => modMc (fun c => { c with fw := { c.fw with w2 := v } }) m
  | 0x310 => modMc (fun c => { c with fw := { c.fw with w3 := v } }) m
  | 0x314 => fenceCtl v m
  | 0x324 => modMc (fun c => { c with
      passH := if fld v 0 8 = 0#8 then c.passH else fld v 0 8
      deadThr := if fld v 8 8 = 0#8 then c.deadThr else fld v 8 8
      rowThr := if fld v 16 4 = 0#4 then c.rowThr else fld v 16 4 }) m
  | _ => m

end Sys2Proof.Machine
end

