-- ==== Sys2Proof/Machine/HostRegs.lean ====
section
/-! DEFINITION. The host windows (R369 to R372), the host registers of register space (R399), and what leaves through a
port. -/

namespace Sys2Proof.Machine

open Sys2Proof

def modHost (f : HostIf → HostIf) (m : Mach) : Mach := { m with host := f m.host }

def portOf (h : HostIf) (p : Bool) : HPort := if p then h.portB else h.portA

def modPort (p : Bool) (f : HPort → HPort) (m : Mach) : Mach :=
  modHost (fun h => if p then { h with portB := f h.portB } else { h with portA := f h.portA }) m

/-- Something leaves the module. DESIGN CHOICE: log entry 6. -/
def emit (x : Out) (m : Mach) : Mach := { m with outbox := m.outbox ++ [x] }

/-! ### MSI-X (R390, R391) -/

/-- A word of a port's MSI-X table: after reset every vector is masked and the rest is 0. PRESUMED: log entry 33. -/
def msixWord (x : HPort) (i : Nat) : W32 := look (if i % 4 = 3 then 1#32 else 0#32) x.table i

/-- A vector is masked. -/
def msixMasked (x : HPort) (v : BitVec 11) : Bool := bit (msixWord x (4 * v.toNat + 3)) 0

/-- A message is sent on a vector of a port whose link is up with MSI-X enabled; a masked one stays pending. -/
def sendMsix (p : Bool) (v : BitVec 11) (m : Mach) : Mach :=
  let x := portOf m.host p
  if x.up && x.msixEn then
    if msixMasked x v then modPort p (fun x => { x with pba := store false x.pba v.toNat true }) m
    else emit (.msix p v) m
  else m

/-- A device vector on one port, at most once a tick (R391); `k` counts from 1024. -/
def deviceVectorOn (p : Bool) (k : Nat) (m : Mach) : Mach :=
  let x := portOf m.host p
  if x.up && x.msixEn && !bit x.oneShot k then
    sendMsix p (BitVec.ofNat 11 (1024 + k)) (modPort p (fun x => { x with oneShot := x.oneShot ||| at_ true k }) m)
  else m

/-- A device vector on every port (R391). -/
def deviceVector (k : Nat) (m : Mach) : Mach := deviceVectorOn true k (deviceVectorOn false k m)

/-! ### Windows -/

def HostWin.valid (w : HostWin) : Bool := bit w.w3 31
def HostWin.owner (w : HostWin) : BitVec 10 := fld w.w3 0 10
def HostWin.pages (w : HostWin) : Nat := (fld w.w2 0 11 : BitVec 11).toNat
def HostWin.port (w : HostWin) : Bool := bit w.w2 12
def HostWin.base (w : HostWin) : BitVec 64 := w.w1 ++ (w.w0 &&& 0xFFFF_F000#32)

/-- Reserved bits of an entry that are not 0 (R371). -/
def HostWin.reserved (w : HostWin) : Bool :=
  decide (fld w.w0 0 12 ≠ 0#12) || bit w.w2 11 || decide (fld w.w2 15 17 ≠ 0#17) || decide (fld w.w3 10 21 ≠ 0#21)

/-- The slot of an address of the host-window range, and the offset in it (R369). -/
def winSlot (a : Addr) : Byte := fld a 22 8
def winOff (a : Addr) : BitVec 22 := fld a 0 22

/-- A host-window access goes out (R369). -/
def winAllowed (w : Who) (a : Addr) (write : Bool) (m : Mach) : Bool :=
  let x := m.host.win.get (winSlot a)
  let p := portOf m.host x.port
  x.valid && decide (x.owner = w.comp) && decide ((winOff a).toNat < x.pages * 4096)
    && (if write then bit x.w2 14 else bit x.w2 13) && p.up && p.busMaster

/-- The bytes that a mask names in a granule, from the first to the last of them, and the first one's place. -/
def maskRun (mask : BitVec 16) : Nat × Nat :=
  let l := (range 0 16).filter fun i => bit mask i
  match l.head?, l.getLast? with
  | some a, some b => (a, b + 1 - a)
  | _, _ => (0, 0)

/-- A store to a host window: it leaves through the entry's port, or is refused (R369). -/
def hostStore (w : Who) (g : Addr) (d : Gran) (mask : BitVec 16) (m : Mach) : Bool × Mach :=
  let r := maskRun mask
  let a := g + BitVec.ofNat 36 r.1
  if winAllowed w a true m then
    let x := m.host.win.get (winSlot a)
    (true, emit (.hostWrite x.port (x.base + (winOff a).setWidth 64) (bytesOf d r.1 r.2)) m)
  else (false, m)

/-! ### Registers (R372, R399) -/

/-- The first cause of R372 that refuses a write of an entry; 0 if none does. -/
def winRefusal (h : HostIf) (now : Nat) : BitVec 2 :=
  let w := h.hw
  if now < h.busyUntil then 1#2
  else if w.valid && (w.reserved || decide (w.pages = 0 ∨ 1024 < w.pages)) then 2#2
  else if w.valid && decide (w.owner = 0#10) then 3#2
  else 0#2

/-- A write to HW_CTL: the write, then the read (R372). DEDUCED: log entry 20. -/
def hwCtl (v : W32) (m : Mach) : Mach :=
  let k := winRefusal m.host m.clk
  let m := if bit v 0 then
      modHost (fun h => { h with
        err := k
        win := if k = 0#2 then h.win.set h.sel h.hw else h.win
        busyUntil := if k = 1#2 then h.busyUntil else m.clk + (Config.entryBusy m.clk).val }) m
    else m
  if bit v 1 then modHost (fun h => { h with hw := h.win.get h.sel, busyUntil := max h.busyUntil (m.clk + (Config.entryBusy m.clk).val) }) m else m

def hostRegRead (off : Nat) (m : Mach) : W32 :=
  let h := m.host
  match off with
  | 0x500 => put 32 h.sel 0
  | 0x504 => h.hw.w0
  | 0x508 => h.hw.w1
  | 0x50C => h.hw.w2
  | 0x510 => h.hw.w3
  | 0x518 => at_ (decide (m.clk < h.busyUntil)) 0 ||| put 32 h.err 1
  | 0x51C => at_ h.kready 0
  | _ => 0#32

def hostRegWrite (off : Nat) (v : W32) (m : Mach) : Mach :=
  match off with
  | 0x500 => modHost (fun h => { h with sel := fld v 0 8 }) m
  | 0x504 => modHost (fun h => { h with hw := { h.hw with w0 := v } }) m
  | 0x508 => modHost (fun h => { h with hw := { h.hw with w1 := v } }) m
  | 0x50C => modHost (fun h => { h with hw := { h.hw with w2 := v } }) m
  | 0x510 => modHost (fun h => { h with hw := { h.hw with w3 := v } }) m
  | 0x514 => hwCtl v m
  | 0x51C => modHost (fun h => { h with kready := bit v 0 }) m
  | _ => m

end Sys2Proof.Machine
end

