-- ==== Sys2Proof/Machine/WatchRegs.lean ====
section
/-! DEFINITION. The registers of the watchdogs, the clock monitor, the fault collector and HARDPAN (R442 to R455), with the
fault-log window (R438). -/

namespace Sys2Proof.Machine

open Sys2Proof

def modWatch (f : Watch → Watch) (m : Mach) : Mach := { m with watch := f m.watch }
def modFaults (f : Faults → Faults) (m : Mach) : Mach := { m with faults := f m.faults }

def modWd (e : BitVec 7) (f : Watchdog → Watchdog) (m : Mach) : Mach :=
  modWatch (fun x => { x with wd := x.wd.upd e f }) m

/-! ### Engine watchdogs (R442 to R445) -/

/-- The slot that made a store, for a fault's ARG: its compartment where the slot still runs. DEDUCED: log entry 44. -/
def storeEc (w : Who) (m : Mach) : W64 :=
  match (m.engines.get w.eng).cur with
  | some r => if r.slot.pos = w.pos then argEC w.eng r.slot.comp w.pos else argEC w.eng w.comp w.pos
  | none => argEC w.eng w.comp w.pos

/-- A bite (R444, R445): the watchdog stops and its evidence is frozen; the engine's reset follows, but with CRIT or in HARDPAN
(R437). DEDUCED: log entry 44. -/
def bite (e : BitVec 7) (code : BitVec 16) (arg : W64) (m : Mach) : Mach :=
  report code arg (modWd e (fun x => { x with
    run := false, bitten := true, due := !x.crit && decide (m.mode.mode ≠ .hardpan) }) m)

/-- A store to WD_SVC by a replica (R443, R444). -/
def wdService (w : Who) (v : W32) (m : Mach) : Mach :=
  let x := m.watch.wd.get w.eng
  let val : BitVec 16 := fld v 0 16
  if w.master ≠ .replica ∨ x.en = false then m
  else if w.comp ≠ x.owner ∧ whoKeeper w = false then report 0x0603 (storeEc w m ||| put 64 w.eng 32) m
  else if val ≠ fld w.tick 0 16 ^^^ x.salt then bite w.eng 0x0602 (storeEc w m ||| put 64 val 32) m
  else if x.run && decide (x.age < x.wmin.toNat) then bite w.eng 0x0602 (storeEc w m ||| put 64 val 32) m
  else modWd w.eng (fun x =>
    let x := { x with run := true, age := 0 }
    if x.bitten then x else { x with pc := w.pc, comp := w.comp, tick := fld w.tick 0 16 }) m

def wdCfgWord (x : Watchdog) : W32 := at_ x.en 0 ||| at_ x.crit 1 ||| put 32 x.owner 6 ||| put 32 x.salt 16

def wdCfgWrite (v : W32) (x : Watchdog) : Watchdog :=
  { x with en := bit v 0, crit := bit v 1, owner := fld v 6 10, salt := fld v 16 16, run := x.run && bit v 0 }

def wdEvid1Word (x : Watchdog) : W32 :=
  put 32 (fld x.pc 32 4 : BitVec 4) 0 ||| put 32 x.comp 4 ||| at_ x.run 14 ||| at_ x.bitten 15 ||| put 32 x.tick 16

/-- A write to WD_WIN (R455). -/
def wdWinWrite (v : W32) (m : Mach) : Mach :=
  let lo : BitVec 10 := fld v 0 10
  let hi : BitVec 10 := fld v 16 10
  if lo = 0#10 ∨ hi < lo then modFaults (fun x => { x with werr := true }) m
  else modWd m.watch.sel (fun x => { x with wmin := lo, wmax := hi }) m

/-! ### The module watchdog (R446) -/

/-- Ten milliseconds in channel clocks. -/
def tenMs : Nat := 1_024_000

/-- A bite of the module watchdog; its count starts again. `early` is bit 0 of its ARG. DEDUCED: log entry 44. -/
def mwdBite (early : Bool) (m : Mach) : Mach :=
  report 0x0604 (at_ early 0) (modWatch (fun x => { x with mAt := m.clk }) m)

/-- A store to MWD_SVC by the keeper (R446); it has no effect in SLEEP. DEDUCED: log entry 44. -/
def mwdService (w : Who) (v : W32) (m : Mach) : Mach :=
  if m.mode.mode = .sleep then m
  else if fld v 0 16 = (fld w.tick 0 16 ^^^ m.watch.mSalt : BitVec 16) ∧ m.watch.mAt + tenMs * m.watch.mMin.toNat ≤ m.clk then
    modWatch (fun x => { x with mAt := m.clk }) m
  else mwdBite true m

/-! ### HARDPAN and the collector's registers (R453 to R455) -/

/-- A module reset is asked for: it is carried out at once, or in HARDPAN when SAFE is 1 (R452). -/
def wantReset (cause : BitVec 4) (m : Mach) : Mach :=
  modWatch (fun x => { x with resetWanted := some (if m.mode.mode = .hardpan then 3#4 else cause) }) m

/-- A write to HP_CTL (R452, R453). -/
def hpCtl (v : W32) (m : Mach) : Mach :=
  if fld v 16 16 ≠ 0x5A3C#16 then m
  else
    let m := if bit v 0 ∧ m.mode.mode ≠ .dormant ∧ m.mode.mode ≠ .hardpan then
        report 0x0E05 (put 64 (fld m.faults.swa0 0 16 : BitVec 16) 0) m
      else m
    if bit v 1 then wantReset 2#4 m else m

/-- The codes that FLT_SW logs (R455). -/
def swCode (k : BitVec 16) : Bool :=
  decide (0x0E01 ≤ k.toNat ∧ k.toNat ≤ 0x0E04) || decide (0x0F00 ≤ k.toNat ∧ k.toNat ≤ 0x0FFF)

/-- A write to FLT_SW (R454, R455). DEDUCED: log entry 43. -/
def fltSw (v : W32) (m : Mach) : Mach :=
  if swCode (fld v 0 16) then report (fld v 0 16) (m.faults.swa1 ++ m.faults.swa0) m
  else modFaults (fun x => { x with werr := true }) m

/-- A write to FLT_ESC: taken in COMMISSION alone (R436). DEDUCED: log entry 31. -/
def fltEscWrite (v : W32) (m : Mach) : Mach :=
  if m.mode.mode = .commission then modFaults (fun x => { x with esc := fld v 0 5 }) m
  else modFaults (fun x => { x with werr := true }) m

def hpStatWord (x : Faults) : W32 := put 32 x.hpCause 0 ||| at_ x.hpSafe 16

/-! ### The fault log (R438) -/

/-- Bytes 0x00 to 0x1B of the header. -/
def logHead (x : Faults) : List Byte :=
  bytesOf (0x9A5E_0C40#32) 0 4 ++ bytesOf x.wr 0 4 ++ bytesOf x.lost 0 4 ++ bytesOf x.mirwr 0 4 ++ bytesOf x.hpcode 0 2
    ++ List.replicate 10 0#8

/-- The header, with its CRC; nothing where it does not stand. -/
def logHeader (x : Faults) : BitVec 256 :=
  if x.headerOk then BitVec.ofNat 256 (leNat (logHead x ++ bytesOf (crc32c (logHead x)) 0 4)) else 0#256

/-- A word of the log, by its offset in the window. -/
def logWord (x : Faults) (off : Nat) : W32 :=
  if off < 32 then fld (logHeader x) (8 * off) 32
  else fld (x.entries.get (BitVec.ofNat 7 ((off - 32) / 32))) (8 * (off % 32)) 32

/-- An entry of the log (R438). -/
def logEntry (ev : FaultEvent) (flags : Byte) (seq : W32) (rtc : BitVec 64) : BitVec 256 :=
  put 256 ev.code 0 ||| put 256 flags 16 ||| put 256 seq 32 ||| put 256 rtc 64 ||| put 256 ev.tick 128 ||| put 256 ev.arg 192

/-- The place of entry `k`. -/
def logSlot (k : W32) : BitVec 7 := BitVec.ofNat 7 (k.toNat % 127)

/-- Continuation entries written from entry `k` on. -/
def logCont (l : List (BitVec 224)) (k : W32) (t : Tbl 7 (BitVec 256)) : Tbl 7 (BitVec 256) :=
  match l with
  | [] => t
  | c :: r => logCont r (k + 1#32) (t.set (logSlot k) (put 256 c 32))

/-- The collector writes an event (R438 to R440): an empty log where the header does not stand, a repetition of the
newest entry within 1 s, or a new entry with its continuations. DEDUCED: log entry 43. -/
def logEvent (hp : Bool) (rtc : BitVec 64) (valid : Bool) (ev : FaultEvent) (x : Faults) : Faults :=
  let x := if x.headerOk then x
    else { x with
      headerOk := true, wr := 0#32, lost := 0#32, mirwr := 0#32, hpcode := 0#16, entries := Tbl.all 7 0#256
      newest := none, fresh := true, keepHalf := x.mirrorHalf }
  let x := { x with last := ev.code, logged := satInc x.logged }
  let again := match x.newest with
    | some (c, a, t, k) => if c = ev.code ∧ a = ev.arg ∧ ev.time ≤ t + 102_400_000 then some k else none
    | none => none
  match again with
  | some k => { x with entries := x.entries.upd (logSlot k) fun w => setFld w 24 8 (satInc (fld w 24 8 : Byte)) }
  | none =>
    let flags : Byte := at_ (!valid) 0 ||| at_ hp 1 ||| at_ (!ev.cont.isEmpty) 2
    { x with
      entries := logCont ev.cont (x.wr + 1#32) (x.entries.set (logSlot x.wr) (logEntry ev flags x.wr rtc))
      newest := some (ev.code, ev.arg, ev.time, x.wr), wr := x.wr + BitVec.ofNat 32 (1 + ev.cont.length) }

/-! ### Register accesses -/

def watchRegRead (off : Nat) (m : Mach) : W32 :=
  let w := m.watch
  let x := w.wd.get w.sel
  match off with
  | 0x700 => put 32 w.sel 0
  | 0x704 => wdCfgWord x
  | 0x708 => put 32 x.wmin 0 ||| put 32 x.wmax 16
  | 0x710 => fld x.pc 0 32
  | 0x714 => wdEvid1Word x
  | 0x718 => put 32 w.mSalt 0 ||| put 32 w.mMin 16 ||| put 32 w.mMax 24
  | 0x720 => put 32 w.cnt 0 ||| at_ w.bkpLost 12
  | 0x724 => hpStatWord m.faults
  | 0x72C => put 32 m.faults.esc 0
  | 0x734 => put 32 m.faults.last 0 ||| at_ m.faults.fresh 16 ||| at_ m.faults.werr 17
  | 0x738 => m.faults.swa0
  | 0x73C => m.faults.swa1
  | _ => 0#32

def watchRegReadFx (off : Nat) (m : Mach) : Mach :=
  match off with
  | 0x714 => modWd m.watch.sel (fun x => { x with bitten := false }) m
  | _ => m

/-- A write to one of them but WD_SVC, by the keeper. -/
def watchRegWrite (w : Who) (off : Nat) (v : W32) (m : Mach) : Mach :=
  match off with
  | 0x700 => modWatch (fun x => { x with sel := fld v 0 7 }) m
  | 0x704 => modWd m.watch.sel (wdCfgWrite v) m
  | 0x708 => wdWinWrite v m
  | 0x718 =>
    if (fld v 24 8 : Byte) ≤ fld v 16 8 then modFaults (fun x => { x with werr := true }) m
    else modWatch (fun x => { x with mSalt := fld v 0 16, mMin := fld v 16 8, mMax := fld v 24 8 }) m
  | 0x71C => mwdService w v m
  | 0x720 => modWatch (fun x => { x with bkpLost := x.bkpLost && !bit v 12 }) m
  | 0x728 => hpCtl v m
  | 0x72C => fltEscWrite v m
  | 0x730 => fltSw v m
  | 0x734 => modFaults (fun x => { x with werr := x.werr && !bit v 17 }) m
  | 0x738 => modFaults (fun x => { x with swa0 := v }) m
  | 0x73C => modFaults (fun x => { x with swa1 := v }) m
  | _ => m

end Sys2Proof.Machine
end

