-- ==== Sys2Proof/Machine/PowerRegs.lean ====
section
/-! DEFINITION. The registers of power, heat, the sentinel, the RTC and the Yunal link (R510). -/

namespace Sys2Proof.Machine

open Sys2Proof

def modPwr (f : Power → Power) (m : Mach) : Mach := { m with pwr := f m.pwr }
def modBkp (f : Backup → Backup) (m : Mach) : Mach := { m with bkp := f m.bkp }
def modYl (f : Yunal → Yunal) (m : Mach) : Mach := { m with yl := f m.yl }

def pwrStatWord (x : Power) (c : Bool) : W32 :=
  at_ x.mainOk 0 ||| at_ x.pfw 1 ||| at_ x.fp1 2 ||| at_ x.fp2 3 ||| at_ (!x.railLow) 4 ||| at_ x.flim 5 ||| at_ c 6
    ||| put 32 x.dips 8 ||| put 32 x.fieldMa 16

def thermStatWord (x : Power) : W32 :=
  put 32 x.coreClk 0 ||| at_ x.rdy 2 ||| put 32 x.level 3 ||| at_ (decide (x.dram2x ≠ 0#2)) 5
    ||| at_ (decide (x.dramThr ≠ 0#2)) 6 ||| put 32 x.tmax 16

def sentStatWord (x : Backup) : W32 :=
  put 32 x.sentIn 0 ||| put 32 x.rly 8 ||| put 32 x.pend 10 ||| at_ x.guard 12

/-- TILE_PWR (R493). -/
def tilePwrWord (x : Power) : W32 :=
  (range 0 32).foldl (fun w t => w ||| at_ (decide (x.tiles.get (BitVec.ofNat 5 t) = .on ∨ x.tiles.get (BitVec.ofNat 5 t) = .warm)) t) 0#32

def rtcCtlWord (x : Backup) : W32 := at_ x.almEn 1 ||| at_ x.almHit 2 ||| at_ x.valid 3

def ylCode : YlState → BitVec 2
  | .off => 0#2
  | .silt => 1#2
  | .train => 2#2
  | .full => 3#2

def ylCtlWord (x : Yunal) : W32 :=
  at_ x.fullEn 0 ||| at_ x.takeover 1 ||| at_ x.take 2 ||| at_ x.rmv 3 ||| at_ x.wake 4

def ylStatWord (x : Yunal) : W32 :=
  put 32 (ylCode x.st) 0 ||| at_ x.pres 2 ||| put 32 x.pflags 3 ||| put 32 x.pslot 8 ||| put 32 x.mlag 16 ||| at_ x.mfence 24

/-! ### The sentinel's relays (R491) -/

/-- Relay `k` is driven to alarm for an input in a new state, if the energy guard passes; otherwise it waits, and that is
logged. A relay in its alarm position is not pulsed again. -/
def driveRelay (k : Nat) (arg : W64) (m : Mach) : Mach :=
  if bit m.bkp.rly k then m
  else if m.bkp.guard then modBkp (fun x => { x with rly := x.rly ||| at_ true k, pend := x.pend &&& ~~~(at_ true k) }) m
  else report 0x0808 arg (modBkp (fun x => { x with pend := x.pend ||| at_ true k }) m)

/-- SENT_CTL.RESET and TEST (R510). -/
def relayReset (k : Nat) (m : Mach) : Mach :=
  modBkp (fun x => { x with rly := x.rly &&& ~~~(at_ true k), pend := x.pend &&& ~~~(at_ true k) }) m

def sentCtl (v : W32) (m : Mach) : Mach :=
  if fld v 16 16 ≠ 0x5A3C#16 then m
  else
    let m := (range 0 2).foldl (fun m k => if bit v k then relayReset k m else m) m
    (range 0 2).foldl (fun m k => if bit v (2 + k) then driveRelay k 0#64 m else m) m

/-- A write to RTC_CTL (R492). -/
def rtcCtl (v : W32) (m : Mach) : Mach :=
  modBkp (fun x => { x with
    almEn := bit v 1, almHit := x.almHit && !bit v 2
    rtcLoad := if bit v 0 ∧ fld v 16 16 = 0x5A3C#16 then some (x.setHi ++ x.setLo) else x.rtcLoad }) m

/-! ### Mirror entries (R509, R510) -/

def mirComp (w : W32) : BitVec 10 := fld w 0 10
def mirSize (w : W32) : Nat := (fld w 10 5 : BitVec 5).toNat
def mirValid (w : W32) : Bool := bit w 15
def mirBase (w : W32) : Addr := 0x4000_0000#36 ||| put 36 (fld w 16 8 : Byte) 16

/-- A write to YL_MIRk; a valid entry of a wrong size or reaching too far is ignored. -/
def ylMirWrite (k : BitVec 4) (v : W32) (m : Mach) : Mach :=
  if mirValid v && (decide (mirSize v < 2 ∨ 16 < mirSize v)
      || decide (0x40F0_0000 < (mirBase v).toNat + 4096 * mirSize v)) then m
  else modYl (fun x => { x with mir := x.mir.set k ((fld v 0 24 : BitVec 24).setWidth 32) }) m

/-! ### Register accesses -/

def powerRegRead (off : Nat) (m : Mach) : W32 :=
  let b := m.bkp
  if 0x940 ≤ off ∧ off < 0x980 then m.yl.mir.get (BitVec.ofNat 4 ((off - 0x940) / 4))
  else
    match off with
    | 0x800 => pwrStatWord m.pwr m.pwr.cellLow
    | 0x804 => thermStatWord m.pwr
    | 0x808 => at_ m.pwr.surgeEn 0
    | 0x80C => b.sentCfg
    | 0x810 => sentStatWord b
    | 0x818 => b.scr.get 0#2
    | 0x81C => b.scr.get 1#2
    | 0x820 => b.scr.get 2#2
    | 0x824 => b.scr.get 3#2
    | 0x828 => tilePwrWord m.pwr
    | 0x830 => fld b.rtc 0 32
    | 0x834 => b.rtcHi
    | 0x838 => b.setLo
    | 0x83C => b.setHi
    | 0x840 => b.alm
    | 0x844 => rtcCtlWord b
    | 0x900 => ylCtlWord m.yl
    | 0x904 => ylStatWord m.yl
    | 0x908 => m.yl.ptick
    | 0x90C => m.yl.pgive
    | _ => 0#32

def powerRegReadFx (off : Nat) (m : Mach) : Mach :=
  match off with
  | 0x800 => modPwr (fun x => { x with dips := 0#8 }) m
  | 0x830 => modBkp (fun x => { x with rtcHi := fld x.rtc 32 32 }) m
  | 0x904 => modYl (fun x => { x with mlag := 0#8 }) m
  | _ => m

def powerRegWrite (off : Nat) (v : W32) (m : Mach) : Mach :=
  let scr (k : BitVec 2) := modBkp (fun x => { x with scr := x.scr.set k v }) m
  if 0x940 ≤ off ∧ off < 0x980 then ylMirWrite (BitVec.ofNat 4 ((off - 0x940) / 4)) v m
  else
    match off with
    | 0x808 => modPwr (fun x => { x with surgeEn := bit v 0 }) m
    | 0x80C => modBkp (fun x => { x with sentCfg := v }) m
    | 0x814 => sentCtl v m
    | 0x818 => scr 0#2
    | 0x81C => scr 1#2
    | 0x820 => scr 2#2
    | 0x824 => scr 3#2
    | 0x838 => modBkp (fun x => { x with setLo := v }) m
    | 0x83C => modBkp (fun x => { x with setHi := v }) m
    | 0x840 => modBkp (fun x => { x with alm := v }) m
    | 0x844 => rtcCtl v m
    | 0x900 => modYl (fun x => { x with
        fullEn := bit v 0, takeover := bit v 1, take := bit v 2, rmv := bit v 3, wake := bit v 4 }) m
    | 0x904 => modYl (fun x => { x with mfence := x.mfence && !bit v 24 }) m
    | _ => m

end Sys2Proof.Machine
end

