-- ==== Sys2Proof/Machine/Crypto.lean ====
section
/-! DEFINITION. The published functions that R407 to R410 and R422 name, on octet strings, first octet first (R409): SHA-384
(FIPS 180-4), AES-256 with GCM and GMAC (FIPS 197, SP 800-38D), ECDSA P-384 verification (FIPS 186-5), and the health
tests of SP 800-90B. PRESUMED: taken from those standards, which R8 makes part of the module. -/

namespace Sys2Proof.Machine

open Sys2Proof

/-- An octet string of `n` octets, the first one the most significant. -/
def beBytes {w : Nat} (v : BitVec w) (n : Nat) : List Byte := (bytesOf v 0 n).reverse

/-- The number that an octet string stands for, its first octet the most significant. -/
def beNat (l : List Byte) : Nat := leNat l.reverse

/-- Octets combined bit by bit. -/
def xorBytes (a b : List Byte) : List Byte := a.zipWith (· ^^^ ·) b

/-- An octet string cut into pieces of `k` octets, as many as `fuel`. -/
def chunks (k : Nat) (l : List Byte) : Nat → List (List Byte)
  | 0 => []
  | n + 1 => if l.isEmpty then [] else l.take k :: chunks k (l.drop k) n

/-! ### SHA-384 -/

/-- The greatest number of `k` bits whose power `e` does not exceed `n`. -/
def rootOf (e n : Nat) : Nat → Nat → Nat
  | 0, acc => acc
  | k + 1, acc => rootOf e n k (if (acc + 2 ^ k) ^ e ≤ n then acc + 2 ^ k else acc)

/-- The first 80 primes. -/
def primes : List Nat := (range 2 408).filter fun n => (range 2 19).all fun d => decide (n ≤ d) || decide (n % d ≠ 0)

/-- The first 64 fraction bits of the cube roots of the first 80 primes. -/
def shaK : List W64 := primes.map fun p => BitVec.ofNat 64 (rootOf 3 (p * 2 ^ 192) 68 0)

/-- The first 64 fraction bits of the square roots of the ninth to sixteenth primes. -/
def shaInit : List W64 := ((primes.drop 8).take 8).map fun p => BitVec.ofNat 64 (rootOf 2 (p * 2 ^ 128) 70 0)

def rotr (x : W64) (n : Nat) : W64 := x.rotateRight n
def shaSmall0 (x : W64) : W64 := rotr x 1 ^^^ rotr x 8 ^^^ (x >>> 7)
def shaSmall1 (x : W64) : W64 := rotr x 19 ^^^ rotr x 61 ^^^ (x >>> 6)
def shaBig0 (x : W64) : W64 := rotr x 28 ^^^ rotr x 34 ^^^ rotr x 39
def shaBig1 (x : W64) : W64 := rotr x 14 ^^^ rotr x 18 ^^^ rotr x 41

/-- The message schedule, its latest word first. -/
def shaSchedule : Nat → List W64 → List W64
  | 0, w => w
  | n + 1, w =>
    shaSchedule n ((shaSmall1 (w.getD 1 0#64) + w.getD 6 0#64 + shaSmall0 (w.getD 14 0#64) + w.getD 15 0#64) :: w)

/-- One round on the eight working variables. -/
def shaRound (h : List W64) (kw : W64 × W64) : List W64 :=
  match h with
  | [a, b, c, d, e, f, g, x] =>
    let t1 := x + shaBig1 e + ((e &&& f) ^^^ (~~~e &&& g)) + kw.1 + kw.2
    let t2 := shaBig0 a + ((a &&& b) ^^^ (a &&& c) ^^^ (b &&& c))
    [t1 + t2, a, b, c, d + t1, e, f, g]
  | h => h

/-- One block of 128 octets. -/
def shaBlock (h : List W64) (b : List Byte) : List W64 :=
  let w := (chunks 8 b 16).map fun x => BitVec.ofNat 64 (beNat x)
  let s := (shaSchedule 64 w.reverse).reverse
  h.zipWith (· + ·) ((shaK.zip s).foldl shaRound h)

/-- SHA-384. PRESUMED: log entry 39. -/
def sha384 (m : List Byte) : List Byte :=
  let z := (111 + 128 - m.length % 128) % 128
  let p := m ++ [0x80#8] ++ List.replicate z 0#8 ++ beBytes (BitVec.ofNat 128 (8 * m.length)) 16
  let h := (chunks 128 p (p.length / 128)).foldl shaBlock shaInit
  ((h.map fun x => beBytes x 8).foldl (· ++ ·) []).take 48

/-! ### AES-256 -/

/-- A product by x modulo x^8 + x^4 + x^3 + x + 1. -/
def aesDouble (a : Byte) : Byte := if bit a 7 then (a <<< 1) ^^^ 0x1B#8 else a <<< 1

/-- A product in that field. -/
def aesMul (a b : Byte) : Byte :=
  ((range 0 8).foldl (fun (acc : Byte × Byte) i =>
    (if bit b i then acc.1 ^^^ acc.2 else acc.1, aesDouble acc.2)) (0#8, a)).1

/-- The inverse, a^254. -/
def aesInv (a : Byte) : Byte :=
  let a2 := aesMul a a
  let a4 := aesMul a2 a2
  let a8 := aesMul a4 a4
  let a16 := aesMul a8 a8
  let a32 := aesMul a16 a16
  let a64 := aesMul a32 a32
  let a128 := aesMul a64 a64
  aesMul a128 (aesMul a64 (aesMul a32 (aesMul a16 (aesMul a8 (aesMul a4 a2)))))

/-- The S-box. -/
def aesSub (a : Byte) : Byte :=
  let b := aesInv a
  b ^^^ b.rotateLeft 1 ^^^ b.rotateLeft 2 ^^^ b.rotateLeft 3 ^^^ b.rotateLeft 4 ^^^ 0x63#8

/-- The words of the key schedule, the latest first; `n` words are still to come, `i` is the next one's number. -/
def aesExpand : Nat → Nat → Byte → List (List Byte) → List (List Byte)
  | 0, _, _, w => w
  | n + 1, i, rc, w =>
    let prev := w.headD []
    let t := if i % 8 = 0 then
        (match (prev.drop 1 ++ prev.take 1).map aesSub with
        | x :: r => (x ^^^ rc) :: r
        | [] => [])
      else if i % 8 = 4 then prev.map aesSub
      else prev
    aesExpand n (i + 1) (if i % 8 = 0 then aesDouble rc else rc) (xorBytes (w.getD 7 []) t :: w)

/-- The round keys of a key of 32 octets. -/
def aesKeys (key : List Byte) : List (List Byte) :=
  let w := (aesExpand 52 8 0x01#8 (chunks 4 key 8).reverse).reverse
  (range 0 15).map fun r => ((w.drop (4 * r)).take 4).foldl (· ++ ·) []

/-- ShiftRows on the 16 octets, column by column. -/
def aesShift (s : List Byte) : List Byte :=
  (range 0 16).map fun i => s.getD ((4 * (i / 4 + i % 4) + i % 4) % 16) 0#8

/-- MixColumns of one column. -/
def aesMixCol : List Byte → List Byte
  | [a, b, c, d] =>
    let t := a ^^^ b ^^^ c ^^^ d
    [a ^^^ t ^^^ aesDouble (a ^^^ b), b ^^^ t ^^^ aesDouble (b ^^^ c), c ^^^ t ^^^ aesDouble (c ^^^ d),
      d ^^^ t ^^^ aesDouble (d ^^^ a)]
  | l => l

/-- The rounds after the first key. -/
def aesRounds : List (List Byte) → List Byte → List Byte
  | [], s => s
  | [k], s => xorBytes (aesShift (s.map aesSub)) k
  | k :: ks, s =>
    aesRounds ks (xorBytes (((chunks 4 (aesShift (s.map aesSub)) 4).map aesMixCol).foldl (· ++ ·) []) k)

/-- AES-256 encryption of a block of 16 octets. PRESUMED: log entry 39. -/
def aes256 (key block : List Byte) : List Byte :=
  match aesKeys key with
  | k :: ks => aesRounds ks (xorBytes block k)
  | [] => []

/-! ### GCM -/

/-- The product of GHASH on blocks whose first bit is the most significant. -/
def ghMul (x y : Gran) : Gran :=
  ((range 0 128).foldl (fun (acc : Gran × Gran) i =>
    (if bit x (127 - i) then acc.1 ^^^ acc.2 else acc.1,
     if bit acc.2 0 then (acc.2 >>> 1) ^^^ (0xE1#128 <<< 120) else acc.2 >>> 1)) (0#128, y)).1

/-- Octets as blocks, the last one filled with zeros. -/
def ghBlocks (l : List Byte) : List Gran :=
  (chunks 16 l (l.length / 16 + 1)).map fun b => BitVec.ofNat 128 (beNat (b ++ List.replicate (16 - b.length) 0#8))

def ghash (h : Gran) (l : List Gran) : Gran := l.foldl (fun acc b => ghMul (acc ^^^ b) h) 0#128

/-- The key stream from counter block `ctr` on. -/
def gcmStream (key iv : List Byte) : Nat → Nat → List Byte
  | 0, _ => []
  | n + 1, ctr => aes256 key (iv ++ beBytes (BitVec.ofNat 32 ctr) 4) ++ gcmStream key iv n (ctr + 1)

/-- The GCM tag of associated data and ciphertext, with an IV of 12 octets. -/
def gcmTag (key iv aad ct : List Byte) : List Byte :=
  let h := BitVec.ofNat 128 (beNat (aes256 key (List.replicate 16 0#8)))
  let len : Gran := BitVec.ofNat 128 (8 * aad.length * 2 ^ 64 + 8 * ct.length)
  xorBytes (beBytes (ghash h (ghBlocks aad ++ ghBlocks ct ++ [len])) 16)
    (aes256 key (iv ++ [0#8, 0#8, 0#8, 1#8]))

/-- Authenticated decryption: the plaintext, or nothing where the tag differs. PRESUMED: log entry 39. -/
def gcmOpen (key iv aad ct tag : List Byte) : Option (List Byte) :=
  if gcmTag key iv aad ct = tag then some (xorBytes ct (gcmStream key iv (ct.length / 16 + 1) 2)) else none

/-- GMAC: the tag of associated data alone. PRESUMED: log entry 39. -/
def gmac (key iv data : List Byte) : List Byte := gcmTag key iv data []

/-! ### ECDSA P-384 -/

def p384 : Nat := 2 ^ 384 - 2 ^ 128 - 2 ^ 96 + 2 ^ 32 - 1
def p384b : Nat :=
  0xB3312FA7E23EE7E4988E056BE3F82D19181D9C6EFE8141120314088F5013875AC656398D8A2ED19D2A85C8EDD3EC2AEF
def p384n : Nat :=
  0xFFFFFFFFFFFFFFFFFFFFFFFFFFFFFFFFFFFFFFFFFFFFFFFFC7634D81F4372DDF581A0DB248B0A77AECEC196ACCC52973
def p384G : Nat × Nat :=
  (0xAA87CA22BE8B05378EB1C71EF320AD746E1D3B628BA79B9859F741E082542A385502F25DBF55296C3A545E3872760AB7,
   0x3617DE4A96262C6F5D9E98BF9292DC29F8F41DBD289A147CE9DA3113B5F0B8C00A60B1CE1D7E819D7A431D7C90EA0E5F)

/-- b^e modulo m, for an e of at most `fuel` bits. -/
def powMod (m : Nat) : Nat → Nat → Nat → Nat
  | 0, _, _ => 1 % m
  | k + 1, b, e =>
    let h := powMod m k (b * b % m) (e / 2)
    if e % 2 = 1 then h * b % m else h

def invMod (m x : Nat) : Nat := powMod m 384 (x % m) (m - 2)
def subP (a b : Nat) : Nat := (a + p384 - b % p384) % p384

/-- The sum of two points; none is the point at infinity. -/
def ecAdd : Option (Nat × Nat) → Option (Nat × Nat) → Option (Nat × Nat)
  | none, q => q
  | p, none => p
  | some (x1, y1), some (x2, y2) =>
    if x1 = x2 ∧ (y1 + y2) % p384 = 0 then none
    else
      let l := if x1 = x2 then subP (3 * x1 * x1) 3 * invMod p384 (2 * y1) % p384
        else subP y2 y1 * invMod p384 (subP x2 x1) % p384
      let x3 := subP (subP (l * l) x1) x2
      some (x3, subP (l * subP x1 x3) y1)

/-- The multiple by a scalar of at most `fuel` bits. -/
def ecMul (p : Option (Nat × Nat)) : Nat → Nat → Option (Nat × Nat)
  | 0, _ => none
  | k + 1, n =>
    let d := ecMul p k (n / 2)
    let d := ecAdd d d
    if n % 2 = 1 then ecAdd d p else d

/-- A point of the curve, as a public key of 96 octets gives it (R409). -/
def ecPoint (pub : List Byte) : Option (Nat × Nat) :=
  let x := beNat (pub.take 48)
  let y := beNat ((pub.drop 48).take 48)
  if pub.length = 96 ∧ x < p384 ∧ y < p384 ∧ y * y % p384 = (x * x * x + (p384 - 3) * x + p384b) % p384 then some (x, y)
  else none

/-- A signature of 96 octets over a message verifies under a public key. PRESUMED: log entry 39. -/
def ecdsaVerify (pub msg sig : List Byte) : Bool :=
  let r := beNat (sig.take 48)
  let s := beNat ((sig.drop 48).take 48)
  match ecPoint pub with
  | none => false
  | some q =>
    if sig.length ≠ 96 ∨ r = 0 ∨ p384n ≤ r ∨ s = 0 ∨ p384n ≤ s then false
    else
      let w := invMod p384n s
      let e := beNat (sha384 msg)
      match ecAdd (ecMul (some p384G) 384 (e * w % p384n)) (ecMul (some q) 384 (r * w % p384n)) with
      | none => false
      | some (x, _) => decide (x % p384n = r)

/-- A signature of 96 octets over a message under a private key, with the random number `k`. PRESUMED: log entry 39. -/
def ecdsaSign (d k : Nat) (msg : List Byte) : List Byte :=
  let r := ((ecMul (some p384G) 384 k).getD (0, 0)).1 % p384n
  let s := invMod p384n k * (beNat (sha384 msg) + r * d) % p384n
  beBytes (BitVec.ofNat 384 r) 48 ++ beBytes (BitVec.ofNat 384 s) 48

/-! ### The DRBG (R8, R422): CTR_DRBG of SP 800-90A with AES-256 and the derivation function -/

/-- The cipher-block-chaining value of whole blocks under a key. -/
def drbgBcc (key : List Byte) (blocks : List (List Byte)) : List Byte :=
  blocks.foldl (fun c b => aes256 key (xorBytes c b)) (List.replicate 16 0#8)

/-- The derivation function: 48 octets from an input of any length. PRESUMED: log entry 39. -/
def drbgDf (input : List Byte) : List Byte :=
  let s := beBytes (BitVec.ofNat 32 input.length) 4 ++ beBytes (48#32) 4 ++ input ++ [0x80#8]
  let s := s ++ List.replicate ((16 - s.length % 16) % 16) 0#8
  let key : List Byte := (range 0 32).map (BitVec.ofNat 8)
  let part (i : Nat) : List Byte :=
    drbgBcc key ((beBytes (BitVec.ofNat 32 i) 4 ++ List.replicate 12 0#8) :: chunks 16 s (s.length / 16))
  let temp := part 0 ++ part 1 ++ part 2
  let k := temp.take 32
  let x0 := aes256 k ((temp.drop 32).take 16)
  let x1 := aes256 k x0
  x0 ++ x1 ++ aes256 k x1

/-- The working state: Key and V, as octet strings. -/
structure DrbgState where
  key : List Byte
  v : List Byte
  deriving DecidableEq, Repr

/-- The counter block `n` after V. -/
def DrbgState.block (s : DrbgState) (n : Nat) : List Byte :=
  aes256 s.key (beBytes (BitVec.ofNat 128 (beNat s.v + n)) 16)

/-- CTR_DRBG_Update with 48 octets. PRESUMED: log entry 39. -/
def DrbgState.update (s : DrbgState) (data : List Byte) : DrbgState :=
  let t := xorBytes (s.block 1 ++ s.block 2 ++ s.block 3) data
  ⟨t.take 32, t.drop 32⟩

/-- Instantiation from entropy and a personalisation string. -/
def drbgSeed (entropy person : List Byte) : DrbgState :=
  DrbgState.update ⟨List.replicate 32 0#8, List.replicate 16 0#8⟩ (drbgDf (entropy ++ person))

/-- A reseed. -/
def DrbgState.reseed (s : DrbgState) (entropy : List Byte) : DrbgState := s.update (drbgDf entropy)

/-- A generate call of `n` blocks: the octets, and the state after it. PRESUMED: log entry 39. -/
def DrbgState.generate (s : DrbgState) (n : Nat) : List Byte × DrbgState :=
  ((range 1 n).flatMap s.block,
    DrbgState.update ⟨s.key, beBytes (BitVec.ofNat 128 (beNat s.v + n)) 16⟩ (List.replicate 48 0#8))

/-- Samples as octets, the first sample the most significant bit of the first. DESIGN CHOICE: log entry 40. -/
def sampleBytes (s : BitVec 1024) : List Byte :=
  (range 0 128).map fun i => (range 0 8).foldl (fun a k => a ||| at_ (bit s (8 * i + k)) (7 - k)) 0#8

/-! ### Health tests of the TRNG (R422) -/

/-- The longest run of equal samples, from sample `i` on. -/
def longestRun (s : BitVec 1024) : Nat :=
  ((range 0 1024).foldl (fun (acc : Nat × Nat) i =>
    let run := if i ≠ 0 ∧ bit s i = bit s (i - 1) then acc.1 + 1 else 1
    (run, max acc.2 run)) (0, 0)).2

/-- The samples that equal the first. -/
def firstCount (s : BitVec 1024) : Nat := ((range 0 1024).filter fun i => bit s i == bit s 0).length

/-- The cutoff of the adaptive proportion test over 1024 samples of 0.5 bit with a false-alarm probability of 2^-20.
PRESUMED: log entry 39. -/
def proportionCutoff : Nat := 793

/-- The start-up test: both health tests on 1024 samples. PRESUMED: log entry 39. -/
def healthy (s : BitVec 1024) : Bool := decide (longestRun s < 41) && decide (firstCount s < proportionCutoff)

end Sys2Proof.Machine
end

