-- ==== Sys2Proof/Machine/TickRegs.lean ====
section
/-! DEFINITION. The registers of the tick, the tilth table and the modes (R38, R54), with mode requests (R42 to R46). -/

namespace Sys2Proof.Machine

open Sys2Proof

def modTick (f : TickSt → TickSt) (m : Mach) : Mach := { m with tick := f m.tick }
def modMode (f : ModeSt → ModeSt) (m : Mach) : Mach := { m with mode := f m.mode }

/-! ### Tick and tilth (R11, R17, R31, R38) -/

/-- The modes in which TICK_CTL, TICK_PERIOD and TICK_HOLD accept writes (R17). -/
def tickWritable (m : Mach) : Bool := decide (m.mode.mode = .wake) || decide (m.mode.mode = .commission)

def tickStatWord (t : TickSt) : W32 :=
  at_ t.extLock 0 ||| at_ t.holdover 1 ||| at_ t.holdExpired 2 ||| at_ t.werr 3 ||| put 32 t.spurious 16

def tilthStatWord (t : TickSt) : W32 :=
  at_ t.active 0 ||| at_ t.swapPend 1 ||| at_ t.malformed 2 ||| at_ t.skip 3

/-- A write to TICK_CTL (R17). -/
def tickCtlWrite (v : W32) (m : Mach) : Mach :=
  if tickWritable m then modTick (fun t => { t with srcNext := some (bit v 0) }) m
  else modTick (fun t => { t with werr := true }) m

/-- The periods that TICK_PERIOD takes, in µs (R11). -/
def periodOk (p : BitVec 17) : Bool := decide (250 ≤ p.toNat) && decide (p.toNat ≤ 100_000)

/-- A write to TICK_PERIOD (R11, R17). -/
def tickPeriodWrite (v : W32) (m : Mach) : Mach :=
  if tickWritable m && periodOk (fld v 0 17) then modTick (fun t => { t with periodNext := some (fld v 0 17) }) m
  else modTick (fun t => { t with werr := true }) m

/-- A write to TICK_HOLD: a field of 0 is ignored (R17, R38). DEDUCED: log entry 31. -/
def tickHoldWrite (v : W32) (m : Mach) : Mach :=
  let l : BitVec 16 := fld v 0 16
  let r : BitVec 4 := fld v 16 4
  if tickWritable m then
    modTick (fun t => { t with
      limitNext := if l = 0#16 then t.limitNext else some l
      reacqNext := if r = 0#4 then t.reacqNext else some r
      werr := t.werr || decide (l = 0#16) || decide (r = 0#4) }) m
  else modTick (fun t => { t with werr := true }) m

/-- A write to TICK_STAT. -/
def tickStatWrite (v : W32) (m : Mach) : Mach :=
  modTick (fun t => { t with holdExpired := t.holdExpired && !bit v 2, werr := t.werr && !bit v 3 }) m

/-- A write to TILTH_CTL (R31). -/
def tilthCtlWrite (v : W32) (m : Mach) : Mach := modTick (fun t => { t with swapPend := t.swapPend || bit v 0 }) m

/-- A write to TILTH_STAT. -/
def tilthStatWrite (v : W32) (m : Mach) : Mach :=
  modTick (fun t => { t with malformed := t.malformed && !bit v 2, skip := t.skip && !bit v 3 }) m

/-- A write to OVR_CTL (R38). -/
def ovrCtlWrite (v : W32) (m : Mach) : Mach :=
  let l : BitVec 8 := fld v 0 8
  if l = 0#8 then modTick (fun t => { t with werr := true }) m else modTick (fun t => { t with ovrLimit := l }) m

/-- The value of a tick or tilth register at an offset from 0x100. -/
def tickRegRead (off : Nat) (m : Mach) : W32 :=
  let t := m.tick
  match off with
  | 0x100 => at_ t.src 0
  | 0x104 => put 32 t.period 0
  | 0x108 => put 32 t.limit 0 ||| put 32 t.reacq 16
  | 0x10C => tickStatWord t
  | 0x110 => fld t.count 0 32
  | 0x114 => t.countHi
  | 0x11C => tilthStatWord t
  | 0x120 => put 32 t.ovrLimit 0
  | _ => 0#32

/-- What a read of one of them does (R38). -/
def tickRegReadFx (off : Nat) (m : Mach) : Mach :=
  match off with
  | 0x10C => modTick (fun t => { t with spurious := 0#16 }) m
  | 0x110 => modTick (fun t => { t with countHi := fld t.count 32 32 }) m
  | _ => m

/-- A write to one of them. -/
def tickRegWrite (off : Nat) (v : W32) (m : Mach) : Mach :=
  match off with
  | 0x100 => tickCtlWrite v m
  | 0x104 => tickPeriodWrite v m
  | 0x108 => tickHoldWrite v m
  | 0x10C => tickStatWrite v m
  | 0x118 => tilthCtlWrite v m
  | 0x11C => tilthStatWrite v m
  | 0x120 => ovrCtlWrite v m
  | _ => m

/-! ### Modes (R39 to R46, R54) -/

/-- MODE's encoding (R39). -/
def modeCode : Mode → BitVec 3
  | .dormant => 0#3
  | .wake => 1#3
  | .commission => 2#3
  | .operate => 3#3
  | .sleep => 4#3
  | .hardpan => 5#3

/-- The mode that a target names; none for 6 and 7. -/
def modeOf (t : BitVec 3) : Option Mode :=
  match t.toNat with
  | 0 => some .dormant
  | 1 => some .wake
  | 2 => some .commission
  | 3 => some .operate
  | 4 => some .sleep
  | 5 => some .hardpan
  | _ => none

/-- The transitions that a mode request makes (R41). -/
def requestable : Mode → Mode → Bool
  | .commission, .operate => true
  | .operate, .commission => true
  | .operate, .sleep => true
  | .sleep, .operate => true
  | _, _ => false

/-- The condition of R44 that fails, by its code; 0 if none does. -/
def entryRefusal (m : Mach) : BitVec 4 :=
  if 2 ≤ m.dbg.level.toNat then 4#4
  else if m.dbg.bscan then 5#4
  else if m.chans.toList.any Chan.live then 6#4
  else 0#4

/-- The code with which a word written to MODE_REQ is refused, the lowest of those that hold; 0 if none does (R43). -/
def modeRefusal (v : W32) (m : Mach) : BitVec 4 :=
  let target := modeOf (fld v 0 3)
  let known := match target with
    | some t => requestable m.mode.mode t
    | none => false
  if !known || decide (fld v 3 13 ≠ 0#13) then 1#4
  else if fld v 16 16 ≠ 0x5A3C#16 then 2#4
  else if m.mode.pend.isSome then 3#4
  else if m.mode.mode = .commission ∧ target = some .operate then entryRefusal m
  else 0#4

/-- A tile domain asked to power up (R493, R494). DEDUCED: log entry 55. -/
def TilePower.wake : TilePower → TilePower
  | .off => .up
  | .down _ => .down true
  | x => x

/-- A request to leave SLEEP is accepted: the tiles begin to power up and DRAM leaves self-refresh (R41, R493).
DEDUCED: log entry 55. -/
def leaveSleep (m : Mach) : Mach :=
  if m.mode.mode = .sleep then
    { m with pwr := { m.pwr with tiles := m.pwr.tiles.map TilePower.wake, selfRefresh := false } }
  else m

/-- A mode request by the keeper: pending for the tick of R42, or refused (R43). -/
def modeRequest (v : W32) (m : Mach) : Mach :=
  let k := modeRefusal v m
  if k = 0#4 then
    leaveSleep <| modMode (fun x => { x with
      pend := modeOf (fld v 0 3), refuse := 0#4
      pendTick := m.tick.count + (if m.tick.phase = .closed then 2#64 else 1#64) }) m
  else modMode (fun x => { x with refuse := k }) m

def modeStatWord (x : ModeSt) : W32 :=
  put 32 (modeCode x.mode) 0 ||| at_ x.pend.isSome 3
    ||| put 32 ((x.pend.map modeCode).getD 0#3) 4 ||| at_ x.outRel 7 ||| put 32 x.refuse 8

def modeCtlWord (x : ModeSt) : W32 :=
  at_ x.autostart 0 ||| at_ x.wkHost 8 ||| at_ x.wkSent 9 ||| at_ x.wkPeer 10 ||| at_ x.wkRtc 11

/-- A write to MODE_CTL (R46, R54). -/
def modeCtlWrite (v : W32) (m : Mach) : Mach :=
  modMode (fun x => { x with
    outRel := x.outRel || (bit v 1 && decide (x.mode = .operate))
    wkHost := bit v 8, wkSent := bit v 9, wkPeer := bit v 10, wkRtc := bit v 11 }) m

/-- The value of a mode register. -/
def modeRegRead (off : Nat) (m : Mach) : W32 :=
  match off with
  | 0x040 => modeStatWord m.mode
  | 0x048 => modeCtlWord m.mode
  | 0x04C => put 32 m.mode.wakeCause 0 ||| put 32 m.mode.prev 4
  | _ => 0#32

/-- A write to a mode register by the keeper. -/
def modeRegWrite (off : Nat) (v : W32) (m : Mach) : Mach :=
  match off with
  | 0x044 => modeRequest v m
  | 0x048 => modeCtlWrite v m
  | _ => m

end Sys2Proof.Machine
end

