-- ==== Sys2Proof/Machine/SecRegs.lean ====
section
/-! DEFINITION. The security block (R401 to R431): fuses and their resolution, derived keys, the boot flash and key slots,
the commands of the security engine, the flash controller, the random numbers, and their registers. -/

namespace Sys2Proof.Machine

open Sys2Proof

def modSec (f : Sec → Sec) (m : Mach) : Mach := { m with sec := f m.sec }

/-! ### Fuses (R402 to R404) -/

/-- The form of a fuse word (R402, R403): an H field of `n` data words at word `a`, an F field at `a`, T, S. -/
inductive FuseForm where
  | h (a n : Nat)
  | f (a : Nat)
  | t | s
  deriving DecidableEq, Repr

/-- The H fields: their first word and their data words. -/
def hFields : List (Nat × Nat) := [(2, 2), (8, 12), (34, 12), (60, 12), (86, 12), (112, 8), (130, 8)]

def fuseForm (i : Nat) : FuseForm :=
  match hFields.find? fun x => decide (x.1 ≤ i) && decide (i < x.1 + 2 * (x.2 + 1)) with
  | some (a, n) => .h a n
  | none =>
    if i < 2 then .f 0
    else if i = 148 ∨ i = 149 then .f 148
    else if 150 ≤ i ∧ i < 162 then .t
    else .s

def Fuses.lo (f : Fuses) (i : Nat) : W32 := f.m0.get (BitVec.ofNat 8 i)
def Fuses.hi (f : Fuses) (i : Nat) : W32 := f.m1.get (BitVec.ofNat 8 i)

/-- A word passes when its readings are equal (R404). -/
def Fuses.passes (f : Fuses) (i : Nat) : Bool := decide (f.lo i = f.hi i)

/-- An F field (R404). -/
def Fuses.flag (f : Fuses) (a : Nat) : W32 := f.lo a ||| f.lo (a + 1)

/-- LIFECYCLE. -/
def Fuses.life (f : Fuses) : W32 := f.flag 0
def Fuses.provisioned (f : Fuses) : Bool := bit f.life 0
def Fuses.owned (f : Fuses) : Bool := bit f.life 1
def Fuses.retired (f : Fuses) : Bool := bit f.life 2

/-- A T field of `n` words (R404): 1 and the index of the highest bit that reads 1 at M0, or 0. -/
def Fuses.count (f : Fuses) (a n : Nat) : Nat :=
  (range 0 (32 * n)).foldl (fun acc j => if bit (f.lo (a + j / 32)) (j % 32) then j + 1 else acc) 0

def Fuses.keyFloor (f : Fuses) : Nat := f.count 150 8
def Fuses.svnFloor (f : Fuses) : Nat := f.count 158 4

/-- An H field is closed by a lifecycle bit, before which it is not resolved (R404). -/
def Fuses.closed (f : Fuses) (a : Nat) : Bool := if a = 34 ∨ a = 86 then f.owned else f.provisioned

/-- A word of an H field resolved from its primary word and its copy (R404). -/
def Fuses.hWord (f : Fuses) (p c : Nat) : W32 := if f.passes p then f.hi p else if f.passes c then f.hi c else 0#32

/-- The odd parity of a word and its parity bit. -/
def oddParity (w : W32) (p : Bool) : Bool := (range 0 32).foldl (fun acc i => acc ^^ bit w i) p

/-- Why a closed H field stops the boot: the cause and the word (R404); none where it resolves. -/
def Fuses.hFault (f : Fuses) (a n : Nat) : Option (Nat × Nat) :=
  (range 0 (n + 1)).findSome? fun k =>
    let p := a + k
    let c := a + n + 1 + k
    if !f.passes p && !f.passes c then some (1, p)
    else if f.passes p && f.passes c && decide (f.hi p ≠ f.hi c) then some (2, p)
    else if decide (k < n) && !oddParity (f.hWord p c) (bit (f.hWord (a + n) (a + 2 * n + 1)) k) then some (3, p)
    else none

/-- The first fuse fault of a boot: its cause and word (R404, R405). -/
def Fuses.bootFault (f : Fuses) : Option (Nat × Nat) :=
  if f.retired then some (4, 0)
  else hFields.findSome? fun x => if f.closed x.1 then f.hFault x.1 x.2 else none

/-- The H words as a boot resolves them. -/
def Fuses.view (f : Fuses) : Tbl 8 W32 :=
  Vector.ofFn fun (i : Fin 256) =>
    match fuseForm i with
    | .h a n => if f.closed a then f.hWord (a + (i - a) % (n + 1)) (a + n + 1 + (i - a) % (n + 1)) else 0#32
    | _ => 0#32

/-- The F, T and S words that do not pass, which BOOT_STAT counts (R404, R428). DEDUCED: log entry 41.
DEDUCED: log entry 41. DEDUCED: log entry 64. -/
def Fuses.marginal (f : Fuses) : Nat :=
  ((range 0 256).filter fun i =>
    (match fuseForm i with
    | .h _ _ => false
    | _ => true) && !f.passes i).length

/-- FUSE_DATA (R428): H copy words read as their resolved words, the two secret fields as 0. -/
def fuseData (x : Sec) (i : Nat) : W32 :=
  match fuseForm i with
  | .h a _ => if a = 112 ∨ a = 130 then 0#32 else x.hView.get (BitVec.ofNat 8 i)
  | .f a => x.fuse.flag a
  | .t => x.fuse.lo i
  | .s => x.fuse.hi i

/-- Where a word is burnable (R402). -/
def burnable (f : Fuses) (i : Nat) : Bool :=
  match fuseForm i with
  | .h a _ => !f.closed a
  | .f _ => true
  | .t => true
  | .s => decide (i < 192) && !f.provisioned

/-- A LIFECYCLE mask would set a bit above one that reads 0 (R406). -/
def lifeOrder (f : Fuses) (mask : W32) : Bool :=
  (range 0 32).any fun j => bit mask j && (range 0 j).any fun k => !bit f.life k

/-- The first cause of R406 that refuses a burn; 0 if none does. DEDUCED: log entry 41. -/
def burnRefusal (k : Mode) (x : Sec) (key : BitVec 16) : BitVec 3 :=
  if x.burn.isSome then 1#3
  else if key ≠ 0x5A3C#16 then 2#3
  else if k ≠ .wake ∧ k ≠ .commission ∧ k ≠ .operate then 3#3
  else if burnable x.fuse x.fSel.toNat = false then 4#3
  else if x.fSel.toNat < 2 ∧ lifeOrder x.fuse x.fMask = true then 5#3
  else 0#3

/-- A write to FUSE_CTL (R406). -/
def fuseCtl (v : W32) (m : Mach) : Mach :=
  if bit v 0 then
    let k := burnRefusal m.mode.mode m.sec (fld v 16 16)
    modSec (fun x => { x with fErr := k, burn := if k = 0#3 then some (x.fSel, x.fMask) else x.burn }) m
  else m

/-- Bits of a word programmed (R406): those of `done` fully, those of `weak` only so far that they read 1 at M0.
DEDUCED: log entry 41. -/
def Fuses.program (f : Fuses) (i : Byte) (done weak : W32) : Fuses :=
  { m0 := f.m0.upd i fun w => w ||| done ||| weak, m1 := f.m1.upd i fun w => w ||| done }

/-! ### Keys (R407) -/

/-- Octets of an H field's data words. -/
def hBytes (x : Sec) (a n : Nat) : List Byte :=
  ((range a n).map fun i => bytesOf (x.hView.get (BitVec.ofNat 8 i)) 0 4).foldl (· ++ ·) []

/-- B(l, i). -/
def deriveKey (x : Sec) (l i : Byte) : List Byte := aes256 (hBytes x 112 8) ([l, i] ++ List.replicate 14 0#8)

def kMac (x : Sec) : List Byte := deriveKey x 1 1 ++ deriveKey x 1 2
def kRec (x : Sec) : List Byte := deriveKey x 2 1 ++ deriveKey x 2 2
def kPack (x : Sec) : List Byte := deriveKey x 3 1 ++ deriveKey x 3 2

/-- KATT, the private key of the module's reports. -/
def kAtt (x : Sec) : Nat := beNat (deriveKey x 4 1 ++ deriveKey x 4 2 ++ deriveKey x 4 3) % (p384n - 1) + 1

/-! ### Boot flash (R408, R416 to R418) -/

def flashOf (x : Sec) (d : Bool) : List Host.Cell := if d then x.flashB else x.flashA

def setFlash (d : Bool) (l : List Host.Cell) (x : Sec) : Sec := if d then { x with flashB := l } else { x with flashA := l }

/-- Bytes of a device; erased bytes are 0xFF. -/
def flashBytes (x : Sec) (d : Bool) (off n : Nat) : List Byte := (range off n).map fun k => look 0xFF#8 (flashOf x d) k

/-- Bytes programmed: bits are only cleared (R430). -/
def programBytes : List Host.Cell → Nat → List Byte → List Host.Cell
  | cs, _, [] => cs
  | cs, a, b :: bs => programBytes (store 0xFF#8 cs a (look 0xFF#8 cs a &&& b)) (a + 1) bs

/-- Bytes erased. -/
def eraseBytes : List Host.Cell → Nat → Nat → List Host.Cell
  | cs, _, 0 => cs
  | cs, a, n + 1 => eraseBytes (store 0xFF#8 cs a 0xFF#8) (a + 1) n

/-- Fields of an image's header (R409). -/
structure Header where
  bytes : List Byte
  deriving DecidableEq, Repr

def Header.num (h : Header) (o n : Nat) : Nat := leNat ((h.bytes.drop o).take n)
def Header.part (h : Header) (o n : Nat) : List Byte := (h.bytes.drop o).take n
def Header.kind (h : Header) : Nat := h.num 4 2
def Header.comp (h : Header) : Nat := h.num 6 2
def Header.svn (h : Header) : Nat := h.num 8 4
def Header.keyGen (h : Header) : Nat := h.num 0xC 4
def Header.len (h : Header) : Nat := h.num 0x10 4

/-- The greatest LEN of an image (R410). -/
def Header.maxLen (h : Header) : Nat :=
  if h.kind = 3 then 0xAEC0 else if h.kind = 2 ∧ h.comp ≠ 1 then 0xFF_FEC0 else 0xF_FEC0

/-- Step 1 of R410. -/
def Header.formOk (h : Header) : Bool :=
  decide (h.num 0 4 = 0x9A5E_0C31) && decide (h.kind ≤ 4)
    && (if h.kind = 2 then decide (1 ≤ h.comp ∧ h.comp ≤ 1023) else decide (h.comp = 0))
    && (h.part 0x34 12 ++ h.part 0x130 16).all (fun b => decide (b = 0#8))
    && (if h.kind = 4 then decide (h.len = 128) else decide (1 ≤ h.len ∧ h.len ≤ h.maxLen))

/-- Whose key signs an image: Thachenex, the owner's slot, or the owner root (R409). -/
inductive Signer where
  | vendor | owner | root
  deriving DecidableEq, Repr

def Header.signer (h : Header) : Signer :=
  if h.kind = 4 then .root
  else if h.kind = 1 ∨ (h.kind = 2 ∧ h.comp ≠ 1) then .owner
  else .vendor

/-- Steps 2 to 6 of R410 on an image: the code of the failing step, or the plaintext. -/
def checkImage (x : Sec) (slot : Option KeySlot) (h : Header) (ct : List Byte) : Except (BitVec 4) (List Byte) :=
  let f := x.fuse
  let keyOk : Except (BitVec 4) (List Byte) :=
    match h.signer with
    | .vendor => if f.provisioned && decide (sha384 (h.part 0x70 96) = hBytes x 8 12) then .ok (hBytes x 130 8) else .error 3#4
    | .root => if f.owned && decide (sha384 (h.part 0x70 96) = hBytes x 34 12) then .ok (kPack x) else .error 3#4
    | .owner =>
      match slot with
      | none => .error 0xA#4
      | some s => if h.part 0x70 96 = s.pub then .ok s.key else .error 3#4
  let rollback := match h.signer with
    | .vendor => decide (h.kind ≠ 0) || decide (f.svnFloor ≤ h.svn)
    | .root => decide (f.keyFloor ≤ h.keyGen)
    | .owner => match slot with
      | none => false
      | some s => decide (h.keyGen = s.gen.toNat)
  match keyOk with
  | .error k => .error k
  | .ok key =>
    if !rollback then .error 4#4
    else if sha384 ct ≠ h.part 0x40 48 then .error 5#4
    else if ecdsaVerify (h.part 0x70 96) (h.part 0 0xD0) (h.part 0xD0 96) = false then .error 6#4
    else match gcmOpen key (h.part 0x18 12) (h.part 0 0x18) ct (h.part 0x24 16) with
      | none => .error 7#4
      | some p => .ok p

/-- The IV of a key slot's MACs (R417). -/
def slotIv (gen : List Byte) (d : Bool) (last : Byte) : List Byte :=
  gen ++ [if d then 1#8 else 0#8] ++ List.replicate 6 0#8 ++ [last]

/-- A package and its slot (R417): the owner image key and the signing key that it decrypts to. -/
def packageSlot (x : Sec) (pack : List Byte) : Except (BitVec 4) KeySlot :=
  let h : Header := ⟨pack.take 0x140⟩
  if !h.formOk || decide (h.kind ≠ 4) then .error 2#4
  else
    match checkImage x none h ((pack.drop 0x140).take 128) with
    | .error k => .error k
    | .ok p => .ok ⟨BitVec.ofNat 32 h.keyGen, (p.drop 32).take 96, p.take 32⟩

/-- The key slot of a device as R418 judges it. -/
def flashSlot (x : Sec) (d : Bool) : Option KeySlot :=
  let b := flashBytes x d 0 0x1000
  let part (o n : Nat) := (b.drop o).take n
  let gen := part 0x804 4
  if x.fuse.owned && decide (leNat (part 0x800 4) = 0x6D3B_0C21) && decide (gen = part 0xC 4)
      && decide (part 0x1C0 16 = gmac (kMac x) (slotIv (part 0xC 4) d 0#8) (part 0 0x1C0))
      && decide (part 0x810 16 = gmac (kMac x) (slotIv (part 0xC 4) d 1#8) (part 0x800 16 ++ part 0x1C0 16)) then
    match packageSlot x (part 0 0x1C0) with
    | .ok s => some s
    | .error _ => none
  else none

/-- The valid slot of the higher generation, A where they are equal (R418): its device. -/
def newestSlot (x : Sec) : Option Bool :=
  match x.slotA, x.slotB with
  | some a, some b => some (decide (a.gen < b.gen))
  | some _, none => some false
  | none, some _ => some true
  | none, none => none

def slotOf (x : Sec) (d : Bool) : Option KeySlot := if d then x.slotB else x.slotA

/-- BOOT_STAT's fields (R428). DEDUCED: log entry 38. -/
def Sec.slotOk (x : Sec) : Bool := bit x.bootStat 1
def Sec.slotInForce (x : Sec) : Option KeySlot := if x.slotOk then slotOf x (bit x.bootStat 0) else none

/-- BOOT_STAT with the slot in force put in (R418, R428). -/
def putSlot (d : Option Bool) (x : Sec) : Sec :=
  let fb := match d, newestSlot x with
    | some a, some b => a != b
    | _, _ => false
  { x with
    bootStat := (x.bootStat &&& ~~~7#32) ||| at_ (d.getD false) 0 ||| at_ d.isSome 1 ||| at_ fb 2
    keyGen := match d with
      | some a => ((slotOf x a).map KeySlot.gen).getD 0#32
      | none => 0#32 }

/-- The spare record of a device (R416): SEQ, the marks and the 64 entries, if its MAC is right. -/
def spareRecord (x : Sec) (d : Bool) : Option (Nat × W32 × List W32) :=
  let b := flashBytes x d 0x1000 280
  if x.fuse.provisioned && decide ((b.drop 264).take 16 = gmac (kRec x) (b.take 4 ++ List.replicate 8 0#8) (b.take 264)) then
    some (leNat (b.take 4), BitVec.ofNat 32 (leNat ((b.drop 4).take 4)),
      (range 0 64).map fun k => BitVec.ofNat 32 (leNat ((b.drop (8 + 4 * k)).take 4)))
  else none

/-- The record that the boot ROM uses: the valid copy of the higher SEQ. DEDUCED: log entry 50. -/
def bootSpare (x : Sec) : Option (Nat × W32 × List W32) :=
  match spareRecord x false, spareRecord x true with
  | some a, some b => if a.1 < b.1 then some b else some a
  | some a, none => some a
  | none, b => b

/-! ### Memory accesses of the security engine and the flash controller (R429, R430) -/

/-- Bytes from the start of a transfer that compartment 0 in ring 0 may move, a page at a time. DEDUCED: log entry 37. -/
def grantedLen (write : Bool) (m : Mach) : Nat → Addr → Nat → Nat
  | 0, _, _ => 0
  | fuel + 1, a, n =>
    if n = 0 then 0
    else
      let k := min n (16 - a.toNat % 16)
      let ok := (fenceCheck .direct (.ring 0#10 0#2) a write m).1
        && ((region a).isMem || region a == .bootRom) && !inShadow a
        && (!write || (areaRefusal false true (decide (k = 16)) a).isNone)
      if ok then k + grantedLen write m fuel (a + BitVec.ofNat 36 k) (n - k) else 0

/-- A whole range may be accessed. DEDUCED: log entry 37. -/
def granted (write : Bool) (m : Mach) (a : Addr) (n : Nat) : Bool := decide (grantedLen write m (n + 1) a n = n)

/-! ### Commands of the security engine (R410, R417, R427, R429) -/

/-- A running command's result, which SEC_STAT shows when it ends. -/
def secEnds (k : BitVec 4) (m : Mach) : Mach := modSec (fun x => { x with busy := true, next := k, nextLen := x.len }) m

def argAddr (lo hi : W32) : Addr := (fld hi 0 4 : BitVec 4) ++ lo

/-- A limit of the owner configuration record exceeds its ceiling (R416). -/
def overCeiling (p : List Byte) : Bool :=
  (range 0 5120).any fun k =>
    let o := 0x10 + 8 * k
    decide (leNat ((p.drop (o + 4)).take 4) < leNat ((p.drop o).take 4))

/-- The quotas of a compartment in a record. -/
def recordQuota (p : List Byte) (c : Nat) : Quota :=
  let word (i o : Nat) : W32 := BitVec.ofNat 32 (leNat ((p.drop (0x10 + 40 * c + 8 * i + o)).take 4))
  { limit := Vector.ofFn fun (i : Fin 8) => if i.val < 5 then word i.val 0 else 0#32
    ceil := Vector.ofFn fun (i : Fin 8) => if i.val < 5 then word i.val 4 else 0#32
    dma := 0 }

/-- The owner configuration record takes effect in WAKE (R415, R416). DEDUCED: log entry 38. -/
def takeRecord (p : List Byte) (m : Mach) : Mach :=
  if m.mode.mode ≠ .wake then m
  else if overCeiling p then m
  else
    modSec (fun x => { x with bootStat := x.bootStat ||| at_ true 4, recFails := 0 })
      { m with
        mode := { m.mode with autostart := (p.headD 0#8).getLsbD 0 }
        host := { m.host with quota := Vector.ofFn fun (c : Fin (2 ^ 10)) => recordQuota p c.val } }

/-- The owner configuration record fails in WAKE (R418): after both devices the other valid slot is tried; after that the
slot of the higher generation is in force. DEDUCED: log entry 38. -/
def failRecord (m : Mach) : Mach :=
  if m.mode.mode ≠ .wake ∨ m.sec.slotOk = false then m
  else
    let x := m.sec
    let d := bit x.bootStat 0
    if x.recFails = 1 ∧ (slotOf x (!d)).isSome ∧ newestSlot x = some d then
      modSec (fun x => putSlot (some (!d)) { x with recFails := 0 }) m
    else if x.recFails = 1 then modSec (fun x => putSlot (newestSlot x) { x with recFails := 2 }) m
    else modSec (fun x => { x with recFails := x.recFails + 1 }) m

/-- An entry of the measurement log (R426). -/
def measure (h : Header) (m : Mach) : Mach :=
  modSec (fun x => { x with log := x.log ++
    [⟨BitVec.ofNat 384 (leNat (h.part 0x40 48)), BitVec.ofNat 16 h.comp, BitVec.ofNat 16 h.kind, BitVec.ofNat 32 h.svn,
      m.tick.count⟩] }) m

/-- VERIFY (R410). -/
def secVerify (nolog ksel : Bool) (m : Mach) : Mach :=
  let x := m.sec
  let src := argAddr x.arg0 x.arg1
  let dst := argAddr x.arg2 x.arg3
  if !granted false m src 0x140 then secEnds 8 m
  else
    let (hb, m) := codedBytes Acc.other src 0x140 m
    let h : Header := ⟨hb⟩
    let lost (k : BitVec 4) (m : Mach) : Mach := secEnds k (if h.kind = 1 then failRecord m else m)
    if !h.formOk then lost 2 m
    else if !granted false m (src + 0x140#36) h.len then lost 8 m
    else
      let slot := if ksel then (newestSlot x).bind (slotOf x) else x.slotInForce
      let (body, m) := codedBytes Acc.other (src + 0x140#36) h.len m
      match checkImage x slot h body with
      | .error k =>
        let m := if k = 7#4 ∧ granted true m dst h.len = true then writeBytes dst (List.replicate h.len 0#8) m else m
        lost k m
      | .ok p =>
        if !granted true m dst h.len then lost 8 m
        else
          let m := writeBytes dst p m
          if !nolog && decide (1040 ≤ x.log.length) then lost 9 m
          else
            let m := if nolog then m else measure h m
            let m := if h.kind = 1 ∧ nolog = false then takeRecord p m else m
            let m := if h.kind = 0 ∧ m.mode.mode = .wake then modSec (fun x => { x with keySvn := BitVec.ofNat 32 h.svn }) m else m
            secEnds 0 m

/-- The slot that the next key package goes to (R420): the one not in force, or A. -/
def targetSlot (x : Sec) : Bool := x.slotOk && !bit x.bootStat 0

/-- The slot image of a package (R417): bytes 0x000 to 0x1CF and the commit record. -/
def slotImage (x : Sec) (d : Bool) (pack : List Byte) : List Byte × List Byte :=
  let gen := (pack.drop 0xC).take 4
  let mac := gmac (kMac x) (slotIv gen d 0#8) (pack.take 0x1C0)
  let com := bytesOf (0x6D3B_0C21#32) 0 4 ++ gen ++ List.replicate 8 0#8
  (pack.take 0x1C0 ++ mac, com ++ gmac (kMac x) (slotIv gen d 1#8) (com ++ mac))

/-- SLOT_BUILD (R417, R420, R429). -/
def secSlotBuild (m : Mach) : Mach :=
  let x := m.sec
  let src := argAddr x.arg0 x.arg1
  let dst := argAddr x.arg2 x.arg3 &&& ~~~1#36
  if !granted false m src 0x1C0 then secEnds 8 m
  else
    let (pack, m) := codedBytes Acc.other src 0x1C0 m
    match packageSlot x pack with
    | .error k => secEnds k m
    | .ok _ =>
      if !granted true m dst 0x1000 then secEnds 8 m
      else
        let i := slotImage x (targetSlot x) pack
        let ff (n : Nat) : List Byte := List.replicate n 0xFF#8
        secEnds 0 (writeBytes dst (i.1 ++ ff 0x630 ++ i.2 ++ ff 0x7E0) m)

/-- An entry of the log as a report shows it. -/
def Measure.bytes (e : Measure) : List Byte :=
  bytesOf e.digest 0 48 ++ bytesOf e.comp 0 2 ++ bytesOf e.kind 0 2 ++ bytesOf e.svn 0 4 ++ bytesOf e.tick 0 8

/-- A report but for its signature (R427). -/
def reportBody (nonce : List Byte) (m : Mach) : List Byte :=
  let x := m.sec
  let k := x.log.length
  bytesOf (0x9A5E_0C32#32) 0 4 ++ bytesOf (BitVec.ofNat 32 (176 + 64 * k)) 0 4 ++ hBytes x 2 2 ++ nonce
    ++ bytesOf m.tick.count 0 8 ++ bytesOf (modeStatWord m.mode) 0 4 ++ bytesOf x.bootStat 0 4 ++ bytesOf x.keyGen 0 4
    ++ bytesOf (BitVec.ofNat 16 x.fuse.keyFloor) 0 2 ++ bytesOf (BitVec.ofNat 16 x.fuse.svnFloor) 0 2
    ++ bytesOf (BitVec.ofNat 32 k) 0 4 ++ List.replicate 4 0#8 ++ (x.log.map Measure.bytes).foldl (· ++ ·) []

/-- A report with its signature under KATT (R407, R427); the random number of the signature is free. -/
def attestReport (nonce : List Byte) (m : Mach) : List Byte × Mach :=
  let body := reportBody nonce m
  (body ++ ecdsaSign (kAtt m.sec) (Config.signNonce m.free % (p384n - 1) + 1) body, { m with free := m.free + 1 })

/-- ATTEST (R427, R429). DEDUCED: log entry 37. DESIGN CHOICE: log entry 40. -/
def secAttest (m : Mach) : Mach :=
  let dst := argAddr m.sec.arg0 m.sec.arg1
  if !granted false m (dst + 0x10#36) 32 then secEnds 8 m
  else if m.sec.fuse.provisioned = false then secEnds 0xA m
  else
    let (nonce, m) := codedBytes Acc.other (dst + 0x10#36) 32 m
    let (r, m') := attestReport nonce m
    if !granted true m dst r.length then secEnds 8 m
    else
      modSec (fun x => { x with nextLen := BitVec.ofNat 16 (r.length / 16) }) (secEnds 0 (writeBytes dst r m'))

/-- RECORD_MAC (R416, R429): the MAC of the record written, or checked. DEDUCED: log entry 37. -/
def secRecordMac (m : Mach) : Mach :=
  let x := m.sec
  let a := argAddr x.arg0 x.arg1
  if !granted false m a 264 then secEnds 8 m
  else if x.fuse.provisioned = false then secEnds 0xA m
  else
    let (r, m) := codedBytes Acc.other a 264 m
    let t := gmac (kRec x) (r.take 4 ++ List.replicate 8 0#8) r
    if bit x.arg2 0 then
      (if !granted false m (a + 264#36) 16 then secEnds 8 m
       else
         let (old, m) := codedBytes Acc.other (a + 264#36) 16 m
         secEnds (if old = t then 0 else 7) m)
    else if !granted true m (a + 264#36) 16 then secEnds 8 m
    else secEnds 0 (writeBytes (a + 264#36) t m)

/-- A write to SEC_CMD (R429). -/
def secCmd (v : W32) (m : Mach) : Mach :=
  if !bit v 4 then m
  else if m.sec.busy then modSec (fun x => { x with res := 1#4 }) m
  else
    match (fld v 0 3 : BitVec 3).toNat with
    | 1 => secVerify (bit v 3) (bit v 5) m
    | 2 => secSlotBuild m
    | 3 => secAttest m
    | 4 => secRecordMac m
    | _ => secEnds 2 m

/-! ### Flash operations (R430) -/

/-- The first error with which a GO is turned away; 0 if none does. -/
def flashRefusal (k : Mode) (x : Sec) (op : BitVec 2) (key : BitVec 16) : BitVec 3 :=
  if x.flJob.isSome then 1#3
  else if x.flAddr.toNat % (if op = 3#2 then 4096 else 16) ≠ 0
      ∨ (op ≠ 3#2 ∧ (x.flLen.toNat % 16 ≠ 0 ∨ 0x10_0000 < x.flLen.toNat ∨ 0x400_0000 < x.flAddr.toNat + x.flLen.toNat)) then 2#3
  else if (op ≠ 1#2 ∧ key ≠ 0x5A3C#16) ∨ k = .dormant then 5#3
  else 0#3

/-- A write to FLASH_CTL (R430). -/
def flashCtl (v : W32) (m : Mach) : Mach :=
  let op : BitVec 2 := fld v 0 2
  if !bit v 2 || decide (op = 0#2) then m
  else
    let k := flashRefusal m.mode.mode m.sec op (fld v 16 16)
    modSec (fun x => { x with
      flErr := k
      flJob := if k = 0#3 then some ⟨op, x.flDev, x.flAddr, x.flHi ++ x.flLo, x.flLen⟩ else x.flJob }) m

/-- The operation in progress carried out on its first `n` bytes: FLASH_STAT.ERR for a fence refusal, and the module.
DEDUCED: log entry 42. -/
def flashWork (j : FlashJob) (n : Nat) (m : Mach) : BitVec 3 × Mach :=
  let d := flashOf m.sec j.dev
  let want := min n (if j.op = 3#2 then 4096 else j.len.toNat)
  match j.op.toNat with
  | 1 =>
    let k := grantedLen true m (want + 1) j.mem want
    (if k < want then 3#3 else 0#3, writeBytes j.mem (flashBytes m.sec j.dev j.off.toNat k) m)
  | 2 =>
    let k := grantedLen false m (want + 1) j.mem want
    let (l, m) := codedBytes Acc.other j.mem k m
    (if k < want then 3#3 else 0#3, modSec (setFlash j.dev (programBytes d j.off.toNat l)) m)
  | _ => (0#3, modSec (setFlash j.dev (eraseBytes d j.off.toNat want)) m)

/-- The operation in progress ends after `n` bytes, by itself, with a device error, or stopped. DEDUCED: log entry 42. -/
def flashEnd (devErr : Bool) (n : Nat) (m : Mach) : Mach :=
  match m.sec.flJob with
  | none => m
  | some j =>
    let r := flashWork j n m
    modSec (fun x => { x with flJob := none, flErr := if devErr then 4#3 else r.1 }) r.2

/-! ### Random numbers (R423, R424, R431) -/

/-- A request queued, or OVF (R424); in EXHAUSTED it completes at once without numbers (R423). -/
def rngReq (len : BitVec 2) (x : Sec) : Sec :=
  if 8 ≤ x.reqs.length then { x with ovf := true }
  else { x with reqs := x.reqs ++ [⟨len, if x.drbg = .exhausted then some none else none⟩] }

/-- A write to RNG_CTL: the request, then the removal. DEDUCED: log entry 37. -/
def rngCtl (v : W32) (m : Mach) : Mach :=
  modSec (fun x =>
    let x := if bit v 0 then rngReq (fld v 1 2) x else x
    if bit v 3 then { x with reqs := x.reqs.drop 1 } else x) m

/-- The DRBG's working state (R422): octet i of Key and of V in bits [8i+7:8i]. -/
def Sec.drbgState (x : Sec) : DrbgState := ⟨bytesOf x.drbgKey 0 32, bytesOf x.drbgV 0 16⟩

def Sec.setDrbg (x : Sec) (s : DrbgState) : Sec :=
  { x with drbgKey := BitVec.ofNat 256 (leNat s.key), drbgV := BitVec.ofNat 128 (leNat s.v) }

/-- A generate call of `n` blocks of 16 bytes (R424): byte i in bits [8i+7:8i]. -/
def Sec.generate (x : Sec) (n : Nat) : BitVec 512 × Sec :=
  let p := x.drbgState.generate n
  (BitVec.ofNat 512 (leNat p.1), { x.setDrbg p.2 with calls := x.calls + 1#17 })

def drbgCode : Drbg → BitVec 2
  | .startup => 0#2
  | .ready => 1#2
  | .degraded => 2#2
  | .exhausted => 3#2

/-- RNG_STAT.HEAD. -/
def rngHead (x : Sec) : BitVec 2 :=
  match x.reqs with
  | [] => 0#2
  | r :: _ => match r.out with
    | none => 1#2
    | some (some _) => 2#2
    | some none => 3#2

def rngStatWord (x : Sec) : W32 :=
  put 32 (drbgCode x.drbg) 0 ||| put 32 (rngHead x) 2 ||| put 32 (BitVec.ofNat 4 x.reqs.length) 4 ||| at_ x.ovf 8
    ||| put 32 x.calls 9

/-- RNG_OUTk. -/
def rngOut (x : Sec) (k : Nat) : W32 :=
  match x.reqs with
  | ⟨_, some (some n)⟩ :: _ => fld n (32 * k) 32
  | _ => 0#32

/-! ### Registers (R428 to R431) -/

def secRegRead (off : Nat) (m : Mach) : W32 :=
  let x := m.sec
  if 0x680 ≤ off ∧ off < 0x6C0 then rngOut x ((off - 0x680) / 4)
  else
    match off with
    | 0x600 => x.bootStat
    | 0x604 => x.keyGen
    | 0x608 => put 32 x.fSel 0
    | 0x60C => fuseData x x.fSel.toNat
    | 0x610 => x.fMask
    | 0x618 => at_ x.burn.isSome 0 ||| put 32 x.fErr 1
    | 0x620 => x.arg0
    | 0x624 => x.arg1
    | 0x628 => x.arg2
    | 0x62C => x.arg3
    | 0x634 => at_ x.busy 0 ||| put 32 x.res 1 ||| put 32 x.len 16
    | 0x640 => put 32 x.flAddr 0 ||| at_ x.flDev 31
    | 0x644 => x.flLo
    | 0x648 => put 32 x.flHi 0
    | 0x64C => put 32 x.flLen 0
    | 0x654 => at_ x.flJob.isSome 0 ||| put 32 x.flErr 1
    | 0x664 => rngStatWord x
    | _ => 0#32

def secRegWrite (off : Nat) (v : W32) (m : Mach) : Mach :=
  match off with
  | 0x608 => modSec (fun x => { x with fSel := fld v 0 8 }) m
  | 0x610 => modSec (fun x => { x with fMask := v }) m
  | 0x614 => fuseCtl v m
  | 0x620 => modSec (fun x => { x with arg0 := v }) m
  | 0x624 => modSec (fun x => { x with arg1 := v }) m
  | 0x628 => modSec (fun x => { x with arg2 := v }) m
  | 0x62C => modSec (fun x => { x with arg3 := v }) m
  | 0x630 => secCmd v m
  | 0x640 => modSec (fun x => { x with flAddr := fld v 0 26, flDev := bit v 31 }) m
  | 0x644 => modSec (fun x => { x with flLo := v }) m
  | 0x648 => modSec (fun x => { x with flHi := fld v 0 4 }) m
  | 0x64C => modSec (fun x => { x with flLen := fld v 0 21 }) m
  | 0x650 => flashCtl v m
  | 0x660 => rngCtl v m
  | 0x664 => modSec (fun x => { x with ovf := x.ovf && !bit v 8 }) m
  | _ => m

end Sys2Proof.Machine
end

