-- ==== Sys2Proof/Machine/Reset.lean ====
section
/-! DEFINITION. Entry to WAKE (R50, R184, R404, R405, R413, R418) and the module reset (R50, R452). -/

namespace Sys2Proof.Machine

open Sys2Proof

/-! ### Memory at entry to WAKE -/

/-- The areas that are zeroed at each entry to WAKE (R37, R138, R144, R223, R228). -/
def wakeArea (a : Nat) : Bool :=
  decide (0x40F4_0000 ≤ a ∧ a < 0x40F4_4000) || decide (0x40F4_8000 ≤ a ∧ a < 0x40F4_9400)
    || decide (0x40F5_0000 ≤ a ∧ a < 0x40F5_0400) || decide (0x40F6_0000 ≤ a ∧ a < 0x40F8_0000)

/-- Memory with them zeroed. DESIGN CHOICE: log entry 4. -/
def Memory.wake (mem : Memory) : Memory :=
  { cells := mem.cells.filter fun x => !wakeArea x.1
    tags := mem.tags.filter fun x => !wakeArea (16 * x.1)
    pois := mem.pois.filter fun x => !wakeArea (16 * x.1)
    errs := mem.errs.filter fun x => !wakeArea (16 * x.1) }

/-! ### What a reset keeps -/

/-- The fault log and the mirror's times outlast a reset; the registers of R455 do not. DEDUCED: log entry 49. -/
def Faults.kept (x : Faults) : Faults :=
  { Faults.reset with
    headerOk := x.headerOk, wr := x.wr, lost := x.lost, mirwr := x.mirwr, hpcode := x.hpcode, entries := x.entries
    newest := x.newest, mirrorAt := x.mirrorAt, mirrorHalf := x.mirrorHalf, keepHalf := x.keepHalf }

/-- The backup domain but for the registers that R510 does not mark kept. -/
def Backup.kept (x : Backup) : Backup := { x with rtcHi := 0, setLo := 0, setHi := 0 }

/-- The supplies as they stand; MAIN_OK takes its reset value (R7, R510). -/
def Power.kept (x : Power) : Power :=
  { Power.reset with
    fp1 := x.fp1, fp2 := x.fp2, railLow := x.railLow, cellLow := x.cellLow, fieldMa := x.fieldMa }

/-- FAILS and LOCKOUT (R461). -/
def Debug.kept (x : Debug) : Debug := { Debug.reset with fails := x.fails, lockout := x.lockout }

/-- A port trains its link again; its registers return to their reset values (R40, R400). -/
def HPort.kept (x : HPort) : HPort := { HPort.reset with perst := x.perst }

/-! ### The boot ROM's work on fuses and flash -/

/-- The security block after steps 1, 4 and 5 of R414: H fields resolved, key slots judged, BOOT_STAT's fields. -/
def bootSec (f : Fuses) (a b : List Host.Cell) : Sec :=
  let x := { Sec.reset f with hView := f.view, flashA := a, flashB := b }
  let x := { x with slotA := flashSlot x false, slotB := flashSlot x true }
  let x := { x with
    bootStat := at_ (bootSpare x).isSome 5 ||| put 32 (fld f.life 0 3 : BitVec 3) 8
      ||| put 32 (satAdd 0#8 f.marginal) 16 }
  putSlot (newestSlot x) x

/-- The marks of a spare record (R247, R416). DEDUCED: log entry 50. -/
def spareMarks (w : W32) (c : MemCtl) : MemCtl :=
  { c with
    mark0 := if bit w 8 then some (fld w 0 5) else none
    mark1 := if bit w 16 then some (fld w 9 5) else none }

/-- WAKE begins at edge 0 (R18, R134, R413): reset values, what outlasts the reset, and the boot ROM's first steps; a fuse
fault is reported (R404, R405). DESIGN CHOICE: log entry 10. -/
def wakeStart (cause prev : BitVec 4) (mem : Memory) (fu : Fuses) (m : Mach) : Mach :=
  let n := Mach.reset m.clk fu
  let sec := bootSec fu m.sec.flashA m.sec.flashB
  let n := { n with
    free := m.free, outbox := m.outbox, bus := m.bus
    mode := { n.mode with wakeCause := cause, prev := prev, prevKept := prev }
    mem := mem.wake, sec := sec
    mc := match bootSpare sec with
      | some r => spareMarks r.2.1 n.mc
      | none => n.mc
    host := { n.host with slot := m.host.slot, portA := m.host.portA.kept, portB := m.host.portB.kept }
    faults := m.faults.kept, bkp := m.bkp.kept, pwr := m.pwr.kept, dbg := m.dbg.kept }
  match fu.bootFault with
  | some (k, w) => report 0x0701 (put 64 (BitVec.ofNat 8 k) 0 ||| put 64 (BitVec.ofNat 8 w) 8) n
  | none => n

/-- Events still in the collector's queue reach the log; their reactions are overtaken by the reset.
DEDUCED: log entry 22. -/
def flushFaults (m : Mach) : Mach :=
  { m with faults := { m.faults.queue.foldl (fun x ev => logEvent false m.bkp.rtc m.bkp.valid ev x) m.faults with queue := [] } }

/-- A MODULE RESET (R50). DEDUCED: log entry 41. DEDUCED: log entry 42. DEDUCED: log entry 58. -/
def moduleReset (cause : BitVec 4) (m : Mach) : Mach :=
  wakeStart cause ((modeCode m.mode.mode).setWidth 4) m.mem m.sec.fuse (flushFaults m)

/-- A reset asked for that can be carried out: in HARDPAN it waits for SAFE (R452); a power-fail sequence runs to its end
(R486). -/
def resetDue (m : Mach) : Bool :=
  m.watch.resetWanted.isSome && !m.pwr.pfw && (decide (m.mode.mode ≠ .hardpan) || m.faults.hpSafe)

/-- That reset. -/
def doReset (m : Mach) : Mach := if resetDue m then moduleReset (m.watch.resetWanted.getD 0#4) m else m

end Sys2Proof.Machine
end

