-- ==== Sys2Proof/Machine/TileRegs.lean ====
section
/-! DEFINITION. The tiles: which replicas serve which engine (R9, R10, R183), and the tile registers (R185, R205, R537). -/

namespace Sys2Proof.Machine

open Sys2Proof

/-! ### Grouping (R10, R182, R183) -/

/-- TRIPLE and EXCHANGE_TRIPLE. -/
def isVoted (code : BitVec 3) : Bool := decide (code = 0#3) || decide (code = 4#3)

/-- A position holds a compared pair. -/
def isPair (code : BitVec 3) (p : BitVec 2) : Bool :=
  (decide (code = 1#3) && (decide (p = 0#2) || decide (p = 2#2))) || (decide (code = 3#3) && decide (p = 0#2))

/-- The positions that name an engine under a grouping code (R10). -/
def validPos (code : BitVec 3) (p : BitVec 2) : Bool :=
  match code.toNat with
  | 0 | 4 => decide (p = 0#2)
  | 1 => decide (p = 0#2) || decide (p = 2#2)
  | 2 => true
  | 3 => decide (p ≠ 1#2)
  | _ => false

def rep (m : Mach) (t : BitVec 5) (r : BitVec 2) : Replica := (m.tiles.get t).reps.get r

/-- The grouping code in force in an engine's tile. -/
def liveCode (m : Mach) (e : BitVec 7) : BitVec 3 := (m.tiles.get (tileOf e)).live

/-- An engine number is valid (R10). -/
def validEngine (m : Mach) (e : BitVec 7) : Bool := validPos (liveCode m e) (posOf e)

/-- The active replica in lane `l` of a voted group. -/
def inLane (t : Tile) (l : BitVec 2) : List (BitVec 2) :=
  ((range 0 4).map (BitVec.ofNat 2)).filter fun r =>
    decide ((t.reps.get r).state = .active) && decide ((t.reps.get r).lane = l)

/-- The replicas that serve an engine, in lane order (R183). -/
def lanesOf (m : Mach) (e : BitVec 7) : List (BitVec 2) :=
  let t := m.tiles.get (tileOf e)
  let p := posOf e
  if isVoted t.live then (if p = 0#2 then inLane t 0 ++ inLane t 1 ++ inLane t 2 else [])
  else if isPair t.live p then [p, p + 1#2]
  else if validPos t.live p then [p] else []

/-- A change of every lane of an engine. -/
def mapLanes (e : BitVec 7) (f : Replica → Replica) (m : Mach) : Mach :=
  (lanesOf m e).foldl (fun m r => modRep (tileOf e) r f m) m

/-- The leading lane's replica (R183). -/
def leader (m : Mach) (e : BitVec 7) : Option Replica :=
  match lanesOf m e with
  | r :: _ => some (rep m (tileOf e) r)
  | [] => none

/-- A voted engine of a tile runs on two lanes (R199). -/
def Tile.degraded (t : Tile) : Bool :=
  isVoted t.live && decide ((inLane t 0 ++ inLane t 1 ++ inLane t 2).length < 3)

/-! ### Registers -/

def repCode : RepState → BitVec 2
  | .active => 0#2
  | .grog => 1#2
  | .fenced => 2#2
  | .retired => 3#2

/-- TILE_REPL's byte of a replica (R205). -/
def replByte (x : Replica) : Byte := x.fail ++ x.pass ++ (if x.state = .active then x.lane else 0#2) ++ repCode x.state

def tileGroupWord (t : Tile) : W32 := put 32 t.code 0 ||| put 32 t.sweep 8

def tileStatWord (t : Tile) : W32 :=
  put 32 t.live 0 ||| at_ t.pend 3 ||| put 32 t.rej 4 ||| at_ t.degraded 7 ||| at_ t.werr 8 ||| put 32 t.mism 16
    ||| put 32 t.drop 24

def tileReplWord (t : Tile) : W32 :=
  replByte (t.reps.get 3) ++ replByte (t.reps.get 2) ++ replByte (t.reps.get 1) ++ replByte (t.reps.get 0)

def tileMismWord (t : Tile) : W32 :=
  put 32 t.mPos 0 ||| put 32 t.mRepl 2 ||| put 32 t.mCase 6 ||| put 32 t.mTick 16

/-- Replicas of a tile that are admitted: ACTIVE or GROG. -/
def admitted (t : Tile) : Nat :=
  (((range 0 4).map (BitVec.ofNat 2)).filter fun r =>
    decide ((t.reps.get r).state = .active ∨ (t.reps.get r).state = .grog)).length

/-- The cause with which a commit of the staged code is rejected, in the order of R185; 0 for none. DEDUCED: log entry 61. -/
def commitReject (m : Mach) (t : BitVec 5) (again : Bool) : BitVec 3 :=
  let x := m.tiles.get t
  if 5 ≤ x.code.toNat then 1#3
  else if t = 0#5 ∧ isVoted x.code = false then 2#3
  else if admitted x < (if isVoted x.code then 3 else 4) then 3#3
  else if m.mode.mode ≠ .commission ∧ m.mode.mode ≠ .operate then 4#3
  else if x.pend && !again then 5#3
  else 0#3

/-- A write to TILE_GROUP (R185, R205). -/
def tileGroupWrite (w : Who) (t : BitVec 5) (v : W32) (m : Mach) : Bool × Mach :=
  if !(whoKeeper w) then (false, m)
  else
    let m := modTile t (fun x => { x with
      code := fld v 0 3
      sweep := if fld v 8 8 = 0#8 then x.sweep else fld v 8 8
      werr := x.werr || decide (fld v 8 8 = 0#8) }) m
    if bit v 3 then
      let k := commitReject m t false
      (true, modTile t (fun x => { x with rej := k, pend := x.pend || decide (k = 0#3) }) m)
    else (true, m)

/-! ### Slot status (R36, R37) -/

def statusBase (e : BitVec 7) : Addr := 0x40F4_0000#36 + put 36 e 7

/-- A saturating 32-bit counter in memory. -/
def bump32 (a : Addr) (m : Mach) : Mach := hwWrite32 a (satInc (hwRead32 a m)) m

/-- A read of TILE_STAT (R205): MISM and DROP are cleared. -/
def tileStatRead (t : BitVec 5) (m : Mach) : Option W32 × Mach :=
  (some (tileStatWord (m.tiles.get t)), modTile t (fun x => { x with mism := 0#8, drop := 0#8 }) m)

/-- A write to TILE_STAT: WERR is cleared by a 1 (R205). -/
def tileStatWrite (w : Who) (t : BitVec 5) (v : W32) (m : Mach) : Bool × Mach :=
  if whoKeeper w then (true, modTile t (fun x => { x with werr := x.werr && !bit v 8 }) m) else (false, m)

end Sys2Proof.Machine
end

