-- ==== Sys2Proof/Machine/RegSpace.lean ====
section
/-! DEFINITION. Register space (R4, R5, R532 to R538): who may reach which register, its value, what a read does, and a
write. -/

namespace Sys2Proof.Machine

open Sys2Proof

/-! ### Decoding (R532) -/

/-- The blocks of register space, with the offset in the block. -/
inductive Block where
  | sys (off : Nat)
  | tile (t : BitVec 5) (off : Nat)
  | chan (c : BitVec 8) (off : Nat)
  deriving DecidableEq, Repr

/-- The block that an address lies in. -/
def blockOf (a : Addr) : Option Block :=
  let n := a.toNat
  if 0x8000_0000 ≤ n ∧ n < 0x8001_0000 then some (.sys (n - 0x8000_0000))
  else if 0x8001_0000 ≤ n ∧ n < 0x8001_8000 then some (.tile (fld a 10 5) (n % 0x400))
  else if 0x8004_0000 ≤ n ∧ n < 0x8004_4000 then some (.chan (fld a 6 8) (n % 0x40))
  else none

/-- The access codes of R535. -/
inductive Code where
  | d | kw | k | s
  deriving DecidableEq, Repr

/-- The access code of an offset of the system block (R536); an unassigned offset has code D (R533). -/
def sysCode (off : Nat) : Code :=
  if off = 0x044 ∨ off = 0x048 then .kw
  else if 0x200 ≤ off ∧ off < 0x220 then .k
  else if (0x300 ≤ off ∧ off ≤ 0x318) ∨ (0x320 ≤ off ∧ off ≤ 0x338) then .kw
  else if 0x500 ≤ off ∧ off ≤ 0x51C then .kw
  else if (0x600 ≤ off ∧ off ≤ 0x618) ∨ (0x620 ≤ off ∧ off ≤ 0x634) ∨ (0x640 ≤ off ∧ off ≤ 0x654)
      ∨ off = 0x660 ∨ off = 0x664 ∨ (0x680 ≤ off ∧ off < 0x6C0) then .k
  else if off = 0x70C then .s
  else if 0x700 ≤ off ∧ off < 0x740 then .k
  else if (0x800 ≤ off ∧ off ≤ 0x828) ∨ (0x830 ≤ off ∧ off ≤ 0x844) ∨ (0x900 ≤ off ∧ off ≤ 0x90C)
      ∨ (0x940 ≤ off ∧ off < 0x980) then .k
  else if 0x8000 ≤ off ∧ off < 0x9000 then .k
  else .d

/-- A load is answered (R535). -/
def Code.reads (c : Code) (w : Who) : Bool :=
  match c with
  | .k => whoKeeper w
  | _ => true

/-- A store is taken (R535). -/
def Code.writes (c : Code) (w : Who) : Bool :=
  match c with
  | .d | .s => true
  | .kw | .k => whoKeeper w

/-! ### The system block (R536) -/

/-- AFE_STATd (R300). -/
def afeRead (off : Nat) (m : Mach) : W32 := afeStatWord (m.dies.get (BitVec.ofNat 2 ((off - 0x400) / 4)))

/-- The value that a register of the system block shows. -/
def sysRead (off : Nat) (m : Mach) : W32 :=
  if off < 0x100 then modeRegRead off m
  else if off < 0x200 then tickRegRead off m
  else if off < 0x300 then mintRegRead off m
  else if off < 0x400 then memRegRead off m
  else if off < 0x410 then afeRead off m
  else if off < 0x500 then 0#32
  else if off < 0x600 then hostRegRead off m
  else if off < 0x700 then secRegRead off m
  else if off < 0x800 then watchRegRead off m
  else if off < 0xA00 then powerRegRead off m
  else if 0x8000 ≤ off ∧ off < 0x9000 then logWord m.faults (off - 0x8000)
  else 0#32

/-- What a load from it does (R5, RSE). -/
def sysReadFx (off : Nat) (m : Mach) : Mach :=
  if off < 0x100 then m
  else if off < 0x200 then tickRegReadFx off m
  else if off < 0x300 then m
  else if off < 0x400 then memRegReadFx off m
  else if off < 0x410 then modDie (BitVec.ofNat 2 ((off - 0x400) / 4)) (fun x => { x with refEvt := 0#8 }) m
  else if off < 0x700 then m
  else if off < 0x800 then watchRegReadFx off m
  else if off < 0xA00 then powerRegReadFx off m
  else m

/-- MODE_REQ and MODE_CTL take no write of a master that is no replica (R45, R54). -/
def keeperReplica (w : Who) (off : Nat) : Bool := decide (off ≠ 0x044 ∧ off ≠ 0x048) || decide (w.master = .replica)

/-- Device vector 1024 is sent when MODE or PEND has changed (R391). -/
def modeAnnounce (old m : Mach) : Mach :=
  if old.mode.mode ≠ m.mode.mode ∨ old.mode.pend.isSome ≠ m.mode.pend.isSome then deviceVector 0 m else m

/-- A store to it by one who may. -/
def sysWrite (w : Who) (off : Nat) (v : W32) (m : Mach) : Mach :=
  if off < 0x100 then modeAnnounce m (modeRegWrite off v m)
  else if off < 0x200 then tickRegWrite off v m
  else if off < 0x300 then mintRegWrite off v m
  else if off < 0x400 then memRegWrite off v m
  else if off < 0x500 then m
  else if off < 0x600 then hostRegWrite off v m
  else if off < 0x700 then secRegWrite off v m
  else if off = 0x70C then wdService w v m
  else if off < 0x800 then watchRegWrite w off v m
  else if off < 0xA00 then powerRegWrite off v m
  else m

/-! ### Tile blocks (R537) -/

def tileRead (t : BitVec 5) (off : Nat) (m : Mach) : W32 :=
  let x := m.tiles.get t
  match off with
  | 0x000 => tileGroupWord x
  | 0x004 => tileStatWord x
  | 0x008 => tileReplWord x
  | 0x00C => tileMismWord x
  | _ => 0#32

def tileReadFx (t : BitVec 5) (off : Nat) (m : Mach) : Mach := if off = 0x004 then (tileStatRead t m).2 else m

/-- A store to a tile block: offsets above 0x00F are reserved, under code D (R205, R533). -/
def tileWrite (w : Who) (t : BitVec 5) (off : Nat) (v : W32) (m : Mach) : Bool × Mach :=
  match off with
  | 0x000 => tileGroupWrite w t v m
  | 0x004 => tileStatWrite w t v m
  | 0x008 | 0x00C => (whoKeeper w, m)
  | _ => (true, m)

/-! ### Accesses -/

/-- The value that a load of a word brings, without the effects of a read; none where it is refused. -/
def regPeek (w : Who) (a : Addr) (m : Mach) : Option W32 :=
  match blockOf a with
  | none => none
  | some (.sys o) => if (sysCode o).reads w then some (sysRead o m) else none
  | some (.tile t o) => some (tileRead t o m)
  | some (.chan c o) => if chanAccess w c m then some (chanRead o (m.chans.get c)).1 else none

/-- A load of a word from register space: its value, none where it is refused, and the module after it. -/
def regRead (w : Who) (a : Addr) (m : Mach) : Option W32 × Mach :=
  match blockOf a with
  | none => (none, m)
  | some (.sys o) => if (sysCode o).reads w then (some (sysRead o m), sysReadFx o m) else (none, m)
  | some (.tile t o) => (some (tileRead t o m), tileReadFx t o m)
  | some (.chan c o) => chanBusRead w c o m

/-- A store of a word to register space: false where it is refused. -/
def regWrite (w : Who) (a : Addr) (v : W32) (m : Mach) : Bool × Mach :=
  match blockOf a with
  | none => (false, m)
  | some (.sys o) =>
    if (sysCode o).writes w && keeperReplica w o then (true, sysWrite w o v m) else (false, m)
  | some (.tile t o) => tileWrite w t o v m
  | some (.chan c o) => chanBusWrite w c o v m

end Sys2Proof.Machine
end

