-- ==== Sys2Proof/Machine/Fabric.lean ====
section
/-! DEFINITION. Accesses of replicas and other masters to memory, register space and host windows: the fence map, the
rules of the areas, and the target. -/

namespace Sys2Proof.Machine

open Sys2Proof

/-- The output command buffer that an address lies in: the channel and the buffer (R316). -/
def outputBuffer (a : Addr) : Option (BitVec 8 × Bool) :=
  let n := a.toNat
  if 0x40F8_0000 ≤ n ∧ n < 0x40F8_8000 ∧ 0x40 ≤ n % 0x80 ∧ n % 0x80 < 0x60 then some (fld a 7 8, bit a 4) else none

/-- The commit mark of a channel's buffer changed. -/
def setMark (c : BitVec 8) (buf : Bool) (v : Option (BitVec 7 × BitVec 6)) (m : Mach) : Mach :=
  { m with marks := m.marks.upd c fun x => if buf then (x.1, v) else (v, x.2) }

/-- A write to an output command buffer marks it when shared SRAM accepts it between edge n and C, in the buffer of
tick n; the write of a failed slot takes the mark away (R35, R324). -/
def markWrite (a : Addr) (e : BitVec 7) (pos : BitVec 6) (withheld : Bool) (m : Mach) : Mach :=
  match outputBuffer a with
  | some (c, b) =>
    if m.tick.phase ≠ .closed ∧ b = bit m.tick.count 0 then
      setMark c b (if withheld then none else some (e, pos)) m
    else m
  | none => m

/-- The offsets of the whole words that a mask names in a granule, if it names whole words only (R4). -/
def regWords (mask : BitVec 16) : Option (List Nat) :=
  let w (o : Nat) : BitVec 4 := fld mask o 4
  if [0, 4, 8, 12].all fun o => decide (w o = 0#4) || decide (w o = 0xF#4) then
    some ([0, 4, 8, 12].filter fun o => w o = 0xF#4)
  else none

/-- An entry for register space: the 32-bit stores that it holds, in address order; a store of another width is refused
(R4, R66). DEDUCED: log entry 13. -/
def regStore (w : Who) (y : SbEntry) (m : Mach) : Bool × Mach :=
  match if y.odd then none else regWords y.mask with
  | some l => l.foldl (fun (p : Bool × Mach) o =>
      let q := regWrite w (y.gran + BitVec.ofNat 36 o) (fld y.data (8 * o) 32) p.2
      (p.1 && q.1, q.2)) (true, m)
  | none => (false, m)

/-- The fence map's answer to an entry of a replica of tile `t`, asked when it is issued (R125, R235, R262).
DEDUCED: log entry 14. -/
def storePermitted (t : BitVec 5) (y : SbEntry) (m : Mach) : Bool × Mach :=
  match region y.gran with
  | .tileAlias => (true, m)
  | _ => fenceCheck (.tile t) (.ring y.comp y.ring) y.gran true m

/-- A store that the fence map permits reaches its target: the notice cause with which the target refuses it (R165), or
nothing, and the module after it. -/
def storeTarget (w : Who) (y : SbEntry) (m : Mach) : Option (BitVec 4) × Mach :=
  let a := phys (tileOf w.eng) y.gran
  match region a with
  | .regs =>
    let q := regStore w y m
    (if q.1 then none else some 3#4, q.2)
  | .hostWin =>
    let q := hostStore w y.gran y.data y.mask m
    (if q.1 then none else some 1#4, q.2)
  | _ =>
    match areaRefusal true (whoKeeper w) (decide (y.mask = 0xFFFF#16) && !y.merged) a with
    | some k => (some k, m)
    | none =>
      let mask := paramMask (whoKeeper w) a y.mask
      if mask = 0#16 then (none, m)
      else (none, markWrite a w.eng y.pos y.withheld (writeGran (whoAcc w) (granOf a) y.data mask y.tag m))

/-- A store that is issued and reaches its target at once. DEDUCED: log entry 14. -/
def storeAccess (w : Who) (y : SbEntry) (m : Mach) : Option (BitVec 4) × Mach :=
  let p := storePermitted (tileOf w.eng) y m
  if p.1 then storeTarget w y p.2 else (some 1#4, p.2)

/-- What a load brings: the granule, or the exception it ends in (R238, R245, R262). -/
inductive LoadResult where
  | data (d : Gran) (tag : Bool)
  | fails (x : Exc)
  deriving DecidableEq, Repr

/-- A load by a replica of engine `w.eng` at `a`: its granule with the module after it. `hostData` is what the host
delivers for a host window. DEDUCED: log entry 14. -/
def loadAccess (w : Who) (size : Nat) (cap : Bool) (a : Addr) (hostData : Gran) (m : Mach) : LoadResult × Mach :=
  let t := tileOf w.eng
  let fromMem (m : Mach) : LoadResult × Mach :=
    let p := readGran (whoAcc w) (granOf (phys t a)) m
    match p.1.bad with
    | some k => (.fails (excUncorr k a), p.2)
    | none => (.data p.1.data (p.1.tag && cap), p.2)
  match region a with
  | .tileAlias => fromMem m
  | r =>
    let p := fenceCheck (.tile t) (.ring w.comp w.ring) a false m
    if !p.1 then (.fails (excData 0x05 a), p.2)
    else
      match r with
      | .bootRom => (.data (BitVec.ofNat 128 (leNat ((range (16 * granOf a) 16).map Config.bootRom))) false, p.2)
      | .regs =>
        if size ≠ 4 then (.fails (excData 0x03 a), p.2)
        else
          let q := regRead w a p.2
          match q.1 with
          | some v => (.data (put 128 v (8 * (a.toNat % 16))) false, q.2)
          | none => (.fails (excData 0x03 a), q.2)
      | .hostWin => if winAllowed w a false p.2 then (.data hostData false, p.2) else (.fails (excData 0x05 a), p.2)
      | _ => fromMem p.2

end Sys2Proof.Machine
end

