-- ==== Sys2Proof/Machine/Flags.lean ====
section
/-! DEFINITION. The flags of F (R90, R91), the conditions (R91), and the arithmetic that sets them. -/

namespace Sys2Proof.Machine

open Sys2Proof

/-! Flags of F (R90). -/

def fZ (f : W64) : Bool := bit f 0
def fN (f : W64) : Bool := bit f 1
def fC (f : W64) : Bool := bit f 2
def fV (f : W64) : Bool := bit f 3
def fU (f : W64) : Bool := bit f 4

/-- The rounding mode F.RM. -/
def fRM (f : W64) : BitVec 2 := fld f 7 2

/-- The bits of F that MTF writes (R90). -/
def fMask : W64 := 0x3F9F#64

/-- F with one flag set to `b`. -/
def setFlag (f : W64) (i : Nat) (b : Bool) : W64 := setFld f i 1 (if b then 1#1 else 0#1)

def setZ (f : W64) (b : Bool) : W64 := setFlag f 0 b
def setN (f : W64) (b : Bool) : W64 := setFlag f 1 b
def setC (f : W64) (b : Bool) : W64 := setFlag f 2 b
def setV (f : W64) (b : Bool) : W64 := setFlag f 3 b
def setU (f : W64) (b : Bool) : W64 := setFlag f 4 b

/-- Z and N of a result: Z when it is zero, N its bit 63 (R90). -/
def setZN (f r : W64) : W64 := setN (setZ f (decide (r = 0#64))) (bit r 63)

/-- Z, N, C and V of an addition or subtraction. -/
def setZNCV (f r : W64) (c v : Bool) : W64 := setV (setC (setZN f r) c) v

/-- Sticky flags added to F (R94). -/
def stick (f : W64) (x : BitVec 5) : W64 := f ||| put 64 x 9

/-- a + b + cin: the sum, the carry out and signed overflow. -/
def addC (a b : W64) (cin : Bool) : W64 × Bool × Bool :=
  let k : Nat := if cin then 1 else 0
  let n := a.toNat + b.toNat + k
  let i := a.toInt + b.toInt + k
  (BitVec.ofNat 64 n, decide (2 ^ 64 ≤ n), decide (i < -(2 ^ 63) ∨ 2 ^ 63 ≤ i))

/-- a - b - bin: the difference, the borrow out and signed overflow (R90). -/
def subB (a b : W64) (bin : Bool) : W64 × Bool × Bool :=
  let k : Nat := if bin then 1 else 0
  let i := a.toInt - b.toInt - k
  (a - b - BitVec.ofNat 64 k, decide (a.toNat < b.toNat + k), decide (i < -(2 ^ 63) ∨ 2 ^ 63 ≤ i))

/-- A condition of R91 holds. Code 0xF has no condition. DEDUCED: log entry 15. -/
def cond (c : BitVec 4) (f : W64) : Bool :=
  match c.toNat with
  | 0 => true
  | 1 => fZ f
  | 2 => !fZ f
  | 3 => fN f != fV f
  | 4 => fN f == fV f
  | 5 => !fZ f && (fN f == fV f)
  | 6 => fZ f || (fN f != fV f)
  | 7 => fC f
  | 8 => !fC f
  | 9 => fN f
  | 10 => !fN f
  | 11 => fV f
  | 12 => !fV f
  | 13 => fU f
  | 14 => !fU f
  | _ => false

/-- The five shifts and rotates (R86). -/
inductive Shift where
  | shl | shr | sar | rol | ror
  deriving DecidableEq, Repr

/-- A shift or rotate of `a` by `n` < 64. -/
def Shift.value (k : Shift) (a : W64) (n : Nat) : W64 :=
  match k with
  | .shl => a <<< n
  | .shr => a >>> n
  | .sar => a.sshiftRight n
  | .rol => a.rotateLeft n
  | .ror => a.rotateRight n

/-- The last bit shifted out, for 0 < n < 64. -/
def Shift.out (k : Shift) (a : W64) (n : Nat) : Bool :=
  match k with
  | .shl | .rol => bit a (64 - n)
  | .shr | .sar | .ror => bit a (n - 1)

/-- F after a shift or rotate: Z and N of the result, C the last bit shifted out, unchanged for 0 (R91). -/
def Shift.flags (k : Shift) (f a : W64) (n : Nat) : W64 :=
  let f := setZN f (k.value a n)
  if n = 0 then f else setC f (k.out a n)

/-- Leading zeros of the bits below `k`. -/
def clz (a : W64) : Nat → Nat
  | 0 => 0
  | k + 1 => if bit a k then 0 else 1 + clz a k

/-- Trailing zeros from bit `i`, among `k` bits. -/
def ctz (a : W64) (i : Nat) : Nat → Nat
  | 0 => 0
  | k + 1 => if bit a i then 0 else 1 + ctz a (i + 1) k

/-- One bits among the lowest `k`. -/
def popcount (a : W64) : Nat → Nat
  | 0 => 0
  | k + 1 => (if bit a k then 1 else 0) + popcount a k

/-- The eight bytes of a word reversed. -/
def bswap (a : W64) : W64 :=
  byteOf a 0 ++ byteOf a 1 ++ byteOf a 2 ++ byteOf a 3 ++ byteOf a 4 ++ byteOf a 5 ++ byteOf a 6 ++ byteOf a 7

end Sys2Proof.Machine
end

