-- ==== Sys2Proof/Machine/Operands.lean ====
section
/-! DEFINITION. Instruction classes and addressing modes (R82 to R85). -/

namespace Sys2Proof.Machine

open Sys2Proof

/-- The classes of R82. -/
inductive Cls where
  | n | i | v | m | b | c | h
  deriving DecidableEq, Repr

/-- The illegal-instruction causes that a class gives to a mode and operand field (R82, R84, R87). DEDUCED: log entry 16. -/
def classCheck (k : Cls) (mode : BitVec 4) (opnd : BitVec 20) : Option Exc :=
  if k = .h then none
  else if mode = 0xF#4 then some (excIllegal 0x02)
  else
    match k with
    | .h => none
    | .n => if mode ≠ 0#4 then some (excIllegal 0x03) else if opnd ≠ 0#20 then some (excIllegal 0x04) else none
    | .i => if mode ≠ 0#4 then some (excIllegal 0x03) else none
    | .v =>
      if mode = 3#4 then
        if fld opnd 4 16 ≠ 0#16 then some (excIllegal 0x04)
        else if 8 < (fld opnd 0 4).toNat then some (excIllegal 0x06) else none
      else none
    | .m => if mode.toNat < 4 then some (excIllegal 0x03) else none
    | .b => if mode ≠ 0xB#4 then some (excIllegal 0x03) else none
    | .c =>
      if mode ≠ 3#4 then some (excIllegal 0x03)
      else if 3 < (fld opnd 16 4).toNat then some (excIllegal 0x06)
      else if 6 < (fld opnd 12 4).toNat then some (excIllegal 0x06) else none

/-- The capability register of a number (R84): 0 X, 1 Y, 2 D, 3 S, 4 PCC, 5 LINK, 6 SLINK. -/
def capReg (a : Arch) (k : BitVec 4) : Cap :=
  match k.toNat with
  | 0 => a.x
  | 1 => a.y
  | 2 => a.d
  | 3 => a.s
  | 4 => a.pcc
  | 5 => a.link
  | _ => a.slink

/-- X, Y, D or S replaced. -/
def setCapReg (a : Arch) (k : BitVec 4) (c : Cap) : Arch :=
  match k.toNat with
  | 0 => { a with x := c }
  | 1 => { a with y := c }
  | 2 => { a with d := c }
  | _ => { a with s := c }

/-- The value register of mode 0x3 (R84). -/
def valReg (a : Arch) (k : BitVec 4) : W64 :=
  match k.toNat with
  | 0 => a.a
  | 1 => a.e
  | 2 => a.m
  | 3 => a.rcnt
  | 4 => a.x.cursor.setWidth 64
  | 5 => a.y.cursor.setWidth 64
  | 6 => a.d.cursor.setWidth 64
  | 7 => a.s.cursor.setWidth 64
  | _ => a.f

/-- The value of the modes without memory (R83): IMMS, IMMU, IMMH and REG. -/
def immediate (a : Arch) (mode : BitVec 4) (opnd : BitVec 20) : Option W64 :=
  match mode.toNat with
  | 0 => some (sext 64 opnd)
  | 1 => some (opnd.setWidth 64)
  | 2 => some (put 64 opnd 44)
  | 3 => some (valReg a (fld opnd 0 4))
  | _ => none

/-- A memory operand: the capability checked with its register number, the address, and the cursor that its register
takes when the access completes. -/
structure MemOp where
  reg : BitVec 4
  cap : Cap
  addr : Addr
  step : Option Addr
  deriving DecidableEq, Repr

/-- The scale of an indexed mode (R83). -/
def scale (opnd : BitVec 20) : BitVec 36 :=
  match (fld opnd 0 2).toNat with
  | 0 => 1#36
  | 1 => 4#36
  | 2 => 8#36
  | _ => 16#36

/-- The memory operand of modes 0x4 to 0xE (R83). Cursor arithmetic wraps modulo 2^36. -/
def memOp (a : Arch) (mode : BitVec 4) (opnd : BitVec 20) : MemOp :=
  let d : Addr := sext 36 opnd
  match mode.toNat with
  | 4 => ⟨2#4, a.d, a.d.cursor + d, none⟩
  | 5 => ⟨0#4, a.x, a.x.cursor + d, none⟩
  | 6 => ⟨1#4, a.y, a.y.cursor + d, none⟩
  | 7 => ⟨3#4, a.s, a.s.cursor + d, none⟩
  | 8 => ⟨0#4, a.x, a.x.cursor, some (a.x.cursor + d)⟩
  | 9 => ⟨1#4, a.y, a.y.cursor, some (a.y.cursor + d)⟩
  | 10 => ⟨0#4, a.x, a.x.cursor + a.a.setWidth 36 * scale opnd + sext 36 (fld opnd 2 18), none⟩
  | 11 => ⟨4#4, a.pcc, a.pcc.cursor + 4#36 * d, none⟩
  | 12 =>
    let n := a.s.cursor - opnd.setWidth 36
    ⟨3#4, a.s, n, some n⟩
  | 13 => ⟨2#4, a.d, a.d.base + 16#36 * opnd.setWidth 36, none⟩
  | _ => ⟨1#4, a.y, a.y.cursor + a.a.setWidth 36 * scale opnd + sext 36 (fld opnd 2 18), none⟩

/-- The cursor of a stepping mode moved, when the access has completed (R85). -/
def MemOp.applyStep (o : MemOp) (a : Arch) : Arch :=
  match o.step with
  | none => a
  | some n => setCapReg a o.reg ((capReg a o.reg).setCursor n)

/-- The target of a branch of class B: the address of the instruction + 4 × sext(d) (R83). -/
def branchTarget (a : Arch) (opnd : BitVec 20) : Addr := a.pcc.cursor + 4#36 * sext 36 opnd

/-- The compartment and ring of an access (R113, R141). -/
def Arch.comp (a : Arch) : BitVec 10 := a.pcc.owner

/-- The next instruction in address order. -/
def Arch.advance (a : Arch) : Arch := { a with pcc := a.pcc.setCursor (a.pcc.cursor + 4#36) }

/-- The cursor at the next instruction, as return capabilities hold it. -/
def Arch.retCap (a : Arch) : Cap := a.pcc.setCursor (a.pcc.cursor + 4#36)

end Sys2Proof.Machine
end

