-- ==== Sys2Proof/Machine/Lane.lean ====
section
/-! DEFINITION. What one replica does for one instruction: the value operations, the long operations, the store buffer,
and the outcome that the voter compares. -/

namespace Sys2Proof.Machine

open Sys2Proof

/-! ### Long operations (R73, R74, R93 to R95) -/

/-- A long operation is issued: its opcode, operands, distance and rounding mode; one in flight is abandoned (R74). The
distance counts the instructions still needed to reach it: 6 right after FMUL, 5 after the instruction at distance 1, as in
the worked example of the spec after R181. DEDUCED: log entry 15. -/
def issue (opc : BitVec 8) (dist : BitVec 5) (fp : Bool) (op : W64) (a : Arch) : Arch :=
  { a with lop := opc, lopa := a.a, lopb := op, ldist := dist, lrm := if fp then fRM a.f else 0#2 }

/-- The signed and unsigned 128-bit products (R86). -/
def mulS (x y : W64) : BitVec 128 := BitVec.ofInt 128 (x.toInt * y.toInt)
def mulU (x y : W64) : BitVec 128 := BitVec.ofNat 128 (x.toNat * y.toNat)

/-- E:M set to a 128-bit value. -/
def setEM (v : BitVec 128) (a : Arch) : Arch := { a with e := fld v 64 64, m := fld v 0 64 }

/-- M set to a binary64 result, with its sticky flags. -/
def setMF (r : W64 × FFlags) (a : Arch) : Arch := { a with m := r.1, f := stick a.f r.2 }

/-- The result of the long operation in flight (R86, R93 to R95). -/
def longResult (a : Arch) : Arch :=
  let x := a.lopa
  let y := a.lopb
  let rm := a.lrm
  match a.lop.toNat with
  | 0x40 => setEM (mulS x y) a
  | 0x41 => setEM (mulU x y) a
  | 0x42 => setEM ((a.e ++ a.m) + mulS x y) a
  | 0x43 => setEM ((a.e ++ a.m) + mulU x y) a
  | 0x44 => if y = 0#64 then { a with m := 0#64, e := x, f := stick a.f fDZ }
            else { a with m := BitVec.ofInt 64 (x.toInt.tdiv y.toInt), e := BitVec.ofInt 64 (x.toInt.tmod y.toInt) }
  | 0x45 => if y = 0#64 then { a with m := 0#64, e := x, f := stick a.f fDZ } else { a with m := x / y, e := x % y }
  | 0x46 => if y = 0#64 then { a with m := 0#64, f := stick a.f fDZ }
            else { a with m := BitVec.ofInt 64 (x.toInt.tmod y.toInt) }
  | 0x47 => if y = 0#64 then { a with m := 0#64, f := stick a.f fDZ } else { a with m := x % y }
  | 0x50 => setMF (ofF64 (addF binary64 rm (f64 x) (f64 y))) a
  | 0x51 => setMF (ofF64 (addF binary64 rm (f64 x) (negF (f64 y)))) a
  | 0x52 => setMF (ofF64 (mulF binary64 rm (f64 x) (f64 y))) a
  | 0x53 => setMF (ofF64 (divF binary64 rm (f64 x) (f64 y))) a
  | 0x54 => setMF (ofF64 (sqrtF binary64 rm (f64 x))) a
  | 0x55 => setMF (toI64 rm (f64 x)) a
  | 0x56 => setMF (ofF64 (ofIntF binary64 rm x.toInt)) a
  | 0x57 => let r := ofF32 (convF binary32 rm (f64 x)); setMF (r.1.setWidth 64, r.2) a
  | 0x58 => setMF (ofF64 (convF binary64 rm (f32 (fld x 0 32)))) a
  | _ => a

/-- The long operation in flight completes: M, and E where it writes E, take the result. -/
def completeLong (a : Arch) : Arch :=
  if a.lop = 0#8 then a
  else { longResult a with lop := 0#8, lopa := 0#64, lopb := 0#64, ldist := 0#5, lrm := 0#2 }

/-- A pending load and a long operation in flight complete at once (R76, R150). -/
def completeAll (a : Arch) : Arch :=
  completeLong (if a.lpend then { a with a := a.lval, lpend := false, lval := 0#64 } else a)

/-- One more instruction towards the distance of the long operation in flight (R75); at 1 its result is due. -/
def countDist (a : Arch) : Arch := if 1 < a.ldist.toNat then { a with ldist := a.ldist - 1#5 } else a

/-! ### Value operations (R86) -/

/-- A result in A with Z and N. -/
def resZN (a : Arch) (r : W64) : Arch := { a with a := r, f := setZN a.f r }

/-- A result in A with Z, N, C and V. -/
def resZNCV (a : Arch) (r : W64 × Bool × Bool) : Arch := { a with a := r.1, f := setZNCV a.f r.1 r.2.1 r.2.2 }

/-- A load into A: pending until the end of the following instruction (R72, R92). -/
def pendLoad (a : Arch) (v : W64) : Arch := { a with lpend := true, lval := v }

/-- A shift or rotate by op mod 64. -/
def resShift (k : Shift) (a : Arch) (op : W64) : Arch :=
  let n := op.toNat % 64
  { a with a := k.value a.a n, f := k.flags a.f a.a n }

/-- The result of FMIN or FMAX: any NaN gives the canonical NaN, -0 lies below +0 (R86). -/
def minmaxF (max : Bool) (x y : W64) : W64 :=
  let a := f64 x
  let b := f64 y
  if a.isNaN || b.isNaN then 0x7FF8_0000_0000_0000#64
  else
    let less := cmpF a b == .lt || (cmpF a b == .eq && a.sign && !b.sign)
    if less != max then x else y

/-- NV when an operand is a signalling NaN. -/
def snanFlag (x y : W64) : FFlags := if (f64 x).snan || (f64 y).snan then fNV else 0#5

/-- F after FCMP (R86). -/
def fcmpFlags (f x y : W64) : W64 :=
  let o := cmpF (f64 x) (f64 y)
  stick (setU (setV (setC (setN (setZ f (o == .eq)) (o == .lt)) false) false) (o == .un)) (snanFlag x y)

/-- What an instruction with a value operand does with it (R86). -/
def valueEffect (k : LdOp) (v : W64) (a : Arch) : Arch :=
  match k with
  | .lda | .lr | .pop => pendLoad a v
  | .ldaw => pendLoad a ((fld v 0 32).setWidth 64)
  | .ldaws => pendLoad a (sext 64 (fld v 0 32))
  | .ldah => pendLoad a ((fld v 0 16).setWidth 64)
  | .ldahs => pendLoad a (sext 64 (fld v 0 16))
  | .ldab => pendLoad a ((fld v 0 8).setWidth 64)
  | .ldabs => pendLoad a (sext 64 (fld v 0 8))
  | .lde => { a with e := v }
  | .ldrc => { a with rcnt := v }
  | .add => resZNCV a (addC a.a v false)
  | .adc => resZNCV a (addC a.a v (fC a.f))
  | .sub => resZNCV a (subB a.a v false)
  | .sbc => resZNCV a (subB a.a v (fC a.f))
  | .rsb => resZNCV a (subB v a.a false)
  | .and_ => resZN a (a.a &&& v)
  | .or_ => resZN a (a.a ||| v)
  | .xor => resZN a (a.a ^^^ v)
  | .andn => resZN a (a.a &&& ~~~v)
  | .cmp => let r := subB a.a v false; { a with f := setZNCV a.f r.1 r.2.1 r.2.2 }
  | .tst => { a with f := setZN a.f (a.a &&& v) }
  | .shl => resShift .shl a v
  | .shr => resShift .shr a v
  | .sar => resShift .sar a v
  | .rol => resShift .rol a v
  | .ror => resShift .ror a v
  | .min_ => resZN a (if a.a.toInt ≤ v.toInt then a.a else v)
  | .max_ => resZN a (if v.toInt ≤ a.a.toInt then a.a else v)
  | .minu => resZN a (if a.a.toNat ≤ v.toNat then a.a else v)
  | .maxu => resZN a (if v.toNat ≤ a.a.toNat then a.a else v)
  | .mul => issue 0x40 4 false v a
  | .mulu => issue 0x41 4 false v a
  | .mac => issue 0x42 4 false v a
  | .macu => issue 0x43 4 false v a
  | .div => issue 0x44 20 false v a
  | .divu => issue 0x45 20 false v a
  | .rem => issue 0x46 20 false v a
  | .remu => issue 0x47 20 false v a
  | .fadd => issue 0x50 6 true v a
  | .fsub => issue 0x51 6 true v a
  | .fmul => issue 0x52 6 true v a
  | .fdiv => issue 0x53 24 true v a
  | .fcmp => { a with f := fcmpFlags a.f a.a v }
  | .fmin => { a with a := minmaxF false a.a v, f := stick a.f (snanFlag a.a v) }
  | .fmax => { a with a := minmaxF true a.a v, f := stick a.f (snanFlag a.a v) }
  | .ldc _ | .popc _ | .ret => a

/-- The width in bytes of an instruction's memory operand (R86). -/
def LdOp.size : LdOp → Nat
  | .ldaw | .ldaws => 4
  | .ldah | .ldahs => 2
  | .ldab | .ldabs => 1
  | .ldc _ | .popc _ | .ret => 16
  | _ => 8

/-- Whether the operand is loaded as a capability with its tag (R116). -/
def LdOp.isCap : LdOp → Bool
  | .ldc _ | .popc _ | .ret => true
  | _ => false

/-! ### Transactions and outcomes -/

/-- What a transaction is (R188, R192). -/
inductive TransKind where
  | load | store | capLoad | capStore | taskState | shadow
  deriving DecidableEq, Repr

/-- A request that only reads. -/
def TransKind.isLoad : TransKind → Bool
  | .load | .capLoad => true
  | _ => false

/-- A transaction as the voter compares it (R192): kind, address, size, byte-valid mask, data, tag, compartment and
ring. -/
structure Trans where
  kind : TransKind
  addr : Addr
  size : BitVec 5
  mask : BitVec 16
  data : Gran
  tag : Bool
  comp : BitVec 10
  ring : BitVec 2
  deriving DecidableEq, Repr

/-- A store of an instruction, its value in the low bytes. -/
structure StReq where
  addr : Addr
  size : Nat
  data : Gran
  cap : Bool
  tag : Bool
  deriving DecidableEq, Repr

/-- What an instruction asks of its engine beyond the replica: nothing, an operand load, an SC at an address, a
captured span record, the end of the slot, a wait, the start of a string instruction, an invalidation, a breakpoint,
an interrupt that ERET chains to (R171), or a reset of the engine by a third fault (R174) with the vector that could not be taken. -/
inductive Ev where
  | none
  | load (op : LdOp) (addr : Addr)
  | sc (addr : Addr) (data : W64)
  | capture (addr : Addr) (size : Nat) (data : Gran)
  | slotEnd
  | wfi
  | string (opc : BitVec 8)
  | cinv (all : Bool)
  | rinv (all : Bool)
  | bkpt (code : BitVec 8)
  | chain (vec : BitVec 6)
  | reset (vec : BitVec 6)
  deriving DecidableEq, Repr

/-- The effect of an instruction on one replica: its state after it, whether the flow of control changed, whether
pending load and long operation were completed in it (R150), the stores that enter the buffer, the transactions
presented at once, loads among them, whether the instruction trapped, and whether it is a step that leaves its string
instruction going. -/
structure Fx where
  arch : Arch
  jump : Bool
  settled : Bool
  stores : List StReq
  trans : List Trans
  ev : Ev
  trap : Bool
  part : Bool
  deriving DecidableEq, Repr

/-- An effect on registers alone. -/
def fx (a : Arch) : Fx := ⟨a, false, false, [], [], .none, false, false⟩

/-- An effect that leaves PCC where the instruction put it. -/
def fxJump (a : Arch) : Fx := { fx a with jump := true }

/-! ### The store buffer (R66, R67) -/

/-- A window whose accesses stay apart: register space and host windows. -/
def isDevice (a : Addr) : Bool := region a == .regs || region a == .hostWin

/-- The bytes of a store as its granule holds them, with their mask. -/
def StReq.place (q : StReq) : Gran × BitVec 16 :=
  let o := q.addr.toNat % 16
  (q.data <<< (8 * o), BitVec.ofNat 16 ((2 ^ q.size - 1) * 2 ^ o))

/-- A new entry for a store. -/
def StReq.entry (q : StReq) (a : Arch) (tick : BitVec 64) (pos : BitVec 6) : SbEntry :=
  let p := q.place
  ⟨alignG q.addr, mergeBytes 0#128 p.1 p.2, p.2, q.cap && q.tag, q.cap, false, decide (q.size ≠ 4), none, a.comp, a.ring,
    a.pcc.cursor, tick, pos, false⟩

/-- A store would merge into the youngest entry: that holds the same granule and has not been issued (R66). -/
def merges (sb : List SbEntry) (gran : Addr) : Bool :=
  match sb.getLast? with
  | some y => decide (y.gran = gran) && y.issued.isNone
  | none => false

/-- Two stores to one granule as one entry: the bytes of the younger over those of the older, with the tag of the younger
(R66). A store of the whole granule leaves nothing of the older one. -/
def SbEntry.mergeInto (y n : SbEntry) : SbEntry :=
  if n.mask = 0xFFFF#16 then n
  else { n with data := mergeBytes y.data n.data n.mask, mask := y.mask ||| n.mask, merged := true, odd := y.odd || n.odd }

/-- A store enters the buffer: merged into the youngest entry, or as a new one (R66). DEDUCED: log entry 13. -/
def sbPut (sb : List SbEntry) (n : SbEntry) : List SbEntry :=
  match sb.getLast? with
  | some y => if merges sb n.gran then sb.dropLast ++ [y.mergeInto n] else sb ++ [n]
  | none => [n]

/-- Bytes of an access as a mask over its granule. -/
def accMask (a : Addr) (size : Nat) : BitVec 16 := BitVec.ofNat 16 ((2 ^ size - 1) * 2 ^ (a.toNat % 16))

/-- The youngest entry that holds a byte of an access, with the number of entries older than it (R68). -/
def sbYoungest (t : BitVec 5) (a : Addr) (size : Nat) : List SbEntry → Nat → Option (Nat × SbEntry)
  | [], _ => none
  | y :: r, k =>
    match sbYoungest t a size r (k + 1) with
    | some z => some z
    | none =>
      if phys t y.gran = alignG (phys t a) ∧ y.mask &&& accMask a size ≠ 0#16 then some (k, y) else none

/-- What a load finds in the buffer (R68): nothing, the whole of its data, or an overlap for which it waits until the
given number of entries is accepted. -/
inductive SbHit where
  | none
  | forward (e : SbEntry)
  | wait (n : Nat)
  deriving DecidableEq, Repr

def sbLookup (t : BitVec 5) (a : Addr) (size : Nat) (cap : Bool) (sb : List SbEntry) : SbHit :=
  if isDevice a then (if sb.isEmpty then .none else .wait sb.length)
  else
    match sbYoungest t a size sb 0 with
    | Option.none => .none
    | some (k, y) => if y.mask &&& accMask a size = accMask a size ∧ (!cap || y.mask = 0xFFFF#16) then .forward y
      else .wait (k + 1)

/-- Where an instruction runs: the module as it stands, the engine, and the store buffer of the replica (R68). -/
structure Ctx where
  m : Mach
  e : BitVec 7
  sb : List SbEntry

def Ctx.tile (c : Ctx) : BitVec 5 := tileOf c.e
def Ctx.pos (c : Ctx) : BitVec 2 := posOf c.e

/-- The context of replica `r` of an engine. -/
def Ctx.of (m : Mach) (e : BitVec 7) (r : BitVec 2) : Ctx := ⟨m, e, (rep m (tileOf e) r).sb⟩

/-- The identity of a replica's access. -/
def Ctx.acc (c : Ctx) (a : Arch) : Acc := ⟨true, c.e, a.comp, a.ring⟩

/-- A granule of the tile's own SRAM or of shared SRAM, as memory holds it. The shadow stack is read so: no store of the
replica's buffer can reach it (R155). -/
def Ctx.readMem (c : Ctx) (a : Arch) (x : Addr) : GranRead := (readGran (c.acc a) (granOf (phys c.tile x)) c.m).1

/-- A granule read by the hardware of an instruction: from the youngest entry of the store buffer that holds it whole, else
from memory (R68). -/
def Ctx.read (c : Ctx) (a : Arch) (x : Addr) : GranRead :=
  match sbLookup c.tile x 16 true c.sb with
  | .forward y => ⟨y.data, y.tag, none⟩
  | _ => c.readMem a x

/-- The capability that a granule holds. -/
def GranRead.toCap (r : GranRead) : Cap := Cap.norm ⟨r.data, r.tag⟩

/-- A transaction of 16 bytes with a tag. -/
def trans16 (k : TransKind) (x : Addr) (d : Gran) (tag : Bool) (a : Arch) : Trans :=
  ⟨k, x, 16#5, 0xFFFF#16, d, tag, a.comp, a.ring⟩

/-- A request for a granule with its tag. -/
def load16 (x : Addr) (a : Arch) : Trans := trans16 .capLoad x 0#128 false a

/-! ### An instruction on one replica -/

/-- A replica's outcome: an exception, a double fault with the vector that could not be taken and its address (R169,
R173), or an effect. -/
inductive LaneOut where
  | exc (x : Exc)
  | dbl (vec : BitVec 6) (faddr : Addr)
  | ok (f : Fx)
  deriving DecidableEq, Repr

/-- A repeat block is active (R102, R105). -/
def inBody (a : Arch) : Bool := bit a.rstate 8 && decide (fld a.rstate 0 8 = 0x86#8)

/-- What an instruction's encoding asks for: its class, whether a repeat body may hold it, the checks of its raw
field, and the highest ring that may run it (R82, R86, R103). -/
structure InstrSpec where
  cls : Cls
  noRep : Bool
  raw : BitVec 20 → Option Exc
  ringMax : Nat

/-- An instruction without rules of its own. -/
def plain (k : Cls) : InstrSpec := ⟨k, false, fun _ => none, 3⟩

/-- The illegal-instruction and privileged-instruction checks, which come before all others (R87, R97, R120).
DESIGN CHOICE: log entry 1. DEDUCED: log entry 16. -/
def decodeCheck (s : InstrSpec) (mode : BitVec 4) (opnd : BitVec 20) (a : Arch) : Option Exc :=
  (classCheck s.cls mode opnd).or <| (s.raw opnd).or <|
    if s.noRep && inBody a then some (excIllegal 0x05)
    else if s.ringMax < a.ring.toNat then some (excPriv 0x01)
    else none

/-- The state in which an instruction runs: the pending load of the instruction before is taken out, to be written at
its end, and the long operation in flight is one instruction nearer (R72, R75). -/
def beginArch (a : Arch) : Arch := countDist { a with lpend := false }

/-- The checks before an instruction's own effect: those of its address, what the fetch of its word met, then the decode
checks (R55, R60, R120, R121). -/
def instrCheck (s : InstrSpec) (mode : BitVec 4) (opnd : BitVec 20) (word : Option Exc) (a : Arch) : Option Exc :=
  ((checkFetch a.comp a.ring a.pcc 7#4 a.pcc.cursor).or word).or (decodeCheck s mode opnd a)

/-- What one lane makes of an instruction (R55). -/
def laneOut (s : InstrSpec) (mode : BitVec 4) (opnd : BitVec 20) (word : Option Exc) (sem : Ctx → Arch → Bool → LaneOut)
    (c : Ctx) (a : Arch) : LaneOut :=
  match instrCheck s mode opnd word a with
  | some x => .exc x
  | none => sem c (beginArch a) a.lpend

/-- RSTATE with its POS replaced. -/
def setPos (rs : W64) (p : BitVec 4) : W64 := setFld rs 13 4 p

/-- A replica after an instruction that took effect: PCC at the next instruction, the loaded value of the instruction
before due (R72), the place in a repeat body advanced (R104), the stores in the buffer. A step that leaves its string
instruction going is not its end, so a load before it stays pending, and its word stays in the queue (R58, R72). -/
def laneDone (tick : BitVec 64) (pos : BitVec 6) (r : Replica) (f : Fx) : Replica :=
  let a := if f.jump then f.arch else f.arch.advance
  let body := inBody r.arch && inBody f.arch && !f.jump
  let last := body && decide (fld a.rstate 13 4 = fld a.rstate 9 4)
  let a := if body && !last then { a with rstate := setPos a.rstate (fld a.rstate 13 4 + 1#4) } else a
  { r with
    arch := if f.part then { a with lpend := r.arch.lpend, lval := r.arch.lval } else a
    ldue := if r.arch.lpend && !f.settled && !f.part then some r.arch.lval else none
    repEnd := last
    prefetch := if f.part then r.prefetch else if f.jump then [] else r.prefetch.drop 1
    sb := f.stores.foldl (fun b q => sbPut b (q.entry r.arch tick pos)) r.sb }

/-- The end-of-iteration step of a repeat block (R104), which counts as one instruction. DEDUCED: log entry 15. -/
def repeatEnd (r : Replica) : Replica :=
  let old := r.arch
  let a := countDist { old with lpend := false, rcnt := old.rcnt - 1#64 }
  let a := if a.rcnt = 0#64 then { a with rstate := 0#64 }
    else { a with rstate := setPos a.rstate 0#4, pcc := a.pcc.setCursor (fld a.rstate 20 36) }
  { r with arch := a, repEnd := false, ldue := if old.lpend then some old.lval else r.ldue }

/-- A loaded value is written to A (R72). -/
def loadDue (r : Replica) : Replica :=
  match r.ldue with
  | some v => { r with arch := { r.arch with a := v }, ldue := none }
  | none => r

/-- The long operation in flight completes when its distance is reached (R73). -/
def longDue (r : Replica) : Replica :=
  if r.arch.lop ≠ 0#8 ∧ r.arch.ldist.toNat ≤ 1 then { r with arch := completeLong r.arch } else r

/-- Everything due on a replica before the next instruction. -/
def settleLane (r : Replica) : Replica :=
  let r := longDue (loadDue r)
  if r.repEnd then longDue (loadDue (repeatEnd r)) else r

end Sys2Proof.Machine
end

