-- ==== Sys2Proof/Machine/Sem.lean ====
section
/-! DEFINITION. The effects of loads, stores, moves, arithmetic and capability instructions on one replica (R86 to R98,
R118). -/

namespace Sys2Proof.Machine

open Sys2Proof

/-- The outcome of a check, then an effect. -/
def guardE {α : Type} (x : Option Exc) (k : Except Exc α) : Except Exc α :=
  match x with
  | some e => .error e
  | none => k

/-! ### Operand loads -/

/-- An access through the capability of a memory operand. -/
def checkOp (c : Ctx) (a : Arch) (o : MemOp) (k : AccKind) : Option Exc :=
  checkAccess c.m.owner a.comp a.ring o.cap o.reg o.addr k

/-- LR and SC reach tile-local and shared SRAM only (R106). -/
def resvRegion (x : Addr) : Option Exc :=
  match region x with
  | .tileAlias | .tile _ | .shared => none
  | _ => some (excData 0x07 x)

/-- Areas that no load reaches (R155): the shadow-stack areas. -/
def shadowArea (c : Ctx) (x : Addr) : Bool := inShadow (phys c.tile x)

/-- A load is asked for: its address is checked, and the engine brings the data. -/
def loadSem (k : LdOp) (o : MemOp) (c : Ctx) (a : Arch) : Except Exc Fx :=
  guardE (checkOp c a o ⟨k.size, k.size, false, k.isCap⟩) <|
  guardE (if k = .lr then resvRegion o.addr else none) <|
  guardE (if shadowArea c o.addr then some (excData 0x08 o.addr) else none) <|
  .ok { fx a with ev := .load k o.addr }

/-- An instruction with a value operand: at once in the modes without memory, else through a load (R83). -/
def valueSem (k : LdOp) (mode : BitVec 4) (opnd : BitVec 20) (c : Ctx) (a : Arch) : Except Exc Fx :=
  match immediate a mode opnd with
  | some v => .ok (fx (valueEffect k v a))
  | none => loadSem k (memOp a mode opnd) c a

/-- The stack operand of POP, POPC and RET. -/
def popOp (a : Arch) : MemOp := ⟨3#4, a.s, a.s.cursor, none⟩

/-- S moved up by `n` bytes. -/
def stackUp (a : Arch) (n : Addr) : Arch := { a with s := a.s.setCursor (a.s.cursor + n) }

/-! ### The shadow stack (R155 to R157) -/

/-- The base of the shadow-stack area of a position. -/
def shadowBase (p : BitVec 2) : Addr := 0x1003_8000#36 + put 36 p 12

/-- The top of the area: SSP of an empty stack. -/
def shadowTop (p : BitVec 2) : Addr := shadowBase p + 0x1000#36

/-- Room for `n` entries below SSP. -/
def shadowRoom (c : Ctx) (a : Arch) (n : Nat) : Bool := decide ((shadowBase c.pos).toNat + 16 * n ≤ a.ssp.toNat)

/-- The stack holds at least `n` entries. -/
def shadowHas (c : Ctx) (a : Arch) (n : Nat) : Bool := decide (a.ssp.toNat + 16 * n ≤ (shadowTop c.pos).toNat)

/-- A granule that holds a frame word: untagged, with the marker 0xF1 (R148). -/
def isFrame (r : GranRead) : Bool := !r.tag && decide (fld r.data 120 8 = 0xF1#8)

/-- RET (R156): the popped capability must equal the top entry; then both are popped. -/
def retSem (c : Ctx) (d : Gran) (tag : Bool) (a : Arch) : Except Exc Fx :=
  let top := c.readMem a a.ssp
  if !shadowHas c a 1 then .error (excShadow 0x01)
  else
    match top.bad with
    | some k => .error (excUncorr k a.ssp)
    | none =>
      if isFrame top || top.data != d || top.tag != tag then .error (excShadow 0x01)
      else
        let a := stackUp a 16#36
        .ok { fxJump { a with pcc := ⟨d, tag⟩, ssp := a.ssp + 16#36 } with trans := [load16 a.ssp a] }

/-- What a load does with its data: the granule `d` with tag `tag`, read at address `x` (R86, R92). -/
def loadFinish (k : LdOp) (mode : BitVec 4) (opnd : BitVec 20) (x : Addr) (d : Gran) (tag : Bool) (c : Ctx) (a : Arch) :
    Except Exc Fx :=
  let v := d >>> (8 * (x.toNat % 16))
  let o := memOp a mode opnd
  match k with
  | .ldc dst =>
    let r : BitVec 4 := dst.setWidth 4
    let a := if o.reg = r then a else o.applyStep a
    .ok (fx (setCapReg a r (Cap.norm ⟨d, tag⟩)))
  | .popc dst =>
    let r : BitVec 4 := dst.setWidth 4
    let a := if dst = 3#2 then a else stackUp a 16#36
    .ok (fx (setCapReg a r (Cap.norm ⟨d, tag⟩)))
  | .ret => retSem c d tag a
  | .pop => .ok (fx (stackUp (valueEffect .pop (fld v 0 64) a) 8#36))
  | .lr => .ok (fx (o.applyStep { valueEffect .lr (fld v 0 64) a with resv := some (alignG (phys c.tile x)) }))
  | k => .ok (fx (o.applyStep (valueEffect k (fld v 0 64) a)))

/-! ### Stores -/

/-- The slot that an engine runs has the SPAN flag (R224). -/
def Ctx.span (c : Ctx) : Bool :=
  match (c.m.engines.get c.e).cur with
  | some r => r.slot.span
  | none => false

/-- Output command records, bytes 0x40 to 0x5F of a record block (R316). -/
def inOutputRecord (x : Addr) : Bool :=
  decide (0x40F8_0000 ≤ x.toNat ∧ x.toNat < 0x40F8_8000 ∧ 0x40 ≤ x.toNat % 0x80 ∧ x.toNat % 0x80 < 0x60)

/-- A checked store: into the buffer, or captured when a span member stores to an output command record (R225). -/
def storeFx (c : Ctx) (q : StReq) (a : Arch) : Fx :=
  if c.span && inOutputRecord q.addr then { fx a with ev := .capture q.addr q.size q.data }
  else { fx a with stores := [q] }

/-- A store of `size` bytes of `v` through a memory operand; the cursor moves when the checks have passed (R85). -/
def storeSem (size : Nat) (v : Gran) (cap tag : Bool) (mode : BitVec 4) (opnd : BitVec 20) (c : Ctx) (a : Arch) :
    Except Exc Fx :=
  let o := memOp a mode opnd
  guardE (checkOp c a o ⟨size, size, true, cap⟩) <|
  .ok (storeFx c ⟨o.addr, size, v, cap, tag⟩ (o.applyStep a))

/-- SC (R106): the engine tries the store once its buffer is empty. Areas that refuse the store raise it at once,
since the store has not retired. -/
def scSem (mode : BitVec 4) (opnd : BitVec 20) (c : Ctx) (a : Arch) : Except Exc Fx :=
  let o := memOp a mode opnd
  guardE (checkOp c a o ⟨8, 8, true, false⟩) <|
  guardE (resvRegion o.addr) <|
  guardE (match areaRefusal true (keeperCtx a.comp a.ring) false (phys c.tile o.addr) with
    | some 5 => some (excData 0x08 o.addr)
    | some _ => some (excData 0x04 o.addr)
    | none => none) <|
  .ok { fx (o.applyStep a) with ev := .sc o.addr a.a }

/-- PUSH and PUSHC: S moves down, then the value is stored there. `v` gives it from the state in which S has moved (R86). -/
def pushSem (size : Nat) (v : Arch → Cap) (cap : Bool) (c : Ctx) (a : Arch) : Except Exc Fx :=
  let n := a.s.cursor - BitVec.ofNat 36 size
  let b := { a with s := a.s.setCursor n }
  guardE (checkOp c a ⟨3#4, a.s, n, none⟩ ⟨size, size, true, cap⟩) <|
  .ok (storeFx c ⟨n, size, (v b).bits, cap, (v b).tag⟩ b)

/-! ### Raw fields of class I and C -/

/-- Bits of OPND that must be 0 (cause 0x04). -/
def rawZero (lo len : Nat) (opnd : BitVec 20) : Option Exc :=
  if fld opnd lo len = 0 then none else some (excIllegal 0x04)

/-! ### Moves and single-operand arithmetic -/

def absSem (a : Arch) : Arch :=
  let min := decide (a.a = 0x8000_0000_0000_0000#64)
  let r := if bit a.a 63 then 0#64 - a.a else a.a
  { a with a := r, f := setV (setZN a.f r) min }

def countSem (n : Nat) (a : Arch) : Arch :=
  { a with a := BitVec.ofNat 64 n, f := setZ a.f (decide (n = 0)) }

def sextSem (opnd : BitVec 20) (a : Arch) : Arch :=
  match opnd.toNat with
  | 0 => resZN a (sext 64 (fld a.a 0 8))
  | 1 => resZN a (sext 64 (fld a.a 0 16))
  | _ => resZN a (sext 64 (fld a.a 0 32))

/-! ### Capability instructions (R118, R130, R541) -/

/-- The source, destination and immediate of class C (R84). -/
def cSrc (opnd : BitVec 20) (a : Arch) : Cap := capReg a (fld opnd 12 4)
def cSrcNo (opnd : BitVec 20) : BitVec 4 := fld opnd 12 4
def cDst (opnd : BitVec 20) : BitVec 4 := fld opnd 16 4
def cImm (opnd : BitVec 20) : BitVec 12 := fld opnd 0 12

/-- A derived capability placed in its destination. -/
def derive (opnd : BitVec 20) (a : Arch) (c : Cap) : Except Exc Fx := .ok (fx (setCapReg a (cDst opnd) c.norm))

/-- A failure of derivation names the register checked and its cursor (R123). -/
def capFail (cause : BitVec 8) (reg : BitVec 4) (c : Cap) : Exc := excCap cause reg c.cursor

def ptrim (opnd : BitVec 20) (a : Arch) : Except Exc Fx :=
  let s := cSrc opnd a
  let k := cSrcNo opnd
  if !s.tag then .error (capFail cTAG k s)
  else if s.kind ≠ 0#2 then .error (capFail cSEALED k s)
  else if !s.has rDRV then .error (capFail cDRV k s)
  else if !(decide (s.base.toNat ≤ a.a.toNat) && decide (a.a.toNat ≤ a.e.toNat) && decide (a.e.toNat ≤ s.limit)) then
    .error (capFail cWIDEN k s)
  else
    let empty := a.a = a.e ∧ (a.a = 0#64 ∨ a.a.toNat = 2 ^ 36)
    derive opnd a (Cap.make (a.a.setWidth 36) (a.a.setWidth 36) (a.e.setWidth 36)
      (if empty then 0#8 else s.rights) s.owner 0#2 true)

def pmask (opnd : BitVec 20) (a : Arch) : Except Exc Fx :=
  let s := cSrc opnd a
  let r := s.setRights (s.rights &&& fld opnd 0 8)
  derive opnd a { r with tag := s.tag && decide (s.kind = 0#2) }

/-- PSTEP and PAIM: the cursor moved, of a capability that is not sealed. -/
def moveCursor (opnd : BitVec 20) (n : Addr) (a : Arch) : Except Exc Fx :=
  let s := cSrc opnd a
  if s.tag && decide (s.kind ≠ 0#2) then .error (capFail cSEALED (cSrcNo opnd) s)
  else derive opnd a (s.setCursor n)

/-- The authority checks of R129 on Y for a source. -/
def authority (a : Arch) (s : Cap) : Option Exc :=
  let y := a.y
  if !y.tag then some (capFail cTAG 1 y)
  else if y.kind ≠ 0#2 then some (capFail cSEALED 1 y)
  else if !keeperCtx a.comp a.ring && decide (y.owner ≠ a.comp) then some (capFail cOWNER 1 y)
  else if !y.has rSEAL then some (capFail cSEAL 1 y)
  else if !(decide (y.base.toNat ≤ s.base.toNat) && decide (s.limit ≤ y.limit)) then some (capFail cWIDEN 1 y)
  else none

/-- A source that may be sealed or unsealed by the current compartment: tagged, of the kind asked for, and its own
unless in the keeper context (R118). -/
def sealSource (a : Arch) (s : Cap) (k : BitVec 4) (kind : BitVec 2) (cause : BitVec 8) : Option Exc :=
  if !s.tag then some (capFail cTAG k s)
  else if s.kind ≠ kind then some (capFail cause k s)
  else if !keeperCtx a.comp a.ring && decide (s.owner ≠ a.comp) then some (capFail cOWNER k s)
  else none

def pwrap (opnd : BitVec 20) (a : Arch) : Except Exc Fx :=
  let s := cSrc opnd a
  guardE (authority a s) <| guardE (sealSource a s (cSrcNo opnd) 0#2 cSEALED) <|
  derive opnd a { s.setKind (if bit opnd 0 then 2#2 else 1#2) with tag := true }

def punwrap (opnd : BitVec 20) (a : Arch) : Except Exc Fx :=
  let s := cSrc opnd a
  guardE (authority a s) <| guardE (sealSource a s (cSrcNo opnd) 2#2 cKIND) <|
  derive opnd a { s.setKind 0#2 with tag := true }

/-- PFLD: a field of a capability in A, with Z (R86, R118). -/
def pfldValue (c : Cap) (k : Nat) : W64 :=
  match k with
  | 0 => c.cursor.setWidth 64
  | 1 => c.base.setWidth 64
  | 2 => BitVec.ofNat 64 c.limit
  | 3 => c.rights.setWidth 64
  | 4 => c.owner.setWidth 64
  | 5 => c.kind.setWidth 64
  | 6 => if c.tag then 1#64 else 0#64
  | _ => BitVec.ofNat 64 c.limit - c.base.setWidth 64

def pfld (opnd : BitVec 20) (a : Arch) : Except Exc Fx :=
  let v := pfldValue (cSrc opnd a) (cImm opnd).toNat
  .ok (fx { a with a := v, f := setZ a.f (decide (v = 0#64)) })

/-! ### System registers (R96, R152, R155, R162) -/

/-- A value that TSBR accepts (R162). -/
def tsbrOk (v : BitVec 36) : Bool :=
  let n := v.toNat
  decide (n % 256 = 0) &&
    (decide (0x1000_0800 ≤ n ∧ n < 0x1003_8000) || decide (0x1003_C000 ≤ n ∧ n < 0x1003_FC00))

def mfsrSem (opnd : BitVec 20) (a : Arch) : Except Exc Fx :=
  let k := (fld opnd 0 8).toNat
  let top := if k = 0 then 1 else if k = 5 then 3 else 0
  if 5 < k then .error (excIllegal 0x06)
  else if top < a.ring.toNat then .error (excPriv 0x01)
  else
    let v : W64 := match k with
      | 0 => a.tsbr.setWidth 64
      | 1 => a.ssp.setWidth 64
      | 2 => a.ent0.cursor.setWidth 64
      | 3 => a.ent1.cursor.setWidth 64
      | 4 => a.ent2.cursor.setWidth 64
      | _ => a.rstate
    .ok (fx { a with a := v })

/-- The bits of RSTATE that MTSR writes (R105). -/
def rstateMask : W64 := 0x00FF_FFFF_FFF1_FFFF#64

/-- DEDUCED: log entry 16. -/
def mtsrSem (opnd : BitVec 20) (c : Ctx) (a : Arch) : Except Exc Fx :=
  let k := (fld opnd 0 8).toNat
  if 5 < k then .error (excIllegal 0x06)
  else if 0 < a.ring.toNat then .error (excPriv 0x01)
  else
    let v : Addr := a.a.setWidth 36
    match k with
    | 0 => if fld a.a 36 28 = 0 ∧ tsbrOk v then .ok (fx { a with tsbr := v, exl := false })
      else .error (excIllegal 0x04)
    | 1 =>
      if fld a.a 36 28 = 0 ∧ v.toNat % 16 = 0 ∧ (shadowBase c.pos).toNat ≤ v.toNat
          ∧ v.toNat ≤ (shadowTop c.pos).toNat then
        .ok (fx { a with ssp := v })
      else .error (excIllegal 0x04)
    | 2 => .ok (fx { a with ent0 := a.pcc.setCursor v })
    | 3 => .ok (fx { a with ent1 := a.pcc.setCursor v })
    | 4 => .ok (fx { a with ent2 := a.pcc.setCursor v })
    | _ => .ok (fx { a with rstate := a.a &&& rstateMask })

end Sys2Proof.Machine
end

