-- ==== Sys2Proof/Machine/Trap.lean ====
section
/-! DEFINITION. Taking an exception or interrupt and returning from one (R158 to R174): the task-state block, the
handler's state, the double fault, ERET and chaining. -/

namespace Sys2Proof.Machine

open Sys2Proof

/-! ### The task-state block (R163 to R165) -/

/-- STATE (R164), with CHAIN written 0. -/
def packState (a : Arch) : W64 :=
  put 64 a.ring 0 ||| at_ a.ib 2 ||| at_ a.exl 3 ||| at_ a.fast 4 ||| put 64 a.fring 5 ||| at_ a.lpend 7
    ||| put 64 a.lop 8 ||| put 64 a.ldist 16 ||| put 64 a.lrm 21 ||| at_ a.fib 24

/-- What an entry records beside the registers: CAUSE, FADDR, NOTICE (R165) and the tick. -/
structure EntryInfo where
  vec : BitVec 6
  cause : BitVec 8
  reg : BitVec 4
  faddr : Addr
  notice : W64
  chain : BitVec 8
  deriving DecidableEq, Repr

/-- CAUSE (R165). -/
def EntryInfo.word (i : EntryInfo) : W64 :=
  put 64 i.vec 0 ||| put 64 i.cause 8 ||| put 64 i.reg 16 ||| put 64 i.chain 24

/-- An entry for an exception. DEDUCED: log entry 14. -/
def Exc.info (x : Exc) : EntryInfo := ⟨x.vec, x.cause, x.reg, x.faddr, 0#64, 0#8⟩

/-- The granules 0x00 to 0xE0 of a task-state block as entry writes them (R163): data and tag.
DESIGN CHOICE: log entry 18. -/
def tsbGranules (a : Arch) (i : EntryInfo) (tick : BitVec 64) : List (Gran × Bool) :=
  [(a.pcc.bits, a.pcc.tag), (a.s.bits, a.s.tag), (a.x.bits, a.x.tag), (a.y.bits, a.y.tag), (a.d.bits, a.d.tag),
   (a.link.bits, a.link.tag), (a.slink.bits, a.slink.tag), (a.e ++ a.a, false), (a.f ++ a.m, false),
   (a.rstate ++ a.rcnt, false), (a.lopa ++ a.lval, false), (packState a ++ a.lopb, false),
   (i.faddr.setWidth 64 ++ i.word, false), (tick ++ a.ssp.setWidth 64, false), ((0#64) ++ i.notice, false)]

/-- The pending values as an entry writes them: LVAL without a pending load and LOPA and LOPB without a pending long
operation are free. DESIGN CHOICE: log entry 18. -/
def idleLatches (n : Nat) (a : Arch) : Arch :=
  { a with
    lval := if a.lpend then a.lval else Config.idleLatch n 0#2
    lopa := if a.lop = 0#8 then Config.idleLatch n 1#2 else a.lopa
    lopb := if a.lop = 0#8 then Config.idleLatch n 2#2 else a.lopb }

/-- Consecutive 16-byte writes. -/
def granWrites (k : TransKind) (a : Arch) : Addr → List (Gran × Bool) → List Trans
  | _, [] => []
  | x, (d, t) :: r => trans16 k x d t a :: granWrites k a (x + 16#36) r

/-- The double-fault task-state block of a position (R173). -/
def dfTsb (p : BitVec 2) : Addr := 0x1003_FC00#36 + put 36 p 8

/-- The handler's PCC at a vector (R167). -/
def vectorPcc (v : BitVec 6) : Cap :=
  Cap.make (0x1000_0000#36 + put 36 v 5) 0x1000_0000#36 0x1004_0000#36 0x0D#8 0#10 0#2 true

/-- The state with which a handler begins (R167), with the block at `tsb` and its stack. -/
def handlerState (a : Arch) (i : EntryInfo) (tsb : Addr) (stack : Cap) (dfl : Bool) : Arch :=
  { a with
    ring := 0#2, pcc := vectorPcc i.vec, s := stack
    d := Cap.make tsb tsb (tsb + 256#36) 0x1B#8 0#10 0#2 true
    a := i.word, f := 0#64, rstate := 0#64, fast := false, ib := true, exl := true, dfl := dfl
    lpend := false, lval := 0#64, lop := 0#8, lopa := 0#64, lopb := 0#64, ldist := 0#5, lrm := 0#2
    resv := none }

/-- One attempt at an entry through a block (R166): the ESTACK read, the fifteen granules written and the handler's
state; nothing when the block cannot be used. -/
def enterThrough (c : Ctx) (a : Arch) (i : EntryInfo) (tsb : Addr) (dfl : Bool) : Option Fx :=
  let es := c.read a (tsb + 0xF0#36)
  if (!dfl && !tsbrOk tsb) || es.bad.isSome || !es.tag then none
  else some { fxJump (handlerState a i tsb es.toCap dfl) with
    settled := true, trap := true
    trans := load16 (tsb + 0xF0#36) a :: granWrites .taskState a tsb (tsbGranules (idleLatches c.m.free a) i c.m.tick.count) }

/-- The double fault (R173): vector 0x01 through the double-fault block; when that fails, the engine is reset (R174). -/
def enterDouble (c : Ctx) (a : Arch) (vec : BitVec 6) (faddr : Addr) : Fx :=
  match enterThrough c a ⟨0x01#6, vec.setWidth 8, 0#4, faddr, 0#64, 0#8⟩ (dfTsb c.pos) true with
  | some f => f
  | none => { fxJump a with ev := .reset vec, trap := true }

/-- TAKING AN EXCEPTION (R166 to R168, R173, R174): through TSBR; as a double fault while EXL = 1 or when the entry
fails; a third fault while DFL = 1 resets the engine. The block is written from the state before the instruction. -/
def enterException (c : Ctx) (a : Arch) (i : EntryInfo) : Fx :=
  if a.dfl then { fxJump a with ev := .reset i.vec, trap := true }
  else if a.exl then enterDouble c a i.vec i.faddr
  else
    match enterThrough c a i a.tsbr false with
    | some f => f
    | none => enterDouble c a i.vec i.faddr

/-- A double fault that a read of the block by ERET causes (R169): a reset while DFL = 1. -/
def doubleOrReset (c : Ctx) (a : Arch) (vec : BitVec 6) (faddr : Addr) : Fx :=
  if a.dfl then { fxJump a with ev := .reset vec, trap := true } else enterDouble c a vec faddr

/-! ### Interrupts (R176, R177, R180) -/

/-- An exchange point of an EXCHANGE_TRIPLE lies at the boundary after `k` instructions of the slot (R191); any other grouping
considers interrupts at every boundary. An engine without a slot has no slot's start to count from: there every boundary is
one. DEDUCED: log entry 17. -/
def exchangeAt (m : Mach) (e : BitVec 7) (k : Nat → Nat) : Bool :=
  if liveCode m e = 4#3 then
    match (m.engines.get e).cur with
    | some r => decide (0 < k r.count) && decide (k r.count % 256 = 0)
    | none => true
  else true

/-- The lowest vector that an engine could take in a state with the given compartment, IB, EXL and DFL.
DEDUCED: log entry 17. -/
def eligible (m : Mach) (e : BitVec 7) (comp : BitVec 10) (ib exl dfl : Bool) : Option (BitVec 6) :=
  let g := m.engines.get e
  let span := match g.cur with
    | some r => r.slot.span
    | none => false
  let runs := g.cur.isSome || (g.keeper && decide (m.mode.mode = .wake ∨ m.mode.mode = .hardpan))
  let p := m.ints.get comp
  if exl || dfl || !runs then none
  else if !g.notices.isEmpty then some 0x10#6
  else if ib || span then none
  else if bit p 0 then some 0x11#6
  else if bit p 1 then some 0x12#6
  else if bit p 2 then some 0x13#6
  else if g.budgetPend then some 0x14#6
  else if bit p 3 then some 0x15#6
  else none

/-- What an entry to an asynchronous vector records: the oldest notice for vector 0x10 (R165, R542). -/
def asyncInfo (m : Mach) (e : BitVec 7) (vec : BitVec 6) (chain : BitVec 8) : EntryInfo :=
  let g := m.engines.get e
  match decide (vec = 0x10#6), g.notices with
  | true, n :: _ =>
    ⟨vec, n.cause.setWidth 8, 0#4, n.addr,
      put 64 n.eng 0 ||| put 64 (tileOf n.eng) 8 ||| put 64 n.comp 16 ||| put 64 n.ring 26 ||| put 64 n.cause 28
        ||| put 64 g.lostNotices 32, chain⟩
  | _, _ => ⟨vec, 0#8, 0#4, 0#36, 0#64, chain⟩

/-- The pending state of a vector that is taken is cleared; an interrupt that does not go with the restart is
remembered (R176, R177, R221, R542). DEDUCED: log entry 17. -/
def takePending (e : BitVec 7) (comp : BitVec 10) (vec : BitVec 6) (m : Mach) : Mach :=
  match vec.toNat with
  | 0x10 => modEng e (fun g => { g with notices := g.notices.drop 1, lostNotices := 0#8 }) m
  | 0x14 => modEng e (fun g => { g with budgetPend := false, taken := (vec, comp) :: g.taken }) m
  | k =>
    let b := if k = 0x15 then 3 else k - 0x11
    modEng e (fun g => { g with taken := (vec, comp) :: g.taken })
      { m with ints := m.ints.upd comp fun x => x &&& ~~~(at_ true b) }

/-! ### Return from exception (R169 to R171) -/

/-- The bits of STATE that a return restores (R164). -/
def unpackState (st : W64) (a : Arch) : Arch :=
  { a with
    ring := fld st 0 2, ib := bit st 2, exl := bit st 3, fast := bit st 4, fring := fld st 5 2, lpend := bit st 7
    lop := fld st 8 8, ldist := fld st 16 5, lrm := fld st 21 2, fib := bit st 24 }

/-- The state that a task-state block holds. -/
def restore (g : Nat → GranRead) (a : Arch) : Arch :=
  let hi (k : Nat) : W64 := fld (g k).data 64 64
  let lo (k : Nat) : W64 := fld (g k).data 0 64
  unpackState (hi 11)
    { a with
      pcc := (g 0).toCap, s := (g 1).toCap, x := (g 2).toCap, y := (g 3).toCap, d := (g 4).toCap
      link := (g 5).toCap, slink := (g 6).toCap
      a := lo 7, e := hi 7, m := lo 8, f := hi 8 &&& fMask, rcnt := lo 9, rstate := hi 9 &&& rstateMask
      lval := lo 10, lopa := hi 10, lopb := lo 11, ssp := fld (lo 13) 0 36
      dfl := false, resv := none }

/-- The block that ERET reads (R169). -/
def eretBlock (c : Ctx) (a : Arch) : Addr := if a.dfl then dfTsb c.pos else a.tsbr

/-- The first granule of a block that cannot be read. -/
def firstBad (g : Nat → GranRead) : List Nat → Option Nat
  | [] => none
  | k :: r => if (g k).bad.isSome then some k else firstBad g r

/-- The chaining entry of ERET (R171): CAUSE, FADDR, TICK and NOTICE of the block are rewritten and the handler state
is set at the new vector. DFL keeps its value. DEDUCED: log entry 17. -/
def chainFx (c : Ctx) (a : Arch) (g : Nat → GranRead) (vec : BitVec 6) : LaneOut :=
  let b := eretBlock c a
  let at' (k : Nat) : Addr := b + BitVec.ofNat 36 (16 * k)
  match firstBad g [12, 13, 15] with
  | some k => .dbl vec (at' k)
  | none =>
    if !(g 15).tag then .dbl vec (at' 15)
    else
      let i := asyncInfo c.m c.e vec (satInc (fld (g 12).data 24 8))
      let writes :=
          [trans16 .taskState (at' 12) (i.faddr.setWidth 64 ++ i.word) false a,
           trans16 .taskState (at' 13) (c.m.tick.count ++ fld (g 13).data 0 64) false a,
           trans16 .taskState (at' 14) ((0#64) ++ i.notice) false a]
      .ok { fxJump (handlerState a i b (g 15).toCap a.dfl) with
        settled := true, ev := .chain vec
        trans := [load16 (at' 0) a, load16 (at' 11) a, load16 (at' 12) a, load16 (at' 13) a, load16 (at' 15) a] ++ writes }

/-- The interrupt that would be eligible at the first boundary of the state to which ERET returns (R171, R191). -/
def chainVector (c : Ctx) (pcc : Cap) (st : W64) : Option (BitVec 6) :=
  if (c.m.mode.mode = .wake ∨ c.m.mode.mode = .hardpan ∨ bit st 23 = true) ∧ exchangeAt c.m c.e (· + 1) = true then
    eligible c.m c.e pcc.owner (bit st 2) (bit st 3) false
  else none

/-- RETURN FROM EXCEPTION (R168 to R171), after the decode checks. The ring checks and the chaining decision come first, on
the saved PCC and STATE alone. DEDUCED: log entry 17. -/
def eretOut (c : Ctx) (a : Arch) : LaneOut :=
  let b := eretBlock c a
  let at' (k : Nat) : Addr := b + BitVec.ofNat 36 (16 * k)
  let g (k : Nat) : GranRead := c.read a (at' k)
  match firstBad g [0, 11] with
  | some k => .dbl 0x08#6 (at' k)
  | none =>
    let pcc := (g 0).toCap
    let st := fld (g 11).data 64 64
    if a.ring = 1#2 ∧ (pcc.owner ≠ a.comp ∨ fld st 0 2 = 0#2) then .exc (excPriv 0x04)
    else
      match chainVector c pcc st with
      | some vec => chainFx c a g vec
      | none =>
        match firstBad g (range 0 15) with
        | some k => .dbl 0x08#6 (at' k)
        | none =>
          if !pcc.tag then .exc (excCap cTAG 7 pcc.cursor)
          else if pcc.kind ≠ 0#2 then .exc (excCap cSEALED 7 pcc.cursor)
          else .ok { fxJump (restore g a) with settled := true, trans := (range 0 15).map fun k => load16 (at' k) a }

/-! ### Calls, gates and system calls (R146 to R157) -/

/-- A shadow-stack push of the given granules, the first deepest. -/
def shadowPush (l : List (Gran × Bool)) (a : Arch) : Arch × List Trans :=
  l.foldl (fun (acc : Arch × List Trans) (x : Gran × Bool) =>
    let s := acc.1.ssp - 16#36
    ({ acc.1 with ssp := s }, acc.2 ++ [trans16 .shadow s x.1 x.2 a])) (a, [])

/-- CALL and CALLX: the return capability on S and on the shadow stack, then the jump (R86, R156). -/
def callSem (target : Cap) (reg : BitVec 4) (c : Ctx) (a : Arch) : Except Exc Fx :=
  let n := a.s.cursor - 16#36
  guardE (checkOp c a ⟨3#4, a.s, n, none⟩ ⟨16, 16, true, true⟩) <|
  guardE (checkFetch a.comp a.ring target reg target.cursor) <|
  if !shadowRoom c a 1 then .error (excShadow 0x02)
  else
    let r := a.retCap
    let p := shadowPush [(r.bits, r.tag)] { a with s := a.s.setCursor n }
    let f := storeFx c ⟨n, 16, r.bits, true, r.tag⟩ { p.1 with pcc := target }
    .ok { f with jump := true, trans := p.2 }

/-- The ring that a gate's cursor encodes (R145). -/
def gateRing (g : Cap) : BitVec 2 :=
  match (fld g.bits 0 2).toNat with
  | 0 => 1#2
  | 1 => 2#2
  | 2 => 3#2
  | _ => 0#2

/-- A gate or entry register unsealed, with CURSOR[1:0] cleared. -/
def openGate (g : Cap) : Cap := (g.setKind 0#2).setCursor (g.cursor &&& ~~~3#36)

/-- Steps 1 to 5 of R146 on a gate. DEDUCED: log entry 14. -/
def gateCheck (g : Cap) : Option Exc :=
  let t := gateRing g
  if !g.tag then some (excCap cTAG 0 g.cursor)
  else if g.kind ≠ 1#2 then some (excCap cKIND 0 g.cursor)
  else if !g.has rEX then some (excCap cEX 0 g.cursor)
  else if decide (t = 0#2) != decide (g.owner = 0#10) then some (excCap cKIND 0 g.cursor)
  else if !g.inBounds (g.cursor &&& ~~~3#36) 4 then some (excCap cBOUNDS 0 g.cursor)
  else none

/-- The granule of a compartment's entry in the compartment table (R143). -/
def compGran (comp : BitVec 10) (k : Nat) : Addr := 0x40F6_0000#36 + put 36 comp 7 + BitVec.ofNat 36 (16 * k)

/-- STKr of a compartment (R143). -/
def stkGran (comp : BitVec 10) (r : BitVec 2) : Addr := compGran comp (1 + r.toNat)

/-- A gate frame word of the caller (R148). -/
def gateFrame (a : Arch) : Gran :=
  put 128 a.ring 0 ||| at_ a.ib 2 ||| at_ a.fast 3 ||| put 128 a.fring 4 ||| at_ a.fib 7 ||| put 128 (fld a.f 0 14) 8
    ||| put 128 (0xF1#8) 120

/-- The slot frame (R148, R151). -/
def slotFrame : Gran := at_ true 6 ||| put 128 (0xF1#8) 120

/-- IB on entry to a ring through a gate (R147). -/
def gateIB (t : BitVec 2) : Bool := decide (t.toNat < 2)

/-- The fence map's answer to a granule that the hardware of a gate transfer reads: it acts in ring 0 of the compartment that
runs (R260, R262). DESIGN CHOICE: log entry 14. -/
def Ctx.gateFence (c : Ctx) (a : Arch) (x : Addr) : Option Exc :=
  if (fenceCheck (.tile c.tile) (.ring a.comp 0#2) x false c.m).1 then none else some (excData 0x05 x)

/-- GCALL (R146, R147), with pending load and long operation completed first (R150). -/
def gcallSem (c : Ctx) (a0 : Arch) (lpend : Bool) : Except Exc Fx :=
  let a := completeAll { a0 with lpend := lpend }
  let t := gateRing a.x
  guardE (gateCheck a.x) <|
  if !shadowRoom c a 2 then .error (excShadow 0x02)
  else
    let own := a.x.owner
    let at' := stkGran own t
    let same := decide (own = a.comp) && decide (t = a.ring)
    guardE (if same then none else c.gateFence a at') <|
    let r := c.read a at'
    match if same then none else r.bad with
    | some k => .error (excUncorr k at')
    | none =>
      let s := if same then a.s else r.toCap
      if !(s.tag && decide (s.kind = 0#2) && decide (s.owner = own)) then .error (excCap cKIND 9 at')
      else
        let ret := a.retCap
        let p := shadowPush [(ret.bits, ret.tag), (gateFrame a, false)] a
        .ok { fxJump { p.1 with
                pcc := openGate a.x, ring := t, s := s, f := 0#64, fast := false, fib := false, ib := gateIB t } with
              settled := true
              trans := (if same then [] else [load16 at' a]) ++
                trans16 .capStore (stkGran a.comp a.ring) a.s.bits a.s.tag a :: p.2 }

/-- GRET (R149, R150). -/
def gretSem (c : Ctx) (a0 : Arch) (lpend : Bool) : Except Exc Fx :=
  let a := completeAll { a0 with lpend := lpend }
  if !shadowHas c a 1 then .error (excShadow 0x03)
  else
    let fr := c.readMem a a.ssp
    match fr.bad with
    | some k => .error (excUncorr k a.ssp)
    | none =>
      if !isFrame fr then .error (excShadow 0x01)
      else if bit fr.data 6 then .ok { fxJump a with ev := .slotEnd, settled := true, trans := [load16 a.ssp a] }
      else if !shadowHas c a 2 then .error (excShadow 0x03)
      else
        let rc := c.readMem a (a.ssp + 16#36)
        match rc.bad with
        | some k => .error (excUncorr k (a.ssp + 16#36))
        | none =>
          let ret := rc.toCap
          let r : BitVec 2 := fld fr.data 0 2
          let at' := stkGran ret.owner r
          guardE (c.gateFence a at') <|
          let st := c.read a at'
          match st.bad with
          | some k => .error (excUncorr k at')
          | none =>
            let f := (a.f &&& 0x1F#64) ||| ((fld fr.data 8 14).setWidth 64 &&& 0x3F80#64)
            let n := { a with
              pcc := ret, s := st.toCap, ssp := a.ssp + 32#36, ring := r, ib := bit fr.data 2
              fast := bit fr.data 3, fring := fld fr.data 4 2, fib := bit fr.data 7, f := f }
            let n := if ret.owner = a.comp then n else { n with x := Cap.null, y := Cap.null, d := Cap.null }
            .ok { fxJump n with
              settled := true
              trans := [load16 a.ssp a, load16 (a.ssp + 16#36) a, load16 at' a,
                trans16 .capStore (stkGran a.comp a.ring) a.s.bits a.s.tag a] }

/-- The granules that GCALL, GRET and ERET read, as far as the older stores of the replica let them be known (R68). -/
def gcallReads (_ : Ctx) (a : Arch) : List Addr := [stkGran a.x.owner (gateRing a.x)]
def gretReads (c : Ctx) (a : Arch) : List Addr :=
  [stkGran (c.readMem a (a.ssp + 16#36)).toCap.owner (fld (c.readMem a a.ssp).data 0 2)]
def eretReads (c : Ctx) (a : Arch) : List Addr := (range 0 16).map fun k => eretBlock c a + BitVec.ofNat 36 (16 * k)

/-- SYSC (R153). -/
def syscSem (opnd : BitVec 20) (a0 : Arch) (lpend : Bool) : Except Exc Fx :=
  let a := completeAll { a0 with lpend := lpend }
  let t : BitVec 2 := fld opnd 0 2
  let ent := match t.toNat with
    | 0 => a.ent0
    | 1 => a.ent1
    | _ => a.ent2
  if a.ring.toNat ≤ t.toNat ∨ (t = 0#2 ∧ a.ring = 3#2) then .error (excPriv 0x02)
  else if a.fast then .error (excPriv 0x03)
  else if !ent.tag then .error (excCap cTAG 8 ent.cursor)
  else if t ≠ 0#2 ∧ ent.owner ≠ a.comp then .error (excCap cOWNER 8 ent.cursor)
  else .ok { fxJump { a with
      link := a.retCap, slink := a.s, fring := a.ring, fib := a.ib, fast := true, ib := true, ring := t
      pcc := openGate ent, e := (fld opnd 2 18).setWidth 64 } with settled := true }

/-- SYSR (R154). -/
def sysrSem (a0 : Arch) (lpend : Bool) : Except Exc Fx :=
  let a := completeAll { a0 with lpend := lpend }
  if !a.fast then .error (excPriv 0x03)
  else if !a.link.tag then .error (excCap cTAG 5 a.link.cursor)
  else if a.link.kind ≠ 0#2 then .error (excCap cSEALED 5 a.link.cursor)
  else .ok { fxJump { a with pcc := a.link, s := a.slink, ring := a.fring, ib := a.fib, fast := false } with
    settled := true }

/-- A taken branch ends a repeat at once (R103). -/
def takeBranch (pcc : Cap) (a : Arch) : Fx :=
  fxJump { a with pcc := pcc, rstate := if inBody a then 0#64 else a.rstate }

/-- Bcc (R91): the target is checked only when the branch is taken. -/
def bccSem (code : BitVec 4) (opnd : BitVec 20) (a : Arch) : Except Exc Fx :=
  if cond code a.f then
    let t := branchTarget a opnd
    guardE (checkFetch a.comp a.ring a.pcc 4 t) <| .ok (takeBranch (a.pcc.setCursor t) a)
  else .ok (fx a)

/-- JMPX (R86). In the keeper context no owner of X is asked for (R120, R121), and PCC takes X with the owner it has.
DEDUCED: log entry 14. -/
def jmpxSem (a : Arch) : Except Exc Fx :=
  guardE (checkFetch a.comp a.ring a.x 0 a.x.cursor) <| .ok (takeBranch a.x a)

/-- REP (R102): the count of OPND, or of A when that is 0. With a count of 0 the body is skipped. -/
def repSem (opnd : BitVec 20) (a : Arch) : Fx :=
  let n : W64 := if fld opnd 4 16 = 0#16 then a.a else (fld opnd 4 16).setWidth 64
  let start := a.pcc.cursor + 4#36
  if n = 0#64 then
    fxJump { a with rcnt := 0#64, rstate := 0#64
                    pcc := a.pcc.setCursor (start + 4#36 * ((fld opnd 0 4).setWidth 36 + 1#36)) }
  else fx { a with
    rcnt := n
    rstate := 0x186#64 ||| put 64 (fld opnd 0 4) 9 ||| put 64 start 20 }

end Sys2Proof.Machine
end

