-- ==== Sys2Proof/Machine/Voter.lean ====
section
/-! DEFINITION. Tiles and engines: lanes, the compare, the cases of a mismatch, the undo log, restarts, and the
acceptance of stores (R66 to R71, R182 to R201, R211 to R222). -/

namespace Sys2Proof.Machine

open Sys2Proof

/-! ### Slot status (R36, R37) -/

/-- The consecutive-overrun count of a slot position raised; at OVR_CTL.LIMIT the fault is reported and the count
restarts (R36). -/
def raiseConsec (e : BitVec 7) (s : Slot) (m : Mach) : Mach :=
  let a := statusBase e + s.pos.setWidth 36
  let n := hwRead8 a m + 1#8
  if m.tick.ovrLimit.toNat ≤ n.toNat then
    report 0x0103 (argEC e s.comp s.pos ||| put 64 m.tick.ovrLimit 32) (hwWrite8 a 0#8 m)
  else hwWrite8 a n m

/-- An overrun is recorded (R33, R36, R37). -/
def countOverrun (e : BitVec 7) (s : Slot) (m : Mach) : Mach :=
  let b := statusBase e
  let m := bump32 (b + 0x40#36) m
  let m := hwWrite32 (b + 0x50#36) (fld m.tick.count 0 32) m
  let m := hwWrite32 (b + 0x54#36) (fld m.tick.count 32 32) m
  let m := hwWrite8 (b + 0x58#36) (s.pos.setWidth 8) m
  let m := hwWrite8 (b + 0x59#36) (if m.tick.active then 1#8 else 0#8) m
  let m := if s.notify then { m with supOverruns := m.supOverruns ++ [(s.comp, e, s.pos)] } else m
  raiseConsec e s m

/-- A skipped slot is recorded (R34, R36, R37). -/
def countSkip (e : BitVec 7) (s : Slot) (m : Mach) : Mach :=
  raiseConsec e s (bump32 (statusBase e + 0x44#36) { m with tick := { m.tick with skip := true } })

/-! ### Spans (R223, R224) -/

def SpanEntry.comp (s : SpanEntry) : BitVec 10 := fld s.w 0 10
def SpanEntry.rule (s : SpanEntry) : BitVec 8 := fld s.w 16 8
def SpanEntry.member (s : SpanEntry) (k : Nat) : BitVec 7 := fld s.w (32 + 8 * k) 7
def SpanEntry.stack (s : SpanEntry) (k : Nat) : Cap := if k = 0 then s.stk0 else if k = 1 then s.stk1 else s.stk2

/-- The number of members that an entry's rule names. -/
def SpanEntry.members (s : SpanEntry) : Nat := if s.rule = 2#8 then 2 else if s.rule = 3#8 then 3 else 0

/-- An entry in use whose own fields are valid: a known rule, reserved bits zero, members in different tiles. -/
def SpanEntry.wf (s : SpanEntry) : Bool :=
  let t (k : Nat) : BitVec 5 := tileOf (s.member k)
  decide (s.rule = 2#8 ∨ s.rule = 3#8) && decide (fld s.w 10 6 = 0#6) && decide (fld s.w 24 8 = 0#8)
    && !bit s.w 39 && !bit s.w 47 && !bit s.w 55 && decide (fld s.w 56 72 = 0#72)
    && decide (t 0 ≠ t 1) && (decide (s.rule = 2#8) || (decide (t 0 ≠ t 2) && decide (t 1 ≠ t 2)))

/-- Another entry in use names the same compartment (R223). -/
def spanClash (tab : Tbl 6 SpanEntry) (i : BitVec 6) : Bool :=
  (range 0 64).any fun k =>
    let j : BitVec 6 := BitVec.ofNat 6 k
    decide (j ≠ i) && decide ((tab.get j).rule ≠ 0#8) && decide ((tab.get j).comp = (tab.get i).comp)

/-- A latched entry is valid. -/
def spanValid (tab : Tbl 6 SpanEntry) (i : BitVec 6) : Bool := (tab.get i).wf && !spanClash tab i

/-- The valid entry that names a compartment and holds an engine as a member, with the member's number. -/
def spanFind (m : Mach) (comp : BitVec 10) (e : BitVec 7) : Option (BitVec 6 × Nat) :=
  ((range 0 64).map (BitVec.ofNat 6)).findSome? fun i =>
    let s := m.spans.get i
    if s.rule ≠ 0#8 ∧ s.comp = comp ∧ spanValid m.spans i = true then
      ((range 0 s.members).find? fun k => decide (s.member k = e)).map fun k => (i, k)
    else none

def SpanRun.set (r : SpanRun) (k : Nat) (x : MemberResult) : SpanRun :=
  if k = 0 then { r with m0 := x } else if k = 1 then { r with m1 := x } else { r with m2 := x }

def SpanRun.get (r : SpanRun) (k : Nat) : MemberResult := if k = 0 then r.m0 else if k = 1 then r.m1 else r.m2

/-- What a span member brings in this tick. -/
def spanResult (e : BitVec 7) (s : Slot) (x : MemberResult) (m : Mach) : Mach :=
  if s.span then
    match spanFind m s.comp e with
    | some (i, k) => { m with spanRuns := m.spanRuns.upd i fun r => r.set k x }
    | none => m
  else m

/-! ### The end of a slot without a normal end (R33 to R35, R181, R215) -/

/-- The engine has no running slot: its log is committed, its reservation and interrupts-taken list are gone, and
notices still queued go to their supervisors (R70, R107, R215, R542). A budget warning not taken stays pending for the engine
(R177, R181). DEDUCED: log entry 17. -/
def clearRun (e : BitVec 7) (m : Mach) : Mach :=
  let g := m.engines.get e
  modEng e (fun g => { g with
      act := .idle, cur := none, undo := [], taken := [], notices := [], forcedDue := false, fed := false, reread := false })
    { m with supNotices := m.supNotices ++ g.notices, resv := m.resv.filter fun x => x.1 ≠ e }

/-- The commit marks of an engine's slot are taken away (R35). -/
def withhold (e : BitVec 7) (pos : BitVec 6) (m : Mach) : Mach :=
  let mine (x : Option (BitVec 7 × BitVec 6)) := if x = some (e, pos) then none else x
  { m with marks := m.marks.map fun x => (mine x.1, mine x.2) }

/-- A slot ends as aborted or failed: its outputs are withheld, also those still in the buffers, EXL, DFL and FAST are
cleared, and a span member is absent (R35, R181, R227). -/
def abandonRun (e : BitVec 7) (m : Mach) : Mach :=
  match (m.engines.get e).cur with
  | none => m
  | some r =>
    let m := spanResult e r.slot .absent (withhold e r.slot.pos m)
    let m := mapLanes e (fun x => { x with
      sb := x.sb.map fun y => { y with withheld := true }
      ldue := none, repEnd := false
      arch := { x.arch with exl := false, dfl := false, fast := false, lpend := false, lop := 0#8, ldist := 0#5
                            resv := none } }) m
    clearRun e m

/-- The next slot of the list starts, if any and if C has not passed; it begins with its bisque (R33, R34, R208). -/
def startNext (e : BitVec 7) (m : Mach) : Mach :=
  let g := m.engines.get e
  match g.todo with
  | [] => m
  | s :: r =>
    if m.tick.phase = .closed then
      modEng e (fun g => { g with todo := [] }) ((s :: r).foldl (fun m s => countSkip e s (spanResult e s .absent m)) m)
    else
      modEng e (fun g => { g with
        todo := r, act := .bisque, ran := (s.comp.toNat, s.pos) :: g.ran.filter fun x => x.1 ≠ s.comp.toNat
        cur := some { slot := s, begun := false, start := m.clk, bisqueAt := m.clk, warned := false, recovered := false
                      retaken := false, overrun := false, count := 0, captured := [], capBase := [], marked := [] } }) m

/-- A slot ends as failed; the next starts (R29, R35, R222). -/
def failSlot (e : BitVec 7) (m : Mach) : Mach := startNext e (abandonRun e m)

/-- A slot is aborted: an overrun (R33). -/
def overrunSlot (e : BitVec 7) (m : Mach) : Mach :=
  match (m.engines.get e).cur with
  | none => m
  | some r => startNext e (countOverrun e r.slot (abandonRun e m))

/-- The slot that an engine runs, for reports. -/
def ecOf (m : Mach) (e : BitVec 7) : W64 :=
  match (m.engines.get e).cur with
  | some r => argEC e r.slot.comp r.slot.pos
  | none => argEC e 0#10 0#6

/-- ENGINE RESET (R174, R175): store buffers discarded, registers at their reset values, the slot failed. On E0
outside the schedule the fault is that of R175 and the keeper stops. DESIGN CHOICE: log entry 12. -/
def engineReset (e : BitVec 7) (code : BitVec 16) (vec : BitVec 6) (m : Mach) : Mach :=
  let ec := ecOf m e
  let k := (m.engines.get e).keeper
  let m := mapLanes e (fun x => { x with
    arch := resetArch (posOf e), sb := [], prefetch := [], ldue := none, repEnd := false }) m
  let m := { m with resv := m.resv.filter fun x => x.1 ≠ e }
  if k then
    let m := modEng e (fun g => { g with act := .stopped }) m
    if code = 0#16 then m else report 0x0202 ec m
  else
    let m := if code = 0#16 then m else report code (ec ||| put 64 vec 32) m
    failSlot e m

/-- The reset of a bite (R445). The first component says that the engine goes on. -/
def carryBite (e : BitVec 7) (m : Mach) : Bool × Mach :=
  if (m.watch.wd.get e).due then (false, engineReset e 0#16 0#6 (modWd e (fun x => { x with due := false }) m)) else (true, m)

/-! ### The acceptance of stores (R67, R70, R212, R214) -/

/-- The address of the store that an entry holds: the lowest byte that it writes. DEDUCED: log entry 13. -/
def SbEntry.storeAddr (y : SbEntry) : Addr :=
  match (range 0 16).find? fun k => y.mask.getLsbD k with
  | some k => y.gran + BitVec.ofNat 36 k
  | none => y.gran

/-- A notice (R70, R542): logged, and queued for the engine while the slot that made the store runs, else for the
compartment's supervisor. A notice that finds the queue of eight full is counted. -/
def notice (e : BitVec 7) (y : SbEntry) (cause : BitVec 4) (m : Mach) : Mach :=
  let m := report (0x0202#16 + cause.setWidth 16) (argAD y.storeAddr e y.ring y.comp) m
  let n : Notice := ⟨y.storeAddr, e, y.comp, y.ring, cause⟩
  let g := m.engines.get e
  let running := g.keeper || (match g.cur with
    | some r => decide (r.slot.pos = y.pos) && !y.withheld
    | none => false)
  if running then
    if g.notices.length < 8 then modEng e (fun g => { g with notices := g.notices ++ [n] }) m
    else modEng e (fun g => { g with lostNotices := satInc g.lostNotices }) m
  else { m with supNotices := m.supNotices ++ [n] }

/-- TARGET of an undo-log entry (R212). -/
def undoTarget (a : Addr) : BitVec 2 :=
  match region a with
  | .shared => 1#2
  | .dram => 2#2
  | _ => 0#2

/-- A pair that runs a slot or the keeper logs the contents that a granule had in `pre`, once a forwarded write has changed
it (R212). The stores of a slot that has ended stand, and are not logged (R215). -/
def logUndo (e : BitVec 7) (a : Addr) (pre : Mach) (m : Mach) : Mach :=
  let g := pre.engines.get e
  if isPair (liveCode pre e) (posOf e) && (region a).isMem && (g.cur.isSome || g.keeper) && decide (g.act ≠ .bisque) then
    let n := granOf a
    modEng e (fun x => { x with undo :=
      ⟨pre.mem.data n, BitVec.ofNat 32 n, pre.mem.tag n, pre.mem.poison n, undoTarget a, BitVec.ofNat 8 x.undo.length⟩
        :: x.undo }) m
  else m

/-- A pair's access to register space or a host window, once accepted, makes a forced bisque due (R214). -/
def deviceAccess (e : BitVec 7) (a : Addr) (m : Mach) : Mach :=
  if isPair (liveCode m e) (posOf e) && isDevice a then modEng e (fun g => { g with forcedDue := true }) m else m

/-- What the voter compares of a store-buffer entry (R192). -/
def SbEntry.key (y : SbEntry) : Trans :=
  ⟨if y.cap then .capStore else .store, y.gran, 16#5, y.mask, y.data, y.tag, y.comp, y.ring⟩

/-- The identity of an entry's access. -/
def SbEntry.who (y : SbEntry) (e : BitVec 7) : Who := ⟨.replica, e, y.comp, y.ring, y.pc, y.tick, y.pos⟩

/-- The oldest entry of an engine's buffers. -/
def oldest (m : Mach) (e : BitVec 7) : Option SbEntry := (lanesOf m e).findSome? fun r => (rep m (tileOf e) r).sb.head?

/-- The oldest entry, once issued, is accepted by its target or refused (R67, R70); a write of it may reset the module, or the
engine (R445).
The first component says that the engine goes on. DEDUCED: log entry 13. -/
def acceptHead (e : BitVec 7) (m : Mach) : Bool × Mach :=
  match oldest m e with
  | none => (true, m)
  | some y =>
    match y.issued with
    | none => (true, m)
    | some false => (true, notice e y 1#4 (mapLanes e (fun x => { x with sb := x.sb.drop 1 }) m))
    | some true =>
      let pre := mapLanes e (fun x => { x with sb := x.sb.drop 1 }) m
      let (bad, m) := storeTarget (y.who e) y pre
      let m := match bad with
        | some k => notice e y k m
        | none => deviceAccess e y.gran (logUndo e (phys (tileOf e) y.gran) pre m)
      if resetDue m then (false, doReset m) else carryBite e m

/-- Every entry already forwarded is accepted, in order (R196, R216 step 2). -/
def acceptForwarded (e : BitVec 7) : Nat → Mach → Bool × Mach
  | 0, m => (true, m)
  | n + 1, m =>
    if (oldest m e).any fun y => y.issued.isSome then
      let (go, m) := acceptHead e m
      if go then acceptForwarded e n m else (false, m)
    else (true, m)

/-! ### Mismatches (R196 to R201, R216 to R219) -/

/-- How the copies of a group compare. -/
inductive Verdict where
  | agree
  | minority (r : BitVec 2) (leading : Bool)
  | split
  deriving DecidableEq, Repr

/-- The compare of one, two or three lanes (R192, R196): all alike; one against two that agree; or neither.
DEDUCED: log entry 63. -/
def vote {κ : Type} [DecidableEq κ] : List (BitVec 2 × κ) → Verdict
  | [] => .agree
  | [_] => .agree
  | [(_, x), (_, y)] => if x = y then .agree else .split
  | (a, x) :: (b, y) :: (c, z) :: _ =>
    if x = y then (if y = z then .agree else .minority c false)
    else if x = z then .minority b false
    else if y = z then .minority a true
    else .split

/-- The differing copies as the data of two continuation entries (R438): up to three copies of 16 bytes. -/
def contOf (copies : List Gran) : List (BitVec 224) :=
  let g (k : Nat) : Gran := copies.getD k 0#128
  let all : BitVec 448 := put 448 (g 0) 0 ||| put 448 (g 1) 128 ||| put 448 (g 2) 256
  [fld all 0 224, fld all 224 224]

/-- TILE_MISM and the count of mismatches (R205). -/
def noteMismatch (e : BitVec 7) (repl : BitVec 4) (case : BitVec 4) (m : Mach) : Mach :=
  modTile (tileOf e) (fun t => { t with
    mism := satInc t.mism, mPos := posOf e, mRepl := repl, mCase := case, mTick := fld m.tick.count 0 16 }) m

/-- A set of replicas as bits. -/
def replBits (l : List (BitVec 2)) : BitVec 4 := l.foldl (fun b r => b ||| at_ true r.toNat) 0#4

/-- The tile has a replica in GROG. -/
def grogOf (t : Tile) : Option (BitVec 2) :=
  ((range 0 4).map (BitVec.ofNat 2)).find? fun r => decide ((t.reps.get r).state = .grog)

/-- A transaction reaches a closed gate (R198): dropped and counted, the first after a fence logged. -/
def dropAtGate (t : BitVec 5) (r : BitVec 2) (y : SbEntry) (e : BitVec 7) (m : Mach) : Mach :=
  let first := decide ((rep m t r).drops = 0)
  let m := modTile t (fun x => { x with drop := satInc x.drop }) (modRep t r (fun x => { x with drops := x.drops + 1 }) m)
  if first then report 0x0305 (argAD y.gran e y.ring y.comp) m else m

/-- The tile has no grog for its degraded engine: reported once (R201). The report is armed anew by a promotion, by a
replica's entry to GROG and by a commit that is carried out. DEDUCED: log entry 61. -/
def noGrogReport (e : BitVec 7) (m : Mach) : Mach :=
  let t := m.tiles.get (tileOf e)
  if t.degraded && (grogOf t).isNone && !t.noGrog then
    report 0x0306 (ecOf m e) (modTile (tileOf e) (fun x => { x with noGrog := true }) m)
  else m

/-- LANE FENCED (R196 rows 1 and 2, R198, R201): the replica stops, its gate closes, what its buffer still holds is
dropped there, and its BIST passes begin with the next tick. `lost` is the entry that it lost the vote with, which the voter
holds and which reaches no gate; `repl` are the replicas that TILE_MISM names (R205). -/
def fenceLane (e : BitVec 7) (r : BitVec 2) (row case repl : BitVec 4) (copies : List Gran) (lost : Option Nat) (m : Mach) :
    Mach :=
  let t := tileOf e
  let sb := (rep m t r).sb
  let held := match lost with
    | some k => sb.eraseIdx k
    | none => sb
  let m := noteMismatch e repl case m
  let m := modRep t r (fun x => { x with
    state := .fenced, lane := 0#2, sb := [], prefetch := [], pass := 0#2, drops := 0, bist := false
    bistTick := m.tick.count + 1#64 }) m
  let m := held.foldl (fun m y => dropAtGate t r y e m) m
  noGrogReport e (reportC 0x0301 (ecOf m e ||| put 64 row 32 ||| put 64 r 36) (contOf copies) m)

/-- The interrupts taken since the bisque become pending again (R221). -/
def rependTaken (e : BitVec 7) (m : Mach) : Mach :=
  (m.engines.get e).taken.foldl (fun m x =>
    match x.1.toNat with
    | 0x14 => modEng e (fun g => { g with budgetPend := true }) m
    | 0x15 => pend x.2 3 m
    | k => pend x.2 (k - 0x11) m) (modEng e (fun g => { g with taken := [] }) m)

/-- The record that a reload reads: copy 0, or copy 1 when copy 0 has an uncorrectable error (R207).
DESIGN CHOICE: log entry 24. -/
def bisqueRecord (g : Engine) : Option BisqueCopy :=
  if !g.copy0.bad then some g.copy0 else if !g.copy1.bad then some g.copy1 else none

/-- RELOAD (R207, R216 step 5, R218, R221): unforwarded entries are discarded and the record is loaded into every lane;
with both copies lost, the engine is reset and bisque-lost is reported. The first component says that a record was loaded.
DESIGN CHOICE: log entry 21. -/
def reload (e : BitVec 7) (m : Mach) : Bool × Mach :=
  match bisqueRecord (m.engines.get e) with
  | none => (false, engineReset e 0x0308 0#6 m)
  | some b =>
    let m := mapLanes e (fun x => { x with
      arch := { b.arch with resv := none }, sb := [], prefetch := [], ldue := none, repEnd := false }) m
    (true, rependTaken e { m with resv := m.resv.filter fun x => x.1 ≠ e })

/-- GROG PROMOTION (R200): the grog takes the fenced lane with the majority's state. -/
def promote (e : BitVec 7) (m : Mach) : Mach :=
  let t := m.tiles.get (tileOf e)
  match t.degraded && validPos t.live (posOf e), grogOf t, leader m e with
  | true, some g, some l =>
    let free := if (inLane t 0).isEmpty then 0#2 else if (inLane t 1).isEmpty then 1#2 else 2#2
    modTile (tileOf e) (fun x => { x with noGrog := false })
      (modRep (tileOf e) g (fun x => { x with
        arch := l.arch, sb := [], prefetch := [], ldue := l.ldue, repEnd := l.repEnd
        state := .active, lane := free, pass := 0#2, bist := false }) m)
  | _, _, _ => m

/-- A reset under row 3, 4 or 5 counts toward row 7: the third of an engine within 1000 ticks (R196). -/
def countReset (e : BitVec 7) (m : Mach) : Mach :=
  let now := m.tick.count
  let l := now :: (m.engines.get e).resets.filter fun x => decide (now.toNat < x.toNat + 1000)
  if 3 ≤ l.length then report 0x0304 (ecOf m e) (modEng e (fun g => { g with resets := [] }) m)
  else modEng e (fun g => { g with resets := l }) m

/-- One entry of the undo log is written back (R216 step 3, R221). The mark of an output command record that the slot has
made since its latest bisque goes with the record. -/
def undoOne (e : BitVec 7) (m : Mach) (u : UndoEntry) : Mach :=
  let g := u.gaddr.toNat
  let m := { m with mem := m.mem.putGran g u.old u.otag u.opois
                    mc := { m.mc with writeBack := m.mc.writeBack.filter (· ≠ g) }
                    resv := m.resv.filter fun x => !(granOf x.2 == g && x.1 != e) }
  match outputBuffer (granAddr g), (m.engines.get e).cur with
  | some x, some r =>
    let mark := if x.2 then (m.marks.get x.1).2 else (m.marks.get x.1).1
    if mark = some (e, r.slot.pos) ∧ x ∉ r.marked then setMark x.1 x.2 none m else m
  | _, _ => m

/-- The undo log unwound, newest entry first (R216 step 3); the log holds the newest entry first. -/
def unwind (e : BitVec 7) (m : Mach) : Mach := (m.engines.get e).undo.foldl (undoOne e) m

/-- When a disagreement is found: while the engine runs, while it is idle or its next slot waits for older stores, or in a
slot-start bisque (R216 to R219). -/
inductive MisMoment where
  | running | idle | slotBisque
  deriving DecidableEq, Repr

/-- The moment of a disagreement that no bisque finds. -/
def misMoment (m : Mach) (e : BitVec 7) : MisMoment :=
  let g := m.engines.get e
  if g.keeper || (g.cur.isSome && decide (g.act ≠ .bisque)) then .running else .idle

/-- A disagreement: whether the leading lane's copy is a load request to memory (row 2 of R196), whether a sweep or bisque
compare found it, when, the copies that its entry records, and the place in the buffers of the entries that disagree. -/
structure Mismatch where
  memLoad : Bool
  compare : Bool
  moment : MisMoment
  copies : List Gran
  entry : Option Nat
  deriving DecidableEq, Repr

/-- The slot of a voted group ends as failed after its lanes have been reloaded, which counts as the engine's next bisque
for a promotion (R218); the keeper outside the schedule goes on from the record. -/
def endReloaded (e : BitVec 7) (p : Bool × Mach) : Mach :=
  if !p.1 then p.2
  else
    let m := promote e p.2
    modEng e (fun g => { g with reread := true }) <|
      if (m.engines.get e).keeper then modEng e (fun g => { g with act := if g.act = .stopped then .stopped else .run }) m
      else if (m.engines.get e).cur.isSome then failSlot e m else m

/-- What becomes of an engine whose lanes are reset from the bisque (R216 to R219): entries already forwarded are accepted
first. -/
def restartFromBisque (e : BitVec 7) (row : BitVec 4) (w : MisMoment) (m : Mach) : Mach :=
  let (go, m) := acceptForwarded e 8 m
  if !go then m
  else
    match w with
    | .idle => (reload e m).2
    | .slotBisque =>
      let p := reload e m
      match p.1, (p.2.engines.get e).cur with
      | true, some r =>
        if r.retaken then failSlot e p.2
        else modEng e (fun g => { g with act := .bisque, cur := g.cur.map fun r => { r with retaken := true } }) p.2
      | _, _ => p.2
    | .running =>
      if row = 5#4 then
        let m := unwind e m
        let p := reload e (modEng e (fun g => { g with
          undo := [], cur := g.cur.map fun r => { r with captured := r.capBase } }) m)
        if p.1 && (p.2.engines.get e).cur.isSome then modEng e (fun g => { g with act := .recovery p.2.clk }) p.2 else p.2
      else endReloaded e (reload e m)

/-- All lanes are reset from the bisque (R196 rows 3 to 5). -/
def resetFromBisque (e : BitVec 7) (row case : BitVec 4) (x : Mismatch) (m : Mach) : Mach :=
  let m := noteMismatch e (replBits (lanesOf m e)) case m
  let arg := if row = 3#4 then ecOf m e else ecOf m e ||| put 64 case 32
  let m := reportC (if row = 3#4 then 0x0302 else 0x0303) arg (contOf x.copies) m
  restartFromBisque e row x.moment (countReset e m)

/-- The reaction to a disagreement that fences nobody: row 3 with three lanes, row 4 in a degraded voted group, row 5 in
a pair. -/
def splitReaction (e : BitVec 7) (x : Mismatch) (m : Mach) : Mach :=
  let row : BitVec 4 :=
    if isVoted (liveCode m e) then (if (lanesOf m e).length = 3 then 3#4 else 4#4) else 5#4
  resetFromBisque e row (if x.compare then 6#4 else row) x m

/-- The leading lane's load request is the odd one: it is fenced and the two others are reset from the bisque (R196 row
2, R218). -/
def leaderOdd (e : BitVec 7) (r : BitVec 2) (x : Mismatch) (m : Mach) : Mach :=
  let m := fenceLane e r 2#4 2#4 (replBits (lanesOf m e)) x.copies x.entry m
  let (go, m) := acceptForwarded e 8 m
  if go then endReloaded e (reload e m) else m

/-- THE REACTION TO A VERDICT (R196). The result says whether the group goes on with the majority. -/
def react (e : BitVec 7) (v : Verdict) (x : Mismatch) (m : Mach) : Bool × Mach :=
  match v with
  | .agree => (true, m)
  | .minority r lead =>
    if lead && x.memLoad then (false, leaderOdd e r x m)
    else
      let k : BitVec 4 := if x.compare then 6#4 else 1#4
      (true, fenceLane e r k k (replBits [r]) x.copies x.entry m)
  | .split => (false, splitReaction e x m)

/-! ### The issue of stores and their acceptance (R66, R67, R188) -/

/-- The entries at place `k` of the lanes' buffers are issued, if they have not been: compared (R188), and asked of the
fence map (R125). The first component says that the engine goes on. DEDUCED: log entry 13. -/
def issueAt (e : BitVec 7) (m : Mach) (k : Nat) : Bool × Mach :=
  let h := (lanesOf m e).map fun r => (r, (rep m (tileOf e) r).sb[k]?)
  if h.all fun x => x.2.all fun y => y.issued.isSome then (true, m)
  else
    let (go, m) := react e (vote (h.map fun x => (x.1, x.2.map SbEntry.key)))
      ⟨false, false, misMoment m e, h.filterMap fun x => x.2.map SbEntry.data, some k⟩ m
    if !go then (false, m)
    else
      match (lanesOf m e).findSome? fun r => (rep m (tileOf e) r).sb[k]? with
      | none => (true, m)
      | some y =>
        let (ok, m) := storePermitted (tileOf e) y m
        (true, mapLanes e (fun x => { x with sb := x.sb.modify k fun y => { y with issued := some ok } }) m)

/-- Up to four entries are in flight (R67): the first four of the buffers are issued, in order. -/
def issueSb (e : BitVec 7) (m : Mach) : Bool × Mach :=
  [0, 1, 2, 3].foldl (fun (p : Bool × Mach) k => if p.1 then issueAt e p.2 k else p) (true, m)

/-- The oldest entry of an engine's buffers is issued, if it has not been, and accepted or refused (R67); then the next one
may be issued. The first component says that the engine goes on. DEDUCED: log entry 13. -/
def acceptOne (e : BitVec 7) (m : Mach) : Bool × Mach :=
  let (go, m) := issueSb e m
  if !go then (false, m)
  else
    let (go, m) := acceptHead e m
    if go then issueSb e m else (false, m)

/-- The oldest `n` entries are accepted in order. -/
def acceptN (e : BitVec 7) : Nat → Mach → Bool × Mach
  | 0, m => (true, m)
  | n + 1, m =>
    let (go, m) := acceptOne e m
    if go then acceptN e n m else (false, m)

/-- Every entry is accepted: the buffers of the lanes are empty (R69). -/
def drain (e : BitVec 7) (m : Mach) : Bool × Mach := acceptN e 8 m

/-- Every lane's buffer is empty. DEDUCED: log entry 9. -/
def drained (m : Mach) (e : BitVec 7) : Bool := (lanesOf m e).all fun r => (rep m (tileOf e) r).sb.isEmpty

end Sys2Proof.Machine
end

