-- ==== Sys2Proof/Machine/BisqueRecord.lean ====
section
/-! DEFINITION. The bisque record as a word of 256 bytes (R206). -/

namespace Sys2Proof.Machine

open Sys2Proof

/-- The words of a record from offset 0xE8: STATE with DFL and FIB; TSBR with SSP. -/
def recState (a : Arch) : W64 := (packState a &&& 0x7F_FFFF#64) ||| at_ a.dfl 24 ||| at_ a.fib 25
def recTsbr (a : Arch) : W64 := put 64 (fld a.tsbr 8 28 : BitVec 28) 0 ||| put 64 (fld a.ssp 4 32 : W32) 28

/-- The record's bytes 0x00 to 0xF7, which an engine's registers give. -/
def recBody (a : Arch) : BitVec 2048 :=
  let g (k : Nat) (c : Cap) : BitVec 2048 := put 2048 c.bits (128 * k)
  let w (o : Nat) (v : W64) : BitVec 2048 := put 2048 v (8 * o)
  g 0 a.pcc ||| g 1 a.s ||| g 2 a.x ||| g 3 a.y ||| g 4 a.d ||| g 5 a.link ||| g 6 a.slink
    ||| w 0x70 a.a ||| w 0x78 a.e ||| w 0x80 a.m ||| w 0x88 a.f ||| w 0x90 a.rcnt ||| w 0x98 a.rstate
    ||| g 10 a.ent0 ||| g 11 a.ent1 ||| g 12 a.ent2
    ||| w 0xD0 a.lval ||| w 0xD8 a.lopa ||| w 0xE0 a.lopb ||| w 0xE8 (recState a) ||| w 0xF0 (recTsbr a)

/-- The last word: generation, slot position, FORCED. -/
def recLast (b : BisqueCopy) : W64 := put 64 b.gen 0 ||| put 64 b.pos 16 ||| at_ b.forced 22

/-- A whole record. -/
def recordOf (b : BisqueCopy) : BitVec 2048 := recBody b.arch ||| put 2048 (recLast b) 0x7C0

/-- The tags of a record's granules. -/
def recTags (a : Arch) : BitVec 16 :=
  at_ a.pcc.tag 0 ||| at_ a.s.tag 1 ||| at_ a.x.tag 2 ||| at_ a.y.tag 3 ||| at_ a.d.tag 4 ||| at_ a.link.tag 5
    ||| at_ a.slink.tag 6 ||| at_ a.ent0.tag 10 ||| at_ a.ent1.tag 11 ||| at_ a.ent2.tag 12

/-- The registers that a body and its tags stand for, with the reservation and the sampled fields of `a`. -/
def recArch (r : BitVec 2048) (t : BitVec 16) (a : Arch) : Arch :=
  let g (k : Nat) : Cap := ⟨fld r (128 * k) 128, bit t k⟩
  let w (o : Nat) : W64 := fld r (8 * o) 64
  let st := w 0xE8
  let x := unpackState st { a with
    pcc := g 0, s := g 1, x := g 2, y := g 3, d := g 4, link := g 5, slink := g 6
    a := w 0x70, e := w 0x78, m := w 0x80, f := w 0x88 &&& fMask, rcnt := w 0x90, rstate := w 0x98 &&& rstateMask
    ent0 := g 10, ent1 := g 11, ent2 := g 12, lval := w 0xD0, lopa := w 0xD8, lopb := w 0xE0 }
  { x with dfl := bit st 24, fib := bit st 25
           tsbr := put 36 (fld (w 0xF0) 0 28 : BitVec 28) 8, ssp := put 36 (fld (w 0xF0) 28 32 : W32) 4 }

end Sys2Proof.Machine
end

