-- ==== Sys2Proof/Machine/DebugCore.lean ====
section
/-! DEFINITION. Run control at an engine (R468 to R479): when a halt may be taken, requests and the halt groups, break and
watch ranges, and the end of a step. -/

namespace Sys2Proof.Machine

open Sys2Proof

def modDbg (f : Debug → Debug) (m : Mach) : Mach := { m with dbg := f m.dbg }
def modDEng (e : BitVec 7) (f : DEng → DEng) (m : Mach) : Mach := modDbg (fun d => { d with engs := d.engs.upd e f }) m

/-- A CONTROL or FACTORY session is open and MODE is COMMISSION (R468). -/
def dbgControls (m : Mach) : Bool := decide (2 ≤ m.dbg.level.toNat) && decide (m.mode.mode = .commission)

/-- Under the owner key, compartments 0 and 1 are shielded (R468, R474, R479). -/
def dbgShield (m : Mach) (comp : BitVec 10) : Bool := m.dbg.owner && decide (comp.toNat < 2)

/-- An engine that runs nothing. -/
def engIdle (g : Engine) : Bool := g.cur.isNone && !g.keeper

/-- The compartment that an engine runs now lets a halt be taken. -/
def haltAllowed (m : Mach) (e : BitVec 7) : Bool :=
  engIdle (m.engines.get e) || (match leader m e with
    | some l => !dbgShield m l.arch.comp
    | none => true)

/-- A halt is due at this boundary: the engine runs no further instruction (R469, R471). -/
def stopping (m : Mach) (e : BitVec 7) : Bool :=
  let x := m.dbg.engs.get e
  x.want && !x.waitSc && haltAllowed m e

/-- The engine is a member of the halt group of another (R470). -/
def sameGroup (d : Debug) (a b : BitVec 7) : Bool :=
  decide (a ≠ b) && (d.engs.get a).hgen && (d.engs.get b).hgen && decide ((d.engs.get a).hgrp = (d.engs.get b).hgrp)

/-- Every engine number. -/
def allEngines : List (BitVec 7) := (range 0 128).map (BitVec.ofNat 7)

/-- Engines of the halt group of `e`, without `e`. -/
def groupOf (m : Mach) (e : BitVec 7) : List (BitVec 7) :=
  allEngines.filter fun x => sameGroup m.dbg e x && validEngine m x

/-- An engine of the module is halted. -/
def anyHalted (m : Mach) : Bool := m.engines.toList.any Engine.halted

/-- Freeze bit `k` of a channel is in effect: with ONHALT only while an engine is halted (R481). -/
def freezeOn (m : Mach) (c : BitVec 8) (k : Nat) : Bool :=
  let f := m.dbg.frz.get c
  bit f k && (!bit f 2 || anyHalted m)

/-- The timers stand or run as their freezes say (R481). -/
def syncTimers (m : Mach) : Mach :=
  { m with chans := Vector.ofFn fun (i : Fin (2 ^ 8)) =>
      let x := m.chans[i.val]
      { x with timer := { x.timer with stopped := freezeOn m (BitVec.ofNat 8 i.val) 1 } } }

/-- An engine's reservation is cleared (R107). -/
def clearResv (e : BitVec 7) (m : Mach) : Mach :=
  mapLanes e (fun r => { r with arch := { r.arch with resv := none } })
    { m with resv := m.resv.filter fun x => x.1 ≠ e }

/-- The halt is complete (R469): HALTED with its cause, and RESV where it cleared a reservation (R107, R471).
DEDUCED: log entry 48. -/
def haltNow (e : BitVec 7) (m : Mach) : Mach :=
  let held := (leader m e).any fun l => l.arch.resv.isSome
  syncTimers <| modEng e (fun g => { g with halted := true })
    (modDEng e (fun x => { x with
      hcause := x.wantCause, src := x.wantSrc, want := false, waitSc := false, step := false, resv := x.resv || held })
      (clearResv e m))

/-- A halt asked of one engine; while a reservation stands, a halt from outside waits for the SC (R471). An idle engine
halts at once (R469). DEDUCED: log entry 48. -/
def askHalt (e : BitVec 7) (cause : BitVec 4) (src : BitVec 7) (m : Mach) : Mach :=
  let g := m.engines.get e
  if g.halted || (m.dbg.engs.get e).want then m
  else
    let held := match leader m e with
      | some l => l.arch.resv.isSome
      | none => false
    let m := modDEng e (fun x => { x with
      want := true, wantCause := cause, wantSrc := src, waitSc := held && decide (cause.toNat ≤ 2) }) m
    if engIdle g && drained m e then haltNow e m else m

/-- A halt of one engine and of the other members of its group (R470). -/
def requestHalt (e : BitVec 7) (cause : BitVec 4) (m : Mach) : Mach :=
  (groupOf m e).foldl (fun m x => askHalt x 2#4 e m) (askHalt e cause e m)

/-! ### Ranges (R478, R479) -/

def DRange.start (r : DRange) : Addr := (fld r.q 0 4 : BitVec 4) ++ r.lo
def DRange.stop (r : DRange) : Addr := (fld r.q 4 4 : BitVec 4) ++ r.hi
def DRange.en (r : DRange) : Bool := bit r.q 8
def DRange.kind (r : DRange) : BitVec 2 := fld r.q 9 2
def DRange.link (r : DRange) : Bool := bit r.q 11
def DRange.cmatch (r : DRange) : Bool := bit r.q 12
def DRange.comp (r : DRange) : BitVec 10 := fld r.q 13 10
def DRange.rings (r : DRange) : BitVec 4 := fld r.q 23 4
def DRange.recOnly (r : DRange) : Bool := bit r.q 27

/-- A range overlaps `n` bytes at an address. -/
def DRange.overlaps (r : DRange) (a : Addr) (n : Nat) : Bool :=
  r.en && decide (max a.toNat r.start.toNat < min (a.toNat + n) r.stop.toNat)

/-- The qualifiers of R479. -/
def DRange.qualifies (r : DRange) (m : Mach) (a : Arch) : Bool :=
  (!r.cmatch || decide (r.comp = a.comp)) && bit r.rings a.ring.toNat && !dbgShield m a.comp

/-- An access that a data range may match: its address and size, and whether it stores. -/
structure DAcc where
  addr : Addr
  size : Nat
  write : Bool
  deriving DecidableEq, Repr

/-- Instruction range `k` counts for the word at PCC. -/
def insRange (m : Mach) (e : BitVec 7) (a : Arch) (k : Nat) : Bool :=
  let r := (m.dbg.engs.get e).ranges.get (BitVec.ofNat 3 k)
  decide (r.kind = 0#2) && r.overlaps a.pcc.cursor 4 && r.qualifies m a

/-- The first access for which data range `k` counts. DEDUCED: log entry 48. -/
def dataRange (m : Mach) (e : BitVec 7) (a : Arch) (l : List DAcc) (k : Nat) : Option DAcc :=
  let x := m.dbg.engs.get e
  let r := x.ranges.get (BitVec.ofNat 3 k)
  let i := x.ranges.get (BitVec.ofNat 3 (k - 4))
  if r.qualifies m a && (!r.link || (decide (i.kind = 0#2) && i.overlaps a.pcc.cursor 4)) then
    l.find? fun d => r.overlaps d.addr d.size && (if d.write then bit r.kind 1 else bit r.kind 0)
  else none

/-- A hit is recorded (R479). -/
def recordHit (e : BitVec 7) (k : Nat) (a : Addr) (m : Mach) : Mach :=
  modDEng e (fun x => { x with hit := x.hit ||| at_ true k, hadr := a }) m

/-- The instruction ranges before an instruction runs (R478): whether the engine halts before it. The first instruction
after a resume has been stopped at already. DEDUCED: log entry 48. -/
def insHits (e : BitVec 7) (m : Mach) : Bool × Mach :=
  match leader m e with
  | none => (false, m)
  | some l =>
    let x := m.dbg.engs.get e
    if x.pass then (false, modDEng e (fun x => { x with pass := false }) m)
    else
      let hits := (range 0 4).filter (insRange m e l.arch)
      let m := hits.foldl (fun m k => recordHit e k l.arch.pcc.cursor m) m
      let linked (k : Nat) : Bool := (x.ranges.get (BitVec.ofNat 3 (k + 4))).link
      if dbgControls m && (hits.any fun k => !(x.ranges.get (BitVec.ofNat 3 k)).recOnly && !linked k) then
        (true, requestHalt e 3#4 m)
      else (false, m)

/-- The data ranges for the accesses of an instruction that ran in state `a` (R478). -/
def dataHits (e : BitVec 7) (a : Arch) (l : List DAcc) (m : Mach) : Mach :=
  let x := m.dbg.engs.get e
  let hits := (range 4 4).filterMap fun k => (dataRange m e a l k).map fun d => (k, d.addr)
  let m := hits.foldl (fun m p => recordHit e p.1 p.2 m) m
  if dbgControls m && (hits.any fun p => !(x.ranges.get (BitVec.ofNat 3 p.1)).recOnly) then requestHalt e 4#4 m else m

/-- The end of a step, once an instruction has counted (R474). DEDUCED: log entry 48. -/
def stepDone (e : BitVec 7) (m : Mach) : Mach :=
  if (m.dbg.engs.get e).step then
    requestHalt e 5#4 (modDEng e (fun x => { x with step := false }) m)
  else m

/-- A BKPT is claimed by the session (R474). DEDUCED: log entry 48. -/
def bkptClaimed (m : Mach) (comp : BitVec 10) : Bool := dbgControls m && !dbgShield m comp

end Sys2Proof.Machine
end

