-- ==== Sys2Proof/Machine/Engine.lean ====
section
/-! DEFINITION. Engines: the bisque (R206 to R213), slot entry and end (R29, R151, R226), the completion of an
instruction on every lane with its vote (R187, R188), loads, SC, and interrupts. -/

namespace Sys2Proof.Machine

open Sys2Proof

/-! ### The bisque -/

/-- The state of a lane as a compare takes it: the places of a pending value count only while it is pending (R194). -/
def Arch.compared (a : Arch) : Arch :=
  { a with
    lval := if a.lpend then a.lval else 0
    lopa := if a.lop = 0#8 then 0 else a.lopa
    lopb := if a.lop = 0#8 then 0 else a.lopb
    ldist := if a.lop = 0#8 then 0 else a.ldist
    lrm := if a.lop = 0#8 then 0 else a.lrm }

/-- The architected states of the lanes, as a sweep or bisque compares them (R194, R195). -/
def laneStates (m : Mach) (e : BitVec 7) : List (BitVec 2 × Arch) :=
  (lanesOf m e).map fun r => (r, (rep m (tileOf e) r).arch.compared)

/-- An instruction has ended that no command of its own counts: the end-of-iteration step (R75, R104). -/
def countOne (e : BitVec 7) (m : Mach) : Mach :=
  modEng e (fun g => { g with cur := g.cur.map fun r => { r with count := r.count + 1 } }) m

/-- Everything due on the lanes of an engine (R72, R73, R104). -/
def settleLanes (e : BitVec 7) (m : Mach) : Mach :=
  let due := (leader m e).any Replica.repEnd
  let m := mapLanes e settleLane m
  if due then countOne e m else m

/-- A bisque taken for a mirrored compartment is kept for the link (R509). -/
def keepForMirror (e : BitVec 7) (b : BisqueCopy) (m : Mach) : Mach :=
  match (m.engines.get e).cur with
  | some r =>
    if m.yl.mir.toList.any fun w => mirValid w && decide (mirComp w = r.slot.comp) then
      modYl (fun y => { y with bisques := y.bisques ++ [(r.slot.comp, recordOf b)] }) m
    else m
  | none => m

/-- The output records that a slot has marked (R221). -/
def marksOf (m : Mach) (e : BitVec 7) (pos : BitVec 6) : List (BitVec 8 × Bool) :=
  (range 0 256).flatMap fun k =>
    let c : BitVec 8 := BitVec.ofNat 8 k
    let x := m.marks.get c
    (if x.1 = some (e, pos) then [(c, false)] else []) ++ (if x.2 = some (e, pos) then [(c, true)] else [])

/-- A BISQUE (R209): the compare, the log committed, both copies written with the next generation, and a promotion, which
a difference in the grog's state as read back abandons (R197, R200). The first component says that it was written. -/
def takeBisque (e : BitVec 7) (forced : Bool) (u : BisqueUpset) (m : Mach) : Bool × Mach :=
  let (go, m) := react e (vote (laneStates m e)) ⟨false, true, if forced then .running else .slotBisque, [], none⟩ m
  if !go then (false, m)
  else
    match leader m e with
    | none => (false, m)
    | some l =>
      let g := m.engines.get e
      let pos := match g.cur with
        | some r => r.slot.pos
        | none => 0#6
      let b (bad : Bool) : BisqueCopy := ⟨l.arch, g.copy0.gen + 1#16, pos, forced, bad⟩
      let marked := if isPair (liveCode m e) (posOf e) then marksOf m e pos else []
      let m := modEng e (fun g => { g with
        undo := [], taken := [], forcedDue := false, copy0 := b u.bad0, copy1 := b u.bad1
        cur := g.cur.map fun r => { r with bisqueAt := m.clk, capBase := r.captured, marked := marked } }) m
      let m := keepForMirror e (b false) m
      (true, if u.readBack then m else promote e m)

/-- The slot position that an engine runs. -/
def runPos (m : Mach) (e : BitVec 7) : BitVec 6 :=
  match (m.engines.get e).cur with
  | some r => r.slot.pos
  | none => 0#6

/-! ### Slot entry (R151, R224) -/

/-- A granule that slot entry loads, in ring 0 of the slot's compartment: a word that cannot be read, or that the fence map
refuses, is an untagged value (R151, R260). DESIGN CHOICE: log entry 14. -/
def entryLoad (e : BitVec 7) (comp : BitVec 10) (a : Addr) (m : Mach) : Cap × Mach :=
  let p := if region a = .tileAlias then (true, m) else fenceCheck (.tile (tileOf e)) (.ring comp 0#2) a false m
  let x := phys (tileOf e) a
  if p.1 && (region x).isMem then
    let (r, m) := readGran ⟨true, e, comp, 0#2⟩ (granOf x) p.2
    (if r.bad.isSome then Cap.null else r.toCap, m)
  else (Cap.null, p.2)

/-- A slot whose entry fails at a step (R29, R151). -/
def entryFailed (e : BitVec 7) (s : Slot) (step : BitVec 4) (m : Mach) : Mach :=
  failSlot e (report 0x0104 (argEC e s.comp s.pos ||| put 64 step 32 ||| put 64 s.gate 48) m)

/-- The state with which a slot begins (R151). -/
def entryArch (a : Arch) (s : Slot) (gate stack ent1 ent2 : Cap) (p : BitVec 2) : Arch :=
  { a with
    pcc := openGate gate, ring := gateRing gate, s := stack, a := s.arg.setWidth 64
    x := Cap.null, y := Cap.null, d := Cap.null, link := Cap.null, slink := Cap.null
    e := 0, m := 0, rcnt := 0, rstate := 0, f := 0, ib := gateIB (gateRing gate)
    exl := false, dfl := false, fast := false, fring := 0, fib := false
    ssp := shadowTop p - 16#36, ent1 := ent1, ent2 := ent2
    lpend := false, lval := 0, lop := 0, lopa := 0, lopb := 0, ldist := 0, lrm := 0, resv := none }

/-- Notices that wait for a compartment's next entry are delivered to the slot that enters it (R26, R70).
DEDUCED: log entry 17. -/
def deliver (e : BitVec 7) (comp : BitVec 10) (m : Mach) : Mach :=
  let mine := m.supNotices.filter fun n => n.comp = comp
  let above := m.supOverruns.any fun x => x.1 = comp
  let m := { m with
    supNotices := m.supNotices.filter fun n => n.comp ≠ comp
    supOverruns := m.supOverruns.filter fun x => x.1 ≠ comp }
  modEng e (fun g => { g with
    notices := mine.take 8, lostNotices := satAdd g.lostNotices (mine.length - 8)
    cur := g.cur.map fun r => { r with overrun := above } }) m

/-- A transaction that the hardware of an instruction presents: a read through the code, or a shadow-stack, task-state or stack
write, which a pair logs (R188, R212). Those that leave the tile pass the fence map in ring 0; a write that it refuses gives a
notice (R260, R262). DESIGN CHOICE: log entry 14. -/
def doTrans (e : BitVec 7) (m : Mach) (x : Trans) : Mach :=
  let a := phys (tileOf e) x.addr
  let w : Acc := ⟨true, e, x.comp, x.ring⟩
  let p := if region x.addr = .tileAlias then (true, m)
    else fenceCheck (.tile (tileOf e)) (.ring x.comp 0#2) x.addr (!x.kind.isLoad) m
  if x.kind.isLoad then (readGran w (granOf a) p.2).2
  else if p.1 then logUndo e a p.2 (writeGran w (granOf a) x.data x.mask x.tag p.2)
  else
    let y : SbEntry := ⟨x.addr, x.data, x.mask, x.tag, true, false, false, none, x.comp, x.ring, 0#36, m.tick.count, runPos m e, false⟩
    notice e y 1#4 p.2

/-- SLOT ENTRY (R151). -/
def slotEntry (e : BitVec 7) (m : Mach) : Mach :=
  match (m.engines.get e).cur, leader m e with
  | some r, some l =>
    let s := r.slot
    let (gtab, m) := entryLoad e s.comp (compGran s.comp 0) m
    if !(gtab.tag && gtab.has rRD && gtab.has rLDC) then entryFailed e s 1 m
    else if !(decide (gtab.base.toNat + 16 * s.gate.toNat + 16 ≤ gtab.limit)) then entryFailed e s 2 m
    else
      let (gate, m) := entryLoad e s.comp (gtab.base + 16#36 * s.gate.setWidth 36) m
      if (gateCheck gate).isSome || decide (gate.owner ≠ s.comp) then entryFailed e s 3 m
      else
        let span := if s.span then spanFind m s.comp e else none
        if s.span && span.isNone then
          failSlot e (report 0x0309 (put 64 s.comp 16) m)
        else
          let (stack, m) := match span with
            | some (i, k) => ((m.spans.get i).stack k, m)
            | none => entryLoad e s.comp (stkGran s.comp (gateRing gate)) m
          if !stack.tag then entryFailed e s 4 m
          else
            let (ent1, m) := entryLoad e s.comp (compGran s.comp 5) m
            let (ent2, m) := entryLoad e s.comp (compGran s.comp 6) m
            let n (c : Cap) := if c.tag then c else Cap.null
            let a := entryArch l.arch s gate stack (n ent1) (n ent2) (posOf e)
            let m := mapLanes e (fun x => { x with
              arch := { a with tsbr := x.arch.tsbr, ent0 := x.arch.ent0 }, prefetch := [], ldue := none, repEnd := false }) m
            let m := doTrans e m (trans16 .shadow (shadowTop (posOf e) - 16#36) slotFrame false a)
            deliver e s.comp (modEng e (fun g => { g with act := .run }) m)
  | _, _ => m

/-- The first slot-start bisque of a slot begins: from this clock its budget runs (R219). -/
def beginRun (e : BitVec 7) (m : Mach) : Mach :=
  modEng e (fun g => { g with cur := g.cur.map fun r => if r.begun then r else { r with begun := true, start := m.clk } }) m

/-- A slot about to start takes its bisque and enters, once its buffers are empty; a slot that fails there gives way to
the next (R29, R208, R209). `fuel` bounds the slots of a list and the bisques retaken. -/
def pump (e : BitVec 7) (u : BisqueUpset) : Nat → Mach → Mach
  | 0, m => m
  | fuel + 1, m =>
    if (m.engines.get e).act = .bisque ∧ drained m e = true then
      let (go, m) := takeBisque e false u (beginRun e m)
      pump e u fuel (if go then slotEntry e m else m)
    else m

/-- Enough fuel for 64 slots, each with a bisque taken twice. -/
def pumpFuel : Nat := 130

/-- Slots about to start go on without an upset. -/
def pumped (e : BitVec 7) (m : Mach) : Mach := pump e BisqueUpset.none pumpFuel m

/-- A forced bisque is due at this boundary (R213, R214). -/
def forcedOwed (m : Mach) (e : BitVec 7) : Bool :=
  let g := m.engines.get e
  g.forcedDue || (isPair (liveCode m e) (posOf e) && decide (216 ≤ g.undo.length))

/-- FORCED BISQUE (R213, R214), once the buffers are empty. -/
def forcedBisque (e : BitVec 7) (m : Mach) : Mach :=
  let (go, m) := drain e m
  if go then (takeBisque e true BisqueUpset.none m).2 else m

/-! ### The normal end of a slot (R36, R76, R149, R215, R226) -/

/-- The blocks of a member's signature (R226). -/
def signatureBlocks (r : Run) (a : Arch) (tick : BitVec 64) : List Gran :=
  let recs := (range 0 256).filterMap fun c => r.captured.find? fun x => x.chan.toNat = c
  recs.map SpanRec.data ++
    [a.e ++ a.a, a.f ++ a.m, a.rstate ++ a.rcnt, put 128 tick 0 ||| put 128 r.slot.comp 64]

/-- The slot ends normally and the next one starts. -/
def endSlot (e : BitVec 7) (m : Mach) : Mach :=
  match (m.engines.get e).cur, leader m e with
  | some r, some l =>
    let sig := (signatureBlocks r l.arch m.tick.count).foldl misrStep 0#128
    let m := spanResult e r.slot (.ended sig r.captured m.clk r.slot.pos) m
    let m := hwWrite8 (statusBase e + r.slot.pos.setWidth 36) 0#8 m
    startNext e (clearRun e m)
  | _, _ => m

/-! ### Completion on every lane -/

/-- An engine may run instructions: its number is valid, it runs a slot or the keeper, no halt is in force, no
power-fail warning has stopped the issue of instructions (R71), and the main clock runs (R447). -/
def canRun (m : Mach) (e : BitVec 7) : Bool :=
  let g := m.engines.get e
  validEngine m e && !g.halted && !m.pwr.pfw && !m.watch.mainLost && (g.cur.isSome || g.keeper)

/-- At an instruction boundary, ready for the next instruction. -/
def atBoundary (m : Mach) (e : BitVec 7) : Bool := canRun m e && decide ((m.engines.get e).act = .run)

/-- What the voter compares of a lane's outcome (R192): its transactions and what it asks of the engine, with the compartment
and ring of an operand access and how the lane's own buffer answers a load (R68). -/
def fxKey (m : Mach) (e : BitVec 7) (r : BitVec 2) (f : Fx) : (List Trans × Ev) × Option (BitVec 10 × BitVec 2 × Nat) :=
  ((f.trans, f.ev), match f.ev with
    | .load op a => some (f.arch.comp, f.arch.ring, match sbLookup (tileOf e) a op.size op.isCap (rep m (tileOf e) r).sb with
      | .none => 0
      | .forward _ => 1
      | .wait _ => 2)
    | .sc _ _ => some (f.arch.comp, f.arch.ring, 0)
    | .capture _ _ _ => some (f.arch.comp, f.arch.ring, 0)
    | _ => none)

/-- A lane asks for a load from memory, whose row of R196 is 2 when the leading lane is the odd one. -/
def Fx.memLoad (f : Fx) : Bool :=
  (match f.ev with
    | .load _ a => (region a).isMem
    | _ => false) || f.trans.any fun t => t.kind.isLoad && (region t.addr).isMem

/-- The copies that a mismatch entry records: the data of each lane's first transaction. -/
def fxCopies (l : List (BitVec 2 × Fx)) : List Gran :=
  l.map fun x => match x.2.trans with
    | t :: _ => t.data
    | [] => 0#128

/-- The lanes' outcomes are compared; the group goes on with those that agree, or not at all (R188, R196). -/
def voteFx (e : BitVec 7) (outs : List (BitVec 2 × Fx)) (m : Mach) : Option (List (BitVec 2 × Fx)) × Mach :=
  let v := vote (outs.map fun x => (x.1, fxKey m e x.1 x.2))
  let lead := outs.head?.any fun x => x.2.memLoad
  let (go, m) := react e v ⟨lead, false, misMoment m e, fxCopies outs, none⟩ m
  if go then (some (outs.filter fun x => x.1 ∈ lanesOf m e), m) else (none, m)

/-- Words for a prefetch queue from a line of the engine's line buffer, in address order, none beyond PCC's limit (R58, R60). -/
def lineWords (d : BitVec 512) (pcc : Cap) (a : Addr) : Nat → List W32
  | 0 => []
  | n + 1 =>
    if pcc.inBounds a 4 then
      fld d (8 * (a.toNat % 64)) 32 :: (if a.toNat % 64 = 60 then [] else lineWords d pcc (a + 4#36) n)
    else []

/-- The address of the next word that a prefetch queue takes. -/
def Replica.nextWord (r : Replica) : Addr := r.arch.pcc.cursor + 4#36 * BitVec.ofNat 36 r.prefetch.length

/-- A prefetch queue takes words from a line buffer, as far as its next line stands there (R58). -/
def takeWords (buf : List ICLine) (r : Replica) : Replica :=
  match buf.find? fun x => decide (x.line = fld r.nextWord 6 30) with
  | some x =>
    { r with prefetch := r.prefetch ++ lineWords x.data r.arch.pcc r.nextWord (4 - r.prefetch.length) }
  | none => r

/-- A line placed in a cache of four ways, most recently used first (R61). -/
def cacheLine (x : ICLine) (c : List ICLine) : List ICLine :=
  let rest := c.filter fun y => y.line ≠ x.line
  let set (y : ICLine) : BitVec 7 := fld y.line 0 7
  let same := (rest.filter fun y => set y = set x).take 3
  x :: rest.filter fun y => set y ≠ set x || y ∈ same

/-- A line placed in a line buffer of two. -/
def bufferLine (x : ICLine) (b : List ICLine) : List ICLine := (x :: b.filter fun y => y.line ≠ x.line).take 2

/-- The line that the leading lane's queue needs next comes from the tile's cache to the line buffer, if it is cached; it is
then the most recently used of its set (R61). -/
def bufferNext (e : BitVec 7) (m : Mach) : Mach :=
  let t := tileOf e
  match leader m e with
  | none => m
  | some l =>
    let line : BitVec 30 := fld l.nextWord 6 30
    if 4 ≤ l.prefetch.length ∨ l.arch.pcc.inBounds l.nextWord 4 = false
        ∨ ((m.engines.get e).lineBuf.any fun y => decide (y.line = line)) = true then m
    else
      match (m.tiles.get t).icache.find? fun y => decide (y.line = line) with
      | some x =>
        modEng e (fun g => { g with lineBuf := bufferLine x g.lineBuf })
          (modTile t (fun tl => { tl with icache := cacheLine x tl.icache }) m)
      | none => m

/-- The prefetch queues are filled from the line buffer (R58): at most two lines hold four words. -/
def prefetchFill (e : BitVec 7) (m : Mach) : Mach :=
  let one (m : Mach) : Mach :=
    let m := bufferNext e m
    mapLanes e (takeWords (m.engines.get e).lineBuf) m
  one (one m)

/-- What the fetch of the word at an address met, when the line buffer holds that word's line (R60, R158, R262). -/
def wordFault (m : Mach) (e : BitVec 7) (a : Addr) : Option Exc :=
  match (m.engines.get e).lineBuf.find? fun y => decide (y.line = fld a 6 30) with
  | some x =>
    match (x.bad.get (fld a 4 2)).toNat with
    | 0 => none
    | 5 => some (excData 0x05 a)
    | k => some (excUncorr (BitVec.ofNat 8 k) a)
  | none => none

/-- The effect of an instruction takes hold: each lane's registers and stores, the group's one copy of every
transaction, the instruction counted unless it trapped, the issue of its stores (R67, R75, R188, R191). A trap moves the
counter of the free values on. The first component says that the engine goes on. -/
def applyFx (e : BitVec 7) (outs : List (BitVec 2 × Fx)) (m : Mach) : Bool × Mach :=
  match outs with
  | [] => (false, m)
  | (_, f) :: _ =>
    let pos := runPos m e
    let now := m.tick.count
    let m := outs.foldl (fun m x => modRep (tileOf e) x.1 (fun r => laneDone now pos r x.2) m) m
    let m := f.trans.foldl (doTrans e) (modEng e (fun g => { g with fed := false, reread := false }) m)
    let m := if f.trap then { m with free := m.free + 1 } else stepDone e (countOne e m)
    issueSb e (prefetchFill e m)

/-- A captured record (R225): merged into the member's record of that channel, or a new one; a 33rd channel fails the
slot. -/
def capture (e : BitVec 7) (a : Addr) (size : Nat) (d : Gran) (m : Mach) : Mach :=
  match (m.engines.get e).cur with
  | none => m
  | some r =>
    let c : BitVec 8 := fld a 7 8
    let b := bit a 4
    let p := (StReq.mk a size d false false).place
    let old := match r.captured.find? fun x => x.chan = c ∧ x.buf = b with
      | some x => x.data
      | none => 0#128
    let rest := r.captured.filter fun x => x.chan ≠ c
    let recs := rest ++ [⟨c, b, mergeBytes old p.1 p.2⟩]
    let m := modEng e (fun g => { g with cur := g.cur.map fun r => { r with captured := recs } }) m
    if 32 < recs.length then failSlot e m else m

/-- SC with the buffers empty (R106, R107, R262): the store if the reservation holds and the target accepts it; that of a
span member to an output command record is captured instead (R225). -/
def storeConditional (e : BitVec 7) (a : Addr) (v : W64) (m : Mach) : Mach :=
  match leader m e with
  | none => m
  | some l =>
    let x := alignG (phys (tileOf e) a)
    let holds := decide (l.arch.resv = some x) && decide ((e, x) ∈ m.resv)
    let done (ok : Bool) (m : Mach) : Mach :=
      modDEng e (fun x => { x with waitSc := false }) <|
      mapLanes e (fun r => { r with arch := { r.arch with f := setZ r.arch.f ok, resv := none } })
        { m with resv := m.resv.filter fun z => z.1 ≠ e }
    let y := (StReq.mk a 8 (put 128 v 0) false false).entry l.arch m.tick.count (runPos m e)
    if !holds then done false m
    else if (Ctx.mk m e []).span && inOutputRecord a then capture e a 8 (put 128 v 0) (done true m)
    else
      let (bad, m') := storeAccess (y.who e) y m
      match bad with
      | some k => done false (notice e y k m')
      | none => done true (logUndo e x m m')

/-- The instruction caches of one tile or of all emptied (R63). -/
def invalidateCaches (e : BitVec 7) (all : Bool) (m : Mach) : Mach :=
  if all then { m with tiles := m.tiles.map fun t => { t with icache := [] } }
  else modTile (tileOf e) (fun t => { t with icache := [] }) m

/-- The transactions of an engine that were checked against the region caches are accepted, but for those that wait behind a
host window (R265). -/
def acceptChecked (e : BitVec 7) : Nat → Mach → Mach
  | 0, m => m
  | n + 1, m =>
    if (oldest m e).any fun y => y.issued.isSome && region y.gran != .hostWin then
      let (go, m) := acceptHead e m
      if go then acceptChecked e n m else m
    else m

/-- The region cache of one tile's port, or every region cache on the fabric, emptied, once the transactions checked against
its contents are accepted (R265). -/
def invalidateRegions (e : BitVec 7) (all : Bool) (m : Mach) : Mach :=
  let m := (allEngines.filter fun x => validEngine m x && (all || decide (tileOf x = tileOf e))).foldl
    (fun m x => acceptChecked x 4 m) m
  if all then
    modMc (fun c => { c with portCaches := Tbl.all 2 [] }) { m with tiles := m.tiles.map fun t => { t with rcache := [] } }
  else modTile (tileOf e) (fun t => { t with rcache := [] }) m

/-- What an instruction asks of its engine, once its own effect has taken hold. -/
def engineEvent (e : BitVec 7) (ev : Ev) (m : Mach) : Mach :=
  match ev with
  | .none => m
  | .load _ _ => m
  | .sc a v => storeConditional e a v m
  | .capture a n d => capture e a n d m
  | .slotEnd => endSlot e m
  | .wfi => modEng e (fun g => { g with act := .wfi }) m
  | .string _ => m
  | .cinv all => invalidateCaches e all m
  | .rinv all => invalidateRegions e all m
  | .bkpt _ => requestHalt e 6#4 m
  | .chain v =>
    match leader m e with
    | some l => takePending e l.arch.comp v m
    | none => m
  | .reset v => engineReset e 0x0201 v m

/-- The compartment for which a chained interrupt is pending is that of the saved state; it is read before the handler
state replaces it. -/
def chainComp (m : Mach) (e : BitVec 7) : BitVec 10 :=
  match lanesOf m e with
  | r :: _ =>
    let c := Ctx.of m e r
    let a := (rep m (tileOf e) r).arch
    (c.read a (eretBlock c a)).toCap.owner
  | [] => 0#10

/-- The outcomes that the vote has left take effect, with what they ask of the engine. -/
def carryOutFx (e : BitVec 7) (outs : List (BitVec 2 × Fx)) (m : Mach) : Mach :=
  match outs with
  | [] => m
  | (_, f) :: _ =>
    let c := chainComp m e
    let (go, m) := applyFx e outs m
    if !go then m
    else
      match f.ev with
      | .chain v => takePending e c v m
      | ev => engineEvent e ev m

/-- An instruction's outcomes, none of them a load, are voted and take effect. -/
def commitFx (e : BitVec 7) (outs : List (BitVec 2 × Fx)) (m : Mach) : Mach :=
  match voteFx e outs m with
  | (none, m) => m
  | (some l, m) => carryOutFx e l m

/-- The effect of a lane's outcome in state `a`: an exception enters its handler (R166, R169). -/
def LaneOut.fx (c : Ctx) (a : Arch) : LaneOut → Fx
  | .ok f => f
  | .exc k => enterException c a k.info
  | .dbl v fa => doubleOrReset c a v fa

/-- A lane's outcome raises an exception; with DFL = 1 that resets the engine, whose stores are then discarded (R69, R174). -/
def LaneOut.raises : LaneOut → Bool
  | .ok _ => false
  | _ => true

/-- Outcomes with exceptions: older stores drain first, unless the engine is to be reset (R69), then each lane that raised
one enters its handler. -/
def resolve (e : BitVec 7) (outs : List (BitVec 2 × LaneOut)) (m : Mach) : Option (List (BitVec 2 × Fx)) × Mach :=
  let (go, m) :=
    if outs.any fun x => x.2.raises && !(rep m (tileOf e) x.1).arch.dfl then drain e m else (true, m)
  if !go then (none, m)
  else
    let live := lanesOf m e
    (some ((outs.filter fun x => x.1 ∈ live).map fun x =>
      (x.1, x.2.fx (Ctx.of m e x.1) (rep m (tileOf e) x.1).arch)), m)

/-- The outcomes of every lane for one step, voted and carried out. DEDUCED: log entry 63. -/
def runOuts (e : BitVec 7) (outs : List (BitVec 2 × LaneOut)) (m : Mach) : Mach :=
  match resolve e outs m with
  | (none, m) => m
  | (some l, m) => commitFx e l m

/-! ### Loads (R64, R68, R187) -/

/-- What a lane makes of the granule that its load brings. -/
def loadOut (op : LdOp) (mode : BitVec 4) (opnd : BitVec 20) (x : Addr) (l : LoadResult) (c : Ctx) (a : Arch) : LaneOut :=
  match l with
  | .fails k => .exc k
  | .data d t =>
    match loadFinish op mode opnd x d t c (beginArch a) with
    | .error k => .exc k
    | .ok f => .ok f

/-- A loaded granule reaches every lane, which completes its instruction with it. `get` gives each lane's copy. -/
def finishLoad (e : BitVec 7) (op : LdOp) (mode : BitVec 4) (opnd : BitVec 20) (a : Addr)
    (get : BitVec 2 → LoadResult) (m : Mach) : Mach :=
  let m := modEng e (fun g => { g with act := .run }) m
  let outs := (lanesOf m e).map fun r => (r, loadOut op mode opnd a (get r) (Ctx.of m e r) (rep m (tileOf e) r).arch)
  let m := runOuts e outs m
  if op = .lr then
    match leader m e with
    | some l =>
      match l.arch.resv with
      | some x => { m with resv := (e, x) :: m.resv.filter fun z => z.1 ≠ e }
      | none => m
    | none => m
  else m

/-- The identity of an engine's access: that of its leading lane. -/
def engineWho (m : Mach) (e : BitVec 7) : Who :=
  match leader m e with
  | some l => ⟨.replica, e, l.arch.comp, l.arch.ring, l.arch.pcc.cursor, m.tick.count, runPos m e⟩
  | none => ⟨.replica, e, 0#10, 3#2, 0#36, m.tick.count, runPos m e⟩

/-- A parity error on the distribution path is reported against every lane it fed (R193); a single lane is not compared. -/
def pathParity (e : BitVec 7) (m : Mach) : Mach :=
  if (lanesOf m e).length ≤ 1 then m else splitReaction e ⟨false, false, misMoment m e, [], none⟩ m

/-- The data of a load through the fabric arrives (R64): read through the fence map and the codes, and delivered.
DEDUCED: log entry 63. -/
def respond (e : BitVec 7) (l : FabLoad) (hostData : Gran) (up : Option Upset) (m : Mach) : Mach :=
  let (res, m) := loadAccess (engineWho m e) l.op.size l.op.isCap l.addr hostData m
  let m := match res with
    | .data _ _ => deviceAccess e l.addr m
    | .fails _ => m
  match up with
  | some u =>
    if u.parity && !(lanesOf m e).length == 1 then pathParity e (modEng e (fun g => { g with act := .run }) m)
    else
      let flip (r : BitVec 2) : LoadResult := match res with
        | .data d t =>
          if (lanesOf m e)[u.lane.toNat]? = some r then .data (d ^^^ put 128 u.mask (8 * (l.addr.toNat % 16))) t else res
        | x => x
      finishLoad e l.op l.mode l.opnd l.addr flip m
  | none => finishLoad e l.op l.mode l.opnd l.addr (fun _ => res) m

/-- What a lane's buffer answers a load (R68). -/
def laneHit (m : Mach) (e : BitVec 7) (a : Addr) (size : Nat) (cap : Bool) (r : BitVec 2) : SbHit :=
  sbLookup (tileOf e) a size cap (rep m (tileOf e) r).sb

/-- The number of older entries that a load of the leading lane waits for (R68). -/
def waitCount (m : Mach) (e : BitVec 7) (a : Addr) (size : Nat) (cap : Bool) : Nat :=
  match lanesOf m e with
  | r :: _ => (match laneHit m e a size cap r with
    | .wait n => n
    | _ => 0)
  | [] => 0

/-- The leading lane's buffer forwards a load (R68). -/
def forwards (m : Mach) (e : BitVec 7) (a : Addr) (size : Nat) (cap : Bool) : Bool :=
  match lanesOf m e with
  | r :: _ => (match laneHit m e a size cap r with
    | .forward _ => true
    | _ => false)
  | [] => false

/-- What a lane's own buffer forwards; `res` is what memory gives. -/
def forwarded (m : Mach) (e : BitVec 7) (a : Addr) (size : Nat) (cap : Bool) (res : LoadResult) (r : BitVec 2) : LoadResult :=
  match laneHit m e a size cap r with
  | .forward y => .data y.data (y.tag && cap)
  | _ => res

/-- The latest instruction took a value from the distribution path, where the engine goes on with its slot (R187, R193). -/
def feed (e : BitVec 7) (m : Mach) : Mach :=
  modEng e (fun g => { g with fed := match g.act with
    | .run | .string _ => true
    | _ => g.fed }) m

/-- A load request that all lanes made (R56, R68): forwarded from the store buffer, read from the tile's own SRAM, or
sent to the fabric, after older stores that overlap it. -/
def startLoad (e : BitVec 7) (op : LdOp) (mode : BitVec 4) (opnd : BitVec 20) (a : Addr) (m : Mach) : Mach :=
  let (go, m) := acceptN e (waitCount m e a op.size op.isCap) m
  if !go || !atBoundary m e then m
  else if forwards m e a op.size op.isCap then
    finishLoad e op mode opnd a (forwarded m e a op.size op.isCap (.fails (excData 0x05 a))) m
  else if region a = .tileAlias then
    let (res, m) := loadAccess (engineWho m e) op.size op.isCap a 0#128 m
    feed e (finishLoad e op mode opnd a (fun _ => res) m)
  else modEng e (fun g => { g with act := .load ⟨op, mode, opnd, a⟩ }) m

/-- A free value is drawn: the counter that the free values are applied to moves on. DESIGN CHOICE: log entry 5. -/
def drawFree (m : Mach) : Nat × Mach := (m.free, { m with free := m.free + 1 })

/-- Everything due on an engine before its next event: an outstanding load, a loaded value, a long operation at its
distance, the end of a repeat iteration, a forced bisque, the bisque of a slot about to start.
DESIGN CHOICE: log entry 1. DEDUCED: log entry 9. -/
def settle (e : BitVec 7) (m : Mach) : Mach :=
  let m := match (m.engines.get e).act with
    | .load l => let (k, m) := drawFree m; respond e l (Config.hostData k) none m
    | _ => m
  let m := settleLanes e m
  let m := if forcedOwed m e && canRun m e then forcedBisque e m else m
  if (m.engines.get e).act = .bisque && !(m.engines.get e).halted then
    let (go, m) := drain e m
    if go then pumped e m else m
  else m

/-- A string instruction begins (R98): RSTATE names it; its steps follow, and count as the instructions.
DEDUCED: log entry 15. -/
def startString (e : BitVec 7) (k : BitVec 8) (m : Mach) : Mach :=
  modEng e (fun g => { g with act := .string k })
    (mapLanes e (fun r => { r with arch := { r.arch with rstate := put 64 k 0 ||| at_ true 8 } }) m)

/-- A store needs room in the buffer: when it is full and does not merge, the oldest entry is accepted first (R66).
DEDUCED: log entry 13. -/
def makeRoom (e : BitVec 7) (outs : List (BitVec 2 × Fx)) (m : Mach) : Bool × Mach :=
  let full := outs.any fun x =>
    let sb := (rep m (tileOf e) x.1).sb
    decide (8 ≤ sb.length) && x.2.stores.any fun q => !merges sb (alignG q.addr)
  if full then acceptOne e m else (true, m)

/-- The accesses of an instruction that the data ranges watch (R478). -/
def Fx.accesses (f : Fx) : List DAcc :=
  (f.stores.map fun q => ⟨q.addr, q.size, true⟩) ++
    (f.trans.map fun t => ⟨t.addr, t.size.toNat, decide (t.kind ≠ .load ∧ t.kind ≠ .capLoad)⟩) ++
    (match f.ev with
      | .load op a => [⟨a, op.size, false⟩]
      | .sc a _ => [⟨a, 8, true⟩]
      | .capture a n _ => [⟨a, n, true⟩]
      | _ => [])

/-- A step ends at the end of an iteration that is due (R474). DEDUCED: log entry 15. -/
def stepIteration (e : BitVec 7) (m : Mach) : Bool :=
  (m.dbg.engs.get e).step && (lanesOf m e).any fun r => (rep m (tileOf e) r).repEnd

/-- The voted outcomes of an instruction are carried out, with what the instruction asks of its engine. -/
def takeEffect (e : BitVec 7) (mode : BitVec 4) (opnd : BitVec 20) (outs : List (BitVec 2 × Fx)) (m : Mach) : Mach :=
  match outs with
  | [] => m
  | (_, f) :: _ =>
    match f.ev with
    | .load op a => startLoad e op mode opnd a m
    | .string k => startString e k m
    | .sc _ _ =>
      let (go, m) := drain e m
      if go && atBoundary m e then carryOutFx e outs m else m
    | _ => carryOutFx e outs m

/-- What an instruction waits for before its own effect: nothing, an empty store buffer (FENCE), or the entries that overlap
what its hardware reads (R68). -/
inductive Before where
  | nothing
  | empty
  | reads (f : Ctx → Arch → List Addr)

/-- The entries that overlap what an instruction's hardware reads are accepted (R68). -/
def acceptOverlaps (e : BitVec 7) (f : Ctx → Arch → List Addr) : Nat → Mach → Bool × Mach
  | 0, m => (true, m)
  | n + 1, m =>
    match lanesOf m e with
    | [] => (true, m)
    | r :: _ =>
      let k := (f (Ctx.of m e r) (rep m (tileOf e) r).arch).foldl (fun k a => max k (waitCount m e a 16 true)) 0
      if k = 0 then (true, m)
      else
        let (go, m) := acceptN e k m
        if go then acceptOverlaps e f n m else (false, m)

def Before.wait (b : Before) (e : BitVec 7) (m : Mach) : Bool × Mach :=
  match b with
  | .nothing => (true, m)
  | .empty => drain e m
  | .reads f => acceptOverlaps e f 8 m

/-- The exception that the fetch of the word at PCC met, with the line that holds it let go, so that it is fetched anew. -/
def takeWordFault (e : BitVec 7) (m : Mach) : Option Exc × Mach :=
  match leader m e with
  | none => (none, m)
  | some l =>
    match wordFault m e l.arch.pcc.cursor with
    | none => (none, m)
    | some x => (some x, modEng e (fun g => { g with lineBuf := g.lineBuf.filter fun y => y.line ≠ fld l.arch.pcc.cursor 6 30 }) m)

/-- ONE INSTRUCTION on an engine at a boundary: each lane runs it, exceptions are entered, the outcomes are voted and
take effect. When the engine is not at an instruction boundary, there is no such event and nothing changes.
DESIGN CHOICE: log entry 1. DESIGN CHOICE: log entry 7. -/
def instr (s : InstrSpec) (e : BitVec 7) (mode : BitVec 4) (opnd : BitVec 20) (b : Before)
    (sem : Ctx → Arch → Bool → LaneOut) (m : Mach) : Mach :=
  if !canRun m e || stopping m e then m
  else
    let iter := stepIteration e m
    let m := settle e m
    if !atBoundary m e || stopping m e then m
    else if iter then stepDone e m
    else
      let (stop, m) := insHits e m
      let (go, m) := if stop then (false, m) else b.wait e m
      if !go || !atBoundary m e then m
      else
        let (word, m) := takeWordFault e m
        let before := (leader m e).map Replica.arch
        match resolve e ((lanesOf m e).map fun r =>
            (r, laneOut s mode opnd word sem (Ctx.of m e r) (rep m (tileOf e) r).arch)) m with
        | (none, m) => m
        | (some outs, m) =>
          let (go, m) := makeRoom e outs m
          if !go then m
          else
            match voteFx e (outs.filter fun x => x.1 ∈ lanesOf m e) m with
            | (none, m) => m
            | (some l, m) =>
              let m := match before, l with
                | some a, (_, f) :: _ => dataHits e a f.accesses m
                | _, _ => m
              pumped e (takeEffect e mode opnd l m)

/-- An effect from a check that may fail. -/
def toOut : Except Exc Fx → LaneOut
  | .error x => .exc x
  | .ok f => .ok f

/-- An instruction whose effect needs neither the module nor the pending load of the instruction before. -/
def instrA (s : InstrSpec) (e : BitVec 7) (mode : BitVec 4) (opnd : BitVec 20) (f : Arch → Arch) (m : Mach) : Mach :=
  instr s e mode opnd .nothing (fun _ a _ => .ok (fx (f a))) m

/-- An instruction whose effect may raise an exception. -/
def instrE (s : InstrSpec) (e : BitVec 7) (mode : BitVec 4) (opnd : BitVec 20) (f : Ctx → Arch → Except Exc Fx)
    (m : Mach) : Mach :=
  instr s e mode opnd .nothing (fun c a _ => toOut (f c a)) m

/-- An instruction with a value operand (class V). -/
def instrV (k : LdOp) (e : BitVec 7) (mode : BitVec 4) (opnd : BitVec 20) (noRep : Bool) (m : Mach) : Mach :=
  instrE ⟨.v, noRep, fun _ => none, 3⟩ e mode opnd (valueSem k mode opnd) m

/-! ### The exchange of EXCHANGE_TRIPLE (R189 to R191) -/

/-- A number put into a sorted list. -/
def insertNat (x : Nat) : List Nat → List Nat
  | [] => [x]
  | y :: r => if x ≤ y then x :: y :: r else y :: insertNat x r

/-- The lower median of the lanes' values (R189). -/
def lowerMedian (l : List Nat) : Nat :=
  let s := l.foldr insertNat []
  s.getD ((s.length - 1) / 2) 0

/-- The value that an engine's lanes act on, of the values that they take themselves: in EXCHANGE_TRIPLE their lower median,
elsewhere the leading lane's, which is produced once for the engine (R187, R189). -/
def agreed (m : Mach) (e : BitVec 7) (own : Replica → Nat) : Nat :=
  let l := (lanesOf m e).map fun r => own (rep m (tileOf e) r)
  if liveCode m e = 4#3 then lowerMedian l else l.headD 0

/-- Parity errors on the path of the agreement registers, by lane (R190): with three lanes, one of them is the mismatch of the
lane whose value was carried (row 1), and more than one name different minorities (row 3); with two lanes any is a pair
mismatch (row 4). The first component says that the engine goes on. -/
def agrParity (e : BitVec 7) (p : BitVec 3) (m : Mach) : Bool × Mach :=
  let l := lanesOf m e
  let bad := l.filter fun r => bit p (rep m (tileOf e) r).lane.toNat
  if liveCode m e ≠ 4#3 ∨ bad.isEmpty = true then (true, m)
  else
    match l.length, bad with
    | 3, [r] => react e (.minority r false) ⟨false, false, misMoment m e, [], none⟩ m
    | _, _ => react e .split ⟨false, false, misMoment m e, [], none⟩ m

/-- What strikes a value that reaches the lanes over the distribution path, or is exchanged by them (R190, R193): the second
component is the module after the reaction, the first says that the engine goes on. -/
def struck (e : BitVec 7) (x : Exchange) (m : Mach) : Bool × Mach :=
  if x.parity && decide (1 < (lanesOf m e).length) then (false, pathParity e m) else agrParity e x.agr m

/-! ### Interrupts (R161, R177 to R180, R191) -/

/-- The vector that a lane offers: the lowest that it could take, or 0x3F. `ignoreIb` stands in for IB = 0. -/
def offer (m : Mach) (e : BitVec 7) (ignoreIb : Bool) (r : Replica) : Nat :=
  ((eligible m e r.arch.comp (r.arch.ib && !ignoreIb) r.arch.exl r.arch.dfl).getD 0x3F#6).toNat

/-- An interrupt that an engine could take now (R178, R191). -/
def takeable (m : Mach) (e : BitVec 7) (ignoreIb : Bool) : Option (BitVec 6) :=
  let v := agreed m e (offer m e ignoreIb)
  if (lanesOf m e).isEmpty || decide (v = 0x3F) then none else some (BitVec.ofNat 6 v)

/-- An engine at a point at which it may take an interrupt. -/
def interruptible (m : Mach) (e : BitVec 7) : Bool :=
  let here := match (m.engines.get e).act with
    | .run => true
    | .string _ => true
    | _ => false
  here && canRun m e && !stopping m e && !(m.dbg.engs.get e).step && exchangeAt m e id

/-- An interrupt of a compartment goes to the lowest-numbered engine that qualifies for it (R177): whether a lower one than
`e` does. DEDUCED: log entry 17. -/
def lowerTakes (m : Mach) (e : BitVec 7) (v : BitVec 6) : Bool :=
  v ∈ [0x11#6, 0x12#6, 0x13#6, 0x15#6] && (allEngines.take e.toNat).any fun x =>
    validEngine m x && interruptible m x && decide ((leader m x).map (·.arch.comp) = (leader m e).map (·.arch.comp))
      && decide (takeable m x false = some v)

/-- TAKING AN INTERRUPT at a boundary (R166, R167, R176): every lane enters the vector, and its pending state goes. -/
def takeInterrupt (e : BitVec 7) (vec : BitVec 6) (m : Mach) : Mach :=
  let i := asyncInfo m e vec 0#8
  let outs := (lanesOf m e).map fun r =>
    let a := (rep m (tileOf e) r).arch
    (r, match enterThrough (Ctx.of m e r) a i a.tsbr false with
      | some f => f
      | none => enterDouble (Ctx.of m e r) a vec 0#36)
  let comp := match leader m e with
    | some l => l.arch.comp
    | none => 0#10
  let m := modEng e (fun g => { g with act := .run }) m
  commitFx e outs (takePending e comp vec m)

end Sys2Proof.Machine
end

