-- ==== Sys2Proof/Machine/Arith.lean ====
section
/-! DEFINITION. Integer and binary64 arithmetic, compares, shifts, long operations and conditional results (R86, R91 to R95). -/

namespace Sys2Proof.Machine

open Sys2Proof

/-- ADD (R86): A := A + op with flags. -/
def execAdd (e : BitVec 7) (mode : BitVec 4) (opnd : BitVec 20) (s : State) : Res :=
  s.on (instrV .add e mode opnd false)

/-- ADC (R86): A := A + op + C with flags. -/
def execAdc (e : BitVec 7) (mode : BitVec 4) (opnd : BitVec 20) (s : State) : Res :=
  s.on (instrV .adc e mode opnd false)

/-- SUB (R86): A := A - op with flags. -/
def execSub (e : BitVec 7) (mode : BitVec 4) (opnd : BitVec 20) (s : State) : Res :=
  s.on (instrV .sub e mode opnd false)

/-- SBC (R86): A := A - op - C with flags. -/
def execSbc (e : BitVec 7) (mode : BitVec 4) (opnd : BitVec 20) (s : State) : Res :=
  s.on (instrV .sbc e mode opnd false)

/-- RSB (R86): A := op - A with flags. -/
def execRsb (e : BitVec 7) (mode : BitVec 4) (opnd : BitVec 20) (s : State) : Res :=
  s.on (instrV .rsb e mode opnd false)

/-- AND (R86): A := A AND op. -/
def execAnd (e : BitVec 7) (mode : BitVec 4) (opnd : BitVec 20) (s : State) : Res :=
  s.on (instrV .and_ e mode opnd false)

/-- OR (R86): A := A OR op. -/
def execOr (e : BitVec 7) (mode : BitVec 4) (opnd : BitVec 20) (s : State) : Res :=
  s.on (instrV .or_ e mode opnd false)

/-- XOR (R86): A := A XOR op. -/
def execXor (e : BitVec 7) (mode : BitVec 4) (opnd : BitVec 20) (s : State) : Res :=
  s.on (instrV .xor e mode opnd false)

/-- ANDN (R86): A := A AND NOT op. -/
def execAndn (e : BitVec 7) (mode : BitVec 4) (opnd : BitVec 20) (s : State) : Res :=
  s.on (instrV .andn e mode opnd false)

/-- CMP (R86): Sets flags of A - op. -/
def execCmp (e : BitVec 7) (mode : BitVec 4) (opnd : BitVec 20) (s : State) : Res :=
  s.on (instrV .cmp e mode opnd false)

/-- TST (R86): Sets flags of A AND op. -/
def execTst (e : BitVec 7) (mode : BitVec 4) (opnd : BitVec 20) (s : State) : Res :=
  s.on (instrV .tst e mode opnd false)

/-- SHL (R86): Shifts A left. -/
def execShl (e : BitVec 7) (mode : BitVec 4) (opnd : BitVec 20) (s : State) : Res :=
  s.on (instrV .shl e mode opnd false)

/-- SHR (R86): Shifts A right logically. -/
def execShr (e : BitVec 7) (mode : BitVec 4) (opnd : BitVec 20) (s : State) : Res :=
  s.on (instrV .shr e mode opnd false)

/-- SAR (R86): Shifts A right arithmetically. -/
def execSar (e : BitVec 7) (mode : BitVec 4) (opnd : BitVec 20) (s : State) : Res :=
  s.on (instrV .sar e mode opnd false)

/-- ROL (R86): Rotates A left. -/
def execRol (e : BitVec 7) (mode : BitVec 4) (opnd : BitVec 20) (s : State) : Res :=
  s.on (instrV .rol e mode opnd false)

/-- ROR (R86): Rotates A right. -/
def execRor (e : BitVec 7) (mode : BitVec 4) (opnd : BitVec 20) (s : State) : Res :=
  s.on (instrV .ror e mode opnd false)

/-- NEG (R86): A := 0 - A. -/
def execNeg (e : BitVec 7) (mode : BitVec 4) (opnd : BitVec 20) (s : State) : Res :=
  s.on (instrA (plain .n) e mode opnd fun a => resZNCV a (subB 0#64 a.a false))

/-- NOT (R86): A := NOT A. -/
def execNot (e : BitVec 7) (mode : BitVec 4) (opnd : BitVec 20) (s : State) : Res :=
  s.on (instrA (plain .n) e mode opnd fun a => resZN a (~~~a.a))

/-- ABS (R86): A := |A|, setting V for the most negative value. -/
def execAbs (e : BitVec 7) (mode : BitVec 4) (opnd : BitVec 20) (s : State) : Res :=
  s.on (instrA (plain .n) e mode opnd absSem)

/-- CLZ (R86): A := leading zero count. -/
def execClz (e : BitVec 7) (mode : BitVec 4) (opnd : BitVec 20) (s : State) : Res :=
  s.on (instrA (plain .n) e mode opnd fun a => countSem (clz a.a 64) a)

/-- CTZ (R86): A := trailing zero count. -/
def execCtz (e : BitVec 7) (mode : BitVec 4) (opnd : BitVec 20) (s : State) : Res :=
  s.on (instrA (plain .n) e mode opnd fun a => countSem (ctz a.a 0 64) a)

/-- POPC_BITS (R86): Opcode 0x39: A := number of one bits of A. -/
def execPopcBits (e : BitVec 7) (mode : BitVec 4) (opnd : BitVec 20) (s : State) : Res :=
  s.on (instrA (plain .n) e mode opnd fun a => countSem (popcount a.a 64) a)

/-- BSWAP (R86): Reverses the 8 bytes of A. -/
def execBswap (e : BitVec 7) (mode : BitVec 4) (opnd : BitVec 20) (s : State) : Res :=
  s.on (instrA (plain .n) e mode opnd fun a => { a with a := bswap a.a })

/-- SEXT (R86): Sign-extends A from bit 7, 15 or 31. -/
def execSext (e : BitVec 7) (mode : BitVec 4) (opnd : BitVec 20) (s : State) : Res :=
  s.on (instrA ⟨.i, false, fun o => if 2 < o.toNat then some (excIllegal 0x04) else none, 3⟩ e mode opnd (sextSem opnd))

/-- MIN (R86): A := signed minimum of A and op. -/
def execMin (e : BitVec 7) (mode : BitVec 4) (opnd : BitVec 20) (s : State) : Res :=
  s.on (instrV .min_ e mode opnd false)

/-- MAX (R86): A := signed maximum of A and op. -/
def execMax (e : BitVec 7) (mode : BitVec 4) (opnd : BitVec 20) (s : State) : Res :=
  s.on (instrV .max_ e mode opnd false)

/-- MINU (R86): A := unsigned minimum. -/
def execMinu (e : BitVec 7) (mode : BitVec 4) (opnd : BitVec 20) (s : State) : Res :=
  s.on (instrV .minu e mode opnd false)

/-- MAXU (R86): A := unsigned maximum. -/
def execMaxu (e : BitVec 7) (mode : BitVec 4) (opnd : BitVec 20) (s : State) : Res :=
  s.on (instrV .maxu e mode opnd false)

/-- MUL (R73): Issues a signed 128-bit multiply into E:M. -/
def execMul (e : BitVec 7) (mode : BitVec 4) (opnd : BitVec 20) (s : State) : Res :=
  s.on (instrV .mul e mode opnd false)

/-- MULU (R73): Issues an unsigned multiply into E:M. -/
def execMulu (e : BitVec 7) (mode : BitVec 4) (opnd : BitVec 20) (s : State) : Res :=
  s.on (instrV .mulu e mode opnd false)

/-- MAC (R73): Issues a signed multiply-accumulate onto E:M. -/
def execMac (e : BitVec 7) (mode : BitVec 4) (opnd : BitVec 20) (s : State) : Res :=
  s.on (instrV .mac e mode opnd false)

/-- MACU (R73): Issues an unsigned multiply-accumulate onto E:M. -/
def execMacu (e : BitVec 7) (mode : BitVec 4) (opnd : BitVec 20) (s : State) : Res :=
  s.on (instrV .macu e mode opnd false)

/-- DIV (R93): Issues a signed divide giving quotient in M and remainder in E. -/
def execDiv (e : BitVec 7) (mode : BitVec 4) (opnd : BitVec 20) (s : State) : Res :=
  s.on (instrV .div e mode opnd false)

/-- DIVU (R93): Issues an unsigned divide. -/
def execDivu (e : BitVec 7) (mode : BitVec 4) (opnd : BitVec 20) (s : State) : Res :=
  s.on (instrV .divu e mode opnd false)

/-- REM (R93): Issues a signed remainder into M. -/
def execRem (e : BitVec 7) (mode : BitVec 4) (opnd : BitVec 20) (s : State) : Res :=
  s.on (instrV .rem e mode opnd false)

/-- REMU (R93): Issues an unsigned remainder into M. -/
def execRemu (e : BitVec 7) (mode : BitVec 4) (opnd : BitVec 20) (s : State) : Res :=
  s.on (instrV .remu e mode opnd false)

/-- FADD (R94): Issues a binary64 addition into M. -/
def execFadd (e : BitVec 7) (mode : BitVec 4) (opnd : BitVec 20) (s : State) : Res :=
  s.on (instrV .fadd e mode opnd false)

/-- FSUB (R94): Issues a binary64 subtraction into M. -/
def execFsub (e : BitVec 7) (mode : BitVec 4) (opnd : BitVec 20) (s : State) : Res :=
  s.on (instrV .fsub e mode opnd false)

/-- FMUL (R94): Issues a binary64 multiplication into M. -/
def execFmul (e : BitVec 7) (mode : BitVec 4) (opnd : BitVec 20) (s : State) : Res :=
  s.on (instrV .fmul e mode opnd false)

/-- FDIV (R94): Issues a binary64 division into M. -/
def execFdiv (e : BitVec 7) (mode : BitVec 4) (opnd : BitVec 20) (s : State) : Res :=
  s.on (instrV .fdiv e mode opnd false)

/-- FSQRT (R94): Issues a binary64 square root of A into M. -/
def execFsqrt (e : BitVec 7) (mode : BitVec 4) (opnd : BitVec 20) (s : State) : Res :=
  s.on (instrA (plain .n) e mode opnd (issue 0x54 28 true 0#64))

/-- FCVTI (R95): Issues a conversion of binary64 A to int64 with saturation. -/
def execFcvti (e : BitVec 7) (mode : BitVec 4) (opnd : BitVec 20) (s : State) : Res :=
  s.on (instrA (plain .n) e mode opnd (issue 0x55 6 true 0#64))

/-- FCVTF (R86): Issues a conversion of int64 A to binary64. -/
def execFcvtf (e : BitVec 7) (mode : BitVec 4) (opnd : BitVec 20) (s : State) : Res :=
  s.on (instrA (plain .n) e mode opnd (issue 0x56 6 true 0#64))

/-- FCVTS (R86): Issues a conversion of A to binary32. -/
def execFcvts (e : BitVec 7) (mode : BitVec 4) (opnd : BitVec 20) (s : State) : Res :=
  s.on (instrA (plain .n) e mode opnd (issue 0x57 6 true 0#64))

/-- FCVTD (R86): Issues a conversion of binary32 A to binary64. -/
def execFcvtd (e : BitVec 7) (mode : BitVec 4) (opnd : BitVec 20) (s : State) : Res :=
  s.on (instrA (plain .n) e mode opnd (issue 0x58 6 true 0#64))

/-- FCMP (R86): Compares binary64 A with op and sets Z, N and U. -/
def execFcmp (e : BitVec 7) (mode : BitVec 4) (opnd : BitVec 20) (s : State) : Res :=
  s.on (instrV .fcmp e mode opnd false)

/-- FNEG (R86): Inverts A[63]. -/
def execFneg (e : BitVec 7) (mode : BitVec 4) (opnd : BitVec 20) (s : State) : Res :=
  s.on (instrA (plain .n) e mode opnd fun a => { a with a := a.a ^^^ 0x8000_0000_0000_0000#64 })

/-- FABS (R86): Clears A[63]. -/
def execFabs (e : BitVec 7) (mode : BitVec 4) (opnd : BitVec 20) (s : State) : Res :=
  s.on (instrA (plain .n) e mode opnd fun a => { a with a := a.a &&& 0x7FFF_FFFF_FFFF_FFFF#64 })

/-- FMIN (R86): A := binary64 minimum. -/
def execFmin (e : BitVec 7) (mode : BitVec 4) (opnd : BitVec 20) (s : State) : Res :=
  s.on (instrV .fmin e mode opnd false)

/-- FMAX (R86): A := binary64 maximum. -/
def execFmax (e : BitVec 7) (mode : BitVec 4) (opnd : BitVec 20) (s : State) : Res :=
  s.on (instrV .fmax e mode opnd false)

/-- FCLASS (R86): A := class bit of binary64 A. -/
def execFclass (e : BitVec 7) (mode : BitVec 4) (opnd : BitVec 20) (s : State) : Res :=
  s.on (instrA (plain .n) e mode opnd fun a => { a with a := BitVec.ofNat 64 (2 ^ classF binary64 (f64 a.a)) })

/-- SETC (R86): A := 1 if the condition holds, else 0. -/
def execSetc (e : BitVec 7) (mode : BitVec 4) (opnd : BitVec 20) (s : State) : Res :=
  s.on (instrA ⟨.i, false, fun o => (rawZero 4 16 o).or (if fld o 0 4 = 0xF#4 then some (excIllegal 0x04) else none), 3⟩ e mode opnd
    fun a => { a with a := if cond (fld opnd 0 4) a.f then 1#64 else 0#64 })

/-- SELC (R86): A := A if the condition holds, else E. -/
def execSelc (e : BitVec 7) (mode : BitVec 4) (opnd : BitVec 20) (s : State) : Res :=
  s.on (instrA ⟨.i, false, fun o => (rawZero 4 16 o).or (if fld o 0 4 = 0xF#4 then some (excIllegal 0x04) else none), 3⟩ e mode opnd
    fun a => { a with a := if cond (fld opnd 0 4) a.f then a.a else a.e })

end Sys2Proof.Machine
end

