-- ==== Sys2Proof/Machine/Copier.lean ====
section
/-! DEFINITION. The slot copier (R26 to R28) and its windows in P0 (R27, R32). -/

namespace Sys2Proof.Machine

open Sys2Proof

/-- Modes in which the tilth table is read (R40). -/
def slotsRun (k : Mode) : Bool := decide (k = .commission) || decide (k = .operate)

/-! ### The slot copier (R26 to R28) -/

def bankBase (b : Bool) : Addr := if b then 0x40F2_0000#36 else 0x40F0_0000#36

/-- Entry `p` of an engine's slot list in a bank (R25). -/
def slotAddr (b : Bool) (e : BitVec 7) (p : BitVec 6) : Addr := bankBase b + put 36 e 10 + put 36 p 4

def slotOfGran (p : BitVec 6) (d : Gran) : Slot :=
  { pos := p, comp := fld d 0 10, gate := fld d 16 16, budget := fld d 32 20, span := bit d 65, notify := bit d 66
    arg := fld d 96 32 }

/-- C − 10 µs of the tick, in µs (R20, R28): C as the lock of the source gives it when the entry is copied.
DESIGN CHOICE: log entry 24. -/
def maxBudget (t : TickSt) : Nat := t.period.toNat - (if t.extLock then 37 else 35)

/-- A VALID entry is malformed (R28). -/
def slotMalformed (t : TickSt) (d : Gran) : Bool :=
  decide (fld d 10 6 ≠ 0#6) || decide (fld d 52 12 ≠ 0#12) || decide (fld d 67 13 ≠ 0#13) || decide (fld d 80 16 ≠ 0#16)
    || decide (fld d 32 20 = 0#20) || decide (maxBudget t < (fld d 32 20 : BitVec 20).toNat)

/-- A malformed entry is counted and reported. -/
def countMalformed (e : BitVec 7) (p : BitVec 6) (d : Gran) (m : Mach) : Mach :=
  report 0x0102 (argEC e (fld d 0 10) p ||| at_ m.tick.active 32)
    (bump32 (statusBase e + 0x48#36) (modTick (fun t => { t with malformed := true }) m))

/-- The granules of an engine's list as its window finds them (R32). -/
def windowCells (e : BitVec 7) (m : Mach) : List Host.Cell :=
  m.mem.cells.filter fun x => decide (x.1 / 1024 = (slotAddr m.tick.active e 0#6).toNat / 1024)

/-- An entry as the copier sees it: as it stands at the end of the window, or, where it was stored to within the window, the
whole old entry or the whole new one (R32). DESIGN CHOICE: log entry 24. -/
def copyEntry (e : BitVec 7) (p : BitVec 6) (m : Mach) : GranRead × Mach :=
  let g := granOf (slotAddr m.tick.active e p)
  let (r, m) := readGran Acc.other g m
  match m.tick.window with
  | none => (r, m)
  | some l =>
    let old := (Memory.mk l [] [] []).data g
    (if decide (old = m.mem.data g) || Config.copySees m.tick.count.toNat g then r else { r with data := old, bad := none }, m)

/-- The entries of an engine's list from position `64 - n` on: those to run, oldest first. -/
def copyFrom (e : BitVec 7) : Nat → Mach → List Slot × Mach
  | 0, m => ([], m)
  | n + 1, m =>
    let p : BitVec 6 := BitVec.ofNat 6 (63 - n)
    let (r, m) := copyEntry e p m
    let d := r.data
    if r.bad.isSome then copyFrom e n (countMalformed e p d m)
    else if !bit d 64 then ([], m)
    else if slotMalformed m.tick d then copyFrom e n (countMalformed e p d m)
    else
      let q := copyFrom e n m
      (slotOfGran p d :: q.1, q.2)

/-- An engine's list is copied (R27); that of an engine halted or waiting with DEFER stays (R472, R473).
DEDUCED: log entry 55. -/
def copyList (e : BitVec 7) (m : Mach) : Mach :=
  if !validEngine m e || (m.engines.get e).halted then m
  else
    let p := copyFrom e 64 m
    modEng e (fun g => { g with todo := p.1 }) p.2

/-! ### The windows -/

/-- The first channel clock, counted from the edge, of the copy window of engine `n`, which begins `n` × 75 ns after the edge, and
at which the window of the engine before it is over (R27). -/
def copyAt (n : Nat) : Nat := (768 * n + 99) / 100

/-- A window opens, or the open one is over and the list is taken (R27, R32). -/
def copyStep (m : Mach) : Mach :=
  let n := m.tick.copied
  let e := BitVec.ofNat 7 n
  match m.tick.window with
  | none => modTick (fun t => { t with window := some (windowCells e m) }) m
  | some _ => modTick (fun t => { t with copied := n + 1, window := none }) (copyList e m)

/-- The windows that open or end by clock `t`, in engine-number order (R27, R32). -/
def copyUntil (t : Nat) : Nat → Mach → Mach
  | 0, m => m
  | fuel + 1, m =>
    let n := m.tick.copied
    let next := if m.tick.window.isSome then n + 1 else n
    if decide (n < 128) && slotsRun m.mode.mode && decide (m.tick.edgeAt + copyAt next ≤ t) then copyUntil t fuel (copyStep m)
    else m

/-- The copier carries on to clock `t`. -/
def copier (t : Nat) (m : Mach) : Mach := if m.tick.copied < 128 then copyUntil t 256 m else m

end Sys2Proof.Machine
end

