-- ==== Sys2Proof/Machine/Clock.lean ====
section
/-! DEFINITION. The passing of time, in channel clocks of 102.4 MHz. -/

namespace Sys2Proof.Machine

open Sys2Proof

/-- Whole channel clocks in a number of microseconds: 1 µs is 102.4 clocks (R12). A moment between two clocks, such as C or
the end of a budget, is taken at the earlier. DESIGN CHOICE: log entry 10. -/
def usClk (us : Nat) : Nat := us * 512 / 5

/-- Channel clocks in a second. DESIGN CHOICE: log entry 10. -/
def secClk : Nat := 102_400_000

/-- The RTC after `n` channel clocks: it advances by 2 in each period of the backup oscillator, 3125 channel clocks, and
takes a value to load at the first oscillator edge (R492); it stands while the oscillator is lost (R448). -/
def rtcAdvance (lost : Bool) (n : Nat) (b : Backup) : Backup :=
  if lost then { b with valid := false }
  else
    let t := b.rtcRem + n
    let k := t / 3125
    if k = 0 then { b with rtcRem := t }
    else match b.rtcLoad with
      | some v => { b with
        rtc := v + BitVec.ofNat 64 (2 * (k - 1)), rtcLoad := none, valid := true, almLast := none, rtcRem := t % 3125 }
      | none => { b with rtc := b.rtc + BitVec.ofNat 64 (2 * k), rtcRem := t % 3125 }

/-- The backup domain is fed: from MAIN, or from the cell in DORMANT (R489).
DESIGN CHOICE: log entry 32. DEDUCED: log entry 54. -/
def backupFed (m : Mach) : Bool := decide (m.mode.mode ≠ .dormant) || m.bkp.cell

/-- While an engine is halted its budget does not run, and the module watchdog does not count (R472). -/
def haltedTime (n : Nat) (m : Mach) : Mach :=
  if m.engines.toList.any Engine.halted then
    { m with
      engines := m.engines.map fun g =>
        if g.halted then { g with cur := g.cur.map fun r => { r with start := r.start + n, bisqueAt := r.bisqueAt + n } } else g
      watch := { m.watch with mAt := m.watch.mAt + n } }
  else m

/-- The moment C of the current tick (R20, R22): P − 25 µs, or P − 27 µs while an external source is followed.
DEDUCED: log entry 59. -/
def closeAt (t : TickSt) : Nat := t.edgeAt + usClk (t.period.toNat - (if t.extLock then 27 else 25))

/-- The module's clock moves to `t`, if that lies ahead: the copier reads the lists whose windows come, timers count and
ramps run, requests on HART lines end, the RTC advances. DESIGN CHOICE: log entry 2. DEDUCED: log entry 9. DESIGN CHOICE: log entry 10. -/
def advanceTo (t : Nat) (m : Mach) : Mach :=
  if m.clk < t then
    let a := m.clk
    let m := copier t m
    let m := haltedTime (t - a) (if backupFed m then { m with bkp := rtcAdvance m.watch.bkpLost (t - a) m.bkp } else m)
    let m := allChans.foldl (fun m c => advanceChan a t c m) m
    allChans.foldl (fun m c => hartWaits c m) { m with clk := t }
  else m

end Sys2Proof.Machine
end

