-- ==== Sys2Proof/Machine/Tiles.lean ====
section
/-! DEFINITION. The tile registers (R205), regrouping requests (R185), BIST passes (R203, R204), sweeps (R194), and the
compare of spans (R227, R228). -/

namespace Sys2Proof.Machine

open Sys2Proof

/-! ### Accesses by row -/

/-- A refused load of a replica raises the data-access exception with cause 0x03 on its engine (R4). -/
def refusedLoad (w : Who) (a : Addr) (m : Mach) : Mach :=
  if w.master ≠ .replica ∨ canRun m w.eng = false then m
  else
    let m := settle w.eng m
    if atBoundary m w.eng then runOuts w.eng ((lanesOf m w.eng).map fun r => (r, .exc (excData 0x03 a))) m else m

/-- A read leaves its value on the bus; a refused one leaves none, and raises the exception of R4.
DESIGN CHOICE: log entry 32. -/
def onBus (w : Who) (a : Addr) (r : Option W32 × Mach) : Mach :=
  let m := { r.2 with bus := r.1.map fun v => v.setWidth 128 }
  if r.1.isNone then refusedLoad w a m else m

/-- A write that its register refuses: the dropped store of a replica gives a notice of cause 0x3 (R4, R70).
DEDUCED: log entry 14. -/
def orNotice (w : Who) (a : Addr) (r : Bool × Mach) : Mach :=
  if r.1 then r.2
  else if w.master = .replica then
    let y : SbEntry := ⟨a, 0#128, 0#16, false, false, false, false, none, w.comp, w.ring, w.pc, w.tick, w.pos, false⟩
    notice w.eng y 3#4 r.2
  else r.2

def tileAddr (t : BitVec 5) : Addr := 0x8001_0000#36 + put 36 t 10

/-- TILE_GROUP_COMMIT (R185): A write of 1 to TILE_GROUP.COMMIT requests the staged code for the next edge or is rejected. -/
def execTileGroupCommit (w : Who) (t : BitVec 5) (v : BitVec 32) (s : State) : Res :=
  s.on fun m => if powered m then orNotice w (tileAddr t) (tileGroupWrite w t (v ||| 8#32) m) else m

/-- TILE_STAT_READ (R205): A read of TILE_STAT returns status and clears MISM and DROP; a debug session's leaves no effect (R465). -/
def execTileStatRead (w : Who) (t : BitVec 5) (s : State) : Res :=
  s.on fun m =>
    if !powered m then m
    else if w.master = .debug then onBus w (tileAddr t + 4#36) ((tileStatRead t m).1, m) else onBus w (tileAddr t + 4#36) (tileStatRead t m)

/-! ### BIST passes (R202 to R204) -/

/-- A replica leaves FENCED for a state (R198): the count of its dropped transactions is logged. DEDUCED: log entry 8. -/
def leftFenced (t : BitVec 5) (r : BitVec 2) (code : BitVec 2) (m : Mach) : Mach :=
  let e : BitVec 7 := put 7 t 2
  report 0x030C (ecOf m e ||| put 64 r 36 ||| put 64 code 40 ||| put 64 (satAdd 0#16 (rep m t r).drops) 48)
    (modRep t r (fun x => { x with drops := 0 }) m)

/-- A replica is retired (R202). -/
def retire (t : BitVec 5) (r : BitVec 2) (m : Mach) : Mach :=
  let e : BitVec 7 := put 7 t 2
  report 0x0307 (ecOf m e ||| put 64 r 36) (modRep t r (fun x => { x with state := .retired, pass := 0#2 }) m)

/-- The end of a BIST pass in progress (R202 to R204). `bistTick` is 500 ticks after the P0 at which the pass began. -/
def bistEnd (t : BitVec 5) (r : BitVec 2) (clean : Bool) (m : Mach) : Mach :=
  let x := rep m t r
  if !x.bist then m
  else
    let m := modRep t r (fun x => { x with bist := false }) m
    noGrogReport (put 7 t 2) <|
    match x.state with
    | .fenced =>
      if clean then
        if x.pass = 2#2 then
          leftFenced t r 1#2 (modTile t (fun y => { y with noGrog := false }) (modRep t r (fun x => { x with
            state := .grog, pass := 0#2, bistTick := m.tick.count + 500#64 }) m))
        else modRep t r (fun x => { x with pass := x.pass + 1#2 }) m
      else
        let m := modRep t r (fun x => { x with pass := 0#2, fail := x.fail + 1#2 }) m
        if x.fail = 2#2 then leftFenced t r 3#2 (retire t r m) else m
    | .grog =>
      if clean then m
      else
        let m := modRep t r (fun x => { x with fail := x.fail + 1#2 }) m
        if x.fail = 2#2 then retire t r m
        else modRep t r (fun x => { x with
          state := .fenced, pass := 0#2, drops := 0, bistTick := x.bistTick - 499#64 }) m
    | _ => m

/-- GROG_BIST_PASS_END (R203): A replica's BIST pass ends clean or failed, moving it toward GROG, FENCED or RETIRED. -/
def execGrogBistPassEnd (t : BitVec 5) (r : BitVec 2) (clean : Bool) (s : State) : Res :=
  s.on (bistEnd t r clean)

/-! ### Sweeps (R194) -/

/-- The state sweep of a compared group, in a tick whose number is a multiple of SWEEP, at or after edge + P/2, and in
EXCHANGE_TRIPLE at an exchange point (R194). -/
def sweep (e : BitVec 7) (m : Mach) : Mach :=
  let t := m.tiles.get (tileOf e)
  if !validEngine m e || decide ((lanesOf m e).length < 2) || decide (m.tick.count.toNat % t.sweep.toNat ≠ 0)
      || (m.engines.get e).halted || !exchangeAt m e id then m
  else
    let m := settle e (advanceTo (m.tick.edgeAt + usClk m.tick.period.toNat / 2) m)
    pumped e (react e (vote (laneStates m e)) ⟨false, true, misMoment m e, [], none⟩ m).2

/-- STATE_SWEEP (R194): At edge + P/2 of sweep ticks every compared group compares its whole architected state. -/
def execStateSweep (e : BitVec 7) (s : State) : Res := s.on (sweep e)

/-! ### Spans (R227, R228) -/

/-- DEDUCED: log entry 23. -/
def spanStatus (i : BitVec 6) : Addr := 0x40F4_9000#36 + put 36 i 4

/-- Captured records written to shared SRAM and committed while the window is open (R227). DEDUCED: log entry 23. -/
def commitRecords (e : BitVec 7) (pos : BitVec 6) (l : List SpanRec) (m : Mach) : Mach :=
  l.foldl (fun m x =>
    let a : Addr := 0x40F8_0040#36 + put 36 x.chan 7 + (if x.buf then 16#36 else 0#36)
    markWrite a e pos false (hwWriteGran a x.data m)) m

/-- The outcome of a span's compare: the member whose records are committed, whether members disagree, whether one is
absent, and the members odd or absent (R227). -/
structure SpanOutcome where
  commit : Option Nat
  disagree : Bool
  absent : Bool
  odd : BitVec 3
  deriving DecidableEq, Repr

/-- The table of R227, on the signatures of the members present. DEDUCED: log entry 23. -/
def spanOutcome (rule3 : Bool) (g0 g1 g2 : Option (BitVec 128)) : SpanOutcome :=
  if rule3 then
    match g0, g1, g2 with
    | some a, some b, some c =>
      if a = b ∧ b = c then ⟨some 0, false, false, 0#3⟩
      else if a = b then ⟨some 0, true, false, 4#3⟩
      else if a = c then ⟨some 0, true, false, 2#3⟩
      else if b = c then ⟨some 1, true, false, 1#3⟩
      else ⟨none, true, false, 7#3⟩
    | some a, some b, none => if a = b then ⟨some 0, false, true, 4#3⟩ else ⟨none, true, false, 7#3⟩
    | some a, none, some c => if a = c then ⟨some 0, false, true, 2#3⟩ else ⟨none, true, false, 7#3⟩
    | none, some b, some c => if b = c then ⟨some 1, false, true, 1#3⟩ else ⟨none, true, false, 7#3⟩
    | a, b, c => ⟨none, false, true, at_ a.isNone 0 ||| at_ b.isNone 1 ||| at_ c.isNone 2⟩
  else
    match g0, g1 with
    | some a, some b => if a = b then ⟨some 0, false, false, 0#3⟩ else ⟨none, true, false, 3#3⟩
    | a, b => ⟨none, false, true, at_ a.isNone 0 ||| at_ b.isNone 1⟩

def sigOf : MemberResult → Option (BitVec 128)
  | .ended x _ _ _ => some x
  | _ => none

def recsOf : MemberResult → List SpanRec
  | .ended _ l _ _ => l
  | _ => []

def endTime : MemberResult → Nat
  | .ended _ _ t _ => t
  | _ => 0

def posOfResult : MemberResult → BitVec 6
  | .ended _ _ _ p => p
  | _ => 0#6

/-- The span of a latched entry is compared, 1 µs after its last member has ended or, where a member has not ended, at C
(R227); span status is written (R228). A compare that would fall after C waits for the close, and commits nothing then.
DEDUCED: log entry 23. -/
def spanCompare (i : BitVec 6) (m : Mach) : Mach :=
  let s := m.spans.get i
  let r := m.spanRuns.get i
  let n := s.members
  let open_ := (range 0 n).any fun k => decide (r.get k = .waiting)
  let last := (range 0 n).foldl (fun t k => max t (endTime (r.get k))) 0
  let closed := decide (m.tick.phase = .closed)
  if decide (n = 0) || !spanValid m.spans i || r.compared || (open_ && !closed) || (!closed && decide (closeAt m.tick ≤ last + 103)) then m
  else
    let m := if open_ then m else advanceTo (last + 103) m
    let o := spanOutcome (decide (n = 3)) (sigOf r.m0) (sigOf r.m1) (sigOf r.m2)
    let m := match o.commit with
      | some k => commitRecords (s.member k) (posOfResult (r.get k)) (recsOf (r.get k)) m
      | none => m
    let arg : W64 := put 64 i 0 ||| put 64 o.odd 8 ||| put 64 (fld m.tick.count 0 32) 32
    let m := if o.disagree then report 0x030A arg m else m
    let m := if o.absent then report 0x030B arg m else m
    let old := m.mem.data (granOf (spanStatus i))
    let dis : BitVec 16 := if o.disagree then satInc (fld old 80 16) else fld old 80 16
    let code : Byte := if o.disagree then 2#8 else if o.absent then 3#8 else 1#8
    let m := hwWriteGran (spanStatus i)
      (put 128 m.tick.count 0 ||| put 128 code 64 ||| put 128 o.odd 72 ||| put 128 dis 80) m
    { m with spanRuns := m.spanRuns.upd i fun r => { r with compared := true } }

/-- SPAN_COMPARE (R227): 1 µs after the last member ends the span's signatures are compared and records committed or withheld. -/
def execSpanCompare (k : BitVec 6) (s : State) : Res := s.on (spanCompare k)

end Sys2Proof.Machine
end

