-- ==== Sys2Proof/Machine/Modes.lean ====
section
/-! DEFINITION. What a mode transition brings with it (R40 to R49, R457, R463, R493), the release of halts and freezes
(R463, R473). -/

namespace Sys2Proof.Machine

open Sys2Proof

/-! ### Resuming a halted engine (R470, R473, R474) -/

/-- A halted engine runs on from its boundary: the instruction there has been stopped at already. An engine that had no
running slot starts one that waits. -/
def resumeNow (e : BitVec 7) (step : Bool) (m : Mach) : Mach :=
  let m := modEng e (fun g => { g with halted := false }) (modDEng e (fun x => { x with
    hcause := 0#4, resv := false, defer := false, deferStep := false, step := step, pass := true }) m)
  let m := syncTimers m
  let g := m.engines.get e
  if g.cur.isNone && !g.keeper && decide (m.tick.phase = .p1) then startNext e m else m

/-- A resume is deferred to the next P1 (R473). -/
def deferring (m : Mach) : Bool := decide (m.tick.phase ≠ .p1) || decide (closeAt m.tick ≤ m.clk + usClk 10)

/-- RESUME or STEP of one engine, if it is halted. -/
def resumeOne (step : Bool) (e : BitVec 7) (m : Mach) : Mach :=
  if !(m.engines.get e).halted then m
  else if deferring m then modDEng e (fun x => { x with defer := true, deferStep := step }) m
  else resumeNow e step m

/-- RESUME or STEP of an engine and of the other members of its group (R470); the others only resume. -/
def resumeGroup (e : BitVec 7) (step : Bool) (m : Mach) : Mach :=
  (groupOf m e).foldl (fun m x => resumeOne false x m) (resumeOne step e m)

/-! ### Sessions (R463) -/

/-- Every halt is released as if RESUME had been written, or at once; one that is not complete is dropped.
DEDUCED: log entry 48. -/
def releaseHalts (now : Bool) (m : Mach) : Mach :=
  allEngines.foldl (fun m e =>
    let m := modDEng e (fun x => { x with want := false, waitSc := false, step := false }) m
    if !(m.engines.get e).halted then m else if now then resumeNow e false m else resumeOne false e m) m

/-- What closing a session, or dropping to OBSERVE, does: halts and freezes are released, BSCAN is 0.
DEDUCED: log entry 48. -/
def dropControl (now : Bool) (m : Mach) : Mach :=
  syncTimers (releaseHalts now (modDbg (fun d => { d with bscan := false, frz := Tbl.all 8 0#3 }) m))

/-- The session closes. -/
def closeSession (now : Bool) (m : Mach) : Mach := dropControl now (modDbg (fun d => { d with level := 0#2 }) m)

/-- The levels that a mode permits (R40). -/
def levelOk (k : Mode) (l : BitVec 2) : Bool :=
  match k with
  | .commission => true
  | .operate | .sleep | .hardpan => decide (l.toNat ≤ 1)
  | _ => decide (l = 0#2)

/-- The session at a mode transition (R463). -/
def sessionAt (k : Mode) (now : Bool) (m : Mach) : Mach :=
  if levelOk k m.dbg.level then m
  else if levelOk k 1#2 then dropControl now (modDbg (fun d => { d with level := 1#2 }) m)
  else closeSession now m

/-! ### Transitions -/

/-- The Yunal link returns to silt; lane 1 goes down where it was in use (R494, R506). -/
def ylSilt (y : Yunal) : Yunal :=
  match y.st with
  | .full => { y with st := .silt, lane1Down := some false }
  | .train => { y with st := .silt }
  | _ => y

/-- A tile's domain begins to shut down (R493). -/
def TilePower.sleep : TilePower → TilePower
  | .on | .warm | .up => .down false
  | .down _ => .down false
  | .off => .off

/-- An input channel is off in SLEEP: its modulators start anew when it goes on (R40, R304). DEDUCED: log entry 27. -/
def sleepInput (x : Chan) : Chan := if isInMode x.mode then restart { x with prev := none } else x

/-- Entry to SLEEP (R40, R345, R493): the stores of the engines drain, timers hold, T1 to T31 power down, DRAM is in
self-refresh, the link falls to silt. DEDUCED: log entry 55. -/
def enterSleep (m : Mach) : Mach :=
  let m := allEngines.foldl (fun m e => if drained m e then m else (drain e m).2) m
  { m with
    chans := m.chans.map fun x => sleepInput { x with timer := x.timer.hold }
    pwr := { m.pwr with
      tiles := Vector.ofFn fun (i : Fin (2 ^ 5)) => if i.val = 0 then m.pwr.tiles[i.val] else m.pwr.tiles[i.val].sleep
      selfRefresh := true }
    mode := { m.mode with awake := false }
    yl := ylSilt m.yl }

/-- The keeper stops running on E0 outside the schedule: its stores drain and it has no slot. -/
def keeperOff (m : Mach) : Mach :=
  if (m.engines.get 0#7).keeper then
    let m := if (m.engines.get 0#7).act = .stopped then m else (drain 0#7 (settle 0#7 m)).2
    clearRun 0#7 (modEng 0#7 (fun g => { g with keeper := false }) m)
  else m

/-- A mode comes into force (R41, R46, R264, R332, R391, R457, R463): MODE, the session, boundary scan, OUT_REL, LIVE and COM_EN
outside COMMISSION, the region caches, and the parts whose
behaviour R40 ties to the transition. `now` releases halts without deferral. DEDUCED: log entry 58. -/
def modeEnter (k : Mode) (now : Bool) (m : Mach) : Mach :=
  let old := m.mode.mode
  let m := if k = .hardpan then m else keeperOff m
  let m := modMode (fun x => { x with mode := k, pend := none, outRel := false, outRelAtC := false }) m
  let m := sessionAt k now (modDbg (fun d => { d with bscan := false }) m)
  let m := if k = .sleep then enterSleep m else m
  let m := if k = .commission then m
    else { m with chans := m.chans.map fun x => { x with live := false, comEn := false } }
  let m := { m with tiles := m.tiles.map fun t => { t with rcache := [] }, mc := { m.mc with portCaches := Tbl.all 2 [] } }
  let m := if old = .sleep then modWatch (fun x => { x with mAt := m.clk }) m else m
  let m := if k = .commission ∨ k = .operate then modMc (fun c => { c with scrubOn := true }) m else m
  let m := if k = .hardpan then modYl ylSilt m else m
  deviceVector 0 (moduleEvent m)

/-- A WAKE EVENT (R49): in SLEEP, with its enable, the keeper resumes on E0; without, the event is logged and no more.
DEDUCED: log entry 36. DEDUCED: log entry 55. DEDUCED: log entry 36. DEDUCED: log entry 55. DEDUCED: log entry 64. -/
def wakeEvent (k : WakeSource) (enabled : Bool) (m : Mach) : Mach :=
  if m.mode.mode ≠ .sleep then m
  else if !enabled then modMode (fun x => { x with wakeLog := x.wakeLog ++ [(k, m.tick.count)] }) m
  else if m.mode.awake then m
  else modEng 0#7 (fun g => { g with keeper := true, act := .run }) (modMode (fun x => { x with awake := true }) m)

end Sys2Proof.Machine
end

