-- ==== Sys2Proof/Machine/Hardpan.lean ====
section
/-! DEFINITION. Entry to HARDPAN (R48, R449 to R451) and the reactions to faults (R433 to R437, R439). -/

namespace Sys2Proof.Machine

open Sys2Proof

/-! ### Entry to HARDPAN -/

/-- E0 is reset and starts for the keeper at ENT0 with HP_STAT in A, or stays stopped where ENT0 is untagged (R451).
DEDUCED: log entry 58. -/
def hardpanKeeper (m : Mach) : Mach :=
  let ent := match leader m 0#7 with
    | some l => l.arch.ent0
    | none => Cap.null
  let a := { resetArch 0#2 with pcc := openGate ent, a := put 64 (hpStatWord m.faults) 0, ib := true }
  let m := mapLanes 0#7 (fun x => { x with arch := a, sb := [], prefetch := [], ldue := none, repEnd := false }) m
  modEng 0#7 (fun g => { g with keeper := true, act := if ent.tag then .run else .stopped })
    (clearRun 0#7 { m with resv := m.resv.filter fun x => x.1 ≠ 0#7 })

/-- Every slot is aborted as under R181; stores already issued drain and stand (R449). Of E0, which is reset, those are the
first four of its buffer. DEDUCED: log entry 58. -/
def hardpanEngines (m : Mach) : Mach :=
  let m := allEngines.foldl (fun m e =>
    modEng e (fun g => { g with todo := [] }) (if (m.engines.get e).cur.isSome then abandonRun e m else m)) m
  allEngines.foldl (fun m e =>
    if drained m e then m else if e = 0#7 then (acceptForwarded e 8 m).2 else (drain e m).2) m

/-- HARDPAN ENTRY that has begun (R48, R449) is completed: halts are released, the slots are aborted, DRAM is closed to fabric
masters, the shells bring every output to its CH_SAFE action, the ports stop fetching, and E0 starts for the keeper. The
device vector is not sent where the ports have stopped with the main clock (R447). DEDUCED: log entry 58. -/
def enterHardpan (m : Mach) : Mach :=
  if !m.faults.hpDue then m
  else
    let m := modeEnter .hardpan true (modFaults (fun x => { x with hpDue := false }) m)
    let m := hardpanEngines m
    let m := modMc (fun c => { c with dramFrozen := true }) m
    let m := allChans.foldl (fun m c => shellHardpan c m) m
    let m := modHost (fun h => { h with kready := false }) (hardpanKeeper m)
    if m.watch.mainLost then m else deviceVector 2 m

/-! ### Reactions -/

/-- The keeper on E0 stops until a module reset (R437). DEDUCED: log entry 44. -/
def stopKeeper (m : Mach) : Mach :=
  modEng 0#7 (fun g => { g with act := if g.keeper then .stopped else g.act }) m

/-- The reaction to an event that the collector has written (R433, R437); `hp` says that it entered HARDPAN. The engine of
reaction E was reset as its watchdog bit (R445). DEDUCED: log entry 22. -/
def carryOut (ev : FaultEvent) (hp : Bool) (m : Mach) : Mach :=
  let r := reactionOf m ev.code ev.arg
  let m := deviceVector 1 m
  let m := if r = .l then m else moduleEvent m
  let m := enterHardpan (if hp then beginHardpan ev.code m else m)
  if m.mode.mode = .hardpan then
    (if !hp && decide (ev.code = 0x0202#16 ∨ ev.code = 0x0604#16) then stopKeeper m else m)
  else m

/-- The event that the collector writes next: of the oldest, detected in one clock, the one of lowest code (R439). -/
def nextFault (q : List FaultEvent) : Option FaultEvent :=
  match q with
  | [] => none
  | x :: r => some (r.foldl (fun b y => if y.time = x.time ∧ y.code < b.code then y else b) x)

/-- FAULT LOG ENTRY (R438 to R440): the next event leaves the queue, stands in the log, and its reaction is carried out.
DEDUCED: log entry 22. -/
def logNext (m : Mach) : Mach :=
  match nextFault m.faults.queue with
  | none => m
  | some ev =>
    let own := m.faults.hpMark && decide (ev.code = m.faults.hpCause)
    let hp := decide (reactionOf m ev.code ev.arg = .h) && (own || hardpanFrom m)
    let x := { m.faults with queue := m.faults.queue.erase ev, hpMark := m.faults.hpMark && !own }
    carryOut ev hp { m with faults := logEvent hp m.bkp.rtc m.bkp.valid ev x }

/-- Events up to `fuel` of them. -/
def logAll : Nat → Mach → Mach
  | 0, m => m
  | n + 1, m => if m.faults.queue.isEmpty then m else logAll n (logNext m)

/-- More than the collector's queue can hold, with what the reactions report. -/
def logFuel : Nat := 256

/-- A fault is detected and the collector carries on until its queue is empty. DEDUCED: log entry 22. -/
def reportNow (code : BitVec 16) (arg : W64) (m : Mach) : Mach := logAll logFuel (report code arg m)

end Sys2Proof.Machine
end

