-- ==== Sys2Proof/Machine/FaultRows.lean ====
section
/-! DEFINITION. Events of the fault collector, the module watchdog, the clock monitor and HARDPAN (R47, R433 to R449, R500),
and the fast system calls that log or escalate (R436, R454). -/

namespace Sys2Proof.Machine

open Sys2Proof

/-! ### Time limits -/

/-- The 60 s of R47 have passed in WAKE: the wake timeout, with the last boot step begun. -/
def wakeTimeout (step : Byte) (m : Mach) : Mach :=
  if m.mode.mode = .wake then reportNow 0x0105 (put 64 step 0) (advanceTo (m.mode.wakeAt + 60 * secClk) m) else m

/-- WAKE_TIMEOUT (R47): WAKE not ended 60 s after edge 0 ends in HARDPAN with the wake-timeout fault.
DEDUCED: log entry 8. -/
def execWakeTimeout (step : BitVec 8) (s : State) : Res := s.on (wakeTimeout step)

/-- HARDPAN_SAFE_REACHED (R449): Within 2 ms of hardpan entry every output is at its CH_SAFE action and HP_STAT.SAFE is set. A
reset that waited for it follows (R452). -/
def execHardpanSafeReached (s : State) : Res :=
  s.on fun m =>
    if m.mode.mode = .hardpan then doReset (modFaults (fun x => { x with hpSafe := true }) m) else m

/-- The module watchdog's count reaches 10 ms × WMAX (R446); it does not count in SLEEP, while an engine is halted (R472), or
without the main clock. -/
def moduleWatchdogExpire (m : Mach) : Mach :=
  if m.mode.mode = .dormant ∨ m.mode.mode = .sleep ∨ anyHalted m = true ∨ m.watch.mainLost = true then m
  else enterHardpan (mwdBite false (advanceTo (m.watch.mAt + tenMs * m.watch.mMax.toNat) m))

/-- MODULE_WATCHDOG_EXPIRE (R446): The module watchdog count reaches 10 ms × WMAX and bites with fault 0x0604. -/
def execModuleWatchdogExpire (s : State) : Res := s.on moduleWatchdogExpire

/-! ### The clock monitor (R447, R448) -/

/-- A count of R447 that is out of range. DEDUCED: log entry 45. -/
def countBad (n : BitVec 12) : Bool := decide (n.toNat < 3000 ∨ 3250 < n.toNat)

/-- Two consecutive counts of the channel clock, the later last. DEDUCED: log entry 45. -/
def clockCounts (c0 c1 : BitVec 12) (m : Mach) : Mach :=
  if m.mode.mode = .dormant then m
  else
    let m := modWatch (fun x => { x with cnt := c1 }) m
    if countBad c0 && countBad c1 && !m.watch.bkpLost && !m.watch.mainLost then
      let m := modWatch (fun x => { x with mainLost := true }) m
      let m := modHost (fun h => { h with portA := { h.portA with up := false }, portB := { h.portB with up := false } }) m
      reportNow 0x0605 (put 64 c0 0 ||| put 64 c1 12) m
    else m

/-- MAIN_CLOCK_LOST (R447): Two channel-clock counts out of range assert the hardpan lines directly.
DEDUCED: log entry 45. -/
def execMainClockLost (cnt0 cnt1 : BitVec 12) (s : State) : Res := s.on (clockCounts cnt0 cnt1)

/-- The backup oscillator is lost (R448, R492). DEDUCED: log entry 45. -/
def backupLost (m : Mach) : Mach :=
  if m.mode.mode = .dormant ∨ m.watch.mainLost = true ∨ m.watch.bkpLost = true then m
  else
    report 0x0606 0#64 (modBkp (fun x => { x with valid := false }) (modWatch (fun x => { x with bkpLost := true }) m))

/-- BACKUP_OSCILLATOR_LOST (R448): The backup oscillator is out of range or stopped and BKP_LOST is set. -/
def execBackupOscillatorLost (s : State) : Res := s.on backupLost

/-! ### The fault log -/

/-- FAULT_LOG_ENTRY (R439): The collector writes a queued fault to the log and carries out its reaction. -/
def execFaultLogEntry (s : State) : Res := s.on logNext

/-- The 4 KiB of the log as a mirror holds them. -/
def logBytes (x : Faults) : List Byte := (range 0 1024).flatMap fun i => bytesOf (logWord x (4 * i)) 0 4

/-- One hour in channel clocks. -/
def hourClk : Nat := 3600 * secClk

/-- The mirror credit with what it has gained since the latest mirror (R500). DEDUCED: log entry 49. -/
def mirrorCredit (m : Mach) : Nat :=
  min 360 ((m.bkp.scr.get 0#2).toNat + (if m.faults.mirrorAt = 0 then 0 else (m.clk - m.faults.mirrorAt) / hourClk))

/-- A mirror may be made (R441, R500): WR has moved on, 10 s have passed since the latest one, and there is credit.
DEDUCED: log entry 49. -/
def mirrorDue (m : Mach) : Bool :=
  let x := m.faults
  decide (x.wr ≠ x.mirwr)
    && (decide (x.mirrorAt = 0) || (decide (x.mirrorAt + 10 * secClk ≤ m.clk) && decide (0 < mirrorCredit m)))
    && decide (m.mode.mode ≠ .dormant) && !m.pwr.pfw && !m.watch.mainLost && m.sec.flJob.isNone

/-- Bytes of a device erased and programmed anew. -/
def rewrite (d : Bool) (off : Nat) (l : List Byte) (x : Sec) : Sec :=
  setFlash d (programBytes (eraseBytes (flashOf x d) off l.length) off l) x

/-- The log goes to the half that holds the older mirror; since the log was started anew, the half that held the newest
before is kept (R441). DEDUCED: log entry 49. -/
def logMirror (m : Mach) : Mach :=
  if !mirrorDue m then m
  else
    let half := if m.faults.fresh then !m.faults.keepHalf else !m.faults.mirrorHalf
    let l := logBytes m.faults
    let off := if half then 0x3000 else 0x2000
    let m' := modSec (fun x => rewrite true off l (rewrite false off l x)) m
    modBkp (fun b => { b with scr := b.scr.set 0#2 (BitVec.ofNat 32 (mirrorCredit m - 1)) })
      (modFaults (fun x => { x with mirwr := x.wr, mirrorAt := m.clk, mirrorHalf := half }) m')

/-- LOG_MIRROR (R441): The keeper mirrors the fault log to the older half in flash. DEDUCED: log entry 60. -/
def execLogMirror (s : State) : Res := s.on logMirror

/-! ### Fast system calls of the keeper (R153, R419, R436, R454) -/

/-- The status with which a call ends, in A. -/
def returnStatus (e : BitVec 7) (k : W64) (m : Mach) : Mach :=
  mapLanes e (fun x => { x with arch := { x.arch with a := k } }) m

/-- SUCCESS and REFUSED, in the numbers of R384. -/
def stSuccess : W64 := 0#64
/-- DEDUCED: log entry 43. -/
def stRefused : W64 := 8#64

/-- The fast call that an engine is in: the service number, the caller's ring and compartment, and its registers. -/
def fastCall (m : Mach) (e : BitVec 7) (num : W64) : Option (BitVec 2 × BitVec 10 × Arch) :=
  match leader m e with
  | some l =>
    if atBoundary m e && !stopping m e && decide (l.arch.ring = 0#2) && l.arch.fast && decide (l.arch.e = num) then
      some (l.arch.fring, l.arch.link.owner, l.arch)
    else none
  | none => none

/-- A call that only ring 1 of compartment 1 may make, in COMMISSION. -/
def ownerCallOk (m : Mach) (ring : BitVec 2) (comp : BitVec 10) : Bool :=
  decide (ring = 1#2) && decide (comp = 1#10) && decide (m.mode.mode = .commission)

/-- Service 0x102. DEDUCED: log entry 43. -/
def setEscalation (e : BitVec 7) (m : Mach) : Mach :=
  let m := mapLanes e settleLane m
  match fastCall m e 0x102 with
  | none => m
  | some (r, c, a) =>
    if ownerCallOk m r c then
      returnStatus e stSuccess (fltEscWrite (put 32 (fld a.a 0 5 : BitVec 5) 0) m)
    else returnStatus e stRefused m

/-- SET_ESCALATION (R436): The fast system call 0x102 sets the FLT_ESC bits in COMMISSION. DEDUCED: log entry 60. -/
def execSetEscalation (e : BitVec 7) (s : State) : Res := s.on (setEscalation e)

/-- Service 0x103: at most 16 events of a compartment in a tick. DEDUCED: log entry 43. -/
def ownerEvent (e : BitVec 7) (m : Mach) : Mach :=
  let m := mapLanes e settleLane m
  match fastCall m e 0x103 with
  | none => m
  | some (r, c, a) =>
    let n := look 0 m.faults.ownerEvents c.toNat
    if r ≠ 1#2 ∨ 16 ≤ n then returnStatus e stRefused m
    else
      let m := modFaults (fun x => { x with
        swa0 := put 32 (fld a.a 8 24 : BitVec 24) 0, swa1 := 0#32, ownerEvents := store 0 x.ownerEvents c.toNat (n + 1) }) m
      returnStatus e stSuccess (fltSw (0x0F00#32 ||| put 32 (fld a.a 0 8 : Byte) 0) m)

/-- OWNER_EVENT (R454): The fast system call 0x103 logs an owner event code. DEDUCED: log entry 60. -/
def execOwnerEvent (e : BitVec 7) (s : State) : Res := s.on (ownerEvent e)

end Sys2Proof.Machine
end

