-- ==== Sys2Proof/Machine/Edge.lean ====
section
/-! DEFINITION. What a tick edge does to the tilth banks, the tiles and the latches (R31, R138, R203, R204, R223, R229 to
R232, R442, R497). -/

namespace Sys2Proof.Machine

open Sys2Proof

/-- A bank swap (R31, R36): the other bank becomes active and every consecutive-overrun count is 0. -/
def bankSwap (m : Mach) : Mach :=
  if m.tick.swapPend then
    allEngines.foldl (fun m e =>
        (range 0 4).foldl (fun m k => hwWriteGran (statusBase e + BitVec.ofNat 36 (16 * k)) 0#128 m) m)
      (modTick (fun t => { t with active := !t.active, swapPend := false }) m)
  else m

/-! ### Latches (R139, R223, R296) -/

/-- A channel's owner latched; a change of owner ends a HART transaction (R296). DESIGN CHOICE: log entry 24. -/
def latchOwner (c : BitVec 8) (o : BitVec 10) (m : Mach) : Mach :=
  if m.owner.get c = o then m else abortHart c { m with owner := m.owner.set c o }

/-- The channel ownership table is latched, four words a granule; those of a word that cannot be read stay.
DEDUCED: log entry 61. -/
def latchOwners (m : Mach) : Mach :=
  (range 0 64).foldl (fun m g =>
    let (r, m) := readGran Acc.other (granOf (0x40F5_0000#36 + BitVec.ofNat 36 (16 * g))) m
    if r.bad.isSome then m
    else (range 0 4).foldl (fun m k => latchOwner (BitVec.ofNat 8 (4 * g + k)) (fld r.data (32 * k) 10) m) m) m

/-- An entry of the span table is latched, unless one of its granules cannot be read. -/
def latchSpan (i : BitVec 6) (m : Mach) : Mach :=
  let a : Addr := 0x40F4_8000#36 + put 36 i 6
  let (r0, m) := readGran Acc.other (granOf a) m
  let (r1, m) := readGran Acc.other (granOf (a + 16#36)) m
  let (r2, m) := readGran Acc.other (granOf (a + 32#36)) m
  let (r3, m) := readGran Acc.other (granOf (a + 48#36)) m
  if r0.bad.isSome || r1.bad.isSome || r2.bad.isSome || r3.bad.isSome then m
  else { m with spans := m.spans.set i ⟨r0.data, r1.toCap, r2.toCap, r3.toCap⟩ }

/-- The span table is latched; every invalid entry in use is reported; the compares begin anew. -/
def latchSpans (m : Mach) : Mach :=
  let all := (range 0 64).map (BitVec.ofNat 6)
  let m := all.foldl (fun m i => latchSpan i m) m
  let m := all.foldl (fun m i =>
    if (m.spans.get i).rule ≠ 0#8 ∧ spanValid m.spans i = false then
      report 0x0309 (put 64 i 0 ||| put 64 (m.spans.get i).comp 16) m
    else m) m
  { m with spanRuns := Tbl.all 6 ⟨.waiting, .waiting, .waiting, false⟩ }

/-! ### Regrouping (R183, R185, R229 to R232, R475) -/

/-- The lane of replica `r` under a code that is not voted. -/
def plainLane (code : BitVec 3) (r : BitVec 2) : BitVec 2 :=
  match code.toNat with
  | 1 => r &&& 1#2
  | 3 => if r = 1#2 then 1#2 else 0#2
  | _ => 0#2

/-- A replica's state and lane under the new code; `k` is how many admitted replicas have a lower number. -/
def regroupRep (code : BitVec 3) (now : BitVec 64) (r : BitVec 2) (k : Nat) (x : Replica) : Replica :=
  let x := { x with sb := [], prefetch := [], ldue := none, repEnd := false }
  if x.state ≠ .active ∧ x.state ≠ .grog then x
  else if !isVoted code then { x with state := .active, lane := plainLane code r, bist := false, pass := 0#2 }
  else if k < 3 then { x with state := .active, lane := BitVec.ofNat 2 k, bist := false, pass := 0#2 }
  else if x.state = .grog then x
  else { x with state := .grog, lane := 0#2, pass := 0#2, bistTick := now + 500#64 }

def allPositions : List (BitVec 2) := (range 0 4).map (BitVec.ofNat 2)

def isAdmitted (x : Replica) : Bool := decide (x.state = .active) || decide (x.state = .grog)

/-- The replicas of a tile retaken into lanes (R183). -/
def retakeLanes (code : BitVec 3) (now : BitVec 64) (reps : Tbl 2 Replica) : Tbl 2 Replica :=
  Vector.ofFn fun (i : Fin (2 ^ 2)) =>
    let k := ((range 0 i.val).filter fun j => isAdmitted (reps.get (BitVec.ofNat 2 j))).length
    regroupRep code now (BitVec.ofNat 2 i.val) k reps[i.val]

/-- An engine that ends: its notices go to the supervisor, its watchdog stops (R230). -/
def endEngine (e : BitVec 7) (m : Mach) : Mach :=
  let m := clearRun e m
  modWd e (fun x => { x with run := false })
    (modEng e (fun g => { g with todo := [], lineBuf := [], budgetPend := false }) m)

/-- An engine of the new grouping (R229 to R231): a continuing one keeps its state, a starting one begins with reset
values; the undo log and the bisque store are empty. DESIGN CHOICE: log entry 21. DEDUCED: log entry 61. -/
def placeEngine (e : BitVec 7) (cont : Option Arch) (m : Mach) : Mach :=
  let r := resetArch (posOf e)
  let m := mapLanes e (fun x => { x with arch := cont.getD r }) m
  let blank : BisqueCopy := ⟨r, 0#16, 0#6, false, false⟩
  let m := modEng e (fun g => { (if cont.isSome then g else Engine.reset r) with
    undo := [], copy0 := blank, copy1 := blank }) m
  if cont.isSome then m else modWd e (fun x => { x with run := false }) m

/-- An engine of the tile is halted, or waits with DEFER (R475). DEDUCED: log entry 61. -/
def tileHalted (m : Mach) (t : BitVec 5) : Bool :=
  (range 0 4).any fun p => (m.engines.get (put 7 t 2 + BitVec.ofNat 7 p)).halted

/-- The pending commit of a tile at an edge: the code as it is staged then, with REJ as the latest request has left it.
DEDUCED: log entry 61. -/
def regroup (t : BitVec 5) (m : Mach) : Mach :=
  let x := m.tiles.get t
  if !x.pend then m
  else
    let k := commitReject m t true
    let k := if k = 0#3 ∧ tileHalted m t = true then 6#3 else k
    if k ≠ 0#3 then modTile t (fun x => { x with pend := false, rej := k }) m
    else
      let ps := (range 0 4).map (BitVec.ofNat 2)
      let eng (p : BitVec 2) : BitVec 7 := put 7 t 2 + put 7 p 0
      let old := ps.map fun p => if validPos x.live p then (leader m (eng p)).map Replica.arch else none
      let m := (ps.filter fun p => validPos x.live p && !validPos x.code p).foldl (fun m p => endEngine (eng p) m) m
      let m := modTile t (fun x => { x with
        live := x.code, pend := false, noGrog := false, reps := retakeLanes x.code m.tick.count x.reps }) m
      (ps.filter (validPos x.code)).foldl (fun m p => placeEngine (eng p) (old.getD p.toNat none) m) m

/-! ### The grog and BIST (R200, R203, R204) -/

def allTiles : List (BitVec 5) := (range 0 32).map (BitVec.ofNat 5)

/-- A replica's BIST pass that is due begins. -/
def bistStart (t : BitVec 5) (r : BitVec 2) (m : Mach) : Mach :=
  modRep t r (fun x =>
    if (x.state = .fenced ∨ x.state = .grog) ∧ x.bist = false ∧ x.bistTick ≤ m.tick.count then
      { x with bist := true, bistTick := m.tick.count + 500#64 }
    else x) m

/-- The state loaded into the lanes of a new grouping is read back and compared (R229): `bad` are the replicas in which it
differs. A difference is a mismatch of the new group under row 6 of R196. DEDUCED: log entry 61. -/
def regroupReadBack (t : BitVec 5) (bad : List (BitVec 2)) (m : Mach) : Mach :=
  allPositions.foldl (fun m p =>
    let e : BitVec 7 := put 7 t 2 + put 7 p 0
    let l := lanesOf m e
    if decide (l.length < 2) || !(l.any fun r => r ∈ bad) then m
    else (react e (vote (l.map fun r => (r, if r ∈ bad then r.toNat + 1 else 0))) ⟨false, true, misMoment m e, [], none⟩ m).2) m

/-- A promotion at P0 (R200): older stores of an engine that runs are accepted, the two lanes are compared, the grog is loaded
and its state read back. A difference abandons the promotion (R197). DEDUCED: log entry 61. -/
def promoteAtEdge (t : BitVec 5) (bad : List (BitVec 2)) (m : Mach) : Mach :=
  let e : BitVec 7 := put 7 t 2
  let x := m.tiles.get t
  match x.degraded, grogOf x with
  | true, some g =>
    let (go, m) := drain e (settleLanes e m)
    if !go then m
    else
      let (go, m) := react e (vote (laneStates m e)) ⟨false, true, misMoment m e, [], none⟩ m
      if go && !(g ∈ bad) then promote e m else m
  | _, _ => m

/-- The work of P0 at a tile but for the copier: regrouping, a promotion, BIST passes. `bad` are the replicas whose state
differs when it is read back. -/
def tileEdge (bad : List (BitVec 2)) (t : BitVec 5) (m : Mach) : Mach :=
  let commits := (m.tiles.get t).pend
  let m := regroup t m
  let m := if commits then regroupReadBack t bad m else promoteAtEdge t bad m
  ((range 0 4).map (BitVec.ofNat 2)).foldl (fun m r => bistStart t r m) m

/-! ### Watchdogs (R442, R445) -/

/-- The latest slot position of a compartment that an engine ran. -/
def ranPos (m : Mach) (e : BitVec 7) (c : BitVec 10) : BitVec 6 :=
  match (m.engines.get e).ran.find? fun x => x.1 = c.toNat with
  | some x => x.2
  | none => 0#6

def watchdogEdge (e : BitVec 7) (m : Mach) : Mach :=
  let x := m.watch.wd.get e
  if !x.run || (m.engines.get e).halted then m
  else
    let m := modWd e (fun x => { x with age := x.age + 1 }) m
    if x.wmax.toNat < x.age + 1 then (carryBite e (bite e 0x0601 (argEC e x.owner (ranPos m e x.owner)) m)).2 else m

/-! ### The core clock (R77, R496, R497) -/

/-- The surge clock may be granted. DESIGN CHOICE: log entry 52. -/
def surgeOk (m : Mach) : Bool :=
  let p := m.pwr
  p.surgeEn && slotsRun m.mode.mode && p.rdy && p.mainOk && decide (p.coreClk ≠ 2#2) && (match p.cool130.get 4#3 with
    | some t => decide (t + 10 * secClk ≤ m.clk)
    | none => false)

/-- The core clock of the tick that begins: 0 nominal, 1 surge, 2 500 MHz. -/
def clockEdge (m : Mach) : Mach :=
  let p := m.pwr
  let c := p.clkNext.getD p.coreClk
  let stays := p.surgeEn && slotsRun m.mode.mode && p.mainOk
  let k := if c = 2#2 then 2#2 else if surgeOk m || (decide (c = 1#2) && stays) then 1#2 else 0#2
  modPwr (fun p => { p with coreClk := k, clkNext := none }) m

/-! ### Modes (R41, R42, R44) -/

/-- SLEEP is not left for OPERATE before DRAM is out of self-refresh and lane 1 of the Yunal link, once it has gone down, is
ready for full rate (R41); the request stays pending until the first edge that finds both. DEDUCED: log entry 55. -/
def sleepHolds (m : Mach) (k : Mode) : Bool :=
  decide (m.mode.mode = .sleep ∧ k = .operate) && (m.pwr.selfRefresh || m.yl.lane1Down.isSome)

/-- A pending request takes effect, or is dropped where an entry condition fails now. -/
def modeEdge (m : Mach) : Mach :=
  match m.mode.pend with
  | some k =>
    if m.tick.count < m.mode.pendTick ∨ sleepHolds m k = true then m
    else
      let r := if m.mode.mode = .commission ∧ k = .operate then entryRefusal m else 0#4
      if r ≠ 0#4 then deviceVector 0 (modMode (fun x => { x with pend := none, refuse := r }) m) else modeEnter k false m
  | none =>
    if m.mode.mode = .wake ∧ m.mode.checksPassed = true then
      modeEnter (if m.mode.autostart then .operate else .commission) false m
    else m

end Sys2Proof.Machine
end

