-- ==== Sys2Proof/Machine/TickRows.lean ====
section
/-! DEFINITION. The tick: edges, the apply, P1, C, the windows of the external source, and the budgets of slots (R11 to R22,
R33, R34, R53, R176). -/

namespace Sys2Proof.Machine

open Sys2Proof

/-- The tick generator runs: not in DORMANT, without the main clock, or in the power-fail sequence. DEDUCED: log entry 9. -/
def tickRuns (m : Mach) : Bool := decide (m.mode.mode ≠ .dormant) && !m.watch.mainLost && !m.pwr.pfw

/-- Edges follow the external source (R13). DEDUCED: log entry 59. -/
def following (t : TickSt) : Bool := t.src && t.extLock

/-- The channel clock edge nearest to `k` periods after a sequence's edge 0 (R12). -/
def seqOffset (p k : Nat) : Nat := (1024 * k * p + 5) / 10

/-- The time of the next edge; none while it waits for a tick-sync edge. DEDUCED: log entry 59. -/
def nextEdgeAt (t : TickSt) : Option Nat :=
  match t.nextEdge with
  | some x => some x
  | none => if following t then none else some (t.seqEdge + seqOffset t.period.toNat (t.seqNum + 1))

/-! ### The windows of R13, R15 and R53 -/

/-- A moment, in channel clocks from an edge, lies within 2 µs of `p` µs after it. -/
def inWindow (at_ p : Nat) : Bool := decide (512 * p ≤ 5 * at_ + 1024) && decide (5 * at_ ≤ 512 * p + 1024)

/-- Under EXTEST the logic sees each scanned input as it stood (R457). DEDUCED: log entry 63. -/
def pinsHeld (m : Mach) : Bool := m.dbg.bscan && m.dbg.extest

/-- A tick-sync edge, by the channel clocks since the current edge. DEDUCED: log entry 59. -/
def tickSync (at_ : Nat) (m : Mach) : Mach :=
  let t := m.tick
  if !tickRuns m || !t.src || pinsHeld m then m
  else
    let m := advanceTo (t.edgeAt + at_) m
    let p := t.period.toNat
    if following t then
      if inWindow at_ p then modTick (fun x => { x with nextEdge := some (x.nextEdge.getD (t.edgeAt + at_)) }) m
      else modTick (fun x => { x with spurious := satInc x.spurious }) m
    else if inWindow at_ 0 then modTick (fun x => { x with hit := true }) m
    else
      let next := t.seqEdge + seqOffset p (t.seqNum + 1) - t.edgeAt
      if next ≤ at_ + 204 ∧ at_ ≤ next + 204 then modTick (fun x => { x with early := true }) m
      else modTick (fun x => { x with spurious := satInc x.spurious }) m

/-- The window around the current edge has closed (R15, R53): after REACQ windows in a row that were hit, edges follow the
external source again. DEDUCED: log entry 59. -/
def windowClose (m : Mach) : Mach :=
  let t := m.tick
  if !t.src || t.extLock then m
  else
    let n := if t.hit then t.streak + 1 else 0
    if t.reacq.toNat ≤ n then
      modTick (fun x => { x with
        extLock := true, holdover := false, holdTicks := 0, streak := 0, hit := false, early := false }) m
    else modTick (fun x => { x with streak := n, hit := false }) m

/-! ### The phases after an edge -/

/-- The apply of the tick that has ended, at edge + 5 µs (R21). -/
def applyPhase (m : Mach) : Mach :=
  if m.tick.phase ≠ .p0 then m
  else
    let m := windowClose (advanceTo (m.tick.edgeAt + usClk 5) m)
    let m := if m.mode.mode = .hardpan then m else allChans.foldl (fun m c => applyOut m.dbg.bscan c m) m
    modTick (fun t => { t with phase := .applied }) m

/-- An engine may start slots. -/
def mayStart (m : Mach) (e : BitVec 7) : Bool :=
  let g := m.engines.get e
  validEngine m e && !g.halted && g.cur.isNone && !g.keeper && decide (m.pwr.tiles.get (tileOf e) = .on)

/-- P1 begins, at edge + 10 µs: deferred resumes take effect (R473) and slot 0 of each list starts. -/
def p1Phase (m : Mach) : Mach :=
  let m := applyPhase m
  if m.tick.phase ≠ .applied then m
  else
    let m := modTick (fun t => { t with phase := .p1 }) (advanceTo (m.tick.edgeAt + usClk 10) m)
    let m := allEngines.foldl (fun m e =>
      let x := m.dbg.engs.get e
      if x.defer then resumeNow e x.deferStep m else m) m
    if slotsRun m.mode.mode then allEngines.foldl (fun m e => if mayStart m e then startNext e m else m) m else m

/-- An engine at C: its running slot is aborted and slots that have not started are skipped (R33, R34), unless it is
halted (R472). -/
def engineClose (e : BitVec 7) (m : Mach) : Mach :=
  let g := m.engines.get e
  if g.halted || g.keeper then m
  else if g.cur.isSome then overrunSlot e m
  else if g.todo.isEmpty then m
  else startNext e m

/-- The commit window closes, at C (R19, R32, R324): running slots are aborted, records are collected and checked, and
OUT_REL is taken for the apply to come (R46). DESIGN CHOICE: log entry 7. -/
def closePhase (m : Mach) : Mach :=
  let m := p1Phase m
  if m.tick.phase ≠ .p1 then m
  else
    let m := modTick (fun t => { t with phase := .closed }) (advanceTo (closeAt m.tick) m)
    let m := allEngines.foldl (fun m e => engineClose e m) m
    let m := if m.mode.mode = .hardpan then m else allChans.foldl (fun m c => collect c m) m
    modMode (fun x => { x with outRelAtC := x.outRel }) m

/-! ### The edge -/

/-- What the tick that ends leaves at the shells and timers (R318 to R322, R342). -/
def endTick (c : BitVec 8) (m : Mach) : Mach :=
  let t := (m.chans.get c).timer
  let m := if t.run && !t.stopped then timerEvents c 4#4 (modChan c (fun x => { x with timer := x.timer.capture }) m) else m
  let m := freeze m.tick.count c (timerSample m.pwr.railLow c m)
  modChan c (fun x => { x with timer := x.timer.newTick }) m

/-- A freeze takes effect, or ends with the filters cleared (R480). DEDUCED: log entry 59. -/
def freezeEdge (c : BitVec 8) (m : Mach) : Mach :=
  let on := freezeOn m c 0
  if (m.chans.get c).frozen = on then m
  else modChan c (fun x => if on then { x with frozen := true } else restart { x with frozen := false }) m

/-- A channel in P0, under the mode in force: an ended ramp, a pending commit, its timer (R275, R328, R334, R344). -/
def startTick (c : BitVec 8) (m : Mach) : Mach :=
  let m := applyCommit c (rampEdge c (freezeEdge c m))
  let x := m.chans.get c
  let r := x.timer.edge x.mode (timersRun m.mode.mode) (x.rampCmp m.clk) m.clk
  timerEvents c r.2 (modChan c (fun x => { x with timer := r.1 }) m)

/-- The registers written for this edge, and the sequence that the edge belongs to (R12, R14, R17, R53). -/
def newTick (at_ : Nat) (t : TickSt) : TickSt :=
  let p := t.periodNext.getD t.period
  let src := t.srcNext.getD t.src
  let anew := following t || t.nextEdge.isSome || decide (p ≠ t.period)
  { t with
    count := t.count + 1#64, period := p, src := src
    limit := t.limitNext.getD t.limit, reacq := t.reacqNext.getD t.reacq
    periodNext := none, srcNext := none, limitNext := none, reacqNext := none
    extLock := t.extLock && src, holdover := t.holdover && src
    holdTicks := if t.holdover && t.nextEdge.isNone then t.holdTicks + 1 else t.holdTicks
    streak := if src then t.streak else 0, hit := t.early && src, early := false
    edgeAt := at_, seqEdge := if anew then at_ else t.seqEdge, seqNum := if anew then 0 else t.seqNum + 1
    nextEdge := none, phase := .p0, copied := 0, window := none }

/-- Counts of a tick begin anew: quotas of message DMA (R392), device vectors (R391), owner events (R454), the mirror's
bisques and the link's idle ticks (R506, R509), the commit marks of the buffer in use (R324). -/
def clearTick (m : Mach) : Mach :=
  let b := bit m.tick.count 0
  { m with
    marks := m.marks.map fun x => if b then (x.1, none) else (none, x.2)
    host := { m.host with
      portA := { m.host.portA with oneShot := 0#16 }, portB := { m.host.portB with oneShot := 0#16 }
      quota := m.host.quota.map fun q => { q with dma := 0 } }
    faults := { m.faults with ownerEvents := [] }
    yl := { m.yl with lastBisques := m.yl.bisques, bisques := [], mirSent := false, idleTicks := m.yl.idleTicks + 1 } }

/-- Tiles whose power-up has ended take part from this edge on (R493). -/
def tilesOn (m : Mach) : Mach :=
  modPwr (fun p => { p with tiles := p.tiles.map fun x => if x = .warm then .on else x }) m

/-- EDGE n+1 at clock `at_`; bit g of `grpOut` says that the references of group g are out of window (R283), and `reread`
names the replicas whose loaded state differs when it is read back (R200, R229). E0's copy window opens (R27). -/
def edge (at_ : Nat) (grpOut : W32) (reread : List (BitVec 5 × BitVec 2)) (m : Mach) : Mach :=
  let m := enterHardpan (advanceTo at_ m)
  let m := allChans.foldl (fun m c => endTick c m) m
  let m := clearTick (modTick (newTick at_) m)
  let m := modeEdge (allEngines.foldl (fun m e => watchdogEdge e m) m)
  let m := bankSwap (tilesOn (allTiles.foldl (fun m t => tileEdge ((reread.filter fun x => x.1 = t).map Prod.snd) t m) m))
  let m := latchSpans (latchOwners m)
  let m := copier at_ (if slotsRun m.mode.mode then m else modTick (fun t => { t with copied := 128 }) m)
  let m := allChans.foldl (fun m c => startTick c m) m
  let m := (range 0 32).foldl (fun m g => groupCheck g (bit grpOut g) m) m
  clockEdge m

/-- The next edge comes when the generator places it; phases of the tick that have not been named come about before it.
DEDUCED: log entry 9. -/
def tickEdge (grpOut : W32) (reread : List (BitVec 5 × BitVec 2)) (m : Mach) : Mach :=
  if !tickRuns m then m
  else
    match nextEdgeAt m.tick with
    | none => m
    | some t => edge t grpOut reread (closePhase m)

/-- TICK_EDGE (R19): The tick generator produces edge n: the tick counter advances, records of tick n−1 are frozen and P0 begins. -/
def execTickEdge (grpOut : BitVec 32) (reread : List (BitVec 5 × BitVec 2)) (s : State) : Res := s.on (tickEdge grpOut reread)

/-- APPLY_OUTPUTS (R21): At edge + 5 µs every output with a checked record committed in the previous tick changes at once, others hold or take CH_SAFE. -/
def execApplyOutputs (s : State) : Res := s.on fun m => if tickRuns m then applyPhase m else m

/-- P1_START (R19): At edge + 10 µs P1 begins on every engine at once and slot 0 of each list starts. -/
def execP1Start (s : State) : Res := s.on fun m => if tickRuns m then p1Phase m else m

/-- COMMIT_CLOSE (R19): At C the commit window closes, running slots are aborted and marked output records are collected and checked. -/
def execCommitClose (s : State) : Res := s.on fun m => if tickRuns m then closePhase m else m

/-- TICK_SYNC_EDGE (R13): A rising edge on the tick-sync input is taken as the next tick edge if inside the window, otherwise counted as spurious. -/
def execTickSyncEdge (at_ : Nat) (s : State) : Res := s.on (tickSync at_)

/-- No tick-sync edge has come by E + 2 µs (R14). -/
def holdoverEntry (m : Mach) : Mach :=
  let t := m.tick
  if !tickRuns m || !following t || t.nextEdge.isSome then m
  else
    let m := closePhase m
    let x := t.edgeAt + (2 * (512 * t.period.toNat + 1024) + 5) / 10
    modTick (fun t => { t with
      nextEdge := some x, holdover := true, extLock := false, holdTicks := 0, expDone := false, streak := 0, hit := false
      early := false }) (advanceTo x m)

/-- HOLDOVER_ENTRY (R14): With no tick-sync edge by E + 2 µs the generator places the edge itself and enters holdover. -/
def execHoldoverEntry (s : State) : Res := s.on holdoverEntry

/-- HOLD_EXPIRED (R16): After TICK_HOLD.LIMIT ticks of holdover HOLD_EXPIRED is set and the tick-holdover fault is reported.
DEDUCED: log entry 8. -/
def execHoldExpired (s : State) : Res :=
  s.on fun m =>
    let t := m.tick
    if tickRuns m && t.holdover && !t.expDone && decide (t.limit.toNat ≤ t.holdTicks) then
      report 0x0101 (put 64 t.limit 0) (modTick (fun t => { t with holdExpired := true, expDone := true }) m)
    else m

/-! ### Budgets (R33, R176, R219) -/

/-- The budget of an engine's running slot ends. DESIGN CHOICE: log entry 7. DESIGN CHOICE: log entry 21. -/
def budgetExpire (e : BitVec 7) (m : Mach) : Mach :=
  let g := m.engines.get e
  match g.cur with
  | some r =>
    if g.halted || !r.begun || !tickRuns m then m
    else pumped e (overrunSlot e (advanceTo (r.start + usClk r.slot.budget.toNat) m))
  | none => m

/-- SLOT_BUDGET_EXPIRE (R33): A slot still running at the end of its budget is aborted as an overrun and the next slot starts. -/
def execSlotBudgetExpire (e : BitVec 7) (s : State) : Res := s.on (budgetExpire e)

/-- 5 µs of budget are left in a slot with a budget above 20 µs (R176). -/
def budgetWarning (e : BitVec 7) (m : Mach) : Mach :=
  let g := m.engines.get e
  match g.cur with
  | some r =>
    if g.halted || r.warned || !r.begun || decide (r.slot.budget.toNat ≤ 20) || !tickRuns m then m
    else
      modEng e (fun g => { g with budgetPend := true, cur := g.cur.map fun r => { r with warned := true } })
        (advanceTo (r.start + usClk (r.slot.budget.toNat - 5)) m)
  | none => m

/-- BUDGET_WARNING (R176): With 5 µs of budget left in a slot longer than 20 µs, the budget warning interrupt becomes pending.
DEDUCED: log entry 8. -/
def execBudgetWarning (e : BitVec 7) (s : State) : Res := s.on (budgetWarning e)

end Sys2Proof.Machine
end

