-- ==== Sys2Proof/Machine/HostPorts.lean ====
section
/-! DEFINITION. Rings and ports as shared operations (R362 to R398): a port's accesses to module memory and to the host,
completions, quotas, the opening and freeing of rings, and the port reset. -/

namespace Sys2Proof.Machine

open Sys2Proof

def modRing (r : Byte) (f : Ring → Ring) (m : Mach) : Mach := modHost (fun h => { h with rings := h.rings.upd r f }) m

def ringOf (m : Mach) (r : Byte) : Ring := m.host.rings.get r

def allRings : List Byte := (range 0 256).map (BitVec.ofNat 8)

/-- Rings 0 and 1 (R373). -/
def isAdmin (r : Byte) : Bool := decide (r.toNat < 2)

/-- The sizes of the two queues (R373). -/
def Ring.ns (x : Ring) : Nat := 2 ^ x.sqLog.toNat
def Ring.nc (x : Ring) : Nat := 2 ^ x.cqLog.toNat

/-- The pages of a ring area (R375). -/
def areaPages (ns nc : Nat) : Nat := (0x40 + 64 * ns + 32 * nc + 4095) / 4096

/-- Descriptors fetched whose completion has not been written (R379). -/
def Ring.outstanding (x : Ring) : Nat := x.msgs.length + x.svcs.length + x.waiting.length

/-- A port can issue requests to its host. -/
def portGo (m : Mach) (p : Bool) : Bool := (portOf m.host p).up && (portOf m.host p).busMaster

/-! ### Accesses of a port to module addresses (R260, R375, R382) -/

/-- The identity of a port in the name of a ring's compartment. -/
def portFence (x : Ring) : FenceId := .cls x.owner (if x.port then 1#2 else 0#2)
def portAt (x : Ring) : Port := if x.port then portHostB else portHostA
def portWho (x : Ring) : Who :=
  ⟨if x.port then .hostB else .hostA, 0x7F#7, x.owner, 0#2, 0#36, 0#64, 0#6⟩
def portAcc (x : Ring) : Acc := ⟨false, 0x7F#7, x.owner, 0#2⟩

/-- The granules that a transaction of `n` bytes touches, with whether it covers each whole. -/
def touched (a : Addr) (n : Nat) : List (Nat × Bool) :=
  (range (granOf a) ((a.toNat + n + 15) / 16 - granOf a)).map fun g =>
    (g, decide (a.toNat ≤ 16 * g) && decide (16 * g + 16 ≤ a.toNat + n))

/-- One write transaction within a page; false where it is refused. Register space takes an aligned word only (R4). -/
def portWrite (x : Ring) (a : Addr) (l : List Byte) (m : Mach) : Bool × Mach :=
  let p := fenceCheck (portAt x) (portFence x) a true m
  if !p.1 then (false, p.2)
  else
    match region a with
    | .regs =>
      if l.length = 4 ∧ a.toNat % 4 = 0 then regWrite (portWho x) a (BitVec.ofNat 32 (leNat l)) p.2 else (false, p.2)
    | .tile _ | .shared | .dram =>
      if (touched a l.length).all fun g => (areaRefusal false false g.2 (granAddr g.1)).isNone then
        (true, writeBytesFuel (portAcc x) (l.length + 1) a l p.2)
      else (false, p.2)
    | _ => (false, p.2)

/-- One read transaction of `n` bytes within a page; none where it is refused. A shadow-stack area is no port's to read
(R155). -/
def portRead (x : Ring) (a : Addr) (n : Nat) (m : Mach) : Option (List Byte) × Mach :=
  let p := fenceCheck (portAt x) (portFence x) a false m
  if !p.1 then (none, p.2)
  else
    match region a with
    | .regs =>
      if n = 4 ∧ a.toNat % 4 = 0 then
        let (v, m) := regRead (portWho x) a p.2
        (v.map fun v => bytesOf v 0 4, m)
      else (none, p.2)
    | .bootRom | .tile _ | .shared | .dram =>
      if (touched a n).any fun g => inShadow (granAddr g.1) then (none, p.2)
      else
        let (l, m) := codedBytes (portAcc x) a n p.2
        (some l, m)
    | _ => (none, p.2)

/-- A word of a ring area read, 0 where the fence map refuses it. -/
def areaRead (x : Ring) (o : Nat) (m : Mach) : W32 × Mach :=
  let (l, m) := portRead x (x.area + BitVec.ofNat 36 o) 4 m
  (BitVec.ofNat 32 (leNat (l.getD [])), m)

/-- A word of a ring area written by the port. -/
def areaWrite (x : Ring) (o : Nat) (v : W32) (m : Mach) : Mach :=
  (portWrite x (x.area + BitVec.ofNat 36 o) (bytesOf v 0 4) m).2

/-- The length of the next transaction of a DMA (R382): at most 64 bytes, within a page on either side. -/
def dmaStep (maddr : Addr) (haddr : BitVec 64) (n : Nat) : Nat :=
  min (min n 64) (min (4096 - maddr.toNat % 4096) (4096 - haddr.toNat % 4096))

/-- Bytes moved for a compartment in this tick (R392, R393). -/
def countDma (c : BitVec 10) (n : Nat) (m : Mach) : Mach :=
  modHost (fun h => { h with quota := h.quota.upd c fun q => { q with dma := q.dma + n } }) m

/-- How a DMA has ended: the bytes moved, and the status that stops it. -/
structure DmaEnd where
  moved : Nat
  status : Option Byte
  deriving DecidableEq, Repr

def stFence : Byte := 4#8
def stHostDma : Byte := 5#8

/-- A DMA in of `n` bytes (R382); `l` are the bytes that the host delivers before an error or timeout.
DEDUCED: log entry 34. -/
def dmaIn (x : Ring) : Nat → Addr → BitVec 64 → Nat → List Byte → Nat → Mach → DmaEnd × Mach
  | 0, _, _, _, _, k, m => (⟨k, none⟩, m)
  | fuel + 1, a, h, n, l, k, m =>
    let s := dmaStep a h n
    if n = 0 then (⟨k, none⟩, m)
    else if l.length < s then (⟨k, some stHostDma⟩, m)
    else
      let (ok, m) := portWrite x a (l.take s) m
      if ok then
        dmaIn x fuel (a + BitVec.ofNat 36 s) (h + BitVec.ofNat 64 s) (n - s) (l.drop s) (k + s) (countDma x.owner s m)
      else (⟨k, some stFence⟩, m)

/-- A DMA out of `n` bytes (R382). DEDUCED: log entry 34. -/
def dmaOut (x : Ring) : Nat → Addr → BitVec 64 → Nat → Nat → Mach → DmaEnd × Mach
  | 0, _, _, _, k, m => (⟨k, none⟩, m)
  | fuel + 1, a, h, n, k, m =>
    let s := dmaStep a h n
    if n = 0 then (⟨k, none⟩, m)
    else
      match portRead x a s m with
      | (some l, m) =>
        dmaOut x fuel (a + BitVec.ofNat 36 s) (h + BitVec.ofNat 64 s) (n - s) (k + s)
          (countDma x.owner s (emit (.hostWrite x.port h l) m))
      | (none, m) => (⟨k, some stFence⟩, m)

/-! ### Completions (R374, R384, R385, R390) -/

/-- The 32 bytes of a completion, but for where it goes. -/
def complBytes (r : Byte) (x : Ring) (tick : BitVec 64) (c : Compl) : List Byte :=
  bytesOf c.r0 0 8 ++ bytesOf c.r1 0 8 ++ bytesOf c.xfer 0 4 ++ bytesOf tick 0 4 ++ bytesOf c.cid 0 2 ++ bytesOf x.f 0 2
    ++ [r, 0#8, c.status, at_ x.phase 0]

/-- The CQ has room and the host can be reached (R374). -/
def cqRoom (m : Mach) (x : Ring) : Bool := decide ((x.cqTail.toNat + 1) % x.nc ≠ x.cqHead.toNat) && portGo m x.port

/-- A completion is written at the CQ tail. DEDUCED: log entry 34. -/
def writeCompl (r : Byte) (c : Compl) (m : Mach) : Mach :=
  let x := ringOf m r
  let m := emit (.hostWrite x.port (x.cqAddr + BitVec.ofNat 64 (32 * x.cqTail.toNat)) (complBytes r x m.tick.count c)) m
  let t := (x.cqTail.toNat + 1) % x.nc
  let m := modRing r (fun x => { x with cqTail := BitVec.ofNat 16 t, phase := if t = 0 then !x.phase else x.phase }) m
  if c.irq ∧ (x.port, x.owner) ∉ m.host.irqs then modHost (fun h => { h with irqs := h.irqs ++ [(x.port, x.owner)] }) m else m

/-- Completions that wait are written in order while there is room. -/
def flushCompl (r : Byte) : Nat → Mach → Mach
  | 0, m => m
  | n + 1, m =>
    let x := ringOf m r
    match x.waiting with
    | [] => m
    | c :: l => if cqRoom m x then flushCompl r n (writeCompl r c (modRing r (fun x => { x with waiting := l }) m)) else m

/-- A descriptor completes: its completion is written, after those that wait. Those of a ring that is DOWN or FREE are
dropped (R395). DEDUCED: log entry 34. -/
def complete (r : Byte) (c : Compl) (m : Mach) : Mach :=
  let x := ringOf m r
  if x.st = .active ∨ x.st = .deleting then
    flushCompl r (x.waiting.length + 1) (modRing r (fun x => { x with waiting := x.waiting ++ [c] }) m)
  else m

/-! ### Quotas (R392, R393) -/

/-- The entries of an engine's slot list in a bank, up to the first that is not VALID: positions and granules. -/
def bankList (m : Mach) (b : Bool) (e : BitVec 7) : List (BitVec 6 × Gran) :=
  ((range 0 64).map fun p => (BitVec.ofNat 6 p, m.mem.data (granOf (slotAddr b e (BitVec.ofNat 6 p))))).takeWhile
    fun x => bit x.2 64

/-- The compartments and budgets of the active bank's slots. -/
def bankBudgets (m : Mach) : List (BitVec 10 × Nat) :=
  allEngines.flatMap fun e => (bankList m m.tick.active e).map fun x => (fld x.2 0 10, (fld x.2 32 20 : BitVec 20).toNat)

def sumNat (l : List Nat) : Nat := l.foldl (· + ·) 0

/-- The sum of a compartment's budgets. -/
def engineUse (l : List (BitVec 10 × Nat)) (c : BitVec 10) : Nat :=
  sumNat ((l.filter fun x => decide (x.1 = c)).map Prod.snd)

/-- Descriptors outstanding, windows mapped, and pages held by a compartment. -/
def outstandingOf (h : HostIf) (c : BitVec 10) : Nat :=
  sumNat (h.rings.toList.map fun x => if x.st ≠ .free ∧ x.owner = c then x.outstanding else 0)
def windowsOf (h : HostIf) (c : BitVec 10) : Nat := (h.win.toList.filter fun w => w.valid && decide (w.owner = c)).length
def pagesOf (h : HostIf) (c : BitVec 10) : Nat :=
  sumNat ((h.allocs.filter fun a => decide (a.comp = c)).map Alloc.pages)

/-- The use of each item of R392 but ENGINE, which is given. -/
def quotaUse (h : HostIf) (engine : Nat) (c : BitVec 10) : List Nat :=
  [outstandingOf h c, (h.quota.get c).dma, windowsOf h c, pagesOf h c, engine]

def quotaLimit (h : HostIf) (c : BitVec 10) (i : Nat) : Nat := ((h.quota.get c).limit.get (BitVec.ofNat 3 i)).toNat

/-! ### Rings opened and freed (R375, R388, R389) -/

/-- Pages of module memory that the keeper can hand out: all of one kind, none of them handed out already. -/
def pagesFree (m : Mach) (a : Addr) (n : Nat) : Bool :=
  let z := a.toNat + 4096 * n
  decide (a.toNat % 4096 = 0) && decide (0 < n)
    && ((decide (0x4000_0000 ≤ a.toNat) && decide (z ≤ 0x40F0_0000)) || (decide (0x8_0000_0000 ≤ a.toNat) && decide (z ≤ 2 ^ 36)))
    && m.host.allocs.all fun x => decide (z ≤ x.addr.toNat) || decide (x.addr.toNat + 4096 * x.pages ≤ a.toNat)

/-- A fence entry over pages for one compartment; a limit of 2^36 is written as 0 (R257). -/
def pagesEntry (a : Addr) (n : Nat) (c : BitVec 10) (rings : Byte) (lock : Bool) (masters : Byte) : FenceEntry :=
  { w0 := BitVec.ofNat 32 (a.toNat / 4096), w1 := BitVec.ofNat 32 ((a.toNat / 4096 + n) % 2 ^ 24)
    w2 := put 32 rings 0 ||| at_ true 8 ||| at_ lock 9 ||| at_ true 10 ||| put 32 c 12, w3 := put 32 masters 0 }

/-- The lowest fence entry that is free. -/
def freeFence (m : Mach) : Option (BitVec 6) :=
  ((range 0 64).map (BitVec.ofNat 6)).find? fun i => !(m.mc.fence.get i).valid && !(m.mc.fence.get i).locked

/-- The prescribed change of a fence entry (R265). DEDUCED: log entry 34. -/
def setFence (i : BitVec 6) (f : FenceEntry) (m : Mach) : Mach :=
  invalidateRegions 0#7 true (modMc (fun c => { c with fence := c.fence.set i f }) m)

/-- The fence entry of a ring area (R375): its port's class, and rings 1 and 2, may read and write for the compartment. -/
def areaEntry (x : Ring) (a : Addr) (n : Nat) : FenceEntry :=
  pagesEntry a n x.owner 0x3C#8 false (if x.port then 0x0C#8 else 0x03#8)

/-- A ring becomes ACTIVE over an area: its pages are allocated and cleared at their head, the fence entry is written and the
capability is delivered through gate 1 (R375, R388). -/
def openRing (r : Byte) (x : Ring) (a : Addr) (i : BitVec 6) (m : Mach) : Mach :=
  let n := areaPages x.ns x.nc
  let x := { x with st := .active, area := a, phase := true }
  let m := modHost (fun h => { h with
    allocs := h.allocs ++ [⟨x.owner, a, n⟩]
    delivered := h.delivered ++ [(x.owner, Cap.make a a (a + BitVec.ofNat 36 (4096 * n)) 3#8 x.owner 0#2 true, put 64 r 0)] }) m
  let m := setFence i (areaEntry x a n) m
  let m := writeBytes a (List.replicate 8 0#8 ++ [1#8] ++ List.replicate 55 0#8) m
  modRing r (fun _ => x) m

/-- A ring's context and pages become free; messages not answered are dropped (R389). -/
def freeRing (r : Byte) (m : Mach) : Mach :=
  let x := ringOf m r
  let e := areaEntry x x.area (areaPages x.ns x.nc)
  let m := areaWrite x 8 0#32 m
  let m := invalidateRegions 0#7 true (modMc (fun c => { c with fence := c.fence.map fun f => if f = e then FenceEntry.reset else f }) m)
  modHost (fun h => { h with
    allocs := h.allocs.filter fun y => decide (y.addr ≠ x.area)
    svc := h.svc.filter fun q => decide (q.ring ≠ r)
    rings := h.rings.set r Ring.reset }) m

/-- A service's CID and IRQ leave the list of those being performed, and its completion is written. -/
def svcDone (r : Byte) (cid : BitVec 16) (irq : Bool) (status : Byte) (r0 r1 : W64) (xfer : Nat) (m : Mach) : Mach :=
  complete r ⟨r0, r1, BitVec.ofNat 32 xfer, cid, status, irq⟩
    (modRing r (fun x => { x with svcs := x.svcs.erase (cid, irq) }) m)

/-- A ring that is being deleted is freed, and its DELETE_RING completes with the number of descriptors dropped (R389). -/
def finishDelete (r : Byte) (m : Mach) : Mach :=
  let x := ringOf m r
  if x.st ≠ .deleting then m
  else
    let m := freeRing r m
    match x.delBy with
    | some (q, cid, irq) => svcDone q cid irq 0#8 (BitVec.ofNat 64 x.outstanding) 0#64 0 m
    | none => m

/-- A ring begins to be deleted. -/
def startDelete (r : Byte) (by_ : Option (Byte × BitVec 16 × Bool)) (m : Mach) : Mach :=
  let x := ringOf m r
  modRing r (fun x => { x with st := .deleting, delBy := by_, delAt := m.clk + usClk 100_000 }) (areaWrite x 8 4#32 m)

/-! ### A port lost (R366, R395) -/

/-- A ring on a port that is lost goes to DOWN; what was fetched from it is abandoned. One being deleted is freed. -/
def ringDown (r : Byte) (m : Mach) : Mach :=
  let x := ringOf m r
  if isAdmin r then
    (if x.st = .free then m else freeRing r m)
  else if x.st = .active then
    modHost (fun h => { h with svc := h.svc.filter fun q => decide (q.ring ≠ r) })
      (modRing r (fun x => { x with st := .down, msgs := [], svcs := [], waiting := [] }) (areaWrite x 8 2#32 m))
  else if x.st = .deleting then finishDelete r m
  else m

/-- PORT RESET: the port's registers and MSI-X table return to their reset values, its admin ring is disabled, its other
rings go to DOWN, and the other port is told. -/
def portReset (p perst : Bool) (m : Mach) : Mach :=
  let m := modPort p (fun _ => { HPort.reset with perst := perst }) m
  let m := allRings.foldl (fun m r =>
    let x := ringOf m r
    if x.st ≠ .free ∧ x.port = p then ringDown r m else m) m
  deviceVectorOn (!p) 5 (report 0x0901 (at_ p 0) m)

/-! ### Removal (R397, R504, R519) -/

/-- HOLD: OPERATE with the outputs released (R507). DEDUCED: log entry 56. -/
def holdNow (m : Mach) : Bool := decide (m.mode.mode = .operate) && m.mode.outRel

/-- GIVE: HOLD while a request to leave OPERATE is pending (R507). DEDUCED: log entry 56. -/
def giveNow (m : Mach) : Bool := holdNow m && m.mode.pend.isSome

/-- The keeper writes MODE_REQ. -/
def keeperMode (k : Mode) (m : Mach) : Mach :=
  modeAnnounce m (modeRequest (put 32 (modeCode k) 0 ||| 0x5A3C_0000#32) m)

/-- Step 2 of R504: the keeper asks for SLEEP, once the partner has taken over where it must. DEDUCED: log entry 36. -/
def removalStep (m : Mach) : Mach :=
  if !m.host.removal || decide (m.mode.mode = .sleep) || decide (m.mode.mode = .hardpan) || m.mode.pend.isSome then m
  else if holdNow m && m.yl.pres && !bit m.yl.pflags 1 then m
  else keeperMode .sleep m

/-- Step 1 of R504. -/
def startRemoval (by_ : Option (Byte × BitVec 16 × Bool)) (m : Mach) : Mach :=
  removalStep (modYl (fun y => { y with rmv := true })
    (modHost (fun h => { h with removal := true, removalBy := by_, drainAt := none }) m))

/-- An attention input that acts: once KREADY is set (R519). -/
def attnAct (m : Mach) : Mach :=
  if m.host.attnHeld && (m.host.kready || decide (m.mode.mode = .hardpan)) then
    startRemoval m.host.removalBy (modHost (fun h => { h with attnHeld := false, attnSeen := true }) m)
  else m

/-- The rings are being drained for a removal (step 3 of R504). -/
def draining (m : Mach) : Bool :=
  m.host.removal && (decide (m.mode.mode = .sleep) || decide (m.mode.mode = .hardpan))

end Sys2Proof.Machine
end

