-- ==== Sys2Proof/Machine/PowerFail.lean ====
section
/-! DEFINITION. Power up, the start-up checks, and the loss of MAIN (R41, R50, R71, R255, R414, R421, R484 to R488). -/

namespace Sys2Proof.Machine

open Sys2Proof

/-! ### From DORMANT to OPERATE -/

/-- Relays that wait are driven where the guard passes (R491). -/
def drivePending (m : Mach) : Mach :=
  (range 0 2).foldl (fun m k => if bit m.bkp.pend k && m.bkp.guard then driveRelay k 0#64 m else m) m

/-- WAKE from DORMANT: memory has been lost, the straps are sampled (R50, R486, R517). `dt` is the time spent in DORMANT.
DESIGN CHOICE: log entry 32. -/
def powerUp (slot : Byte) (dt : Nat) (fu : Fuses) (m : Mach) : Mach :=
  let m := advanceTo (m.clk + dt) m
  let m := wakeStart 0#4 m.mode.prevKept ⟨[], [], [], []⟩ fu
    { m with pwr := { m.pwr with mainOk := true }, host := { m.host with slot := slot } }
  enterHardpan (drivePending m)

/-- LOGIC_SUPPLIES_IN_REGULATION (R484): With MAIN valid the logic rails come up in order and, once in regulation, DORMANT passes to WAKE. -/
def execLogicSuppliesInRegulation (slot : BitVec 8) (dt : Nat) (s : State) : Res :=
  if s.m.mode.mode = .dormant then .next { s with m := powerUp slot dt s.fuses s.m } else .next s

/-- Codewords that the march found corrected, counted per device and row (R247, R253, R255). -/
def marchCounts (l : List (Nat × BitVec 5)) (m : Mach) : Mach :=
  l.foldl (fun m x => if isDram x.1 then countDevice x.1 x.2 m else m) m

/-- The run-time spares of a channel that could not be applied (R253, R266): those that their device refuses, and those that find
a spare of the same bank group of the same device applied before. `done` are the places already taken.
DEDUCED: log entry 50. -/
def unusable (refused : W32) : List W32 → Nat → List (BitVec 7) → W32
  | [], _, _ => 0#32
  | w :: r, k, done =>
    let place : BitVec 7 := fld w 19 7
    if !bit w 31 then unusable refused r (k + 1) done
    else if bit refused k || decide (place ∈ done) then at_ true k ||| unusable refused r (k + 1) done
    else unusable refused r (k + 1) (place :: done)

/-- The end of the checker tests and the march: memory holds 0, or the WAKE ends in HARDPAN with the failing address. `pass` says
that no checker failed and no word was uncorrectable; a corrected SRAM word fails the test too (R255, R256). `refused0` and
`refused1` are the spares that the devices do not accept. DEDUCED: log entry 50. -/
def marchEnd (pass : Bool) (bad : Addr) (corr : List (Nat × BitVec 5)) (refused0 refused1 : W32) (m : Mach) : Mach :=
  if m.mode.mode ≠ .wake ∨ m.mode.marchDone = true then m
  else
    let l := match bootSpare m.sec with
      | some x => x.2.2
      | none => []
    let m := marchCounts corr (modMc (fun c => { c with
      spst0 := unusable refused0 (l.take 32) 0 [], spst1 := unusable refused1 (l.drop 32) 0 [] }) m)
    let sram := corr.find? fun x => !isDram x.1
    let ok := checkersPass && pass && sram.isNone
    let at' := match sram with
      | some x => if pass then granAddr x.1 else bad
      | none => bad
    let m := modMode (fun x => { x with marchDone := ok }) { m with mem := ⟨[], [], [], []⟩ }
    if ok then m else reportNow 0x0406 (argAD at' 0x7F#7 0#2 0#10) m

/-- MARCH_TEST_END (R255): The start-up checker tests and March C− test over SRAM and DRAM complete, passing or ending WAKE in HARDPAN. -/
def execMarchTestEnd (pass : Bool) (bad : BitVec 36) (corr : List (Nat × BitVec 5)) (spst0 spst1 : BitVec 32) (s : State) : Res :=
  s.on (marchEnd pass bad corr spst0 spst1)

/-- The boot succeeds on the generation of the slot in force (R421). -/
def bootSucceeds (x : Sec) : Bool := bit x.bootStat 1 && !bit x.bootStat 2 && bit x.bootStat 4

/-- The last check of R414: it passes once memory has passed and, in a provisioned module, the DRBG is READY, and KDEV names the
device whose keeper image runs; or the keeper image or compartment 1's fails, with the boot-image fault.
DEDUCED: log entry 50. -/
def checksEnd (ok : Bool) (kind : BitVec 4) (dev : Bool) (res : BitVec 4) (m : Mach) : Mach :=
  if m.mode.mode ≠ .wake ∨ m.mode.checksPassed = true then m
  else if ok then
    let prov := m.sec.fuse.provisioned
    if m.mode.marchDone && (!prov || decide (m.sec.drbg = .ready)) then
      modSec (fun x => { x with floorDue := prov && bootSucceeds x, bootStat := setFld x.bootStat 3 1 (at_ dev 0 : BitVec 1) })
        (modHost (fun h => { h with kready := h.kready || prov }) (modMode (fun x => { x with checksPassed := true }) m))
    else m
  else reportNow 0x0702 (put 64 kind 0 ||| at_ dev 4 ||| put 64 res 8) m

/-- START_UP_CHECKS_COMPLETE (R41): The last boot check passes and WAKE ends in COMMISSION or OPERATE at the next edge. -/
def execStartUpChecksComplete (ok : Bool) (kind : BitVec 4) (dev : Bool) (res : BitVec 4) (s : State) : Res :=
  s.on (checksEnd ok kind dev res)

/-! ### The floor burn (R421) -/

/-- Bits of a T field's word `k` below a count. -/
def floorMask (n k : Nat) : W32 :=
  if 32 * (k + 1) ≤ n then BitVec.allOnes 32 else BitVec.ofNat 32 (2 ^ (n - 32 * k) - 1)

/-- The floor words with the bits that the burn takes in: those below the new count that read 0 at M1. -/
def floorWords (x : Sec) : List (Nat × W32) :=
  let w (a n count : Nat) := (range 0 n).map fun k => (a + k, floorMask count k &&& ~~~(x.fuse.hi (a + k)))
  w 150 8 (min x.keyGen.toNat 256) ++ w 158 4 (min x.keySvn.toNat 128)

/-- The burn carried out; bit 32 k + i of `fail` is bit i of the k-th floor word failing, and of `weak` that bit then reading
1 at M0. -/
def floorBurn (fail weak : BitVec 384) (f : Fuses) (x : Sec) : Fuses :=
  (floorWords x).foldl (fun f p =>
    let k := p.1 - 150
    let bad : W32 := fld fail (32 * k) 32
    f.program (BitVec.ofNat 8 p.1) (p.2 &&& ~~~bad) (p.2 &&& bad &&& fld weak (32 * k) 32)) f

/-- FLOOR_BURN (R421): Within 1 s of a successful boot the keeper burns KEY_FLOOR and SVN_FLOOR up to their new counts.
DEDUCED: log entry 60. -/
def execFloorBurn (fail weak : BitVec 384) (s : State) : Res :=
  let x := s.m.sec
  if x.floorDue && slotsRun s.m.mode.mode && x.burn.isNone && !s.m.pwr.pfw then
    let f := floorBurn fail weak s.fuses x
    .next { s with fuses := f, m := modSec (fun x => { x with fuse := f, floorDue := false }) s.m }
  else .next s

/-! ### The loss of MAIN (R71, R486 to R488) -/

/-- MAIN falls below 16.0 V, or returns within the ride-through. -/
def mainInterruption (back : Bool) (m : Mach) : Mach :=
  match m.pwr.supply, back with
  | .on, false => modPwr (fun p => { p with supply := .ride, rideAt := m.clk, mainOk := false }) m
  | .ride, true => modPwr (fun p => { p with supply := .on, mainOk := true, dips := satInc p.dips }) m
  | _, _ => m

/-- MAIN_INTERRUPTION (R486): MAIN falls below 16.0 V and the ride-through begins; an interruption ending within it is counted in DIPS. -/
def execMainInterruption (back : Bool) (s : State) : Res := s.on (mainInterruption back)

/-- A flash operation in progress ends: `n` bytes of it are done, and the content of the sector it was at is undefined.
DEDUCED: log entry 42. -/
def flashCut (n : Nat) (sector : List Byte) (m : Mach) : Mach :=
  match m.sec.flJob with
  | none => m
  | some j =>
    let m := flashEnd false n m
    if j.op = 1#2 then m
    else
      let at_ := (j.off.toNat + n) / 4096 * 4096
      let l := (range 0 4096).map fun i => sector.getD i 0xFF#8
      modSec (rewrite j.dev at_ l) m

/-- THE POWER-FAIL WARNING (R51, R71, R487), 15 ms after MAIN fell. DEDUCED: log entry 53. -/
def powerFailWarning (flashDone : Nat) (sector : List Byte) (m : Mach) : Mach :=
  let m := advanceTo (m.pwr.rideAt + 15 * usClk 1000) m
  let m := modMode (fun x => { x with pend := none, prevKept := (modeCode x.mode).setWidth 4 }) m
  let m := modPwr (fun p => { p with
    supply := .fail, pfw := true, drainOpen := true, coreClk := if p.coreClk = 1#2 then 0#2 else p.coreClk }) m
  allChans.foldl (fun m c => shellHardpan c m) (flashCut flashDone sector m)

/-- A burn in progress stops: of its bits, those in `done` are programmed and those in `weak` read 1 at M0 only.
DEDUCED: log entry 41. -/
def burnCut (done weak : W32) (f : Fuses) (x : Sec) : Fuses :=
  match x.burn with
  | some (i, mask) => f.program i (mask &&& done) (mask &&& weak)
  | none => f

/-- POWER_FAIL_WARNING (R487): After ride-through ends, the power-fail warning stops instruction issue, asserts hardpan lines and starts the power-fail sequence. -/
def execPowerFailWarning (done weak : BitVec 32) (flashDone : Nat) (sector : List Byte) (s : State) : Res :=
  if s.m.pwr.supply = .ride then
    let f := burnCut done weak s.fuses s.m.sec
    .next { s with
      fuses := f
      m := modSec (fun x => { x with fuse := f, burn := none }) (powerFailWarning flashDone sector s.m) }
  else .next s

/-- An engine's buffer drains up to a host-window entry (R71). -/
def drainMem (e : BitVec 7) : Nat → Mach → Mach
  | 0, m => m
  | n + 1, m =>
    match oldest m e with
    | some y => if region y.gran = .hostWin then m else drainMem e n (acceptOne e m).2
    | none => m

/-- What an engine's buffer still holds is discarded and counted for its tile. DEDUCED: log entry 53. -/
def discard (e : BitVec 7) (m : Mach) : Mach :=
  let n := ((lanesOf m e).map fun r => (rep m (tileOf e) r).sb.length).foldl max 0
  mapLanes e (fun x => { x with sb := [] })
    (modPwr (fun p => { p with discards := p.discards.upd (tileOf e) fun k => satAdd k n }) m)

/-- The power-fail entry: T0 to T7 in ARG, T8 to T31 in its continuation (R435). -/
def powerFailEntry (m : Mach) : Mach :=
  let b (t : Nat) : Byte := m.pwr.discards.get (BitVec.ofNat 5 t)
  let arg : W64 := (range 0 8).foldl (fun a t => a ||| put 64 (b t) (8 * t)) 0#64
  let cont : BitVec 224 := (range 0 24).foldl (fun a t => a ||| put 224 (b (8 + t)) (8 * t)) 0#224
  reportC 0x0806 arg [cont] m

/-- 2 µs after the warning. DEDUCED: log entry 53. -/
def powerFailDrain (m : Mach) : Mach :=
  if m.pwr.supply = .fail ∧ m.pwr.drainOpen = true then
    let m := allEngines.foldl (fun m e => discard e (drainMem e 8 m)) m
    powerFailEntry (modPwr (fun p => { p with drainOpen := false }) m)
  else m

/-- POWER_FAIL_DRAIN_EXPIRE (R71): Store-buffer entries not accepted within 2 µs of the warning are discarded and counted in fault 0x0806. -/
def execPowerFailDrainExpire (s : State) : Res := s.on powerFailDrain

/-- The backup domain is lost with its supply (R489): the log's header, the RTC, the sentinel, the kept registers.
DEDUCED: log entry 54. -/
def loseBackup (m : Mach) : Mach :=
  { m with
    bkp := { Backup.reset with cell := false }
    faults := { Faults.reset with mirrorAt := m.faults.mirrorAt, mirrorHalf := m.faults.mirrorHalf }
    dbg := { m.dbg with fails := 0#4, lockout := none }
    mode := { m.mode with prevKept := 0#4 } }

/-- The module in DORMANT: what R488 keeps, and nothing else; without a cell not even the backup domain. -/
def dormantMach (fu : Fuses) (m : Mach) : Mach :=
  let n := Mach.reset m.clk fu
  (if m.bkp.cell then id else loseBackup) { n with
    free := m.free, outbox := m.outbox
    mode := { n.mode with mode := .dormant, prevKept := m.mode.prevKept }
    engines := n.engines.map fun g => { g with keeper := false, act := .idle }
    sec := { Sec.reset fu with flashA := m.sec.flashA, flashB := m.sec.flashB }
    host := { n.host with
      slot := m.host.slot, portA := { HPort.reset with perst := m.host.portA.perst }
      portB := { HPort.reset with perst := m.host.portB.perst } }
    faults := m.faults.kept, bkp := m.bkp.kept, dbg := m.dbg.kept
    pwr := { m.pwr.kept with supply := .off, mainOk := false, tiles := Tbl.all 5 .off }
    yl := { n.yl with st := .off } }

/-- The end of the sequence: events still queued reach the log, the rails are down. DEDUCED: log entry 53. -/
def sequenceEnd (fu : Fuses) (m : Mach) : Mach :=
  if m.pwr.supply = .fail then dormantMach fu (flushFaults (advanceTo (m.clk + 5 * usClk 1000) (powerFailDrain m))) else m

/-- POWER_FAIL_SEQUENCE_END (R487): The logic rails go down in reverse order and the module enters DORMANT on the backup cell. -/
def execPowerFailSequenceEnd (s : State) : Res := .next { s with m := sequenceEnd s.fuses s.m }

end Sys2Proof.Machine
end

