-- ==== Sys2Proof/Machine/Thermal.lean ====
section
/-! DEFINITION. Heat: the junction and case sensors and the governor (R495 to R498), the field rail and its limiter
(R485), and the tiles' power domains (R493, R494). -/

namespace Sys2Proof.Machine

open Sys2Proof

/-! ### Heat -/

/-- Degrees in the sensors' units of 1/64 °C. -/
def deg (n : Int) : Int := 64 * n

/-- The number of die `d` in the faults: the analogue dies by R267, and the controller die. DESIGN CHOICE: log entry 52. -/
def dieNumber (d : BitVec 3) : Byte := if d = 4#3 then Config.controllerDie else d.setWidth 8

/-- ARG of the thermal faults. -/
def thermArg (die : Byte) (t : BitVec 16) : W64 := put 64 die 0 ||| put 64 t 8

/-- The clock since which a junction lies below a threshold. -/
def coolSince (below : Bool) (now : Nat) (old : Option Nat) : Option Nat := if below then some (old.getD now) else none

/-- It has done so for 10 s. -/
def cooled (now : Nat) (x : Option Nat) : Bool :=
  match x with
  | some t => decide (t + 10 * secClk ≤ now)
  | none => false

/-- The thresholds of R496 that a die has newly crossed or still stands above, given those in force. -/
def dieThresholds (t : Int) (old : BitVec 4) (c120 c130 c137 : Bool) : BitVec 4 :=
  let put_ (k : Nat) (now undone : Bool) : BitVec 4 := at_ (now || (bit old k && !undone)) k
  put_ 0 (decide (deg 125 < t)) c120 ||| put_ 1 (decide (deg 140 < t)) c130 ||| put_ 2 (decide (deg 147 < t)) c137
    ||| put_ 3 (decide (deg 150 ≤ t)) false

/-- A threshold of a die that comes into force is reported. DESIGN CHOICE: log entry 52. -/
def dieReport (die : Byte) (t : BitVec 16) (old new : BitVec 4) (m : Mach) : Mach :=
  (range 0 4).foldl (fun m k =>
    if bit new k && !bit old k then report (0x0801#16 + BitVec.ofNat 16 k) (thermArg die t) m else m) m

/-- A junction reading of die `d`. The clock follows the controller die only, at the next edge. -/
def dieReading (d : BitVec 3) (t : BitVec 16) (m : Mach) : Mach :=
  let p := m.pwr
  let x := t.toInt
  let s120 := coolSince (decide (x < deg 120)) m.clk (p.cool120.get d)
  let s130 := coolSince (decide (x < deg 130)) m.clk (p.cool130.get d)
  let s137 := coolSince (decide (x < deg 137)) m.clk (p.cool137.get d)
  let old := p.warned.get d
  let new := dieThresholds x old (cooled m.clk s120) (cooled m.clk s130) (cooled m.clk s137)
  let next :=
    if d ≠ 4#3 then p.clkNext
    else if bit new 2 then some 2#2
    else if p.coreClk = 2#2 then some 0#2
    else if bit new 1 then some 0#2
    else p.clkNext
  let m := modPwr (fun p => { p with
    cool120 := p.cool120.set d s120, cool130 := p.cool130.set d s130, cool137 := p.cool137.set d s137
    warned := p.warned.set d new, clkNext := next }) m
  let m := dieReport (dieNumber d) t old new m
  if new &&& ~~~old = 0#4 then m else deviceVector 3 (moduleEvent m)

/-- The case reading of DRAM channel `c` (R498). -/
def caseReading (c : Nat) (t : BitVec 16) (m : Mach) : Mach :=
  let p := m.pwr
  let x := t.toInt
  let hold (old : BitVec 2) (on off : Bool) : BitVec 2 := if on then old ||| at_ true c else if off then old &&& ~~~(at_ true c) else old
  let hot := decide (deg 105 ≤ x)
  let m := modPwr (fun p => { p with
    dram2x := hold p.dram2x (decide (deg 85 < x)) (decide (x < deg 80))
    dramThr := hold p.dramThr (decide (deg 95 < x)) (decide (x < deg 90))
    dramHot := hold p.dramHot hot false }) m
  if hot && !bit p.dramHot c then report 0x0805 (thermArg (Config.dramDie c) t) m else m

/-- The hottest of the junctions, signed. -/
def hottest (l : List (BitVec 16)) : BitVec 16 :=
  match l with
  | [] => 0#16
  | x :: r => r.foldl (fun a b => if a.slt b then b else a) x

/-- THERM_STAT.LEVEL: the highest threshold in force. -/
def thermLevel (p : Power) : BitVec 2 :=
  let any (k : Nat) : Bool := p.warned.toList.any fun w => bit w k
  if any 2 || any 3 then 3#2 else if any 1 then 2#2 else if any 0 then 1#2 else 0#2

/-- A reading of all sensors: dies 0 to 3 are the analogue dies, die 4 the controller. DESIGN CHOICE: log entry 52. -/
def thermalReading (a b c d ctl dram0 dram1 : BitVec 16) (m : Mach) : Mach :=
  if !powered m || m.pwr.supply = .fail then m
  else
    let m := ([(0#3, a), (1#3, b), (2#3, c), (3#3, d), (4#3, ctl)] : List (BitVec 3 × BitVec 16)).foldl
      (fun m x => dieReading x.1 x.2 m) m
    let m := caseReading 1 dram1 (caseReading 0 dram0 m)
    let m := modPwr (fun p => { p with rdy := true, tmax := hottest [a, b, c, d, ctl], level := thermLevel p }) m
    logAll logFuel m

/-- THERMAL_READING (R496): Every 100 µs the junction and DRAM sensors are read and the governor's thresholds acted on. -/
def execThermalReading (a b c d ctl dram0 dram1 : BitVec 16) (s : State) : Res :=
  s.on (thermalReading a b c d ctl dram0 dram1)

/-! ### The field supply (R485) -/

/-- The levels of the field inputs and the draw as they stand. DEDUCED: log entry 53. -/
def fieldLevels (fp1 fp2 : Bool) (ma : BitVec 16) (m : Mach) : Mach :=
  modPwr (fun p => { p with fp1 := fp1, fp2 := fp2, fieldMa := ma }) m

/-- The field rail falls below 16.0 V, which is a module event, or returns above it. -/
def fieldRail (low fp1 fp2 : Bool) (ma : BitVec 16) (m : Mach) : Mach :=
  if !powered m then m
  else
    let fell := low && !m.pwr.railLow
    let m := modPwr (fun p => { p with railLow := low }) (fieldLevels fp1 fp2 ma m)
    if fell then moduleEvent m else m

/-- FIELD_RAIL_LOW (R485): The field rail falls below or returns above 16.0 V, suspending or restoring T+-driven channels. -/
def execFieldRailLow (low fp1 fp2 : Bool) (ma : BitVec 16) (s : State) : Res := s.on (fieldRail low fp1 fp2 ma)

/-- FLIM changes, with the draw that has brought it about. -/
def fieldLimit (on : Bool) (ma : BitVec 16) (m : Mach) : Mach :=
  if !powered m || m.pwr.flim == on || decide (on = true ∧ ma.toNat ≤ 8000) || decide (on = false ∧ 8000 ≤ ma.toNat) then m
  else moduleEvent (modPwr (fun p => { p with flim := on, fieldMa := ma }) m)

/-- FIELD_LIMIT_DROP (R485): A field draw above 8.0 A for 1 s drops the limit to 8.0 A and sets FLIM. -/
def execFieldLimitDrop (ma : BitVec 16) (s : State) : Res := s.on (fieldLimit true ma)

/-- FIELD_LIMIT_RESTORE (R485): A field draw below 8.0 A for 9 s restores the 12.0 A limit and clears FLIM. -/
def execFieldLimitRestore (ma : BitVec 16) (s : State) : Res := s.on (fieldLimit false ma)

/-! ### Tile domains (R493, R494) -/

def modDomain (t : BitVec 5) (f : TilePower → TilePower) (m : Mach) : Mach :=
  modPwr (fun p => { p with tiles := p.tiles.upd t f }) m

/-- A power-up has ended; the tile takes part from the next edge on. -/
def TilePower.upDone : TilePower → TilePower
  | .up => .warm
  | x => x

/-- A shutdown has ended; a latched re-enable is applied. -/
def TilePower.downDone : TilePower → TilePower
  | .down again => if again then .up else .off
  | x => x

/-- TILE_POWER_UP_COMPLETE (R493): A tile's power-up ends and its engines' slot lists start at the next edge. -/
def execTilePowerUpComplete (t : BitVec 5) (s : State) : Res := s.on (modDomain t TilePower.upDone)

/-- TILE_SHUTDOWN_COMPLETE (R494): A tile's shutdown ends and a latched re-enable starts its power-up. -/
def execTileShutdownComplete (t : BitVec 5) (s : State) : Res := s.on (modDomain t TilePower.downDone)

end Sys2Proof.Machine
end

