-- ==== Sys2Proof/Machine/BackupRows.lean ====
section
/-! DEFINITION. The backup domain: the sentinel's scans, the RTC's alarm, the cell, and the attention input (R489 to R492,
R519). -/

namespace Sys2Proof.Machine

open Sys2Proof

/-! ### The sentinel (R490, R491, R523) -/

/-- What a change of input `k` to `closed` brings: it is logged; to the abnormal state it is an event, which drives the
relays that SENT_CFG names, wakes the keeper, and is a module event. DEDUCED: log entry 54. -/
def sentinelChange (k : Nat) (closed : Bool) (m : Mach) : Mach :=
  let cfg := m.bkp.sentCfg
  let arg : W64 := BitVec.ofNat 64 k ||| at_ closed 3
  let m := report 0x0807 arg m
  if closed = bit cfg (4 * k + 1) then m
  else
    let m := (range 0 2).foldl (fun m r => if bit cfg (4 * k + 2 + r) then driveRelay r arg m else m) m
    if powered m then wakeEvent .sentinel m.mode.wkSent (moduleEvent m) else m

/-- Input `k` in one scan: three scans in a row that find the other state change it. -/
def sentinelInput (k : Nat) (closed : Bool) (m : Mach) : Mach :=
  let i := BitVec.ofNat 3 k
  let run (n : Nat) := modBkp (fun b => { b with runs := b.runs.set i n })
  if !bit m.bkp.sentCfg (4 * k) || closed == bit m.bkp.sentIn k then run 0 m
  else if (m.bkp.runs.get i) + 1 < 3 then run (m.bkp.runs.get i + 1) m
  else
    let m := modBkp (fun b => { b with sentIn := if closed then b.sentIn ||| at_ true k else b.sentIn &&& ~~~(at_ true k) }) (run 0 m)
    sentinelChange k closed m

/-- A scan: the eight contacts as read, 1 closed, and the voltages in mV of the reserve capacitor and of the cell under
load. The first scan of a domain sets the baseline. Under EXTEST the contacts are seen as they stood (R457).
DEDUCED: log entry 54. -/
def sentinelScan (contacts : Byte) (reserve cell : BitVec 16) (m : Mach) : Mach :=
  if !backupFed m then m
  else
    let m := modPwr (fun p => { p with cellLow := decide (cell.toNat < 2600) }) m
    let m := modBkp (fun b => { b with guard := decide (2800 ≤ reserve.toNat) && decide (2500 ≤ cell.toNat) }) m
    let m := drivePending m
    let m :=
      if pinsHeld m then m
      else if m.bkp.baseline then (range 0 8).foldl (fun m k => sentinelInput k (bit contacts k) m) m
      else modBkp (fun b => { b with baseline := true, sentIn := contacts, runs := Tbl.all 3 0 }) m
    if powered m then m else flushFaults m

/-- SENTINEL_SCAN (R490): The sentinel scans its inputs, logs changes and pulses alarm relays when the guard passes. -/
def execSentinelScan (contacts : BitVec 8) (reserve cell : BitVec 16) (s : State) : Res :=
  s.on (sentinelScan contacts reserve cell)

/-! ### The alarm (R492) -/

/-- The RTC's seconds equal RTC_ALM, once for each such second. DEDUCED: log entry 54. -/
def alarmMatch (b : Backup) : Bool :=
  b.almEn && decide ((fld b.rtc 16 32 : W32) = b.alm) && decide (b.almLast ≠ some (fld b.rtc 16 48))

def rtcAlarm (m : Mach) : Mach :=
  if !backupFed m || m.watch.bkpLost || !alarmMatch m.bkp then m
  else
    let m := modBkp (fun b => { b with almHit := true, almLast := some (fld b.rtc 16 48) }) m
    match m.mode.mode with
    | .dormant => m
    | .sleep => wakeEvent .rtc m.mode.wkRtc m
    | _ => moduleEvent m

/-- RTC_ALARM (R492): The RTC seconds match RTC_ALM, setting ALM_HIT and raising a wake or module event. -/
def execRtcAlarm (s : State) : Res := s.on rtcAlarm

/-! ### The cell (R489) -/

/-- A cell is connected. A domain that was not fed begins anew: nothing of it had been kept. -/
def cellConnected (m : Mach) : Mach := modBkp (fun b => { b with cell := true }) m

/-- BACKUP_CELL_CONNECTED (R489): A backup cell is connected for the first time, or after the backup domain was lost. -/
def execBackupCellConnected (s : State) : Res := s.on cellConnected

/-- The cell is removed: in DORMANT the domain runs on it and is lost. DEDUCED: log entry 54. -/
def cellRemoved (m : Mach) : Mach :=
  if powered m then modBkp (fun b => { b with cell := false }) m else loseBackup m

/-- BACKUP_CELL_REMOVED (R489): The backup cell is removed while the domain runs on it, in DORMANT, and the backup domain is lost. -/
def execBackupCellRemoved (s : State) : Res := s.on cellRemoved

/-! ### The attention input (R519) -/

/-- ATTN# has been low for 20 ms. DEDUCED: log entry 53. -/
def attnAssert (m : Mach) : Mach :=
  if !powered m || m.pwr.pfw || pinsHeld m || m.host.attnHeld || m.host.attnSeen then m
  else attnAct (modHost (fun h => { h with attnHeld := true }) m)

/-- ATTN_ASSERT (R519): ATTN# held low for 20 ms is recognised as the attention input for ordered removal. -/
def execAttnAssert (s : State) : Res := s.on attnAssert

end Sys2Proof.Machine
end

