-- ==== Sys2Proof/Machine/CapInstr.lean ====
section
/-! DEFINITION. Capability instructions and the loads and stores of capabilities (R86, R115, R118). -/

namespace Sys2Proof.Machine

open Sys2Proof

/-- LDCX (R86): Loads a tagged capability into X. -/
def execLdcx (e : BitVec 7) (mode : BitVec 4) (opnd : BitVec 20) (s : State) : Res :=
  s.on (instrE (plain .m) e mode opnd fun c a => loadSem (.ldc 0#2) (memOp a mode opnd) c a)

/-- LDCY (R86): Loads a tagged capability into Y. -/
def execLdcy (e : BitVec 7) (mode : BitVec 4) (opnd : BitVec 20) (s : State) : Res :=
  s.on (instrE (plain .m) e mode opnd fun c a => loadSem (.ldc 1#2) (memOp a mode opnd) c a)

/-- LDCD (R86): Loads a tagged capability into D. -/
def execLdcd (e : BitVec 7) (mode : BitVec 4) (opnd : BitVec 20) (s : State) : Res :=
  s.on (instrE (plain .m) e mode opnd fun c a => loadSem (.ldc 2#2) (memOp a mode opnd) c a)

/-- LDCS (R86): Loads a tagged capability into S. -/
def execLdcs (e : BitVec 7) (mode : BitVec 4) (opnd : BitVec 20) (s : State) : Res :=
  s.on (instrE (plain .m) e mode opnd fun c a => loadSem (.ldc 3#2) (memOp a mode opnd) c a)

/-- STCX (R115): Stores X with its tag. -/
def execStcx (e : BitVec 7) (mode : BitVec 4) (opnd : BitVec 20) (s : State) : Res :=
  s.on (instrE (plain .m) e mode opnd fun c a => storeSem 16 a.x.bits true a.x.tag mode opnd c a)

/-- STCY (R115): Stores Y with its tag. -/
def execStcy (e : BitVec 7) (mode : BitVec 4) (opnd : BitVec 20) (s : State) : Res :=
  s.on (instrE (plain .m) e mode opnd fun c a => storeSem 16 a.y.bits true a.y.tag mode opnd c a)

/-- STCD (R115): Stores D with its tag. -/
def execStcd (e : BitVec 7) (mode : BitVec 4) (opnd : BitVec 20) (s : State) : Res :=
  s.on (instrE (plain .m) e mode opnd fun c a => storeSem 16 a.d.bits true a.d.tag mode opnd c a)

/-- STCS (R115): Stores S with its tag. In mode 0xC the value is S as it stands before its cursor steps: the step comes when the
access completes (R85), although the address is that of the stepped cursor (R83). DEDUCED: log entry 14. -/
def execStcs (e : BitVec 7) (mode : BitVec 4) (opnd : BitVec 20) (s : State) : Res :=
  s.on (instrE (plain .m) e mode opnd fun c a => storeSem 16 a.s.bits true a.s.tag mode opnd c a)

/-- PCOPY (R118): Copies a capability register. -/
def execPcopy (e : BitVec 7) (mode : BitVec 4) (opnd : BitVec 20) (s : State) : Res :=
  s.on (instrE (plain .c) e mode opnd fun _ a => derive opnd a (cSrc opnd a))

/-- PTRIM (R118): Narrows a capability's bounds to A and E. -/
def execPtrim (e : BitVec 7) (mode : BitVec 4) (opnd : BitVec 20) (s : State) : Res :=
  s.on (instrE ⟨.c, false, rawZero 0 12, 3⟩ e mode opnd fun _ a => ptrim opnd a)

/-- PMASK (R118): Removes rights from a capability. -/
def execPmask (e : BitVec 7) (mode : BitVec 4) (opnd : BitVec 20) (s : State) : Res :=
  s.on (instrE ⟨.c, false, rawZero 8 4, 3⟩ e mode opnd fun _ a => pmask opnd a)

/-- PSTEP (R118): Moves a capability's cursor by A plus the immediate. -/
def execPstep (e : BitVec 7) (mode : BitVec 4) (opnd : BitVec 20) (s : State) : Res :=
  s.on (instrE (plain .c) e mode opnd
    fun _ a => moveCursor opnd ((cSrc opnd a).cursor + a.a.setWidth 36 + (cImm opnd).setWidth 36) a)

/-- PAIM (R118): Sets a capability's cursor to A. -/
def execPaim (e : BitVec 7) (mode : BitVec 4) (opnd : BitVec 20) (s : State) : Res :=
  s.on (instrE (plain .c) e mode opnd fun _ a => moveCursor opnd (a.a.setWidth 36) a)

/-- PWRAP (R118): Seals a capability as a gate or object with Y as authority. -/
def execPwrap (e : BitVec 7) (mode : BitVec 4) (opnd : BitVec 20) (s : State) : Res :=
  s.on (instrE ⟨.c, false, rawZero 1 11, 3⟩ e mode opnd fun _ a => pwrap opnd a)

/-- PUNWRAP (R118): Unseals a sealed object with Y as authority. -/
def execPunwrap (e : BitVec 7) (mode : BitVec 4) (opnd : BitVec 20) (s : State) : Res :=
  s.on (instrE ⟨.c, false, rawZero 1 11, 3⟩ e mode opnd fun _ a => punwrap opnd a)

/-- PFLD (R118): Reads a capability field into A. -/
def execPfld (e : BitVec 7) (mode : BitVec 4) (opnd : BitVec 20) (s : State) : Res :=
  s.on (instrE ⟨.c, false, fun o => (rawZero 16 4 o).or (if 7 < (cImm o).toNat then some (excIllegal 0x04) else none), 3⟩
    e mode opnd fun _ a => pfld opnd a)

/-- PUSHC (R86): Pushes a capability register on S. -/
def execPushc (e : BitVec 7) (mode : BitVec 4) (opnd : BitVec 20) (s : State) : Res :=
  s.on (instrE ⟨.i, false, fun o => (rawZero 0 16 o).or (if 6 < (cDst o).toNat then some (excIllegal 0x06) else none), 3⟩
    e mode opnd (pushSem 16 (fun b => capReg b (cDst opnd)) true))

/-- POPC (R92): Opcode 0x93: pops a capability from S into X, Y, D or S. -/
def execPopc (e : BitVec 7) (mode : BitVec 4) (opnd : BitVec 20) (s : State) : Res :=
  s.on (instrE ⟨.i, false, fun o => (rawZero 0 16 o).or (if 3 < (cDst o).toNat then some (excIllegal 0x06) else none), 3⟩
    e mode opnd fun c a => loadSem (.popc (fld opnd 16 2)) (popOp a) c a)

end Sys2Proof.Machine
end

