-- ==== Sys2Proof/Machine/ChanEvents.lean ====
section
/-! DEFINITION. Events of the channels: calibration, detectors, HART, output samples, ramps, channel events and timer events
(R282 to R296, R301 to R313, R334, R336, R342 to R357). -/

namespace Sys2Proof.Machine

open Sys2Proof

/-- CALIBRATION_START (R306): A path is switched to its internal calibration points at mode start or every 600 s. -/
def execCalibrationStart (c : BitVec 8) (isMain : Bool) (s : State) : Res := s.on (calStart isMain c)

/-- CALIBRATION_RESULT (R307): From the two point readings a gain and offset are computed and accepted or rejected. -/
def execCalibrationResult (c : BitVec 8) (zero full : List (BitVec 4)) (s : State) : Res :=
  s.on (calResult zero full c)

/-- DETECTOR_EVAL (R288): Every 100 µs the open, short and line-break detectors are evaluated. -/
def execDetectorEval (c : BitVec 8) (p : Probe) (s : State) : Res := s.on fun m => detect m.pwr.railLow p c m

/-- SHORT_SWITCH_OFF (R286): A DO or PWM-O output at its current limit for 500 µs is switched off and reported short. -/
def execShortSwitchOff (c : BitVec 8) (s : State) : Res := s.on (shortOffNow c)

/-- SHORT_RETRY (R286): A shorted output with its command on retries every 100 ms for 500 µs. -/
def execShortRetry (c : BitVec 8) (still : Bool) (s : State) : Res := s.on (shortRetry still c)

/-- HART_GO_ACCEPT (R293): At the modem's 100 µs check a written GO is accepted and the request queued. -/
def execHartGoAccept (c : BitVec 8) (s : State) : Res := s.on (hartGo c)

/-- HART_TRANSMIT (R293): With the line quiet 20 ms and DEVID valid the modem transmits the request. -/
def execHartTransmit (c : BitVec 8) (s : State) : Res := s.on (hartTransmit c)

/-- HART_RESPONSE (R293): A HART frame is received and ends the transaction, counts as an error, or is discarded. -/
def execHartResponse (c : BitVec 8) (frame : List Byte) (answers good : Bool) (id : BitVec 40) (s : State) : Res :=
  s.on (hartFrame frame answers good id c)

/-- HART_TIMEOUT (R291): No carrier 305 ms after a request uses up a retry or ends the transaction with no response. -/
def execHartTimeout (c : BitVec 8) (s : State) : Res := s.on (hartTimeout c)

/-- HART_IDENTITY_SEQUENCE (R294): On entry to mode 10 or 11, or every 10 s until answered, the modem sends command 0. -/
def execHartIdentitySequence (c : BitVec 8) (s : State) : Res := s.on (idSend c)

/-- OUTPUT_SAMPLE (R301): The pipeline completes an output sample: calibration, comparison, limits and rate of change. -/
def execOutputSample (c : BitVec 8) (mainCodes shadCodes : List (BitVec 4)) (levels : List (Int × Int))
    (above : BitVec 2) (s : State) : Res :=
  s.on fun m => outputSample m.pwr.railLow mainCodes shadCodes levels above c m

/-- The end of a ramp (R334): the output stands at zero; OFF follows at the next edge. -/
def rampEnd (c : BitVec 8) (m : Mach) : Mach :=
  let x := m.chans.get c
  if x.ramping then advanceTo (x.rampAt + x.rampLen) m else m

/-- RAMP_END (R334): An output shutdown ramp reaches its end after CH_SAFE.RAMP milliseconds. -/
def execRampEnd (c : BitVec 8) (s : State) : Res := s.on (rampEnd c)

/-- CHANNEL_EVENT (R336): At edge + 2 µs the enabled channel event causes raise the channel event for the latched owner. -/
def execChannelEvent (c : BitVec 8) (s : State) : Res :=
  s.on fun m => channelEvent c (if powered m then advanceTo (m.tick.edgeAt + usClk 2) m else m)

/-! ### Timer events -/

/-- Clocks to a running waveform's next event of a kind (0 a period start, 1 a crossing), looked for over `fuel` events. -/
def eventDist (out : Bool) (k : Nat) : Nat → Timer → Option Nat
  | 0, _ => none
  | fuel + 1, t =>
    let d := t.nextDist
    let r := (t.glide (d - 1)).clock out none
    if bit r.2 k then some d else (eventDist out k fuel r.1).map (· + d)

/-- A channel's waveform runs on to its next event of a kind. -/
def toTimerEvent (k : Nat) (c : BitVec 8) (m : Mach) : Mach :=
  let x := m.chans.get c
  if x.timer.run && !x.timer.stopped && decide (x.timer.use = 1#3) then
    match eventDist (decide (x.mode = 9#4)) k 8 x.timer with
    | some d => advanceTo (m.clk + d) m
    | none => m
  else m

/-- PERIOD_START (R346): The waveform counter wraps or turns at 0 and a new period starts. -/
def execPeriodStart (c : BitVec 8) (s : State) : Res := s.on (toTimerEvent 0 c)

/-- COMPARATOR_CROSSING (R348): The count crosses the comparator and the mode 9 output switches. -/
def execComparatorCrossing (c : BitVec 8) (s : State) : Res := s.on (toTimerEvent 1 c)

/-- A rising edge at clock `now` (R342, R356). -/
def Timer.pulse (now : Nat) (t : Timer) : Timer :=
  match t.use.toNat with
  | 2 => { t with count := t.count + 1#48, edges := t.edges + 1 }
  | 3 =>
    { t with count := 0#48, edges := t.edges + 1, first := if t.edges = 0 then now else t.first, last := now }
  | 4 =>
    match t.latest with
    | some l => { t with
        count := 0#48, latest := some now, period := BitVec.ofNat 48 (now - l), ended := true, timedOut := false }
    | none => { t with count := 0#48, latest := some now, timedOut := false }
  | _ => t

/-- A rising edge `dt` clocks from now on a PI input. DEDUCED: log entry 28. -/
def pulseEdge (dt : Nat) (c : BitVec 8) (m : Mach) : Mach :=
  let x := m.chans.get c
  if x.mode = 8#4 ∧ x.timer.run = true ∧ x.timer.stopped = false then
    let m := advanceTo (m.clk + dt) m
    modChan c (fun x => { x with timer := x.timer.pulse m.clk, main := { x.main with sense := true } }) m
  else m

/-- PULSE_EDGE (R342): A rising edge on a PI input is counted or timed by the channel's timer. -/
def execPulseEdge (c : BitVec 8) (dt : Nat) (s : State) : Res := s.on (pulseEdge dt c)

/-- More than TOP clocks have passed without a rising edge in the period use. -/
def periodTimeout (c : BitVec 8) (m : Mach) : Mach :=
  let t := (m.chans.get c).timer
  if t.run && !t.stopped && decide (t.use = 4#3) && !t.timedOut then
    advanceTo (t.latest.getD t.since + t.top.toNat + 1) m
  else m

/-- PERIOD_TIMEOUT (R356): In the period use more than TOP clocks pass without a rising edge and the result times out. -/
def execPeriodTimeout (c : BitVec 8) (s : State) : Res := s.on (periodTimeout c)

end Sys2Proof.Machine
end

