-- ==== Sys2Proof/Machine/HostRings.lean ====
section
/-! DEFINITION. Events of the ports and rings: links, doorbells, descriptors, outbound passes, the status page, and the port
set-up registers (R362 to R400). -/

namespace Sys2Proof.Machine

open Sys2Proof

/-! ### Links (R366, R391, R396) -/

/-- PORT_RESET (R366): A link-down, hot reset or PERST# resets the port and takes its rings DOWN. -/
def execPortReset (port perst : Bool) (s : State) : Res :=
  s.on fun m => if powered m && (perst || (portOf m.host port).up) then portReset port perst m else m

/-- PERST_DEASSERT (R396): After PERST# is deasserted the port answers configuration and trains its link. -/
def execPerstDeassert (port : Bool) (s : State) : Res := s.on (modPort port fun x => { x with perst := false })

/-- A port's link comes up; the host grants it bus mastering and MSI-X. PRESUMED: log entry 33. -/
def linkUp (p busMaster msixEn : Bool) (m : Mach) : Mach :=
  let x := portOf m.host p
  if !powered m || x.perst || x.up || m.watch.mainLost then m
  else deviceVectorOn (!p) 5 (modPort p (fun x => { x with up := true, busMaster := busMaster, msixEn := msixEn }) m)

/-- PCIE_LINK_UP (R396): A port's link completes training and comes up: OTHER_UP changes, host-window traffic and MSI-X become possible, and device vector 1029 goes out on the other port. -/
def execPcieLinkUp (port busMaster msixEn : Bool) (s : State) : Res := s.on (linkUp port busMaster msixEn)

/-! ### Doorbells (R376 to R378) -/

/-- A doorbell that the mode in force excludes (R40, R365, R396). -/
def bellClosed (m : Mach) (page : BitVec 10) : Bool :=
  match m.mode.mode with
  | .dormant | .hardpan => true
  | .sleep => decide (1 < page.toNat) || !m.host.kready
  | _ => !m.host.kready

/-- A doorbell dropped and counted (R377). -/
def bellDropped (p : Bool) (m : Mach) : Mach := modPort p (fun x => { x with dropped := satInc x.dropped }) m

/-- The keeper doorbell (R376). -/
def keeperBell (p : Bool) (m : Mach) : Mach :=
  if bellClosed m 0#10 then bellDropped p m else wakeEvent .doorbell m.mode.wkHost (pend 0#10 0 m)

/-- A doorbell of a queue: its index replaces the previous one, unless R377 drops it. -/
def queueBell (p : Bool) (page : BitVec 10) (r : Byte) (v : W32) (size : Ring → Nat) (f : Ring → Ring) (m : Mach) : Mach :=
  let x := ringOf m r
  if x.st ≠ .active ∨ x.owner ≠ page ∨ x.port ≠ p ∨ size x ≤ v.toNat ∨ bellClosed m page = true then bellDropped p m
  else
    let m := modRing r f m
    if page.toNat ≤ 1 then wakeEvent .doorbell m.mode.wkHost m else m

/-- SQ_TAIL_DOORBELL (R378): A host write to a ring's SQ tail doorbell sets the new tail, or is dropped and counted. -/
def execSqTailDoorbell (port : Bool) (page : BitVec 10) (r : BitVec 8) (v : BitVec 32) (s : State) : Res :=
  s.on fun m =>
    if !powered m || !(portOf m.host port).up then m
    else if page = 0#10 ∧ r = 0#8 then keeperBell port m
    else queueBell port page r v Ring.ns (fun x => { x with t := fld v 0 16 }) m

/-- CQ_HEAD_DOORBELL (R374): A host write to a ring's CQ head doorbell frees completion entries, or is dropped. -/
def execCqHeadDoorbell (port : Bool) (page : BitVec 10) (r : BitVec 8) (v : BitVec 32) (s : State) : Res :=
  s.on fun m =>
    if !powered m || !(portOf m.host port).up then m
    else
      let m := queueBell port page r v Ring.nc (fun x => { x with cqHead := fld v 0 16 }) m
      flushCompl r (ringOf m r).waiting.length m

/-- KEEPER_DOORBELL (R376): A write to page 0 offset 0 raises the doorbell event for compartment 0. -/
def execKeeperDoorbell (port : Bool) (_v : BitVec 32) (s : State) : Res :=
  s.on fun m => if !powered m || !(portOf m.host port).up then m else keeperBell port m

/-! ### Descriptors (R378 to R383, R393) -/

/-- A descriptor in the native form (R380, R383). -/
def nativeDesc (x : Ring) (d : BitVec 512) : BitVec 512 :=
  if !x.fmt then d
  else
    let off : W32 := fld d 128 32
    let a : Addr := if off = 0#32 then 0#36 else x.compat ++ 0#4 + off.setWidth 36
    put 512 (fld d 0 128 : Gran) 0 ||| put 512 a 128 ||| put 512 (fld d 160 96 : BitVec 96) 192

def descOpc (d : BitVec 512) : Byte := fld d 0 8
def descIn (d : BitVec 512) : Bool := bit d 8
def descOut (d : BitVec 512) : Bool := bit d 9
def descIrq (d : BitVec 512) : Bool := bit d 10
def descCid (d : BitVec 512) : BitVec 16 := fld d 16 16
def descLen (d : BitVec 512) : Nat := (fld d 32 32 : W32).toNat
def descHost (d : BitVec 512) : BitVec 64 := fld d 64 64
def descMod (d : BitVec 512) : Addr := fld d 128 36

/-- A byte offset of PARAM as a word of `n` bits. -/
def descParam (d : BitVec 512) (o n : Nat) : BitVec n := fld d (8 * o) n

def isService (d : BitVec 512) : Bool := decide ((descOpc d).toNat < 0x40)

/-- R381, on the native form; an AGL-7032 descriptor reserves bits [31:24] of DMA_LEN (R383). -/
def descMalformed (fmt : Bool) (d : BitVec 512) : Bool :=
  decide (fld d 11 5 ≠ 0#5) || (fmt && decide (fld d 56 8 ≠ 0#8)) || decide (fld d 164 28 ≠ 0#28)
    || ((descIn d || descOut d) && decide (descLen d = 0 ∨ 0x10_0000 < descLen d))
    || (isService d && decide (descMod d ≠ 0#36))

/-- The port fetches from a ring (R365, R374, R393, R397). -/
def mayFetch (m : Mach) (r : Byte) : Bool :=
  let x := ringOf m r
  powered m && m.host.kready && m.host.drainAt.isNone && !draining m && decide (m.mode.mode ≠ .hardpan)
    && (decide (m.mode.mode ≠ .sleep) || isAdmin r) && decide (x.st = .active) && decide (x.f ≠ x.t) && portGo m x.port
    && decide (outstandingOf m.host x.owner < quotaLimit m.host x.owner 0) && decide (x.msgs.length < 4095)

/-- A message waits for the bytes of its DMA in (R393). DEDUCED: log entry 34. -/
def dmaWaits (m : Mach) (c : BitVec 10) (n : Nat) : Bool := decide (quotaLimit m.host c 1 < (m.host.quota.get c).dma + n)

def stQuota : Byte := 3#8
def stMode : Byte := 6#8
def stNotAdmin : Byte := 7#8
def stRef : Byte := 8#8
def stAborted : Byte := 9#8
def stFormat : Byte := 0xA#8
def stNoRes : Byte := 0xB#8
def stField : Byte := 2#8

/-- A descriptor completes without delivery. -/
def failDesc (r : Byte) (d : BitVec 512) (st : Byte) (moved : Nat) (m : Mach) : Mach :=
  complete r ⟨0#64, 0#64, BitVec.ofNat 32 moved, descCid d, st, descIrq d⟩ m

/-- A message is placed into the next inbound slot and its owner's doorbell event becomes pending (R379). -/
def deliverMsg (r : Byte) (d : BitVec 512) (moved : Nat) (m : Mach) : Mach :=
  let x := ringOf m r
  let k := x.inWr
  let (ok, m) := portWrite x (x.area + BitVec.ofNat 36 (0x40 + 64 * (k.toNat % x.ns))) (bytesOf d 0 64) m
  if !ok then failDesc r d stFence moved m
  else
    let msg : Msg :=
      { k := fld k 0 16, moved := BitVec.ofNat 32 moved, cid := descCid d, irq := descIrq d, dmaOut := descOut d
        dmaLen := BitVec.ofNat 32 (descLen d), haddr := descHost d, maddr := descMod d }
    pend x.owner 0 (areaWrite x 0 (k + 1#32) (modRing r (fun x => { x with inWr := k + 1#32, msgs := x.msgs ++ [msg] }) m))

/-- A descriptor that has been fetched; `data` are the bytes of its DMA in that the host delivers. -/
def takeDesc (r : Byte) (d : BitVec 512) (data : List Byte) (m : Mach) : Mach :=
  let x := ringOf m r
  let m := modRing r (fun x => { x with f := BitVec.ofNat 16 ((x.f.toNat + 1) % x.ns) }) m
  if descMalformed x.fmt d then failDesc r d stFormat 0 m
  else if isService d then
    pend 0#10 0 (modHost (fun h => { h with svc := h.svc ++ [⟨r, d⟩] })
      (modRing r (fun x => { x with svcs := x.svcs ++ [(descCid d, descIrq d)] }) m))
  else if (descIn d || descOut d) && decide (quotaLimit m.host x.owner 1 < descLen d) then failDesc r d stQuota 0 m
  else if descIn d then
    let (z, m) := dmaIn x (descLen d + 1) (descMod d) (descHost d) (descLen d) data 0 m
    match z.status with
    | some k => failDesc r d k z.moved m
    | none => deliverMsg r d z.moved m
  else deliverMsg r d 0 m

/-- The next descriptor of a ring, if the port fetches it now. -/
def descriptorFetch (r : Byte) (desc : BitVec 512) (data : List Byte) (m : Mach) : Mach :=
  if !mayFetch m r then m
  else
    let x := ringOf m r
    let d := nativeDesc x desc
    let n := descLen d
    if !descMalformed x.fmt d && !isService d && descIn d && decide (n ≤ quotaLimit m.host x.owner 1) && dmaWaits m x.owner n
    then m
    else takeDesc r d data m

/-- DESCRIPTOR_FETCH (R378): The port reads the next descriptor, checks it and delivers a message or queues a service. -/
def execDescriptorFetch (r : BitVec 8) (desc : BitVec 512) (data : List Byte) (s : State) : Res :=
  s.on (descriptorFetch r desc data)

/-- A request without completion for 100 µs (R362, R382): of the descriptor itself, which is then not known, or of the DMA in
after the bytes `data`, which are fewer than DMA_LEN. DEDUCED: log entry 34. -/
def dmaTimeout (r : Byte) (desc : Option (BitVec 512)) (data : List Byte) (m : Mach) : Mach :=
  if !mayFetch m r then m
  else
    match desc with
    | some d => descriptorFetch r d (data.take (descLen (nativeDesc (ringOf m r) d) - 1)) m
    | none =>
      failDesc r (Config.lostDescriptor m.free) stHostDma 0
        (modRing r (fun x => { x with f := BitVec.ofNat 16 ((x.f.toNat + 1) % x.ns) }) { m with free := m.free + 1 })

/-- HOST_DMA_TIMEOUT (R382): A memory request that a port issued for message or descriptor DMA has no completion after 100 µs, so the transfer stops and the descriptor completes with HOST_DMA. -/
def execHostDmaTimeout (r : BitVec 8) (desc : Option (BitVec 512)) (data : List Byte) (s : State) : Res :=
  s.on (dmaTimeout r desc data)

/-! ### Outbound passes (R385, R390) -/

/-- The outbound slot numbered `OUT_RD` of a ring is taken; false where it waits for the DMA quota. -/
def takeSlot (r : Byte) (m : Mach) : Bool × Mach :=
  let x := ringOf m r
  let o := 0x40 + 64 * x.ns + 32 * (x.outRd.toNat % x.nc)
  let (l, m) := portRead x (x.area + BitVec.ofNat 36 o) 32 m
  let w : BitVec 256 := BitVec.ofNat 256 (leNat (l.getD []))
  let next (m : Mach) : Bool × Mach :=
    (true, areaWrite x 4 (x.outRd + 1#32) (modRing r (fun x => { x with outRd := x.outRd + 1#32 }) m))
  match x.msgs.find? fun y => decide (y.k = fld w 192 16) with
  | none => next (areaWrite x 0xC (x.badOut + 1#32) (modRing r (fun x => { x with badOut := x.badOut + 1#32 }) m))
  | some y =>
    let n := y.dmaLen.toNat
    if y.dmaOut && decide (n ≤ quotaLimit m.host x.owner 1) && dmaWaits m x.owner n then (false, m)
    else
      let (z, m) := if y.dmaOut then dmaOut x (n + 1) y.maddr y.haddr n 0 m else (⟨0, none⟩, m)
      next (complete r ⟨fld w 0 64, fld w 64 64, y.moved + BitVec.ofNat 32 z.moved, y.cid, z.status.getD (fld w 240 8), y.irq⟩
        (modRing r (fun x => { x with msgs := x.msgs.erase y }) m))

/-- Posted slots up to `n` of them. -/
def takeSlots (r : Byte) : Nat → Mach → Mach
  | 0, m => m
  | n + 1, m =>
    let (ok, m) := takeSlot r m
    if ok then takeSlots r n m else m

/-- One ring in a pass: its posted slots, or for a DOWN ring OUT_RD advanced past them (R395). DEDUCED: log entry 34. -/
def ringPass (r : Byte) (m : Mach) : Mach :=
  let x := ringOf m r
  if x.st = .free ∨ x.area = 0#36 then flushCompl r x.waiting.length m
  else
    let (w, m) := areaRead x 0x14 m
    if x.st = .down then
      (if w = x.outRd then m else areaWrite x 4 w (modRing r (fun x => { x with outRd := w }) m))
    else
      let m := flushCompl r x.waiting.length m
      takeSlots r (w - x.outRd).toNat m

/-- The completion vectors of a pass (R390). -/
def sendIrqs (m : Mach) : Mach :=
  m.host.irqs.foldl (fun m x => sendMsix x.1 (x.2.setWidth 11) m) (modHost (fun h => { h with irqs := [] }) m)

/-- Every descriptor of a ring that is not complete ends with ABORTED; one service may be spared. -/
def abortRing (spare : Option (Byte × BitVec 16 × Bool)) (r : Byte) (m : Mach) : Mach :=
  let x := ringOf m r
  if x.st ≠ .active ∧ x.st ≠ .deleting then m
  else
    let m := modHost (fun h => { h with svc := h.svc.filter fun q => decide (q.ring ≠ r) })
      (modRing r (fun x => { x with msgs := [], svcs := x.svcs.filter fun y => decide (spare = some (r, y)) }) m)
    let ab (cid : BitVec 16) (irq : Bool) (k : W32) : Compl := ⟨0#64, 0#64, k, cid, stAborted, irq⟩
    let m := x.msgs.foldl (fun m y => complete r (ab y.cid y.irq y.moved) m) m
    (x.svcs.filter fun y => decide (spare ≠ some (r, y))).foldl (fun m y => complete r (ab y.1 y.2 0#32) m) m

/-- Every descriptor but the removal's own has completed. -/
def drainedRings (m : Mach) : Bool :=
  decide (sumNat (m.host.rings.toList.map Ring.outstanding) ≤ (if m.host.removalBy.isSome then 1 else 0))

/-- Step 3 of R504: the rings drain for up to 100 ms, what is left is aborted, the removal completes and vector 1030 is
sent. DEDUCED: log entry 36. -/
def removalDrain (m : Mach) : Mach :=
  if !draining m then m
  else
    let t := m.host.drainAt.getD m.clk
    let m := modHost (fun h => { h with drainAt := some t }) m
    if !drainedRings m && decide (m.clk < t + usClk 100_000) then m
    else
      let by_ := m.host.removalBy
      let m := allRings.foldl (fun m r => abortRing by_ r m) m
      let m := modHost (fun h => { h with removal := false, removalBy := none, attnSeen := false }) m
      let m := match by_ with
        | some (r, cid, irq) => svcDone r cid irq 0#8 0#64 0#64 0 m
        | none => m
      deviceVector 6 m

/-- A pass of both ports over every ring. -/
def outboundPass (m : Mach) : Mach :=
  if !powered m then m
  else
    let m := attnAct m
    let m := if m.mode.mode = .hardpan then m else allRings.foldl (fun m r => ringPass r m) m
    let m := allRings.foldl (fun m r =>
      if (ringOf m r).st = .deleting ∧ (ringOf m r).outstanding = 0 then finishDelete r m else m) m
    sendIrqs (removalDrain m)

/-- OUTBOUND_PASS (R385): Every 10 µs the port takes posted outbound slots, performs DMA_OUT and writes completions. -/
def execOutboundPass (s : State) : Res := s.on outboundPass

/-- DELETE_RING_TIMEOUT (R389): 100 ms after DELETE_RING outstanding descriptors are dropped, the ring freed and the completion written. -/
def execDeleteRingTimeout (r : BitVec 8) (s : State) : Res :=
  s.on fun m => if powered m && decide ((ringOf m r).st = .deleting) then finishDelete r (advanceTo (ringOf m r).delAt m) else m

/-- HOST_ABORT_COMPLETIONS (R365): Within 1 ms of hardpan entry the ports write ABORTED completions for fetched descriptors. -/
def execHostAbortCompletions (s : State) : Res :=
  s.on fun m =>
    if m.mode.mode = .hardpan then
      sendIrqs (allRings.foldl (fun m r => abortRing (if m.host.removal then m.host.removalBy else none) r m) m)
    else m

/-! ### The port set-up registers (R364, R400) -/

def admRing (p : Bool) : Byte := if p then 1#8 else 0#8

/-- ADM_CTL.EN, which reads 1 until the ring is free. -/
def admEn (m : Mach) (p : Bool) : Bool := decide ((ringOf m (admRing p)).st ≠ .free)

/-- The modes in which BAR0 takes set-up writes (R40, R365). -/
def setUpOpen (m : Mach) (p : Bool) : Bool :=
  powered m && (portOf m.host p).up && decide (m.mode.mode ≠ .sleep) && decide (m.mode.mode ≠ .hardpan)

/-- EN from 0 to 1. `area` are the pages that the keeper gives the ring; where they cannot be had, the ring has none, and
its messages complete with FENCE. -/
def adminEnable (p : Bool) (area : Addr) (m : Mach) : Mach :=
  let x := portOf m.host p
  let sq : BitVec 4 := fld x.admCfg 0 4
  let cq : BitVec 4 := fld x.admCfg 4 4
  let okLog (k : BitVec 4) : Bool := decide (4 ≤ k.toNat ∧ k.toNat ≤ 12)
  if !setUpOpen m p || admEn m p then m
  else if fld x.asq 0 12 ≠ 0#12 ∨ fld x.acq 0 12 ≠ 0#12 ∨ okLog sq = false ∨ okLog cq = false then
    modPort p (fun x => { x with admErr := true }) m
  else
    let y : Ring := { Ring.reset with
      owner := 1#10, port := p, sqLog := sq, cqLog := cq, sqAddr := x.asq, cqAddr := x.acq, phase := true }
    match freeFence m with
    | some i =>
      if pagesFree m area (areaPages y.ns y.nc) then openRing (admRing p) y area i m
      else modRing (admRing p) (fun _ => { y with st := .active }) m
    | none => modRing (admRing p) (fun _ => { y with st := .active }) m

/-- ADMIN_RING_ENABLE (R400): A write of ADM_CTL.EN from 0 to 1 makes the admin ring ACTIVE or sets ADM_ERR. -/
def execAdminRingEnable (port : Bool) (area : BitVec 36) (s : State) : Res := s.on (adminEnable port area)

/-- EN from 1 to 0. -/
def adminDisable (p : Bool) (m : Mach) : Mach :=
  if setUpOpen m p && decide ((ringOf m (admRing p)).st = .active) then startDelete (admRing p) none m else m

/-- ADMIN_RING_DISABLE (R400): A write of ADM_CTL.EN from 1 to 0 deletes the admin ring. -/
def execAdminRingDisable (port : Bool) (s : State) : Res := s.on (adminDisable port)

/-- HP_RESET (R400). -/
def hpReset (p : Bool) (v : W32) (m : Mach) : Mach :=
  if !powered m || !(portOf m.host p).up || !bit v 0 || decide (fld v 16 16 ≠ 0x5A3C#16) then m
  else if m.mode.mode = .operate then modPort p (fun x => { x with rstRef := true }) m
  else doReset (wantReset 1#4 m)

/-- HP_RESET_WRITE (R400): A host write to HP_RESET with the key resets the module, or is refused in OPERATE. -/
def execHpResetWrite (port : Bool) (v : BitVec 32) (s : State) : Res := s.on (hpReset port v)

/-- HP_STAT (R400). -/
def hpStat (m : Mach) (p : Bool) : W32 :=
  let x := portOf m.host p
  put 32 (modeCode m.mode.mode) 0 ||| at_ m.host.kready 3 ||| at_ (decide ((ringOf m (admRing p)).st = .active)) 4 ||| at_ (portOf m.host (!p)).up 5
    ||| at_ x.admErr 6 ||| at_ x.rstRef 7

/-- A word of the MSI-X table is written; a vector that is unmasked with its bit pending is sent (R364, R390). -/
def msixWrite (p : Bool) (i : Nat) (v : W32) (m : Mach) : Mach :=
  let v := if i % 4 = 3 then v &&& 1#32 else v
  let m := modPort p (fun x => { x with table := store (if i % 4 = 3 then 1#32 else 0#32) x.table i v }) m
  let k := i / 4
  let x := portOf m.host p
  if look false x.pba k && !msixMasked x (BitVec.ofNat 11 k) && x.msixEn then
    emit (.msix p (BitVec.ofNat 11 k)) (modPort p (fun x => { x with pba := store false x.pba k false }) m)
  else m

/-- A write to BAR0 (R363, R364, R400). PRESUMED: log entry 33. -/
def bar0Write (p : Bool) (off len : Nat) (v : W32) (m : Mach) : Mach :=
  if len ≠ 4 ∨ off % 4 ≠ 0 then m
  else if off = 8 then hpReset p v m
  else if !setUpOpen m p then m
  else
    let quiet (f : HPort → HPort) : Mach := if admEn m p then m else modPort p f m
    match off with
    | 0x04 => modPort p (fun x => { x with admErr := x.admErr && !bit v 6, rstRef := x.rstRef && !bit v 7 }) m
    | 0x10 => quiet fun x => { x with asq := setFld x.asq 0 32 v }
    | 0x14 => quiet fun x => { x with asq := setFld x.asq 32 32 v }
    | 0x18 => quiet fun x => { x with acq := setFld x.acq 0 32 v }
    | 0x1C => quiet fun x => { x with acq := setFld x.acq 32 32 v }
    | 0x20 => quiet fun x => { x with admCfg := fld v 0 8 }
    | 0x24 => if bit v 0 then adminEnable p 0#36 m else adminDisable p m
    | _ => if 0x1000 ≤ off ∧ off < 0x5100 then msixWrite p ((off - 0x1000) / 4) v m else m

/-! ### The status page (R367, R368) -/

/-- The bytes of a block of the page that are not 0. DEDUCED: log entry 36. -/
def pageCells (a : Nat) (l : List Byte) : List Host.Cell :=
  ((range a l.length).zip l).filter fun x => decide (x.2 ≠ 0#8)

/-- A ring's status (R367). -/
def ringStatus (x : Ring) : List Byte :=
  let st : Byte := match x.st with
    | .free => 0#8
    | .active => 1#8
    | .down => 2#8
    | .error => 3#8
    | .deleting => 4#8
  bytesOf x.owner 0 2 ++ [st, at_ x.port 0 ||| at_ x.fmt 1] ++ bytesOf x.f 0 2 ++ bytesOf x.cqTail 0 2 ++ bytesOf x.cqHead 0 2
    ++ bytesOf (BitVec.ofNat 16 x.outstanding) 0 2 ++ [at_ x.phase 0, 0#8, 0#8, 0#8]

/-- A compartment's quota use (R392). -/
def quotaBytes (h : HostIf) (budgets : List (BitVec 10 × Nat)) (c : BitVec 10) : List Byte :=
  let u := quotaUse h (engineUse budgets c) c
  let w (n i : Nat) : List Byte := bytesOf (BitVec.ofNat 32 (u.getD i 0)) 0 n
  let l (n i : Nat) : List Byte := bytesOf ((h.quota.get c).limit.get (BitVec.ofNat 3 i)) 0 n
  w 2 0 ++ l 2 0 ++ w 4 1 ++ l 4 1 ++ w 2 2 ++ l 2 2 ++ w 4 3 ++ l 4 3 ++ w 4 4 ++ l 4 4

/-- The granules of the input records that a page shows: those of the tick before. -/
def pageRecords (m : Mach) : List Nat :=
  allChans.map fun c => granOf (recAddr c (if bit m.tick.count 0 then 0 else 16))

/-- The contents of the page for tick `n`. -/
def pageOf (m : Mach) : List Host.Cell :=
  let n := bytesOf m.tick.count 0 8
  let budgets := bankBudgets m
  pageCells 0 (n ++ bytesOf (modeStatWord m.mode) 0 4 ++ bytesOf (modeRegRead 0x04C m) 0 4 ++ bytesOf (hpStat m false) 0 4
      ++ bytesOf (hpStat m true) 0 4 ++ bytesOf m.faults.last 0 2 ++ bytesOf m.faults.logged 0 2
      ++ bytesOf m.host.portA.dropped 0 2 ++ bytesOf m.host.portB.dropped 0 2)
    ++ pageCells 0x1000 (m.host.rings.toList.flatMap ringStatus)
    ++ pageCells 0x2000 ((range 0 1024).flatMap fun c =>
        if c < 2 then List.replicate 32 0#8 else quotaBytes m.host budgets (BitVec.ofNat 10 c))
    ++ pageCells 0x1_0000 (logBytes m.faults)
    ++ pageCells 0x2_0000 (pageRecords m |>.flatMap fun g => bytesOf (hwData g m) 0 16)
    ++ pageCells 0x3_FFF8 n

/-- STATUS_PAGE_UPDATE (R368): At edge + 20 µs the BAR4 status page is rewritten between UPD_BEGIN and UPD_END. -/
def execStatusPageUpdate (s : State) : Res :=
  s.on fun m =>
    if tickRuns m then
      let m := advanceTo (m.tick.edgeAt + usClk 20) m
      hwTouch (pageRecords m) (modHost (fun h => { h with page := pageOf m }) m)
    else m

end Sys2Proof.Machine
end

