-- ==== Sys2Proof/Machine/HostServices.lean ====
section
/-! DEFINITION. The keeper's services to the hosts (R387 to R397). Each row performs the oldest queued service of its opcode. -/

namespace Sys2Proof.Machine

open Sys2Proof

/-! ### Who may ask, and when (R387) -/

/-- A service that only an admin ring may ask for. -/
def adminOnly (opc : Nat) : Bool := !decide (opc ∈ [0x00, 0x01, 0x07, 0x0F])

/-- The modes in which a service is performed. -/
def serviceMode (opc : Nat) (k : Mode) : Bool :=
  let w := decide (k = .wake)
  let c := decide (k = .commission)
  let o := decide (k = .operate)
  let s := decide (k = .sleep)
  match opc with
  | 0x00 | 0x01 | 0x0E => w || c || o || s
  | 0x03 | 0x07 | 0x0A | 0x12 => c || o || s
  | 0x0B => o
  | 0x0C | 0x10 => w || c
  | 0x11 => w || c || s
  | _ => c || o

/-- A service leaves the queue and completes. -/
def answer (q : Svc) (st : Byte) (r0 r1 : W64) (xfer : Nat) (m : Mach) : Mach :=
  svcDone q.ring (descCid q.desc) (descIrq q.desc) st r0 r1 xfer
    (modHost (fun h => { h with svc := h.svc.erase q }) m)

/-- A service that fails with nothing to say. -/
def refuse (q : Svc) (st : Byte) (m : Mach) : Mach := answer q st 0#64 0#64 0 m

/-- REFUSED, where the spec names no reason for RESULT0. -/
def refuseFree (q : Svc) (m : Mach) : Mach :=
  answer q stRef (Config.refuseReason m.free) 0#64 0 { m with free := m.free + 1 }

/-- A service that succeeds. -/
def done (q : Svc) (r0 : W64) (m : Mach) : Mach := answer q 0#8 r0 0#64 0 m

/-- The keeper runs: in SLEEP only once a wake event has resumed it (R40, R49). -/
def keeperUp (m : Mach) : Bool := decide (m.mode.mode ≠ .sleep) || m.mode.awake

/-- The oldest queued service of an opcode is performed, if its ring and the mode permit it. DESIGN CHOICE: log entry 35. -/
def serve (opc : Nat) (f : Svc → Mach → Mach) (m : Mach) : Mach :=
  if !powered m || !m.host.kready || !keeperUp m then m
  else
    match m.host.svc.find? fun q => decide ((descOpc q.desc).toNat = opc) with
    | none => m
    | some q =>
      if adminOnly opc && !isAdmin q.ring then refuse q stNotAdmin m
      else if !serviceMode opc m.mode.mode then refuse q stMode m
      else f q m

/-- The compartment that PARAM names at 0x18; none above 1023. -/
def svcComp (q : Svc) : Option (BitVec 10) :=
  let c : BitVec 16 := descParam q.desc 0x18 16
  if c.toNat < 1024 then some (c.setWidth 10) else none

/-- Bytes that the keeper sends to the host of a service's ring (R382), up to its DMA_LEN; how many. -/
def svcOut (q : Svc) (l : List Byte) (m : Mach) : Nat × Mach :=
  let n := if descOut q.desc then min (descLen q.desc) l.length else 0
  let p := (ringOf m q.ring).port
  let h := descHost q.desc
  let m := ((chunks 64 (l.take n) (n / 64 + 1)).zip (range 0 (n / 64 + 1))).foldl (fun m x =>
    if x.1.isEmpty then m else emit (.hostWrite p (h + BitVec.ofNat 64 (64 * x.2)) x.1) m) m
  (n, m)

/-! ### The plain services -/

/-- SERVICE_NOP (R387): Service 0x00 completes with result 0. -/
def execServiceNop (s : State) : Res := s.on (serve 0x00 fun q m => done q 0#64 m)

/-- The identity block, BOOT_STAT and KEY_GEN (R425). -/
def identity (m : Mach) : List Byte :=
  flashBytes m.sec false 0x4000 200 ++ bytesOf m.sec.bootStat 0 4 ++ bytesOf m.sec.keyGen 0 4

/-- IDENTIFY (R387): Service 0x01 returns the identity block by DMA_OUT. -/
def execIdentify (s : State) : Res :=
  s.on (serve 0x01 fun q m =>
    let (n, m) := svcOut q (identity m) m
    answer q 0#8 0#64 0#64 n m)

/-- The entries that the log holds (R438). -/
def logEntries (m : Mach) : Nat := min m.faults.wr.toNat 127

/-- READ_LOG (R387): Service 0x0E returns the fault log by DMA_OUT. -/
def execReadLog (s : State) : Res :=
  s.on (serve 0x0E fun q m =>
    let (n, m') := svcOut q (logBytes m.faults) m
    answer q 0#8 (BitVec.ofNat 64 (logEntries m)) 0#64 n m')

/-- ATTEST (R387): Service 0x0F returns a signed attestation report for a nonce. A module without keys refuses it. -/
def execAttest (s : State) : Res :=
  s.on (serve 0x0F fun q m =>
    if m.sec.fuse.provisioned = false then refuseFree q m
    else
      let (r, m) := attestReport (bytesOf q.desc 0x18 32) m
      let (n, m) := svcOut q r m
      answer q 0#8 (BitVec.ofNat 64 r.length) 0#64 n m)

/-! ### Rings and windows -/

/-- The fields of CREATE_RING (R388). -/
def ringArgs (d : BitVec 512) : Option Ring :=
  let comp : BitVec 16 := descParam d 0x18 16
  let sq : BitVec 4 := descParam d 0x1A 4
  let cq : BitVec 4 := fld d (8 * 0x1A + 4) 4
  let fmt := bit d (8 * 0x1B)
  let compat : W32 := descParam d 0x1C 32
  let sa : BitVec 64 := descParam d 0x20 64
  let ca : BitVec 64 := descParam d 0x28 64
  let okLog (k : BitVec 4) : Bool := decide (4 ≤ k.toNat ∧ k.toNat ≤ 12)
  if 2 ≤ comp.toNat ∧ comp.toNat < 1024 ∧ okLog sq = true ∧ okLog cq = true ∧ fld d (8 * 0x1B + 2) 6 = 0#6
      ∧ (fmt = true ∨ compat = 0#32) ∧ fld sa 0 12 = 0#12 ∧ fld ca 0 12 = 0#12 ∧ descParam d 0x30 128 = 0#128 then
    some { Ring.reset with
      owner := comp.setWidth 10, port := bit d (8 * 0x1B + 1), fmt := fmt, sqLog := sq, cqLog := cq, sqAddr := sa
      cqAddr := ca, compat := compat }
  else none

/-- The lowest FREE ring of 2 to 255. DESIGN CHOICE: log entry 35. -/
def freeRingId (m : Mach) : Option Byte :=
  ((range 2 254).map (BitVec.ofNat 8)).find? fun r => decide ((ringOf m r).st = .free)

/-- CREATE_RING (R388), over pages that the keeper has found at `area`. DESIGN CHOICE: log entry 35. -/
def createRing (area : Addr) (q : Svc) (m : Mach) : Mach :=
  match ringArgs q.desc with
  | none => refuse q stField m
  | some x =>
    let n := areaPages x.ns x.nc
    if quotaLimit m.host x.owner 3 < pagesOf m.host x.owner + n then refuse q stQuota m
    else
      match freeRingId m, freeFence m with
      | some r, some i =>
        if pagesFree m area n then done q (put 64 r 0) (openRing r x area i m) else refuse q stNoRes m
      | _, _ => refuse q stNoRes m

/-- CREATE_RING (R388): Service 0x02 allocates a ring area and makes a new ring ACTIVE. -/
def execCreateRing (area : BitVec 36) (s : State) : Res := s.on (serve 0x02 (createRing area))

/-- DELETE_RING (R389): the service stays outstanding until the ring is free. -/
def deleteRing (q : Svc) (m : Mach) : Mach :=
  let r : Byte := descParam q.desc 0x18 8
  let st := (ringOf m r).st
  if r.toNat < 2 ∨ (st ≠ .active ∧ st ≠ .down) then refuse q stField m
  else
    startDelete r (some (q.ring, descCid q.desc, descIrq q.desc)) (modHost (fun h => { h with svc := h.svc.erase q }) m)

/-- DELETE_RING (R389): Service 0x03 sets a ring DELETING and stops fetching. -/
def execDeleteRing (s : State) : Res := s.on (serve 0x03 deleteRing)

/-- The lowest window slot that is not in use. -/
def freeWindow (m : Mach) : Option Byte :=
  ((range 0 256).map (BitVec.ofNat 8)).find? fun i => !(m.host.win.get i).valid

/-- MAP_WINDOW (R371, R387, R393). DESIGN CHOICE: log entry 35. -/
def mapWindow (q : Svc) (m : Mach) : Mach :=
  let d := q.desc
  let pages : BitVec 16 := descParam d 0x1C 16
  let ha : BitVec 64 := descParam d 0x20 64
  match svcComp q with
  | none => refuse q stField m
  | some c =>
    if c = 0#10 ∨ pages = 0#16 ∨ 1024 < pages.toNat ∨ fld ha 0 12 ≠ 0#12 then refuse q stField m
    else if quotaLimit m.host c 2 < windowsOf m.host c + 1 then refuse q stQuota m
    else
      match freeWindow m with
      | none => refuse q stNoRes m
      | some i =>
        let w : HostWin :=
          { w0 := fld ha 0 32, w1 := fld ha 32 32
            w2 := put 32 (fld pages 0 11 : BitVec 11) 0 ||| put 32 (fld d (8 * 0x1A) 3 : BitVec 3) 12
            w3 := put 32 c 0 ||| at_ true 31 }
        done q (put 64 i 0) (modHost (fun h => { h with win := h.win.set i w }) m)

/-- MAP_WINDOW (R387): Service 0x04 maps a host window for a compartment. -/
def execMapWindow (s : State) : Res := s.on (serve 0x04 mapWindow)

/-- UNMAP_WINDOW (R387): Service 0x05 unmaps a host window slot. -/
def execUnmapWindow (s : State) : Res :=
  s.on (serve 0x05 fun q m =>
    done q 0#64 (modHost (fun h => { h with win := h.win.set (descParam q.desc 0x18 8) HostWin.reset }) m))

/-! ### Quotas (R392 to R394) -/

/-- A slot of a list: its engine and position, and its granule. -/
structure BankSlot where
  eng : BitVec 7
  pos : BitVec 6
  gran : Gran
  deriving DecidableEq, Repr

def BankSlot.comp (x : BankSlot) : BitVec 10 := fld x.gran 0 10
def BankSlot.budget (x : BankSlot) : Nat := (fld x.gran 32 20 : BitVec 20).toNat

/-- The slots of a bank in order of descending engine number and descending position (R394). -/
def slotsDown (m : Mach) (b : Bool) : List BankSlot :=
  allEngines.reverse.flatMap fun e => ((bankList m b e).map fun x => (⟨e, x.1, x.2⟩ : BankSlot)).reverse

/-- Budgets of a compartment cut, each down to 1 µs at most, until `need` is met; what is still needed. -/
def cutBudgets (c : BitVec 10) : Nat → List BankSlot → Nat × List BankSlot
  | need, [] => (need, [])
  | need, x :: r =>
    let k := if x.comp = c then min need (x.budget - 1) else 0
    let (n, l) := cutBudgets c (need - k) r
    (n, { x with gran := setFld x.gran 32 20 (BitVec.ofNat 20 (x.budget - k)) } :: l)

/-- Slots of a compartment removed in the same order until `need` is met. -/
def cutSlots (c : BitVec 10) : Nat → List BankSlot → List BankSlot
  | _, [] => []
  | need, x :: r => if x.comp = c ∧ 0 < need then cutSlots c (need - x.budget) r else x :: cutSlots c need r

/-- The bytes of an engine's list: its slots in order, then entries that are not VALID. -/
def listBytes (l : List BankSlot) (e : BitVec 7) : List Byte :=
  let g := (l.filter fun x => decide (x.eng = e)).reverse.flatMap fun x => bytesOf x.gran 0 16
  g ++ List.replicate (1024 - g.length) 0#8

/-- The schedule with a compartment's budgets cut by `need` goes to the inactive bank, and the banks swap at the next edge
(R394). -/
def cutEngine (c : BitVec 10) (need : Nat) (m : Mach) : Mach :=
  let b := m.tick.active
  let (n, l) := cutBudgets c need (slotsDown m b)
  let l := cutSlots c n l
  let m := allEngines.foldl (fun m e => writeBytes (slotAddr (!b) e 0#6) (listBytes l e) m) m
  modTick (fun t => { t with swapPend := true }) m

/-- SET_QUOTA (R392 to R394). -/
def setQuota (q : Svc) (m : Mach) : Mach :=
  let item : Byte := descParam q.desc 0x1A 8
  let lim : W32 := descParam q.desc 0x1C 32
  match svcComp q with
  | none => refuse q stField m
  | some c =>
    let i : BitVec 3 := item.setWidth 3
    if c.toNat < 2 ∨ 5 ≤ item.toNat ∨ (m.host.quota.get c).ceil.get i < lim then refuse q stField m
    else
      let use := if item = 4#8 then engineUse (bankBudgets m) c else 0
      let m := modHost (fun h => { h with quota := h.quota.upd c fun x => { x with limit := x.limit.set i lim } }) m
      if lim.toNat < use then done q (m.tick.count + 1#64) (cutEngine c (use - lim.toNat) m)
      else done q m.tick.count m

/-- SET_QUOTA (R393): Service 0x06 sets a compartment's quota limit up to its ceiling. -/
def execSetQuota (s : State) : Res := s.on (serve 0x06 setQuota)

/-- GET_QUOTA (R387): a ring that is no admin ring asks for its own compartment only. -/
def getQuota (q : Svc) (m : Mach) : Mach :=
  match svcComp q with
  | none => refuse q stField m
  | some c =>
    if !isAdmin q.ring && decide ((ringOf m q.ring).owner ≠ c) then refuse q stNotAdmin m
    else
      let u := quotaUse m.host (engineUse (bankBudgets m) c) c
      let w := Config.quotaWords ((range 0 5).map fun i =>
        (BitVec.ofNat 32 (u.getD i 0), (m.host.quota.get c).limit.get (BitVec.ofNat 3 i)))
      answer q 0#8 w.1 w.2 0 m

/-- GET_QUOTA (R387): Service 0x07 returns a compartment's quota use and limit. -/
def execGetQuota (s : State) : Res := s.on (serve 0x07 getQuota)

/-! ### Pages -/

/-- ALLOC_PAGES (R387, R393): pages that the keeper has found at `a`, with a capability over them.
DESIGN CHOICE: log entry 35. -/
def allocPages (a : Addr) (q : Svc) (m : Mach) : Mach :=
  let kind : Byte := descParam q.desc 0x1A 8
  let n := (descParam q.desc 0x1C 32).toNat
  match svcComp q with
  | none => refuse q stField m
  | some c =>
    if c = 0#10 ∨ 2 ≤ kind.toNat ∨ n = 0 then refuse q stField m
    else if quotaLimit m.host c 3 < pagesOf m.host c + n then refuse q stQuota m
    else if pagesFree m a n && (decide (region a = .dram) == decide (kind = 1#8)) then
      let m := modHost (fun h => { h with
        allocs := h.allocs ++ [⟨c, a, n⟩]
        delivered := h.delivered ++ [(c, Cap.make a a (a + BitVec.ofNat 36 (4096 * n)) 3#8 c 0#2 true, put 64 a 0)] }) m
      done q (put 64 a 0) m
    else refuse q stNoRes m

/-- ALLOC_PAGES (R387): Service 0x08 allocates module pages and delivers a capability through gate 1. -/
def execAllocPages (addr : BitVec 36) (s : State) : Res := s.on (serve 0x08 (allocPages addr))

/-- FREE_PAGES (R387): pages of a compartment that are no ring area. -/
def freePages (q : Svc) (m : Mach) : Mach :=
  let a : BitVec 64 := descParam q.desc 0x20 64
  let hit (c : BitVec 10) (x : Alloc) : Bool := decide (x.comp = c) && decide (x.addr.setWidth 64 = a)
  let area := m.host.rings.toList.any fun x => decide (x.st ≠ .free) && decide (x.area.setWidth 64 = a)
  match svcComp q with
  | none => refuse q stField m
  | some c =>
    if area || !m.host.allocs.any (hit c) then refuse q stField m
    else done q 0#64 (modHost (fun h => { h with allocs := h.allocs.filter fun x => !hit c x }) m)

/-- FREE_PAGES (R387): Service 0x09 frees module pages of a compartment. -/
def execFreePages (s : State) : Res := s.on (serve 0x09 freePages)

/-! ### Modes, hand-over, ticks -/

/-- MODE_REQUEST (R43, R387). -/
def modeService (q : Svc) (m : Mach) : Mach :=
  let t : Byte := descParam q.desc 0x18 8
  let v : W32 := 0x5A3C_0000#32 ||| put 32 t 0
  let k := modeRefusal v m
  let m := modeAnnounce m (modeRequest v m)
  if k = 0#4 then done q m.mode.pendTick m else answer q stRef (put 64 k 0) 0#64 0 m

/-- MODE_REQUEST (R387): Service 0x0A writes MODE_REQ for the host and completes when accepted or refused. -/
def execModeRequest (s : State) : Res := s.on (serve 0x0A modeService)

/-- The partner's GIVE lets the outputs be released now: before C of the tick that precedes its GIVE_EDGE (R502). -/
def giveOpen (m : Mach) : Bool :=
  let y := m.yl
  let t := y.ptick + (if y.lastHb < m.tick.edgeAt then 1#32 else 0#32)
  bit y.pflags 2 && (decide (t + 1#32 < y.pgive) || (decide (t + 1#32 = y.pgive) && decide (m.tick.phase ≠ .closed)))

/-- The host's OUT_RELEASE may be followed (R502). -/
def mayRelease (m : Mach) : Bool :=
  let y := m.yl
  !y.pres || (!bit y.pflags 0 && !bit y.pflags 3) || giveOpen m || (y.takeover && bit y.pflags 3)

/-- The keeper writes MODE_CTL.OUT_RELEASE (R46). DEDUCED: log entry 36. -/
def keeperRelease (m : Mach) : Mach :=
  if m.mode.mode = .operate then modMode (fun x => { x with outRel := true }) m else m

/-- OUT_RELEASE (R387): Service 0x0B confirms hand-over so the keeper writes OUT_RELEASE. -/
def execOutRelease (s : State) : Res :=
  s.on (serve 0x0B fun q m => if mayRelease m then done q 0#64 (keeperRelease m) else refuseFree q m)

/-- SET_TICK (R387): the three registers are written, if every value is one that they take (R11, R38).
DESIGN CHOICE: log entry 35. -/
def setTick (q : Svc) (m : Mach) : Mach :=
  let ctl : W32 := descParam q.desc 0x18 32
  let per : W32 := descParam q.desc 0x1C 32
  let hold : W32 := descParam q.desc 0x20 32
  if periodOk (fld per 0 17) && decide (fld hold 0 16 ≠ 0#16) && decide (fld hold 16 4 ≠ 0#4) then
    done q 0#64 (tickHoldWrite hold (tickPeriodWrite per (tickCtlWrite ctl m)))
  else refuse q stField m

/-- SET_TICK (R387): Service 0x10 writes the tick registers. -/
def execSetTick (s : State) : Res := s.on (serve 0x10 setTick)

/-- RESET_MODULE (R387): Service 0x11 resets the module. -/
def execResetModule (s : State) : Res :=
  s.on (serve 0x11 fun q m =>
    if descParam q.desc 0x18 16 = 0x5A3C#16 then doReset (wantReset 2#4 m) else refuse q stField m)

/-- PREPARE_REMOVAL (R397, R504): it completes when the removal is ready. -/
def prepareRemoval (q : Svc) (m : Mach) : Mach :=
  startRemoval (some (q.ring, descCid q.desc, descIrq q.desc)) (modHost (fun h => { h with svc := h.svc.erase q }) m)

/-- PREPARE_REMOVAL (R397): Service 0x12 runs the hand-over, drains rings and signals removal ready. -/
def execPrepareRemoval (s : State) : Res := s.on (serve 0x12 prepareRemoval)

/-- INVALID_OPCODE (R387): A service opcode 0x13 to 0x3F completes with INVALID_OPCODE. -/
def execInvalidOpcode (s : State) : Res :=
  s.on fun m =>
    if !powered m || !m.host.kready then m
    else
      match m.host.svc.find? fun q => decide (0x13 ≤ (descOpc q.desc).toNat) with
      | some q => refuse q 1#8 m
      | none => m

/-! ### Images and schedules from the host -/

/-- The bytes of a service's DMA in, as many as DMA_LEN; none where the host fails. -/
def svcIn (q : Svc) (data : List Byte) : Option (List Byte) :=
  if descIn q.desc && decide (descLen q.desc ≤ data.length) then some (data.take (descLen q.desc)) else none

/-- LOAD_COMPARTMENT (R387, R411, R412): the image is copied to `stage`, verified, decrypted to `dst`, and the fence entry of
the destination is locked. `stage` and `dst` are places that the keeper has found. DESIGN CHOICE: log entry 35. -/
def loadCompartment (data : List Byte) (stage dst : Addr) (q : Svc) (m : Mach) : Mach :=
  if m.sec.busy then m
  else
    match svcComp q, svcIn q data with
    | none, _ => refuse q stField m
    | _, none => refuse q (if descIn q.desc then stHostDma else stField) m
    | some c, some img =>
      let h : Header := ⟨img.take 0x140⟩
      let n := (h.len + 4095) / 4096
      if img.length < 0x140 ∨ c = 0#10 ∨ h.kind ≠ 2 ∨ h.comp ≠ c.toNat then refuse q stField m
      else
        match freeFence m with
        | none => refuse q stNoRes m
        | some i =>
          if pagesFree m stage ((img.length + 4095) / 4096) && (n == 0 || pagesFree m dst n) then
            let m := setFence i (pagesEntry dst n 0#10 3#8 false 0#8) (writeBytes stage img m)
            let m := secVerify false false (modSec (fun x => { x with
              arg0 := fld stage 0 32, arg1 := put 32 (fld stage 32 4 : BitVec 4) 0
              arg2 := fld dst 0 32, arg3 := put 32 (fld dst 32 4 : BitVec 4) 0 }) m)
            let m := modSec (fun x => { x with busy := false, res := x.next }) m
            if m.sec.res = 0#4 then
              answer q 0#8 0#64 0#64 img.length (setFence i (pagesEntry dst n c 0x54#8 true 0#8)
                (modHost (fun x => { x with allocs := x.allocs ++ [⟨c, dst, n⟩] }) m))
            else
              refuseFree q (setFence i FenceEntry.reset m)
          else refuse q stNoRes m

/-- LOAD_COMPARTMENT (R387): Service 0x0C loads and verifies a signed compartment image. -/
def execLoadCompartment (data : List Byte) (stage dst : BitVec 36) (s : State) : Res :=
  s.on (serve 0x0C (loadCompartment data stage dst))

/-- The entries of an engine's list in a bank image, up to the first that is not VALID. -/
def imageList (b : List Byte) (e : Nat) : List Gran :=
  ((range 0 64).map fun p => BitVec.ofNat 128 (leNat ((b.drop (1024 * e + 16 * p)).take 16))).takeWhile fun g => bit g 64

/-- A bank image that the keeper accepts (R26, R28, R392): no entry is malformed, and no compartment's budgets exceed its
ENGINE quota. -/
def bankOk (b : List Byte) (m : Mach) : Bool :=
  let all := (range 0 128).flatMap (imageList b)
  let budgets := all.map fun g => ((fld g 0 10 : BitVec 10), (fld g 32 20 : BitVec 20).toNat)
  all.all (fun g => !slotMalformed m.tick g)
    && budgets.all fun x => decide (engineUse budgets x.1 ≤ quotaLimit m.host x.1 4)

/-- TILTH_UPDATE (R31, R387). -/
def tilthUpdate (data : List Byte) (q : Svc) (m : Mach) : Mach :=
  if !descIn q.desc || decide (descLen q.desc ≠ 0x2_0000) then refuse q stField m
  else
    match svcIn q data with
    | none => refuse q stHostDma m
    | some b =>
      if bankOk b m then
        let m := writeBytes (bankBase (!m.tick.active)) b m
        answer q 0#8 (m.tick.count + 1#64) 0#64 b.length (modTick (fun t => { t with swapPend := true }) m)
      else refuseFree q m

/-- TILTH_UPDATE (R387): Service 0x0D checks a bank image, writes it to the inactive bank and swaps. -/
def execTilthUpdate (data : List Byte) (s : State) : Res := s.on (serve 0x0D (tilthUpdate data))

end Sys2Proof.Machine
end

