-- ==== Sys2Proof/Machine/SecEvents.lean ====
section
/-! DEFINITION. Events of the security block: burns, commands and flash operations that end, the owner's fast system calls, and
the random number generator (R406, R419, R420, R422 to R424, R429, R430). -/

namespace Sys2Proof.Machine

open Sys2Proof

/-! ### Fuses -/

/-- FUSE_BURN_COMPLETE (R406): A fuse burn ends after programming and verifying each bit. The bits of `fail` have failed three
times; of those, the bits of `weak` read 1 at M0. -/
def execFuseBurnComplete (fail weak : BitVec 32) (s : State) : Res :=
  match s.m.sec.burn with
  | some (i, mask) =>
    let want := mask &&& ~~~(s.fuses.hi i.toNat)
    let f := s.fuses.program i (want &&& ~~~fail) (want &&& fail &&& weak)
    .next { s with
      fuses := f
      m := modSec (fun x => { x with fuse := f, burn := none, fErr := if want &&& fail = 0#32 then x.fErr else 6#3 }) s.m }
  | none => .next s

/-! ### Commands and flash operations -/

/-- SEC_COMMAND_COMPLETE (R429): A security command ends and SEC_STAT.RES gives its result. -/
def execSecCommandComplete (s : State) : Res :=
  s.on (modSec fun x => if x.busy then { x with busy := false, res := x.next, len := x.nextLen } else x)

/-- FLASH_OP_COMPLETE (R430): A flash operation ends and BUSY clears with its ERR code. A device error leaves `n` bytes done. -/
def execFlashOpComplete (devErr : Bool) (n : Nat) (s : State) : Res :=
  s.on (flashEnd devErr (if devErr then n else 2 ^ 21))

/-! ### The owner's fast system calls (R419, R420) -/

/-- The bytes that the keeper copies through the caller's capability; none where it does not cover them. -/
def callerBytes (m : Mach) (e : BitVec 7) (x : Cap) (n : Nat) : Option (List Byte × Mach) :=
  if x.tag && decide (x.kind = 0#2) && x.has rRD && x.inBounds x.cursor n && (region x.cursor).isMem then
    some (codedBytes ⟨true, e, 0#10, 0#2⟩ (phys (tileOf e) x.cursor) n m)
  else none

/-- The keeper's check of a package (R420): its slot, if it is one above every valid slot. DEDUCED: log entry 38. -/
def newSlot (x : Sec) (pack : List Byte) : Option KeySlot :=
  match packageSlot x pack with
  | .error _ => none
  | .ok k =>
    let above (s : Option KeySlot) : Bool := match s with
      | some t => decide (t.gen < k.gen)
      | none => true
    if above x.slotA && above x.slotB then some k else none

/-- The target sector written with a package's slot image (R417, R420). -/
def writeSlot (x : Sec) (d : Bool) (pack : List Byte) (k : KeySlot) : Sec :=
  let i := slotImage x d pack
  let f := eraseBytes (flashOf x d) 0 4096
  let x := setFlash d (programBytes (programBytes f 0 i.1) 0x800 i.2) x
  if d then { x with slotB := some k } else { x with slotA := some k }

/-- KEY_UPDATE. DEDUCED: log entry 38. -/
def keyUpdate (e : BitVec 7) (m : Mach) : Mach :=
  let m := mapLanes e settleLane m
  match fastCall m e 0x100 with
  | none => m
  | some (r, c, a) =>
    if !ownerCallOk m r c || m.sec.busy || m.sec.flJob.isSome then returnStatus e stRefused m
    else
      match callerBytes m e a.x 0x1C0 with
      | none => returnStatus e stRefused m
      | some (pack, m) =>
        match newSlot m.sec pack with
        | none => returnStatus e stRefused m
        | some k => returnStatus e stSuccess (modSec (fun x => writeSlot x (targetSlot x) pack k) m)

/-- KEY_UPDATE (R420): The keeper writes a new key slot from a verified package. DEDUCED: log entry 60. -/
def execKeyUpdate (e : BitVec 7) (s : State) : Res := s.on (keyUpdate e)

/-- Where an image lies in flash (R408); an owner compartment's offset is the owner configuration record's. -/
def imageOffset (h : Header) (off : BitVec 26) : Option Nat :=
  if h.kind = 0 then some 0x1_0000
  else if h.kind = 1 then some 0x21_0000
  else if h.kind = 3 then some 0x5000
  else if h.kind = 2 ∧ h.comp = 1 then some 0x11_0000
  else if h.kind = 2 ∧ 0x31_0000 ≤ off.toNat ∧ off.toNat % 4096 = 0 ∧ off.toNat + 0x140 + h.len ≤ 0x400_0000 then some off.toNat
  else none

/-- STORE_IMAGE. -/
def storeImage (e : BitVec 7) (off : BitVec 26) (m : Mach) : Mach :=
  let m := mapLanes e settleLane m
  match fastCall m e 0x101 with
  | none => m
  | some (r, c, a) =>
    if !ownerCallOk m r c || m.sec.busy || m.sec.flJob.isSome then returnStatus e stRefused m
    else
      let x := m.sec
      match callerBytes m e a.x 0x140 with
      | none => returnStatus e stRefused m
      | some (hd, m) =>
        let h : Header := ⟨hd⟩
        match imageOffset h off, callerBytes m e a.x (0x140 + h.len) with
        | some o, some (img, m) =>
          match h.formOk, checkImage x ((newestSlot x).bind (slotOf x)) h (img.drop 0x140) with
          | true, .ok _ =>
            let pad := List.replicate ((4096 - img.length % 4096) % 4096) 0xFF#8
            returnStatus e stSuccess (modSec (fun x => rewrite true o (img ++ pad) (rewrite false o (img ++ pad) x)) m)
          | _, _ => returnStatus e stRefused m
        | _, _ => returnStatus e stRefused m

/-- STORE_IMAGE (R420): The keeper verifies an image and writes it to both flash devices. DEDUCED: log entry 60. -/
def execStoreImage (e : BitVec 7) (off : BitVec 26) (s : State) : Res := s.on (storeImage e off)

/-! ### Random numbers (R422 to R424) -/

/-- Every request that waits completes with the entropy-unavailable status. -/
def noEntropy (l : List RngReq) : List RngReq := l.map fun q => if q.out.isNone then { q with out := some none } else q

/-- The blocks that the oldest waiting request asks for. -/
def firstBlocks : List RngReq → Nat
  | [] => 0
  | q :: l => if q.out.isNone then q.blocks.toNat + 1 else firstBlocks l

/-- The oldest request that waits gets its numbers, of the length that it asked for. -/
def serveFirst (n : BitVec 512) : List RngReq → List RngReq
  | [] => []
  | q :: l => if q.out.isNone then { q with out := some (some n) } :: l else q :: serveFirst n l

/-- A generate call for the oldest request. -/
def Sec.serve (x : Sec) : Sec :=
  let p := x.generate (firstBlocks x.reqs)
  { p.2 with reqs := serveFirst p.1 x.reqs }

/-- A generate call (R423); a READY DRBG that is due for its reseed waits for it. DEDUCED: log entry 37. -/
def rngServe (m : Mach) : Mach :=
  let x := m.sec
  if x.reqs.all fun q => q.out.isSome then m
  else
    match x.drbg with
    | .startup => m
    | .exhausted => modSec (fun x => { x with reqs := noEntropy x.reqs }) m
    | .ready => if 4096 ≤ x.calls.toNat then m else modSec Sec.serve m
    | .degraded =>
      modSec (fun x =>
        let y := x.serve
        if y.calls.toNat < 65_536 then y else { y with reqs := noEntropy y.reqs, drbg := .exhausted }) m

/-- RNG_REQUEST_SERVED (R423): The DRBG serves the head request with numbers, or with entropy-unavailable when exhausted. -/
def execRngRequestServed (s : State) : Res := s.on fun m => if powered m then rngServe m else m

/-- The DRBG is seeded in STARTUP, with DEVICE_ID as the personalisation string, or reseeded (R422, R423). -/
def seeded (now : Nat) (samples : BitVec 1024) (x : Sec) : Sec :=
  let s := if x.drbg = .startup then drbgSeed (sampleBytes samples) (hBytes x 2 2) else x.drbgState.reseed (sampleBytes samples)
  { x.setDrbg s with drbg := .ready, calls := 0, reseedAt := now, startFails := 0 }

/-- The start-up test on 1024 samples ends; the third failure in a row in STARTUP ends WAKE in HARDPAN.
DESIGN CHOICE: log entry 40. -/
def trngTest (samples : BitVec 1024) (m : Mach) : Mach :=
  if !powered m || decide (m.sec.drbg = .ready) then m
  else if healthy samples then modSec (seeded m.clk samples) m
  else if m.sec.drbg = .startup then
    let n := m.sec.startFails + 1
    let m := modSec (fun x => { x with startFails := n }) m
    if n = 3 ∧ m.mode.mode = .wake then reportNow 0x0703 0#64 m else m
  else m

/-- TRNG_STARTUP_TEST_END (R423): The start-up health test over 1024 samples ends; a pass seeds or reseeds the DRBG. -/
def execTrngStartupTestEnd (samples : BitVec 1024) (s : State) : Res := s.on (trngTest samples)

/-- The reseed of a READY DRBG from samples that have passed (R422). -/
def drbgReseed (samples : BitVec 1024) (m : Mach) : Mach :=
  if !powered m || decide (m.sec.drbg ≠ .ready) || !healthy samples then m
  else
    let m := if 4096 ≤ m.sec.calls.toNat then m else advanceTo (m.sec.reseedAt + secClk) m
    modSec (seeded m.clk samples) m

/-- DRBG_RESEED (R423): After 4096 generate calls or 1 s the DRBG reseeds. -/
def execDrbgReseed (samples : BitVec 1024) (s : State) : Res := s.on (drbgReseed samples)

/-- A continuous health test fails. -/
def continuousFailure (m : Mach) : Mach :=
  if powered m && decide (m.sec.drbg = .ready) then
    report 0x0704 (put 64 m.sec.calls 0) (modSec (fun x => { x with drbg := .degraded }) m)
  else m

/-- CONTINUOUS_TEST_FAILURE (R423): A continuous health test fails and the DRBG becomes DEGRADED. -/
def execContinuousTestFailure (s : State) : Res := s.on continuousFailure

end Sys2Proof.Machine
end

