-- ==== Sys2Proof/Machine/DebugTap.lean ====
section
/-! DEFINITION. The test access port and the opening and closing of debug sessions (R456 to R463). -/

namespace Sys2Proof.Machine

open Sys2Proof

/-! ### The port (R456, R457) -/

/-- Bits as bytes, the first bit shifted lowest. -/
def packBits (l : List Bool) : List Byte :=
  bytesOf (BitVec.ofNat (8 * ((l.length + 7) / 8)) (l.foldr (fun b n => (if b then 1 else 0) + 2 * n) 0)) 0 ((l.length + 7) / 8)

/-- A TAP scan: an instruction is in force and a data register is shifted out. The port works in every mode but DORMANT. -/
def tapScan (ir : Byte) (out : List Byte) (f : Mach → Mach) (m : Mach) : Mach :=
  if powered m then f (emit (.tdo out) (modDbg (fun d => { d with ir := ir, extest := false }) m)) else m

/-- What the bypass register shifts out: a 0, then what is shifted in. -/
def bypassOut (bits : List Bool) : List Byte := packBits ((false :: bits).take bits.length)

/-- A scan of the boundary-scan register, or of bypass while BSCAN = 0; `pins` are the levels captured. -/
def boundaryScan (ir : Byte) (bits pins : List Bool) (m : Mach) : Mach :=
  if m.dbg.bscan then
    tapScan ir (packBits pins) (modDbg fun d => { d with scan := bits, extest := decide (ir = 0#8) }) m
  else tapScan ir (bypassOut bits) id m

/-- TAP_RESET (R456): The TAP enters Test-Logic-Reset and selects IDCODE without closing a session. -/
def execTapReset (s : State) : Res :=
  s.on fun m => if powered m then modDbg (fun d => { d with ir := 2#8, extest := false }) m else m

/-- EXTEST (R457): TAP instruction 0x00 drives and captures the boundary-scan register while BSCAN = 1. -/
def execExtest (bits pins : List Bool) (s : State) : Res := s.on (boundaryScan 0#8 bits pins)

/-- SAMPLE_PRELOAD (R456): TAP instruction 0x01 samples or preloads the boundary-scan register. -/
def execSamplePreload (bits pins : List Bool) (s : State) : Res := s.on (boundaryScan 1#8 bits pins)

/-- The 32-bit identification (R456). -/
def idcode : W32 := 0x1912_8A3B#32

/-- IDCODE (R456): TAP instruction 0x02 returns the 32-bit identification. -/
def execIdcode (s : State) : Res := s.on (tapScan 2#8 (bytesOf idcode 0 4) id)

/-- A TAP instruction with a meaning of its own. -/
def tapDefined (ir : Byte) : Bool := decide (ir.toNat ∈ [0x00, 0x01, 0x02, 0x10, 0x11, 0x12])

/-- BYPASS (R456): TAP instruction 0xFF and undefined codes select the bypass register. -/
def execBypass (ir : BitVec 8) (bits : List Bool) (s : State) : Res :=
  s.on fun m => if tapDefined ir then m else tapScan ir (bypassOut bits) id m

/-! ### Opening a session (R458 to R462) -/

/-- BOOT_CFG's flags (R402). -/
def vdbgOff (m : Mach) : Bool := bit (m.sec.fuse.flag 148) 0
def odbgOff (m : Mach) : Bool := bit (m.sec.fuse.flag 148) 1
def bscanOff (m : Mach) : Bool := bit (m.sec.fuse.flag 148) 2

/-- The level and the key of a request byte: true the owner's. -/
def reqLevel (r : Byte) : BitVec 2 := fld r 0 2
def reqOwner (r : Byte) : Bool := bit r 2

/-- The key of a request is available, and permits its level (R458). -/
def keyOpen (m : Mach) (r : Byte) : Bool :=
  if reqOwner r then m.sec.fuse.owned && !odbgOff m && decide (reqLevel r ≠ 3#2) else m.sec.fuse.provisioned && !vdbgOff m

/-- A request that opens a session without a response (R462). -/
def factoryOpen (m : Mach) (r : Byte) : Bool := !m.sec.fuse.provisioned && decide (r = 3#8)

/-- The status of a request (R459, R461, R462): 0 where a nonce is to be drawn. DEDUCED: log entry 46. -/
def requestStatus (m : Mach) (r : Byte) : Byte :=
  if m.dbg.lockout.isSome then 4#8
  else if m.dbg.check.isSome then 1#8
  else if m.dbg.level ≠ 0#2 then 6#8
  else if fld r 3 5 ≠ 0#5 ∨ reqLevel r = 0#2 then 7#8
  else if levelOk m.mode.mode (reqLevel r) = false then 2#8
  else if factoryOpen m r then 0#8
  else if keyOpen m r = false then 3#8
  else if m.sec.drbg ≠ .ready then 5#8
  else 0#8

/-- A session opens: FAILS is 0 and the debug registers take their reset values (R459, R461). -/
def openSession (level : BitVec 2) (owner : Bool) (m : Mach) : Mach :=
  modDbg (fun d => { Debug.reset with
    ir := d.ir, level := level, owner := owner, lastAcc := m.clk, scan := d.scan, status := d.status }) m

/-- DBG_CHAL: the register is captured, then the request byte is checked, and a nonce is drawn. DEDUCED: log entry 46. -/
def challenge (req : Byte) (m : Mach) : Mach :=
  let old : BitVec 256 := (m.dbg.nonce.map Prod.fst).getD 0#256
  tapScan 0x10#8 (m.dbg.status :: bytesOf old 0 32) (fun m =>
    let k := requestStatus m req
    let m := modDbg (fun d => { d with status := k }) m
    if k ≠ 0#8 then m
    else if factoryOpen m req then openSession 3#2 false m
    else
      let p := m.sec.generate 2
      modDbg (fun d => { d with nonce := some (fld p.1 0 256, m.clk, req) }) { m with sec := p.2 }) m

/-- DBG_CHAL (R459): A session request byte is checked and a nonce is drawn. -/
def execDbgChal (req : BitVec 8) (s : State) : Res := s.on (challenge req)

/-- A failed response is counted; from the third in a row on, it locks the port for 60 s (R461). DEDUCED: log entry 46. -/
def countFail (m : Mach) : Mach :=
  modDbg (fun d => { d with
    fails := satInc d.fails
    lockout := if 2 ≤ d.fails.toNat ∧ d.lockout = none then some (m.clk + 60 * secClk) else d.lockout }) m

/-- The message M (R460). -/
def sessionMessage (m : Mach) (nonce : BitVec 256) (req : Byte) : List Byte :=
  bytesOf (0x9A5E_0C50#32) 0 4 ++ [req, 0#8, 0#8, 0#8] ++ hBytes m.sec 2 2 ++ bytesOf nonce 0 32

/-- The digest of the key that a request names. -/
def keyDigest (m : Mach) (req : Byte) : List Byte := if reqOwner req then hBytes m.sec 86 12 else hBytes m.sec 60 12

/-- DBG_RESP: with a nonce in force its check starts, and the nonce is used up; without one it fails. -/
def response (resp : BitVec 1536) (m : Mach) : Mach :=
  tapScan 0x11#8 (List.replicate 192 0#8) (fun m =>
    if m.dbg.check.isSome then m
    else
      match m.dbg.nonce with
      | none => countFail m
      | some (n, _, req) =>
        let pub := bytesOf resp 0 96
        let ok := decide (sha384 pub = keyDigest m req) && ecdsaVerify pub (sessionMessage m n req) (bytesOf resp 96 96)
        modDbg (fun d => { d with nonce := none, check := some (ok, req), status := 1#8 }) m) m

/-- DBG_RESP (R459): A signed response is shifted in and its check starts. DEDUCED: log entry 46. -/
def execDbgResp (resp : BitVec 1536) (s : State) : Res := s.on (response resp)

/-- The check ends: the session opens, unless the mode no longer permits its level, or a failure is counted.
DEDUCED: log entry 46. -/
def sessionOpen (m : Mach) : Mach :=
  match m.dbg.check with
  | none => m
  | some (ok, req) =>
    let m := modDbg (fun d => { d with check := none, status := 0#8 }) m
    if !ok then countFail m
    else if levelOk m.mode.mode (reqLevel req) then openSession (reqLevel req) (reqOwner req) m
    else modDbg (fun d => { d with status := 2#8 }) m

/-- SESSION_OPEN (R459): The response check ends, opening the session or counting a failure. -/
def execSessionOpen (s : State) : Res := s.on sessionOpen

/-- LOCKOUT_END (R461): The 60 s lockout after three failures ends. -/
def execLockoutEnd (s : State) : Res :=
  s.on fun m =>
    match m.dbg.lockout with
    | some t => modDbg (fun d => { d with lockout := none }) (advanceTo t m)
    | none => m

/-- NONCE_LAPSE (R459): A nonce lapses 10 s after it is issued. -/
def execNonceLapse (s : State) : Res :=
  s.on fun m =>
    match m.dbg.nonce with
    | some (_, t, _) => modDbg (fun d => { d with nonce := none }) (advanceTo (t + 10 * secClk) m)
    | none => m

/-- SESSION_TIMEOUT (R463): A session with no DBG_ACC scan for 10 s closes. -/
def execSessionTimeout (s : State) : Res :=
  s.on fun m => if m.dbg.level = 0#2 then m else closeSession false (advanceTo (m.dbg.lastAcc + 10 * secClk) m)

end Sys2Proof.Machine
end

