-- ==== Sys2Proof/Machine/DebugRows.lean ====
section
/-! DEFINITION. Debug accesses, run control and freezes (R464 to R482). -/

namespace Sys2Proof.Machine

open Sys2Proof

/-! ### Accesses (R464) -/

/-- How an access ends: with a word, refused with a cause, or NOPEEK. -/
inductive AccEnd where
  | word (v : W32)
  | refused (cause : BitVec 4)
  | noPeek
  deriving DecidableEq, Repr

/-- What DBG_ACC captures: the result of the latest access. -/
def accResult (d : Debug) : BitVec 72 := put 72 d.res 0 ||| put 72 d.accAddr 4 ||| put 72 d.accData 40

/-- A DBG_ACC scan: the latest result is shifted out and the access is made. -/
def accScan (a : Addr) (f : Mach → AccEnd × Mach) (m : Mach) : Mach :=
  tapScan 0x12#8 (bytesOf (accResult m.dbg) 0 9) (fun m =>
    let (r, m) := f (modDbg (fun d => { d with lastAcc := m.clk }) m)
    match r with
    | .word v => modDbg (fun d => { d with res := 0#2, accAddr := a, accData := v }) m
    | .refused k => modDbg (fun d => { d with res := 2#2, accAddr := a, accData := 0#32, rcause := k }) m
    | .noPeek => modDbg (fun d => { d with res := 3#2, accAddr := a, accData := 0#32 }) m) m

/-! ### Memory (R465 to R467) -/

/-- The identity of a debug access. -/
def dbgWho (m : Mach) : Who := ⟨.debug, 0x7F#7, m.dbg.comp, m.dbg.ring, 0#36, m.tick.count, 0#6⟩

/-- The checks that a replica access of that identity would meet, but for capabilities: the fence map, register space for
rings 0 and 1, the channels' owners and the keeper's tables. DEDUCED: log entry 47. -/
def dbgAllowed (a : Addr) (write : Bool) (m : Mach) : Bool :=
  let c := m.dbg.comp
  let keeper := keeperCtx c m.dbg.ring
  (fenceCheck .direct (.ring c m.dbg.ring) a write m).1
    && (region a != .regs || decide (m.dbg.ring.toNat < 2))
    && (match channelOf a write with
      | some ch => keeper || decide (m.owner.get ch = c)
      | none => true)
    && (!write || keeper || !(inOwnership a || inSpanTable a))

/-- RNG_OUT0 to RNG_OUT15. -/
def isRngOut (a : Addr) : Bool := decide (0x8000_0680 ≤ a.toNat ∧ a.toNat < 0x8000_06C0)

/-- A memory read. DEDUCED: log entry 47. -/
def dbgRead (a : Addr) (m : Mach) : AccEnd × Mach :=
  if m.dbg.level = 0#2 then (.refused 1#4, m)
  else if a.toNat % 4 ≠ 0 then (.refused 6#4, m)
  else if region a == .hostWin || isRngOut a then (.noPeek, m)
  else if !dbgAllowed a false m then (.refused 3#4, m)
  else
    match region a with
    | .regs =>
      match regPeek (dbgWho m) a m with
      | some v => (.word v, m)
      | none => (.refused 3#4, m)
    | .bootRom => (.word (BitVec.ofNat 32 (leNat (memBytes m a 4))), m)
    | _ =>
      if inShadow a then (.refused 3#4, m)
      else
        let (r, m) := readGran (whoAcc (dbgWho m)) (granOf a) m
        let (d, m) := if r.bad.isSome then (Config.badData m.free, { m with free := m.free + 1 }) else (r.data, m)
        (.word (fld d (8 * (a.toNat % 16)) 32), m)

/-- A memory write: an ordinary write, which clears the granule's tag. DEDUCED: log entry 47. -/
def dbgWrite (a : Addr) (v : W32) (m : Mach) : AccEnd × Mach :=
  let w := dbgWho m
  let keeper := keeperCtx m.dbg.comp m.dbg.ring
  let mask : BitVec 16 := (0xF#16) <<< (a.toNat % 16)
  let d : Gran := put 128 v (8 * (a.toNat % 16))
  if m.dbg.level.toNat < 2 then (.refused 1#4, m)
  else if a.toNat % 4 ≠ 0 then (.refused 6#4, m)
  else if !dbgAllowed a true m then (.refused 3#4, m)
  else
    match region a with
    | .regs =>
      let (ok, m) := regWrite w a v m
      (if ok then .word 0#32 else .refused 3#4, doReset m)
    | .hostWin =>
      let (ok, m) := hostStore w (alignG a) d mask m
      (if ok then .word 0#32 else .refused 3#4, m)
    | _ =>
      if (areaRefusal true keeper false a).isSome then (.refused 3#4, m)
      else
        let k := paramMask keeper a mask
        if k = 0#16 then (.word 0#32, m)
        else (.word 0#32, markWrite a 0x7F#7 0#6 false (writeGran (whoAcc w) (granOf a) d k false m))

/-- DEBUG_MEMORY_READ (R465): DBG_ACC OP 0b01 reads memory as a checked fabric transaction without side effects. -/
def execDebugMemoryRead (addr : BitVec 36) (s : State) : Res := s.on (accScan addr (dbgRead addr))

/-- DEBUG_MEMORY_WRITE (R467): DBG_ACC OP 0b10 writes memory as an ordinary checked write. -/
def execDebugMemoryWrite (addr : BitVec 36) (v : BitVec 32) (s : State) : Res := s.on (accScan addr (dbgWrite addr v))

/-! ### The words of DREG (R476, R477) -/

/-- A word of a record. -/
def recWord (r : BitVec 2048) (i : Nat) : W32 := fld r (32 * i) 32

/-- A shadow-stack area's first byte (R155), as memory keys it. -/
def shadowFirst (e : BitVec 7) : Addr := phys (tileOf e) (0x1003_8000#36 + put 36 (posOf e) 12)

/-- The tags of 32 entries of a shadow stack. -/
def shadowTags (e : BitVec 7) (j : Nat) (m : Mach) : W32 :=
  (range 0 32).foldl (fun w i => w ||| at_ (m.mem.tag (granOf (shadowFirst e) + 32 * j + i)) i) 0#32

/-- The granule of shadow stack that a read of DREG names. -/
def dregGran (m : Mach) : List Nat :=
  let i := m.dbg.idx.toNat
  if validEngine m m.dbg.eng && decide (0x400 ≤ i ∧ i < 0x800) then
    [granOf (shadowFirst m.dbg.eng + BitVec.ofNat 36 (4 * (i - 0x400)))]
  else []

/-- A read of DREG. -/
def dregRead (m : Mach) : AccEnd :=
  let e := m.dbg.eng
  let i := m.dbg.idx.toNat
  let g := m.engines.get e
  if !validEngine m e then .refused 7#4
  else if i < 0x40 ∨ i = 0xC0 then
    match leader m e with
    | some l =>
      if !g.halted then .refused 4#4
      else if i < 0x40 then .word (recWord (recBody l.arch) i) else .word (put 32 (recTags l.arch) 0)
    | none => .refused 7#4
  else if i < 0x80 then .word (recWord (recordOf g.copy0) (i - 0x40))
  else if i < 0xC0 then .word (recWord (recordOf g.copy1) (i - 0x80))
  else if i = 0xC1 then .word (put 32 (recTags g.copy0.arch) 0)
  else if i = 0xC2 then .word (put 32 (recTags g.copy1.arch) 0)
  else if 0x400 ≤ i ∧ i < 0x800 then .word (hwRead32 (shadowFirst e + BitVec.ofNat 36 (4 * (i - 0x400))) m)
  else if 0x800 ≤ i ∧ i < 0x808 then .word (shadowTags e (i - 0x800) m)
  else .refused 6#4

/-- The granules of a record that hold capabilities (R206). -/
def capGran (g : Nat) : Bool := decide (g < 7) || decide (10 ≤ g ∧ g ≤ 12)

/-- Words that a CONTROL session may write (R477). -/
def controlWord (i : Nat) : Bool := decide (0x1C ≤ i ∧ i ≤ 0x25) || (capGran (i / 4) && decide (i % 4 < 2))

/-- A live-state word written in one lane's registers (R477): a cursor write keeps the tag of a plain capability, any other
change of a capability clears it. DEDUCED: log entry 47. -/
def writeWord (factory : Bool) (i : Nat) (v : W32) (a : Arch) : Arch :=
  let r := recBody a
  let g := i / 4
  let old := recWord r i
  let v := if i % 4 = 1 ∧ capGran g = true ∧ factory = false then (old &&& ~~~0xF#32) ||| (v &&& 0xF#32) else v
  let cursor := decide (i % 4 = 0) || (decide (i % 4 = 1) && decide (old >>> 4 = v >>> 4))
  let kind : BitVec 2 := fld r (128 * g + 126) 2
  let keep := !capGran g || (cursor && decide (kind = 0#2))
  let t := if keep then recTags a else recTags a &&& ~~~(at_ true g)
  recArch (setFld r (32 * i) 32 v) t a

/-- A write of DREG, applied to every lane. DEDUCED: log entry 47. -/
def dregWrite (v : W32) (m : Mach) : AccEnd × Mach :=
  let e := m.dbg.eng
  let i := m.dbg.idx.toNat
  let factory := decide (m.dbg.level = 3#2)
  if m.dbg.level.toNat < 2 then (.refused 1#4, m)
  else if !validEngine m e then (.refused 7#4, m)
  else if i < 0x40 then
    if !(m.engines.get e).halted then (.refused 4#4, m)
    else if factory || controlWord i then
      (.word 0#32, mapLanes e (fun x => { x with arch := writeWord factory i v x.arch }) m)
    else (.refused 5#4, m)
  else if i ≤ 0xC2 ∨ (0x800 ≤ i ∧ i < 0x808) then (.refused 5#4, m)
  else if 0x400 ≤ i ∧ i < 0x800 then
    if factory then (.word 0#32, hwWrite32 (shadowFirst e + BitVec.ofNat 36 (4 * (i - 0x400))) v m) else (.refused 5#4, m)
  else (.refused 6#4, m)

/-! ### The debug registers (R482) -/

def dsessWord (d : Debug) : W32 :=
  put 32 d.level 0 ||| at_ d.owner 2 ||| at_ d.bscan 3 ||| put 32 d.fails 4 ||| at_ d.lockout.isSome 8 ||| put 32 d.rcause 12

def dctlWord (d : Debug) : W32 := put 32 d.comp 0 ||| put 32 d.ring 10 ||| at_ d.bscan 12

def drunWord (x : DEng) (halted : Bool) : W32 :=
  put 32 x.hgrp 3 ||| at_ x.hgen 6 ||| at_ halted 7 ||| put 32 x.hcause 8 ||| at_ x.resv 12 ||| at_ x.defer 13 ||| put 32 x.src 16

/-- The range that DSEL.IDX names. -/
def rangeIdx (d : Debug) : BitVec 3 := fld d.idx 0 3

/-- A read of a debug register. -/
def dbgRegRead (off : BitVec 12) (m : Mach) : AccEnd × Mach :=
  let d := m.dbg
  let x := d.engs.get d.eng
  let r := x.ranges.get (rangeIdx d)
  if d.level = 0#2 ∧ off ≠ 0#12 then (.refused 1#4, m)
  else
    match off.toNat with
    | 0x000 => (.word (dsessWord d), m)
    | 0x004 => (.word (dctlWord d), m)
    | 0x008 => (.word (put 32 d.eng 0 ||| put 32 d.idx 8), m)
    | 0x00C => (.word (drunWord x (m.engines.get d.eng).halted), m)
    | 0x010 => (dregRead m, hwTouch (dregGran m) m)
    | 0x014 => (.word r.lo, m)
    | 0x018 => (.word r.hi, m)
    | 0x01C => (.word r.q, m)
    | 0x020 => (.word (put 32 x.hit 0 ||| put 32 (fld x.hadr 32 4 : BitVec 4) 8), modDEng d.eng (fun x => { x with hit := 0#8 }) m)
    | 0x024 => (.word (fld x.hadr 0 32), m)
    | 0x028 => (.word (put 32 d.frzCh 0 ||| put 32 (d.frz.get d.frzCh) 8), m)
    | _ => (.refused 6#4, m)

/-- The identities that a session may take (R465). -/
def identityOk (d : Debug) (comp : BitVec 10) (ring : BitVec 2) : Bool :=
  if d.owner then decide (2 ≤ comp.toNat) && decide (ring ≠ 0#2)
  else decide (ring ≠ 0#2) || (decide (comp = 0#10) && decide (d.level = 3#2))

/-- A write of DCTL (R457, R463, R465). DEDUCED: log entry 47. -/
def dctlWrite (v : W32) (m : Mach) : AccEnd × Mach :=
  let comp : BitVec 10 := fld v 0 10
  let ring : BitVec 2 := fld v 10 2
  let bs := bit v 12
  if !identityOk m.dbg comp ring && !bit v 13 then (.refused 1#4, m)
  else
    let m := if identityOk m.dbg comp ring then modDbg (fun d => { d with comp := comp, ring := ring }) m else m
    let ok := dbgControls m && !bscanOff m
    let m := modDbg (fun d => { d with bscan := bs && (d.bscan || ok) }) m
    let m := if bit v 13 then closeSession false m else m
    (if bs && !ok then .refused 2#4 else .word 0#32, m)

/-- A write of DRUN: the group, then HALT, RESUME and STEP (R468 to R474). DEDUCED: log entry 47. -/
def drunWrite (v : W32) (m : Mach) : AccEnd × Mach :=
  let e := m.dbg.eng
  if !validEngine m e then (.refused 7#4, m)
  else
    let m := modDEng e (fun x => { x with hgrp := fld v 3 3, hgen := bit v 6 }) m
    let m := if bit v 0 then requestHalt e 1#4 m else m
    let m := if bit v 1 then resumeGroup e false m else m
    (.word 0#32, if bit v 2 then resumeGroup e true m else m)

/-- A write of DFRZ (R480, R481). -/
def dfrzWrite (v : W32) (m : Mach) : AccEnd × Mach :=
  if !dbgControls m then (.refused 2#4, m)
  else
    let c : Byte := fld v 0 8
    (.word 0#32, syncTimers (modDbg (fun d => { d with frzCh := c, frz := d.frz.set c (fld v 8 3) }) m))

/-- A word of the selected range written. -/
def rangeWrite (f : DRange → DRange) (m : Mach) : AccEnd × Mach :=
  (.word 0#32, modDEng m.dbg.eng (fun x => { x with ranges := x.ranges.upd (rangeIdx m.dbg) f }) m)

/-- A write of a debug register. -/
def dbgRegWrite (off : BitVec 12) (v : W32) (m : Mach) : AccEnd × Mach :=
  if m.dbg.level = 0#2 then (.refused 1#4, m)
  else if off = 4#12 then dctlWrite v m
  else if m.dbg.level.toNat < 2 then (.refused 1#4, m)
  else
    match off.toNat with
    | 0x000 | 0x020 | 0x024 => (.word 0#32, m)
    | 0x008 => (.word 0#32, modDbg (fun d => { d with eng := fld v 0 7, idx := fld v 8 12 }) m)
    | 0x00C => drunWrite v m
    | 0x010 => dregWrite v m
    | 0x014 => rangeWrite (fun r => { r with lo := v }) m
    | 0x018 => rangeWrite (fun r => { r with hi := v }) m
    | 0x01C => rangeWrite (fun r => { r with q := v &&& 0x0FFF_FFFF#32 }) m
    | 0x028 => dfrzWrite v m
    | _ => (.refused 6#4, m)

/-- A scan that reads a debug register, and one that writes it. -/
def regScanRead (off : BitVec 12) (m : Mach) : Mach := accScan (off.setWidth 36) (dbgRegRead off) m
def regScanWrite (off : BitVec 12) (v : W32) (m : Mach) : Mach := accScan (off.setWidth 36) (dbgRegWrite off v) m

/-- DEBUG_REGISTER_READ (R482): DBG_ACC OP 0b11 with WR = 0 reads a debug register. -/
def execDebugRegisterRead (off : BitVec 12) (s : State) : Res := s.on (regScanRead off)

/-- DEBUG_REGISTER_WRITE (R482): DBG_ACC OP 0b11 with WR = 1 writes a debug register with no row of its own. -/
def execDebugRegisterWrite (off : BitVec 12) (v : BitVec 32) (s : State) : Res := s.on (regScanWrite off v)

/-- DREG_READ (R476): A read of DREG returns the selected word of live state, bisque or shadow stack. -/
def execDregRead (s : State) : Res := s.on (regScanRead 0x010#12)

/-- DREG_WRITE (R477): A write of DREG changes a permitted live-state word in every lane. -/
def execDregWrite (v : BitVec 32) (s : State) : Res := s.on (regScanWrite 0x010#12 v)

/-- DHIT_READ (R482): A read of DHIT returns and clears the range-hit bits. DEDUCED: log entry 47. -/
def execDhitRead (s : State) : Res := s.on (regScanRead 0x020#12)

/-- SESSION_CLOSE (R463): A write of DCTL.CLOSE closes the session and releases halts and freezes. -/
def execSessionClose (v : BitVec 32) (s : State) : Res := s.on (regScanWrite 0x004#12 (v ||| 0x2000#32))

/-- BSCAN_ENABLE (R457): A write of DCTL.BSCAN_EN enables or disables boundary scan under its conditions. -/
def execBscanEnable (v : BitVec 32) (s : State) : Res := s.on (regScanWrite 0x004#12 v)

/-- CHANNEL_FREEZE (R480): DFRZ.CFRZ stops a channel's records and outputs at the next edge, or releases it. -/
def execChannelFreeze (v : BitVec 32) (s : State) : Res := s.on (regScanWrite 0x028#12 v)

/-- TIMER_FREEZE (R481): DFRZ.TFRZ stops or resumes a channel's timer. -/
def execTimerFreeze (v : BitVec 32) (s : State) : Res := s.on (regScanWrite 0x028#12 v)

/-- HALT (R468): A write of DRUN.HALT requests a halt of the selected engine. -/
def execHalt (v : BitVec 32) (s : State) : Res := s.on (regScanWrite 0x00C#12 (v ||| 1#32))

/-- RESUME (R473): A write of DRUN.RESUME restarts the engine, or defers it to edge + 10 µs. -/
def execResume (v : BitVec 32) (s : State) : Res := s.on (regScanWrite 0x00C#12 (v ||| 2#32))

/-- STEP (R474): A write of DRUN.STEP runs one instruction and halts again. -/
def execStep (v : BitVec 32) (s : State) : Res := s.on (regScanWrite 0x00C#12 (v ||| 4#32))

/-! ### The halt at its boundary (R469, R471) -/

/-- The engine stands at a boundary at which a halt may be taken. DEDUCED: log entry 48. -/
def haltBoundary (g : Engine) : Bool :=
  match g.act with
  | .load _ | .bisque | .recovery _ => false
  | _ => true

/-- A halt that is due completes: results due are written, the stores drain, HALTED is set. DEDUCED: log entry 48. -/
def haltComplete (e : BitVec 7) (m : Mach) : Mach :=
  if !stopping m e || !haltBoundary (m.engines.get e) then m
  else
    let (go, m) := drain e (settleLanes e m)
    if go then haltNow e m else m

/-- HALT_COMPLETE (R469): Every lane has stopped at the boundary and its stores drained, so HALTED is set. -/
def execHaltComplete (e : BitVec 7) (s : State) : Res := s.on (haltComplete e)

/-- The wait for an SC is over: the reservation is cleared and RESV is set. -/
def reservationWait (e : BitVec 7) (m : Mach) : Mach :=
  let x := m.dbg.engs.get e
  if x.want && x.waitSc then
    modDEng e (fun x => { x with waitSc := false, resv := true })
      (mapLanes e (fun x => { x with arch := { x.arch with resv := none } }) { m with resv := m.resv.filter fun y => y.1 ≠ e })
  else m

/-- HALT_RESERVATION_WAIT_EXPIRE (R471): A halt waiting for an SC halts after 64 clocks, clearing the reservation and setting RESV. -/
def execHaltReservationWaitExpire (e : BitVec 7) (s : State) : Res := s.on (reservationWait e)

end Sys2Proof.Machine
end

