-- ==== Sys2Proof/Machine/Strings.lean ====
section
/-! DEFINITION. String and move instructions (R98 to R101): their start, and one step. -/

namespace Sys2Proof.Machine

open Sys2Proof

/-- The six string instructions (R99). -/
inductive Str where
  | movs | fills | cmps | scans | movc | crcs
  deriving DecidableEq, Repr

def Str.opc : Str → BitVec 8
  | .movs => 0x80#8
  | .fills => 0x81#8
  | .cmps => 0x82#8
  | .scans => 0x83#8
  | .movc => 0x84#8
  | .crcs => 0x85#8

def Str.ofOpc (k : BitVec 8) : Option Str :=
  match k.toNat with
  | 0x80 => some .movs
  | 0x81 => some .fills
  | 0x82 => some .cmps
  | 0x83 => some .scans
  | 0x84 => some .movc
  | 0x85 => some .crcs
  | _ => none

/-- The number of bytes that a step handles (R98). -/
def Str.stepSize (k : Str) (a : Arch) : Nat :=
  let lim (c : Addr) : Nat := min a.rcnt.toNat (16 - c.toNat % 16)
  match k with
  | .movs | .fills => lim a.x.cursor
  | .movc => 16
  | _ => lim a.y.cursor

/-- Flags at the completion of an instruction that has nothing left to do (R99). DEDUCED: log entry 15. -/
def Str.emptyFlags (k : Str) (f : W64) : W64 :=
  match k with
  | .cmps => setC (setN (setZ f true) false) false
  | .scans => setZ f false
  | _ => f

/-- The start of a string instruction: with RCNT = 0 it is complete; MOVC checks its alignment (R98, R99). FADDR names Y's
cursor when that is no multiple of 16, else X's, also where RCNT alone is none. DEDUCED: log entry 14. -/
def stringSem (k : Str) (a : Arch) : Except Exc Fx :=
  if a.rcnt = 0#64 then .ok (fx { a with rstate := 0#64, f := k.emptyFlags a.f })
  else if k = .movc ∧ ¬ (a.x.cursor.toNat % 16 = 0 ∧ a.y.cursor.toNat % 16 = 0 ∧ a.rcnt.toNat % 16 = 0) then
    .error (excData 0x01 (if a.y.cursor.toNat % 16 ≠ 0 then a.y.cursor else a.x.cursor))
  else .ok { fx a with ev := .string k.opc }

/-- The checks of a step in the order of R99: Y before X, but X before Y for CMPS (R122). -/
def Str.check (k : Str) (n : Nat) (c : Ctx) (a : Arch) : Option Exc :=
  let y (cap : Bool) := checkOp c a ⟨1#4, a.y, a.y.cursor, none⟩ ⟨n, 1, false, cap⟩
  let x (w cap : Bool) := checkOp c a ⟨0#4, a.x, a.x.cursor, none⟩ ⟨n, 1, w, cap⟩
  let sh (p : Addr) := if shadowArea c p then some (excData 0x08 p) else none
  match k with
  | .movs => ((y false).or (x true false)).or (sh a.y.cursor)
  | .fills => x true false
  | .cmps => (((x false false).or (y false)).or (sh a.x.cursor)).or (sh a.y.cursor)
  | .scans | .crcs => (y false).or (sh a.y.cursor)
  | .movc => ((y true).or (x true true)).or (sh a.y.cursor)

/-- The parts of `n` bytes at an address that lie in its one or two granules: address and size. -/
def cover (a : Addr) (n : Nat) : List (Addr × Nat) :=
  let k := 16 - a.toNat % 16
  if n ≤ k then [(a, n)] else [(a, k), (a + BitVec.ofNat 36 k, n - k)]

/-- What a step reads: the parts of Y's bytes, then those of X's (R98). -/
def Str.reads (k : Str) (n : Nat) (a : Arch) : List (Addr × Nat) :=
  match k with
  | .fills => []
  | .cmps => cover a.y.cursor n ++ cover a.x.cursor n
  | _ => cover a.y.cursor n

/-- The bytes that a step loads, as the data ranges watch them (R478). -/
def Str.loads (k : Str) (n : Nat) (a : Arch) : List DAcc :=
  match k with
  | .fills => []
  | .cmps => [⟨a.y.cursor, n, false⟩, ⟨a.x.cursor, n, false⟩]
  | _ => [⟨a.y.cursor, n, false⟩]

/-- The bytes of consecutive granules. -/
def granBytes (l : List Gran) : List Byte := l.flatMap fun d => bytesOf d 0 16

/-- `n` bytes of granules from the offset of an address. -/
def takeBytes (l : List Gran) (a : Addr) (n : Nat) : List Byte := ((granBytes l).drop (a.toNat % 16)).take n

/-- Bytes as the low bytes of a granule. -/
def packBytes (l : List Byte) : Gran := BitVec.ofNat 128 (leNat l)

/-- The first index at which a test holds. -/
def firstIdx {α : Type} (p : α → Bool) : List α → Nat → Option Nat
  | [], _ => none
  | x :: r, k => if p x then some k else firstIdx p r (k + 1)

/-- X and Y moved by `n` bytes where the instruction uses them, and `n` bytes fewer to go (R98). -/
def Str.advance (k : Str) (n : Nat) (a : Arch) : Arch :=
  let d : Addr := BitVec.ofNat 36 n
  let ux := k = .movs ∨ k = .fills ∨ k = .cmps ∨ k = .movc
  let uy := k ≠ .fills
  { a with
    x := if ux then a.x.setCursor (a.x.cursor + d) else a.x
    y := if uy then a.y.setCursor (a.y.cursor + d) else a.y
    rcnt := a.rcnt - BitVec.ofNat 64 n }

/-- A step that leaves the instruction going, or completes it when RCNT is 0 (R98). -/
def stepEnd (done : Bool) (stores : List StReq) (ev : Ev) (a : Arch) : Fx :=
  if done then { fx { a with rstate := 0#64 } with stores := stores, ev := ev }
  else { fxJump a with stores := stores, ev := ev, part := true }

/-- ONE STEP on a lane with the granules it read (R99). -/
def Str.step (k : Str) (n : Nat) (data : List (Gran × Bool)) (c : Ctx) (a : Arch) : Fx :=
  let ys := (cover a.y.cursor n).length
  let yb := takeBytes ((data.take ys).map Prod.fst) a.y.cursor n
  let xb := takeBytes ((data.drop ys).map Prod.fst) a.x.cursor n
  let store (d : Gran) (cap tag : Bool) : List StReq × Ev :=
    let f := storeFx c ⟨a.x.cursor, n, d, cap, tag⟩ a
    (f.stores, f.ev)
  let n1 := k.advance n a
  let done := decide (n1.rcnt = 0#64)
  match k with
  | .movs => let p := store (packBytes yb) false false; stepEnd done p.1 p.2 n1
  | .fills =>
    let p := store (packBytes ((range 0 n).map fun i => byteOf a.a ((a.x.cursor.toNat + i) % 8))) false false
    stepEnd done p.1 p.2 n1
  | .movc =>
    let d := (data.getD 0 (0#128, false))
    let p := store d.1 true d.2
    stepEnd done p.1 p.2 n1
  | .crcs => stepEnd done [] .none { n1 with a := (crcRun (fld a.a 0 32) yb).setWidth 64 }
  | .scans =>
    match firstIdx (fun b => decide (b = fld a.a 0 8)) yb 0 with
    | some j => let r := k.advance j a; stepEnd true [] .none { r with f := setZ r.f true }
    | none => stepEnd done [] .none (if done then { n1 with f := setZ n1.f false } else n1)
  | .cmps =>
    match firstIdx (fun (p : Byte × Byte) => decide (p.1 ≠ p.2)) (xb.zip yb) 0 with
    | some j =>
      let r := k.advance j a
      let s := subB ((xb.getD j 0#8).setWidth 64) ((yb.getD j 0#8).setWidth 64) false
      stepEnd true [] .none { r with f := setC (setZN r.f s.1) s.2.1 }
    | none => stepEnd done [] .none (if done then { n1 with f := k.emptyFlags n1.f } else n1)

/-- What the parts that a step reads give each lane, in order: none when the engine does not go on; the first part that
fails ends the step. Each part is forwarded from a lane's own buffer or read from memory, after older stores that overlap it
(R68). Host windows take the data given. -/
def readParts (e : BitVec 7) (cap : Bool) : List (Addr × Nat) → List Gran → Mach →
    Option (Except Exc (List (BitVec 2 → LoadResult))) × Mach
  | [], _, m => (some (.ok []), m)
  | (a, n) :: r, host, m =>
    let dev := region a == .hostWin
    let (go, m) := acceptN e (waitCount m e a n cap) m
    if !go then (none, m)
    else
      let (res, m) :=
        if forwards m e a n cap then (LoadResult.data 0#128 false, m)
        else loadAccess (engineWho m e) 16 cap a (host.headD 0#128) m
      match res with
      | .fails x => (some (.error x), m)
      | .data _ _ =>
        let get := forwarded m e a n cap res
        match readParts e cap r (if dev then host.drop 1 else host) m with
        | (some (.ok l), m) => (some (.ok (get :: l)), m)
        | x => x

/-- The granule of a part as a lane has it. -/
def partData (r : BitVec 2) (get : BitVec 2 → LoadResult) : Gran × Bool :=
  match get r with
  | .data d t => (d, t)
  | .fails _ => (0#128, false)

/-- A lane's request for a step: the exception of its checks, or its loads as the voter compares them. -/
def Str.request (k : Str) (c : Ctx) (a : Arch) : LaneOut :=
  let n := k.stepSize a
  match k.check n c a with
  | some x => .exc x
  | none =>
    let kind := if k = .movc then TransKind.capLoad else TransKind.load
    .ok { fx a with part := true, trans := (k.reads n a).map fun p => ⟨kind, p.1, BitVec.ofNat 5 p.2, accMask p.1 p.2, 0#128, false, a.comp, a.ring⟩ }

/-- The string instruction goes back to a boundary. -/
def leaveString (e : BitVec 7) (m : Mach) : Mach := modEng e (fun g => { g with act := .run }) m

/-- The step fails on every lane with an exception: it is left undone, with PCC at the string instruction (R100). -/
def failStep (e : BitVec 7) (x : Exc) (m : Mach) : Mach :=
  pumped e (runOuts e ((lanesOf m e).map fun r => (r, LaneOut.exc x)) (leaveString e m))

/-- The reads of a step have been agreed: they are made, then its writes and its registers, on every lane. -/
def stepReads (e : BitVec 7) (k : Str) (host : List Gran) (m : Mach) : Mach :=
  match leader m e with
  | none => m
  | some l =>
    let n := k.stepSize l.arch
    match readParts e (decide (k = .movc)) (k.reads n l.arch) host m with
    | (none, m) => pumped e m
    | (some (.error x), m) => failStep e x m
    | (some (.ok data), m) =>
      let m := (k.reads n l.arch).foldl (fun m p => deviceAccess e p.1 m) m
      let outs := (lanesOf m e).map fun r =>
        (r, k.step n (data.map (partData r)) (Ctx.of m e r) (beginArch (rep m (tileOf e) r).arch))
      let (go, m) := makeRoom e outs m
      if !go then pumped e m
      else
        let outs := outs.filter fun x => x.1 ∈ lanesOf m e
        let m := if outs.any fun x => !x.2.part then leaveString e m else m
        let acc := match outs with
          | (_, f) :: _ => f.accesses ++ k.loads n l.arch
          | [] => []
        let m := commitFx e outs (dataHits e l.arch acc m)
        pumped e (if data.isEmpty then m else feed e m)

/-- ONE STEP of the string instruction in progress: checks, reads, then its writes and its registers, on every lane
(R98 to R101). A forced bisque that is due comes first (R213). A fault leaves the step undone, with PCC at the string
instruction (R100). -/
def stringStep (e : BitVec 7) (host : List Gran) (m : Mach) : Mach :=
  let m := settle e m
  match (m.engines.get e).act, canRun m e && !stopping m e with
  | .string opc, true =>
    match Str.ofOpc opc with
    | none => m
    | some k =>
      match resolve e ((lanesOf m e).map fun r => (r, k.request (Ctx.of m e r) (rep m (tileOf e) r).arch)) m with
      | (none, m) => pumped e m
      | (some outs, m) =>
        match voteFx e outs m with
        | (some ((r, f) :: l), m) =>
          if f.part then stepReads e k host m else pumped e (carryOutFx e ((r, f) :: l) (leaveString e m))
        | (_, m) => pumped e m
  | _, _ => m

/-- A host-window load of the step in progress has no completion after 100 µs (R65). -/
def stringTimeout (e : BitVec 7) (opc : BitVec 8) (m : Mach) : Mach :=
  match Str.ofOpc opc, leader m e with
  | some k, some l =>
    match (k.reads (k.stepSize l.arch) l.arch).find? fun p => region p.1 == .hostWin with
    | some p => failStep e (excData 0x06 p.1) m
    | none => m
  | _, _ => m

end Sys2Proof.Machine
end

