-- ==== Sys2Proof/Machine/EngineEvents.lean ====
section
/-! DEFINITION. Events inside an engine that are no instructions: acceptances, responses, due results, interrupts,
recovery (R62 to R73, R107, R177 to R179, R209 to R217), and the reads of live hardware (R108). -/

namespace Sys2Proof.Machine

open Sys2Proof

/-! ### Reads of live hardware (R108, R187, R189) -/

/-- Channel clocks left in the slot's budget. -/
def budgetLeft (m : Mach) (e : BitVec 7) : Nat :=
  match (m.engines.get e).cur with
  | some r => r.start + usClk r.slot.budget.toNat - m.clk
  | none => 0

/-- What BUDG reads: the channel clocks left. The spec states no value where no slot runs; that value is free.
DEDUCED: log entry 17. -/
def budgWord (m : Mach) (e : BitVec 7) : W64 :=
  if (m.engines.get e).cur.isNone then Config.noBudget m.free else BitVec.ofNat 64 (budgetLeft m e)

/-- WHO (R86): engine, compartment, ring and grouping code. -/
def whoWord (m : Mach) (e : BitVec 7) (a : Arch) : W64 :=
  put 64 e 0 ||| put 64 a.comp 8 ||| put 64 a.ring 24 ||| put 64 (liveCode m e) 28

/-- A lane takes a moment one channel clock later than lane 0, which only EXCHANGE_TRIPLE shows (R183, R189). -/
def lateIn (x : Exchange) (m : Mach) (e : BitVec 7) (r : Replica) : Nat :=
  if liveCode m e = 4#3 ∧ r.lane ≠ 0#2 ∧ bit x.late r.lane.toNat = true then 1 else 0

/-- An instruction that reads live hardware into A: the value is produced once for the engine, or exchanged (R108, R187, R189,
R190). What strikes it does so once the instruction's checks have passed. -/
def liveRead (e : BitVec 7) (mode : BitVec 4) (opnd : BitVec 20) (x : Exchange) (own : Mach → Replica → Nat) (m : Mach) : Mach :=
  let runs := canRun m e && !stopping m e && !stepIteration e m
  let m := if runs then settle e m else m
  let passes := (leader m e).any fun l => (instrCheck (plain .n) mode opnd (wordFault m e l.arch.pcc.cursor) l.arch).isNone
  let (go, m) := if runs && atBoundary m e && !stopping m e && passes then struck e x m else (true, m)
  if !go then pumped e m
  else
    let v := BitVec.ofNat 64 (agreed m e (own m))
    let m := instrA (plain .n) e mode opnd (fun a => { a with a := v }) m
    if runs then feed e m else m

/-- TICKR (R108): A := the current tick number. -/
def execTickr (e : BitVec 7) (mode : BitVec 4) (opnd : BitVec 20) (x : Exchange) (s : State) : Res :=
  s.on (liveRead e mode opnd x fun m _ => m.tick.count.toNat)

/-- TPOS (R108): A := channel clocks since the current tick edge. -/
def execTpos (e : BitVec 7) (mode : BitVec 4) (opnd : BitVec 20) (x : Exchange) (s : State) : Res :=
  s.on (liveRead e mode opnd x fun m r => m.clk - m.tick.edgeAt + lateIn x m e r)

/-- BUDG (R108): A := channel clocks left in the slot's budget. -/
def execBudg (e : BitVec 7) (mode : BitVec 4) (opnd : BitVec 20) (x : Exchange) (s : State) : Res :=
  s.on fun m =>
    let n := liveRead e mode opnd x (fun m r => (budgWord m e).toNat - lateIn x m e r) m
    if (m.engines.get e).cur.isNone then (drawFree n).2 else n

/-- WHO (R108): A := engine, compartment, ring and grouping code. -/
def execWho (e : BitVec 7) (mode : BitVec 4) (opnd : BitVec 20) (x : Exchange) (s : State) : Res :=
  s.on (liveRead e mode opnd x fun m r => (whoWord m e r.arch).toNat)

/-- The undefined opcodes of R86. DEDUCED: log entry 16. -/
def undefinedOpc (k : BitVec 8) : Bool :=
  let n := k.toNat
  decide (0x48 ≤ n ∧ n ≤ 0x4F) || decide (n = 0x5F) || decide (0x88 ≤ n ∧ n ≤ 0x8F) || decide (0x9C ≤ n ∧ n ≤ 0x9F)
    || decide (0xA4 ≤ n ∧ n ≤ 0xDF) || decide (0xE8 ≤ n ∧ n ≤ 0xFE)

/-- UNDEFINED_OPCODE (R87): An undefined opcode raises the illegal-instruction exception with cause 0x01. An opcode that
R86 defines is no such event. -/
def execUndefinedOpcode (e : BitVec 7) (opc : BitVec 8) (mode : BitVec 4) (opnd : BitVec 20) (s : State) : Res :=
  s.on fun m =>
    if undefinedOpc opc then instrE (plain .h) e mode opnd (fun _ _ => .error (excIllegal 0x01)) m else m

/-! ### The store buffer and loads -/

/-- STORE_ACCEPT (R67): A target accepts a store-buffer entry in issue order, freeing the entry, or refuses it. With
`parity`, the acceptance meets a parity error on its way to the lanes (R193). -/
def execStoreAccept (e : BitVec 7) (parity : Bool) (s : State) : Res :=
  s.on fun m =>
    let fed := (oldest m e).isSome
    let (go, m) := acceptOne e m
    pumped e (if go && parity && fed then pathParity e m else m)

/-- LOAD_RESPONSE (R64): The data of a fabric load arrives and is delivered to the lanes after their slip. Without a fabric
load, only a parity error on the path that fed the latest instruction from within the tile counts (R187, R193). -/
def execLoadResponse (e : BitVec 7) (hostData : BitVec 128) (upset : Upset) (s : State) : Res :=
  s.on fun m =>
    match (m.engines.get e).act with
    | .load l => pumped e (respond e l hostData (some upset) m)
    | _ =>
      if upset.parity && (m.engines.get e).fed then
        pumped e (pathParity e (modEng e (fun g => { g with fed := false }) m))
      else m

/-- The oldest entry of an engine's buffers, dropped with a notice of cause 0x4 when it waits for a host window (R65). -/
def dropHostStore (e : BitVec 7) (y : SbEntry) (m : Mach) : Mach :=
  notice e y 4#4 (mapLanes e (fun x => { x with sb := x.sb.drop 1 }) m)

/-- HOST_WINDOW_TIMEOUT (R65): A host-window access with no completion after 100 µs ends with a data-access exception or an imprecise notice.
A load from a host window waits for an empty buffer (R68), so a store that waits comes first. -/
def execHostWindowTimeout (e : BitVec 7) (s : State) : Res :=
  s.on fun m =>
    match (oldest m e).filter fun y => region y.gran = .hostWin with
    | some y => pumped e (dropHostStore e y m)
    | none =>
      match (m.engines.get e).act with
      | .load l =>
        if region l.addr = .hostWin then
          pumped e (finishLoad e l.op l.mode l.opnd l.addr (fun _ => .fails (excData 0x06 l.addr)) m)
        else m
      | .string opc => stringTimeout e opc m
      | _ => m

/-! ### Line fills (R58, R60 to R62) -/

/-- What a granule of a line fill gives: its data, and 0 or what it met (R60, R158, R262). -/
def fillPart : LoadResult → Gran × BitVec 4
  | .data d _ => (d, 0#4)
  | .fails x => (0#128, if x.vec = 0x08#6 then x.cause.setWidth 4 else 5#4)

/-- A line of 64 bytes read for an engine: through its tile's own port for the alias, else through the fence map. A host
window gives free bytes. -/
def readLine (e : BitVec 7) (a : Addr) (m : Mach) : ICLine × Mach :=
  let get (k : Nat) (m : Mach) : (Gran × BitVec 4) × Mach :=
    let (n, m) := if region a = .hostWin then drawFree m else (0, m)
    let p := loadAccess (engineWho m e) 16 false (a + BitVec.ofNat 36 (16 * k)) (if region a = .hostWin then Config.hostData n else 0#128) m
    (fillPart p.1, p.2)
  let (r0, m) := get 0 m
  let (r1, m) := get 1 m
  let (r2, m) := get 2 m
  let (r3, m) := get 3 m
  (⟨fld a 6 30, r3.1 ++ r2.1 ++ r1.1 ++ r0.1,
    Vector.ofFn fun i => if i.val = 0 then r0.2 else if i.val = 1 then r1.2 else if i.val = 2 then r2.2 else r3.2⟩, m)

/-- A line fill begins only within PCC's limit (R60). -/
def fillAllowed (m : Mach) (e : BitVec 7) (a : Addr) : Bool :=
  (leader m e).any fun l => decide (a.toNat < l.arch.pcc.limit)

/-- A line fill completes: the line stands in the engine's line buffer and, when every word of it could be read, in the tile's
cache, and its words come to the prefetch queues. A line that was cached already is invalidated and refilled after a
parity error, which is counted (R62). DEDUCED: log entry 9. -/
def lineFill (e : BitVec 7) (a : Addr) (err : BitVec 152) (m : Mach) : Mach :=
  let a := a &&& ~~~63#36
  let t := tileOf e
  let g := granOf (phys t a)
  let m := if (region (phys t a)).isMem && err != 0#152 then { m with mem := m.mem.flip g err } else m
  let line : BitVec 30 := fld a 6 30
  if !validEngine m e || !fillAllowed m e a then m
  else
    let again := (m.tiles.get t).icache.any fun y => y.line = line
    let m := if again then
        modTile t (fun x => { x with icache := x.icache.filter fun y => y.line ≠ line })
          (modMc (fun c => { c with icpar := satInc c.icpar }) m)
      else m
    let (x, m) := readLine e a m
    let m := if x.bad.toList.all (· = 0#4) then modTile t (fun tl => { tl with icache := cacheLine x tl.icache }) m else m
    prefetchFill e (modEng e (fun g => { g with lineBuf := bufferLine x g.lineBuf }) m)

/-- LINE_FILL (R62): An instruction-cache line fill completes and delivers its granules to the waiting fetch. -/
def execLineFill (e : BitVec 7) (line : BitVec 36) (err : BitVec 152) (s : State) : Res :=
  s.on fun m => if powered m then lineFill e line err m else m

/-! ### What becomes due -/

/-- LOAD_DELAY_WRITE (R72): A load writes A at the end of the instruction that follows it. -/
def execLoadDelayWrite (e : BitVec 7) (s : State) : Res := s.on (mapLanes e loadDue)

/-- LONG_OP_RESULT (R73): A long operation reaches its distance and writes M, and E where it does, with its sticky flags. -/
def execLongOpResult (e : BitVec 7) (s : State) : Res := s.on (mapLanes e longDue)

/-- RESERVATION_EXPIRE (R107): A reservation lapses 256 clocks after its LR. -/
def execReservationExpire (e : BitVec 7) (s : State) : Res :=
  s.on (clearResv e)

/-! ### Interrupts -/

/-- An interrupt entry at a boundary, if the engine can take one. In EXCHANGE_TRIPLE the lanes exchange their offers there, and
what strikes the exchange does so first. DEDUCED: log entry 17. -/
def interruptEntry (e : BitVec 7) (x : Exchange) (m : Mach) : Mach :=
  let m := settle e m
  if !interruptible m e then m
  else
    let offers := liveCode m e = 4#3 || (takeable m e false).isSome
    let (go, m) := if offers then struck e x m else (true, m)
    if !go then pumped e m
    else
      match takeable m e false with
      | some v => if lowerTakes m e v then m else takeInterrupt e v m
      | none => m

/-- INTERRUPT_ENTRY (R177): An eligible pending interrupt is taken at an instruction boundary and enters its vector. -/
def execInterruptEntry (e : BitVec 7) (x : Exchange) (s : State) : Res := s.on (interruptEntry e x)

/-- The end of a WFI (R179), at an exchange point in EXCHANGE_TRIPLE (R191). DEDUCED: log entry 17. -/
def wfiWake (e : BitVec 7) (x : Exchange) (m : Mach) : Mach :=
  let m := settle e m
  if !((m.engines.get e).act = .wfi && canRun m e && !stopping m e) then m
  else
    let offers := liveCode m e = 4#3 || (takeable m e true).isSome
    let (go, m) := if offers then struck e x m else (true, m)
    if !go then pumped e m
    else
      match takeable m e true, leader m e with
      | some v, some l =>
        if l.arch.ib && v != 0x10#6 then modEng e (fun g => { g with act := .run }) m
        else if lowerTakes m e v then m
        else takeInterrupt e v m
      | _, _ => m

/-- WFI_WAKE (R179): A waiting WFI completes when an eligible interrupt becomes pending, taking it if IB = 0. -/
def execWfiWake (e : BitVec 7) (x : Exchange) (s : State) : Res := s.on (wfiWake e x)

/-! ### Bisques and recovery -/

/-- The lanes' state, read back after a reload, differs: the persistent-mismatch fault (R216 step 6, R218). -/
def readBackDiffers (e : BitVec 7) (m : Mach) : Mach := report 0x0304 (ecOf m e) m

/-- The decision at the end of an unwind (R217): the pair resumes if this is the slot's first recovery in the tick and
the time left in its budget is at least the time that was lost. `differs` is a difference found when the reloaded state was
read back, after which the slot ends as failed; in a voted group the slot has failed already (R216, R218). -/
def recoveryDecision (e : BitVec 7) (differs : Bool) (m : Mach) : Mach :=
  let g := m.engines.get e
  match g.act, g.cur with
  | .recovery t, some r =>
    let used := t - r.bisqueAt
    if differs then pumped e (failSlot e (readBackDiffers e m))
    else if used ≤ budgetLeft m e ∧ r.recovered = false then
      let forced := (bisqueRecord g).any fun b => b.forced
      pumped e (modEng e (fun g => { g with
        act := if forced then .run else .bisque
        cur := g.cur.map fun r => { r with recovered := true } }) m)
    else pumped e (failSlot e m)
  | _, _ =>
    if g.reread then modEng e (fun g => { g with reread := false }) (if differs then readBackDiffers e m else m) else m

/-- RECOVERY_DECISION (R217): Once the unwind ends the pair resumes if budget permits, otherwise the slot fails. -/
def execRecoveryDecision (e : BitVec 7) (differs : Bool) (s : State) : Res := s.on (recoveryDecision e differs)

/-- BISQUE (R209): Once store buffers drain, the engine's state is compared, the undo log committed and the record written. -/
def execBisque (e : BitVec 7) (u : BisqueUpset) (s : State) : Res :=
  s.on fun m =>
    if (m.engines.get e).act = .bisque then
      let p := drain e m
      if p.1 then pump e u pumpFuel p.2 else p.2
    else m

/-- FORCED_BISQUE (R213): A pair takes a bisque when its undo log reaches 216 entries or after a register or host access. -/
def execForcedBisque (e : BitVec 7) (s : State) : Res :=
  s.on fun m => if forcedOwed m e && canRun m e then pumped e (forcedBisque e (settleLanes e m)) else m

end Sys2Proof.Machine
end

