-- ==== Sys2Proof/Machine/Flow.lean ====
section
/-! DEFINITION. Calls, gates, system calls, traps and branches (R86, R91, R146 to R157, R169). -/

namespace Sys2Proof.Machine

open Sys2Proof

/-- CALL (R86): Pushes a return capability on S and the shadow stack and jumps to the PCC-relative target. -/
def execCall (e : BitVec 7) (mode : BitVec 4) (opnd : BitVec 20) (s : State) : Res :=
  s.on (instrE ⟨.b, true, fun _ => none, 3⟩ e mode opnd fun c a => callSem (a.pcc.setCursor (branchTarget a opnd)) 4 c a)

/-- CALLX (R86): Pushes a return capability as CALL does and sets PCC to X. -/
def execCallx (e : BitVec 7) (mode : BitVec 4) (opnd : BitVec 20) (s : State) : Res :=
  s.on (instrE ⟨.n, true, fun _ => none, 3⟩ e mode opnd fun c a => callSem a.x 0 c a)

/-- RET (R156): Pops a capability from S, compares it with the shadow stack top and returns through it. -/
def execRet (e : BitVec 7) (mode : BitVec 4) (opnd : BitVec 20) (s : State) : Res :=
  s.on (instrE ⟨.n, true, fun _ => none, 3⟩ e mode opnd fun c a => loadSem .ret (popOp a) c a)

/-- GCALL (R147): Calls through the sealed gate in X into its compartment and ring, switching stacks and pushing a frame. -/
def execGcall (e : BitVec 7) (mode : BitVec 4) (opnd : BitVec 20) (s : State) : Res :=
  s.on (instr ⟨.n, true, fun _ => none, 3⟩ e mode opnd (.reads gcallReads) fun c a l => toOut (gcallSem c a l))

/-- GRET (R149): Returns through the top gate frame, or ends the slot normally at a slot frame. -/
def execGret (e : BitVec 7) (mode : BitVec 4) (opnd : BitVec 20) (s : State) : Res :=
  s.on (instr ⟨.n, true, fun _ => none, 3⟩ e mode opnd (.reads gretReads) fun c a l => toOut (gretSem c a l))

/-- SYSC (R153): Makes a fast system call into a lower ring through its entry register, saving LINK and SLINK. -/
def execSysc (e : BitVec 7) (mode : BitVec 4) (opnd : BitVec 20) (s : State) : Res :=
  s.on (instr ⟨.i, true, fun _ => none, 3⟩ e mode opnd .nothing fun _ a l => toOut (syscSem opnd a l))

/-- SYSR (R154): Returns from a fast system call through LINK and SLINK. -/
def execSysr (e : BitVec 7) (mode : BitVec 4) (opnd : BitVec 20) (s : State) : Res :=
  s.on (instr ⟨.n, true, fun _ => none, 1⟩ e mode opnd .nothing fun _ a l => toOut (sysrSem a l))

/-- ERET (R169): Returns from an exception through the task-state block, or chains to a pending interrupt. -/
def execEret (e : BitVec 7) (mode : BitVec 4) (opnd : BitVec 20) (s : State) : Res :=
  s.on (instr ⟨.n, true, fun _ => none, 1⟩ e mode opnd (.reads eretReads) fun c a _ => eretOut c a)

/-- TRAP (R86): Raises the software-trap exception with the code in OPND. -/
def execTrap (e : BitVec 7) (mode : BitVec 4) (opnd : BitVec 20) (s : State) : Res :=
  s.on (instrE ⟨.i, false, rawZero 8 12, 3⟩ e mode opnd fun _ _ => .error ⟨0x09#6, fld opnd 0 8, 0#4, 0#36⟩)

/-- BKPT (R474): A breakpoint halts the engine if claimed by a debug session, otherwise raises vector 0x0A. -/
def execBkpt (e : BitVec 7) (mode : BitVec 4) (opnd : BitVec 20) (s : State) : Res :=
  s.on (instrE ⟨.i, false, rawZero 8 12, 3⟩ e mode opnd fun c a =>
    if bkptClaimed c.m a.comp then .ok { fx a with ev := .bkpt (fld opnd 0 8) }
    else .error ⟨0x0A#6, fld opnd 0 8, 0#4, 0#36⟩)

/-- BCC (R91): Branches to the PCC-relative target if the condition holds. -/
def execBcc (e : BitVec 7) (cond : BitVec 4) (mode : BitVec 4) (opnd : BitVec 20) (s : State) : Res :=
  s.on (instrE (plain .b) e mode opnd fun _ a => bccSem cond opnd a)

/-- JMPX (R86): PCC := X. -/
def execJmpx (e : BitVec 7) (mode : BitVec 4) (opnd : BitVec 20) (s : State) : Res :=
  s.on (instrE ⟨.n, true, fun _ => none, 3⟩ e mode opnd fun _ a => jmpxSem a)

end Sys2Proof.Machine
end

