-- ==== Sys2Proof/Machine/LoadStore.lean ====
section
/-! DEFINITION. Loads, stores, moves and stack instructions of the data registers (R86, R92, R106). -/

namespace Sys2Proof.Machine

open Sys2Proof

/-- LDA (R86): Loads 64 bits of the operand into A. -/
def execLda (e : BitVec 7) (mode : BitVec 4) (opnd : BitVec 20) (s : State) : Res :=
  s.on (instrV .lda e mode opnd false)

/-- LDAW (R86): Loads 32 bits zero-extended into A. -/
def execLdaw (e : BitVec 7) (mode : BitVec 4) (opnd : BitVec 20) (s : State) : Res :=
  s.on (instrV .ldaw e mode opnd false)

/-- LDAWS (R86): Loads 32 bits sign-extended into A. -/
def execLdaws (e : BitVec 7) (mode : BitVec 4) (opnd : BitVec 20) (s : State) : Res :=
  s.on (instrV .ldaws e mode opnd false)

/-- LDAH (R86): Loads 16 bits zero-extended into A. -/
def execLdah (e : BitVec 7) (mode : BitVec 4) (opnd : BitVec 20) (s : State) : Res :=
  s.on (instrV .ldah e mode opnd false)

/-- LDAHS (R86): Loads 16 bits sign-extended into A. -/
def execLdahs (e : BitVec 7) (mode : BitVec 4) (opnd : BitVec 20) (s : State) : Res :=
  s.on (instrV .ldahs e mode opnd false)

/-- LDAB (R86): Loads 8 bits zero-extended into A. -/
def execLdab (e : BitVec 7) (mode : BitVec 4) (opnd : BitVec 20) (s : State) : Res :=
  s.on (instrV .ldab e mode opnd false)

/-- LDABS (R86): Loads 8 bits sign-extended into A. -/
def execLdabs (e : BitVec 7) (mode : BitVec 4) (opnd : BitVec 20) (s : State) : Res :=
  s.on (instrV .ldabs e mode opnd false)

/-- LDE (R86): Loads 64 bits of the operand into E. -/
def execLde (e : BitVec 7) (mode : BitVec 4) (opnd : BitVec 20) (s : State) : Res :=
  s.on (instrV .lde e mode opnd false)

/-- STA (R86): Stores 8 bytes of A. -/
def execSta (e : BitVec 7) (mode : BitVec 4) (opnd : BitVec 20) (s : State) : Res :=
  s.on (instrE (plain .m) e mode opnd fun c a => storeSem 8 (put 128 a.a 0) false false mode opnd c a)

/-- STAW (R86): Stores A[31:0]. -/
def execStaw (e : BitVec 7) (mode : BitVec 4) (opnd : BitVec 20) (s : State) : Res :=
  s.on (instrE (plain .m) e mode opnd fun c a => storeSem 4 (put 128 (fld a.a 0 32) 0) false false mode opnd c a)

/-- STAH (R86): Stores A[15:0]. -/
def execStah (e : BitVec 7) (mode : BitVec 4) (opnd : BitVec 20) (s : State) : Res :=
  s.on (instrE (plain .m) e mode opnd fun c a => storeSem 2 (put 128 (fld a.a 0 16) 0) false false mode opnd c a)

/-- STAB (R86): Stores A[7:0]. -/
def execStab (e : BitVec 7) (mode : BitVec 4) (opnd : BitVec 20) (s : State) : Res :=
  s.on (instrE (plain .m) e mode opnd fun c a => storeSem 1 (put 128 (fld a.a 0 8) 0) false false mode opnd c a)

/-- STE (R86): Stores 8 bytes of E. -/
def execSte (e : BitVec 7) (mode : BitVec 4) (opnd : BitVec 20) (s : State) : Res :=
  s.on (instrE (plain .m) e mode opnd fun c a => storeSem 8 (put 128 a.e 0) false false mode opnd c a)

/-- STZ (R86): Stores 8 zero bytes. -/
def execStz (e : BitVec 7) (mode : BitVec 4) (opnd : BitVec 20) (s : State) : Res :=
  s.on (instrE (plain .m) e mode opnd fun c a => storeSem 8 (0#128) false false mode opnd c a)

/-- LR (R106): Loads 8 bytes into A and reserves the granule. -/
def execLr (e : BitVec 7) (mode : BitVec 4) (opnd : BitVec 20) (s : State) : Res :=
  s.on (instrE (plain .m) e mode opnd fun c a => loadSem .lr (memOp a mode opnd) c a)

/-- SC (R106): Stores A if the reservation holds, setting Z, after draining the store buffer. -/
def execSc (e : BitVec 7) (mode : BitVec 4) (opnd : BitVec 20) (s : State) : Res :=
  s.on (instrE (plain .m) e mode opnd fun c a => scSem mode opnd c a)

/-- MFE (R86): A := E. -/
def execMfe (e : BitVec 7) (mode : BitVec 4) (opnd : BitVec 20) (s : State) : Res :=
  s.on (instrA (plain .n) e mode opnd fun a => { a with a := a.e })

/-- MTE (R86): E := A. -/
def execMte (e : BitVec 7) (mode : BitVec 4) (opnd : BitVec 20) (s : State) : Res :=
  s.on (instrA (plain .n) e mode opnd fun a => { a with e := a.a })

/-- MFM (R86): A := M. -/
def execMfm (e : BitVec 7) (mode : BitVec 4) (opnd : BitVec 20) (s : State) : Res :=
  s.on (instrA (plain .n) e mode opnd fun a => { a with a := a.m })

/-- MTM (R86): M := A. -/
def execMtm (e : BitVec 7) (mode : BitVec 4) (opnd : BitVec 20) (s : State) : Res :=
  s.on (instrA (plain .n) e mode opnd fun a => { a with m := a.a })

/-- XCHG (R86): Exchanges A and E. -/
def execXchg (e : BitVec 7) (mode : BitVec 4) (opnd : BitVec 20) (s : State) : Res :=
  s.on (instrA (plain .n) e mode opnd fun a => { a with a := a.e, e := a.a })

/-- LDRC (R86): RCNT := op. -/
def execLdrc (e : BitVec 7) (mode : BitVec 4) (opnd : BitVec 20) (s : State) : Res :=
  s.on (instrV .ldrc e mode opnd true)

/-- LSI (R86): A := (A shifted left by 20) OR OPND. -/
def execLsi (e : BitVec 7) (mode : BitVec 4) (opnd : BitVec 20) (s : State) : Res :=
  s.on (instrA (plain .i) e mode opnd fun a => { a with a := (a.a <<< 20) ||| opnd.setWidth 64 })

/-- MFF (R86): A := F. -/
def execMff (e : BitVec 7) (mode : BitVec 4) (opnd : BitVec 20) (s : State) : Res :=
  s.on (instrA (plain .n) e mode opnd fun a => { a with a := a.f })

/-- MTF (R90): F := A in its RW fields. -/
def execMtf (e : BitVec 7) (mode : BitVec 4) (opnd : BitVec 20) (s : State) : Res :=
  s.on (instrA (plain .n) e mode opnd fun a => { a with f := a.a &&& fMask })

/-- PUSH (R86): Pushes A on S. -/
def execPush (e : BitVec 7) (mode : BitVec 4) (opnd : BitVec 20) (s : State) : Res :=
  s.on (instrE (plain .n) e mode opnd fun c a => pushSem 8 (fun b => ⟨put 128 b.a 0, false⟩) false c a)

/-- POP (R86): Pops 8 bytes from S into A. -/
def execPop (e : BitVec 7) (mode : BitVec 4) (opnd : BitVec 20) (s : State) : Res :=
  s.on (instrE (plain .n) e mode opnd fun c a => loadSem .pop (popOp a) c a)

end Sys2Proof.Machine
end

