-- ==== Sys2Proof/Machine/Registers.lean ====
section
/-! DEFINITION. The rows that are one access to a register (R4, R5, R532 to R538). -/

namespace Sys2Proof.Machine

open Sys2Proof

/-- A store of a word, by its row: refused or taken (R4, R535); a module reset that it asks for follows at once, and so does the
entry to HARDPAN.
DESIGN CHOICE: log entry 6. -/
def busWrite (w : Who) (a : Addr) (v : W32) (m : Mach) : Mach :=
  if powered m then enterHardpan (doReset (orNotice w a (regWrite w a v m))) else m

/-- A load of a word, by its row; a debug session's leaves no effect (R465). DESIGN CHOICE: log entry 6. -/
def busRead (w : Who) (a : Addr) (m : Mach) : Mach :=
  if !powered m then m else if w.master = .debug then onBus w a (regPeek w a m, m) else onBus w a (regRead w a m)

/-- A store of `n` bytes: only an aligned word reaches a register (R4). DEDUCED: log entry 31. -/
def wordWrite (w : Who) (a : Addr) (n : Nat) (v : W32) (m : Mach) : Mach :=
  if n = 4 ∧ a.toNat % 4 = 0 then busWrite w a v m else if powered m then orNotice w a (false, m) else m

/-- A write to a register with no row of its own: of BAR0 where a host makes it, `a` being the offset (R363), otherwise of
register space. -/
def plainWrite (w : Who) (a : Addr) (n : Nat) (v : W32) (m : Mach) : Mach :=
  match w.master with
  | .hostA => bar0Write false a.toNat n v m
  | .hostB => bar0Write true a.toNat n v m
  | _ => wordWrite w a n v m

/-- TICK_CTL_WRITE (R17): A write to TICK_CTL is accepted in WAKE or COMMISSION for the next edge, or ignored with WERR. -/
def execTickCtlWrite (w : Who) (v : BitVec 32) (s : State) : Res :=
  s.on (busWrite w 0x8000_0100#36 v)

/-- TICK_PERIOD_WRITE (R11): A write to TICK_PERIOD sets the period for the next edge if in range and mode permits, otherwise sets WERR. -/
def execTickPeriodWrite (w : Who) (v : BitVec 32) (s : State) : Res :=
  s.on (busWrite w 0x8000_0104#36 v)

/-- TICK_HOLD_WRITE (R17): A write to TICK_HOLD sets LIMIT and REACQ for the next edge, or is ignored with WERR. -/
def execTickHoldWrite (w : Who) (v : BitVec 32) (s : State) : Res :=
  s.on (busWrite w 0x8000_0108#36 v)

/-- TICK_STAT_READ (R38): A read of TICK_STAT returns the status and clears the SPURIOUS count. -/
def execTickStatRead (w : Who) (s : State) : Res :=
  s.on (busRead w 0x8000_010C#36)

/-- TICK_COUNT_READ (R38): A read of TICK_COUNT_LO returns the low tick bits and latches the high bits into TICK_COUNT_HI. -/
def execTickCountRead (w : Who) (s : State) : Res :=
  s.on (busRead w 0x8000_0110#36)

/-- TILTH_SWAP_REQUEST (R31): A write of 1 to TILTH_CTL.SWAP sets SWAP_PEND for a bank swap at the next edge. -/
def execTilthSwapRequest (w : Who) (v : BitVec 32) (s : State) : Res :=
  s.on (busWrite w 0x8000_0118#36 (v ||| 1#32))

/-- REGISTER_WRITE (R5): A write to a register with no row of its own acts on each field by its access type, or is refused under R4. -/
def execRegisterWrite (w : Who) (addr : BitVec 36) (len : BitVec 5) (v : BitVec 32) (s : State) : Res :=
  s.on (plainWrite w addr len.toNat v)

/-- MODE_REQ_WRITE (R43): The keeper writes MODE_REQ; the request becomes pending or is refused with a REFUSE code. -/
def execModeReqWrite (w : Who) (v : BitVec 32) (s : State) : Res :=
  s.on (busWrite w 0x8000_0044#36 v)

/-- OUT_RELEASE_WRITE (R46): A write of 1 to MODE_CTL.OUT_RELEASE in OPERATE sets OUT_REL so committed records are applied. -/
def execOutReleaseWrite (w : Who) (v : BitVec 32) (s : State) : Res :=
  s.on (busWrite w 0x8000_0048#36 (v ||| 2#32))

/-- CMINT_GO (R135): A write of 1 to CMINT_CTL.GO checks and mints a tagged capability into memory. -/
def execCmintGo (w : Who) (v : BitVec 32) (s : State) : Res :=
  s.on (busWrite w 0x8000_0218#36 (v ||| 1#32))

/-- FENCE_WRITE (R258): A write of FENCE_CTL.WRITE writes fence entry IDX or refuses with ERR. -/
def execFenceWrite (w : Who) (v : BitVec 32) (s : State) : Res :=
  s.on (busWrite w 0x8000_0314#36 (v ||| 1#32))

/-- FENCE_READ (R258): A write of FENCE_CTL.READ loads FENCE_W0 to FENCE_W3 from entry IDX. -/
def execFenceRead (w : Who) (v : BitVec 32) (s : State) : Res :=
  s.on (busWrite w 0x8000_0314#36 (v ||| 2#32))

/-- MEM_CNT0_READ (R266): A read of MEM_CNT0 returns and clears the corrected SRAM and DRAM counts. -/
def execMemCnt0Read (w : Who) (s : State) : Res :=
  s.on (busRead w 0x8000_0330#36)

/-- MEM_CNT1_READ (R266): A read of MEM_CNT1 returns and clears the check, parity and uncorrectable counts. -/
def execMemCnt1Read (w : Who) (s : State) : Res :=
  s.on (busRead w 0x8000_0334#36)

/-- AFE_STAT_READ (R300): A read of AFE_STATd returns reference status and clears REF_EVT. -/
def execAfeStatRead (w : Who) (d : BitVec 2) (s : State) : Res :=
  s.on (busRead w (0x8000_0400#36 + put 36 d 2))

/-- CHANNEL_COMMIT_REQUEST (R328): A write of 1 to CH_CTLSTAT.COMMIT sets CPEND for a commit at the next edge. -/
def execChannelCommitRequest (w : Who) (c : BitVec 8) (v : BitVec 32) (s : State) : Res :=
  s.on (busWrite w (chanBlock c + 0x10#36) (v ||| 1#32))

/-- CHANNEL_STAGED_WRITE (R327): A write to CH_MODE, CH_PROC, CH_LIM or CH_SAFE sets the staged copy, or the live value under live-write. -/
def execChannelStagedWrite (w : Who) (c : BitVec 8) (reg : BitVec 2) (v : BitVec 32) (s : State) : Res :=
  s.on (busWrite w (chanBlock c + put 36 reg 2) v)

/-- LIVE_SET (R332): A write to CH_CTLSTAT.LIVE enables or ends live-write in COMMISSION. -/
def execLiveSet (w : Who) (c : BitVec 8) (v : BitVec 32) (s : State) : Res :=
  s.on (busWrite w (chanBlock c + 0x10#36) v)

/-- CH_CTLSTAT_READ (R340): A read of CH_CTLSTAT returns status and clears EVT. -/
def execChCtlstatRead (w : Who) (c : BitVec 8) (s : State) : Res :=
  s.on (busRead w (chanBlock c + 0x10#36))

/-- TIM_CTL_WRITE (R343): A write to TIM_CTL sets use and options for the next edge; W1C bits act at once. -/
def execTimCtlWrite (w : Who) (c : BitVec 8) (v : BitVec 32) (s : State) : Res :=
  s.on (busWrite w (chanBlock c + 0x14#36) v)

/-- TIM_TOP_WRITE (R347): A write to TIM_TOP changes the live top of count, or is ignored with WERR. -/
def execTimTopWrite (w : Who) (c : BitVec 8) (v : BitVec 32) (s : State) : Res :=
  s.on (busWrite w (chanBlock c + 0x18#36) v)

/-- TIM_CMP_WRITE (R350): A write to TIM_CMP replaces the live comparator, setting MWARN if not safe. -/
def execTimCmpWrite (w : Who) (c : BitVec 8) (v : BitVec 32) (s : State) : Res :=
  s.on (busWrite w (chanBlock c + 0x1C#36) v)

/-- TIM_PHASE_WRITE (R352): A write to TIM_PHASE sets stagger position K and size N for the next start. -/
def execTimPhaseWrite (w : Who) (c : BitVec 8) (v : BitVec 32) (s : State) : Res :=
  s.on (busWrite w (chanBlock c + 0x20#36) v)

/-- TIM_PHASE_READ (R354): A read of TIM_PHASE returns the capture low bits and latches CAP_HI and CAPD. -/
def execTimPhaseRead (w : Who) (c : BitVec 8) (s : State) : Res :=
  s.on (busRead w (chanBlock c + 0x20#36))

/-- HOST_WINDOW_WRITE (R372): A write of HW_CTL.WRITE writes host-window entry IDX or refuses with ERR. -/
def execHostWindowWrite (w : Who) (v : BitVec 32) (s : State) : Res :=
  s.on (busWrite w 0x8000_0514#36 (v ||| 1#32))

/-- HOST_WINDOW_READ (R372): A write of HW_CTL.READ loads HW_W0 to HW_W3 from entry IDX. -/
def execHostWindowRead (w : Who) (v : BitVec 32) (s : State) : Res :=
  s.on (busWrite w 0x8000_0514#36 (v ||| 2#32))

/-- KREADY_SET (R365): The keeper writes HOST_CTL.KREADY so rings may be fetched. DEDUCED: log entry 31. -/
def execKreadySet (w : Who) (v : BitVec 32) (s : State) : Res :=
  s.on (busWrite w 0x8000_051C#36 (v ||| 1#32))

/-- FUSE_BURN (R406): A write of FUSE_CTL.BURN with the key starts burning the masked bits or refuses with ERR. -/
def execFuseBurn (w : Who) (v : BitVec 32) (s : State) : Res :=
  s.on (busWrite w 0x8000_0614#36 (v ||| 1#32))

/-- VERIFY (R410): Security command 1 checks, decrypts and measures a staged image. -/
def execVerify (w : Who) (ksel nolog : Bool) (s : State) : Res :=
  s.on (busWrite w 0x8000_0630#36 (0x11#32 ||| at_ nolog 3 ||| at_ ksel 5))

/-- SLOT_BUILD (R429): Security command 2 verifies a key package and builds a key slot image. -/
def execSlotBuild (w : Who) (s : State) : Res :=
  s.on (busWrite w 0x8000_0630#36 0x12#32)

/-- SEC_ATTEST (R427): Security command 3 composes and signs an attestation report. -/
def execSecAttest (w : Who) (s : State) : Res :=
  s.on (busWrite w 0x8000_0630#36 0x13#32)

/-- RECORD_MAC (R429): Security command 4 computes or checks the GMAC of the spare record. -/
def execRecordMac (w : Who) (s : State) : Res :=
  s.on (busWrite w 0x8000_0630#36 0x14#32)

/-- SEC_INVALID_COMMAND (R429): Security command 0, 5, 6 or 7 ends with FORMAT. -/
def execSecInvalidCommand (w : Who) (k : BitVec 2) (s : State) : Res :=
  s.on (busWrite w 0x8000_0630#36 (0x10#32 ||| (if k = 0#2 then 0#32 else 4#32 ||| put 32 k 0)))

/-- FLASH_READ (R430): Flash operation 1 copies flash bytes into module memory. -/
def execFlashRead (w : Who) (s : State) : Res :=
  s.on (busWrite w 0x8000_0650#36 5#32)

/-- FLASH_PROGRAM (R430): Flash operation 2 programs module memory bytes into flash. -/
def execFlashProgram (w : Who) (key : BitVec 16) (s : State) : Res :=
  s.on (busWrite w 0x8000_0650#36 (6#32 ||| put 32 key 16))

/-- FLASH_ERASE (R430): Flash operation 3 erases one 4 KiB sector. -/
def execFlashErase (w : Who) (key : BitVec 16) (s : State) : Res :=
  s.on (busWrite w 0x8000_0650#36 (7#32 ||| put 32 key 16))

/-- RNG_REQUEST (R424): A write of RNG_CTL.REQ queues a generate request or sets OVF. -/
def execRngRequest (w : Who) (v : BitVec 32) (s : State) : Res :=
  s.on (busWrite w 0x8000_0660#36 (v ||| 1#32))

/-- RNG_POP (R424): A write of RNG_CTL.POP removes the head request. -/
def execRngPop (w : Who) (s : State) : Res :=
  s.on (busWrite w 0x8000_0660#36 8#32)

/-- WD_SERVICE (R443): A store to WD_SVC services, is ignored by, or bites the writing engine's watchdog. -/
def execWdService (w : Who) (v : BitVec 32) (s : State) : Res :=
  s.on fun m => (carryBite w.eng (busWrite w 0x8000_070C#36 v m)).2

/-- WD_EVID1_READ (R444): A read of WD_EVID1 returns the evidence and clears BIT. -/
def execWdEvid1Read (w : Who) (s : State) : Res :=
  s.on (busRead w 0x8000_0714#36)

/-- MODULE_WATCHDOG_SERVICE (R446): A keeper store to MWD_SVC services the module watchdog or bites it. -/
def execModuleWatchdogService (w : Who) (v : BitVec 32) (s : State) : Res :=
  s.on (busWrite w 0x8000_071C#36 v)

/-- HARDPAN_REQUEST (R453): A keeper write of HP_CTL.ENTER with the key enters HARDPAN with fault 0x0E05. -/
def execHardpanRequest (w : Who) (v : BitVec 32) (s : State) : Res :=
  s.on (busWrite w 0x8000_0728#36 (v ||| 1#32))

/-- HARDPAN_RESET (R452): A keeper write of HP_CTL.RESET with the key resets the module. -/
def execHardpanReset (w : Who) (v : BitVec 32) (s : State) : Res :=
  s.on (busWrite w 0x8000_0728#36 (v ||| 2#32))

/-- SOFTWARE_FAULT_LOG (R454): A write to FLT_SW logs a keeper or owner code with ARG from FLT_SWA0 and FLT_SWA1. -/
def execSoftwareFaultLog (w : Who) (v : BitVec 32) (s : State) : Res :=
  s.on (busWrite w 0x8000_0730#36 v)

/-- PWR_STAT_READ (R510): A read of PWR_STAT returns power status and clears DIPS. -/
def execPwrStatRead (w : Who) (s : State) : Res :=
  s.on (busRead w 0x8000_0800#36)

/-- SENTINEL_RELAY_RESET (R510): A write of SENT_CTL.RESET returns a relay to normal and clears its PEND. -/
def execSentinelRelayReset (w : Who) (v : BitVec 32) (s : State) : Res :=
  s.on (busWrite w 0x8000_0814#36 v)

/-- SENTINEL_RELAY_TEST (R510): A write of SENT_CTL.TEST drives a relay to alarm under R491. -/
def execSentinelRelayTest (w : Who) (v : BitVec 32) (s : State) : Res :=
  s.on (busWrite w 0x8000_0814#36 v)

/-- RTC_NOW_READ (R492): A read of RTC_NOW_LO returns the low RTC bits and latches the high bits. -/
def execRtcNowRead (w : Who) (s : State) : Res :=
  s.on (busRead w 0x8000_0830#36)

/-- RTC_SET (R492): A write of RTC_CTL.SET with the key loads the RTC at the next oscillator edge and sets VALID. -/
def execRtcSet (w : Who) (v : BitVec 32) (s : State) : Res :=
  s.on (busWrite w 0x8000_0844#36 (v ||| 1#32))

/-- YL_STAT_READ (R510): A read of YL_STAT returns link status and clears MLAG. -/
def execYlStatRead (w : Who) (s : State) : Res :=
  s.on (busRead w 0x8000_0904#36)

end Sys2Proof.Machine
end

