-- ==== Sys2Proof/Machine/Scrub.lean ====
section
/-! DEFINITION. What memory does on its own: the mint's store, the scrubbers and the write-backs of corrected words
(R136, R245 to R253). -/

namespace Sys2Proof.Machine

open Sys2Proof

/-- MINT_COMPLETE (R136): The mint's store is accepted or refused by the fence map and BUSY clears. -/
def execMintComplete (s : State) : Res := s.on fun m => if powered m then mintStore m else m

/-- The scrubbers run: in COMMISSION, OPERATE and HARDPAN after the first entry to COMMISSION or OPERATE (R52, R249).
DEDUCED: log entry 51. -/
def scrubbing (m : Mach) : Bool :=
  m.mc.scrubOn && decide (m.mode.mode = .commission ∨ m.mode.mode = .operate ∨ m.mode.mode = .hardpan)

/-- The scrubber reads one DRAM granule (R249): a corrected codeword is counted and written back at once, with its tag and
poison; an uncorrectable one is handled as in every read (R245). DEDUCED: log entry 51. -/
def scrubDram (g : Nat) (m : Mach) : Mach :=
  match decodeGran m.mc m.mem g with
  | .clean _ _ _ => m
  | .corrected d t p k =>
    let m := countCorrected g k m
    { m with
      mem := m.mem.putGran g d t p
      mc := { m.mc with writeBack := m.mc.writeBack.filter (· ≠ g) } }
  | .bad _ => (readGran Acc.other g m).2

/-- The end of a pass (R249): the counts of R247 and R253 start anew. -/
def passEnd (c : MemCtl) : MemCtl :=
  { c with devCnt := Vector.replicate _ 0, rowCnt := [], devTold := 0, rowTold := [], passes := satInc c.passes }

/-- One line of the patrol scrub; `errs` are the bits found flipped in its granules. DEDUCED: log entry 51. -/
def scrubLine (errs : List (BitVec 152)) (m : Mach) : Mach :=
  if scrubbing m then
    let g := 0x8000_0000 + 4 * m.mc.scrubLine.toNat
    let m := (errs.zip (range g 4)).foldl (fun m x => scrubDram x.2 { m with mem := m.mem.flip x.2 x.1 }) m
    let m := if m.mc.scrubLine = BitVec.allOnes 29 then modMc passEnd m else m
    modMc (fun c => { c with scrubLine := c.scrubLine + 1#29 }) m
  else m

/-- PATROL_SCRUB_LINE (R249): The patrol scrubber reads the next DRAM line and writes back corrected codewords. -/
def execPatrolScrubLine (err0 err1 err2 err3 : BitVec 152) (s : State) : Res := s.on (scrubLine [err0, err1, err2, err3])

/-- A granule of shared SRAM or of the SRAM of a tile that has power. -/
def sramHere (m : Mach) (g : Nat) : Bool :=
  match region (granAddr g) with
  | .shared => true
  | .tile t => decide (m.pwr.tiles.get t = .on ∨ m.pwr.tiles.get t = .warm)
  | _ => false

/-- The scrub of one SRAM granule (R250): a corrected word is counted and written back, an uncorrectable one is counted,
logged and left as it is. DEDUCED: log entry 51. -/
def scrubSram (g : Nat) (m : Mach) : Mach :=
  match decodeGran m.mc m.mem g with
  | .clean _ _ _ => m
  | .corrected d t p k =>
    let m := countCorrected g k m
    { m with
      mem := m.mem.putGran g d t p
      mc := { m.mc with writeBack := m.mc.writeBack.filter (· ≠ g) } }
  | .bad _ => (readGran Acc.other g m).2

/-- One pass over shared SRAM and the tiles' SRAM; `errs` are the bits found flipped since the last pass. A granule whose
codeword is whole gives nothing, so the pass is over those that are not. DEDUCED: log entry 51. -/
def sramPass (errs : List (Nat × BitVec 152)) (m : Mach) : Mach :=
  if scrubbing m then
    let m := errs.foldl (fun m x => if sramHere m x.1 then { m with mem := m.mem.flip x.1 x.2 } else m) m
    ((m.mem.errs.map Prod.fst).filter (sramHere m)).foldl (fun m g => scrubSram g m) m
  else m

/-- SRAM_SCRUB_PASS (R250): A scrub pass over shared and tile SRAM corrects and logs words every 10 s. -/
def execSramScrubPass (errs : List (Nat × BitVec 152)) (s : State) : Res := s.on (sramPass errs)

/-- The oldest write-back in the queue (R251): the corrected word is written. One that a newer write has overtaken is no longer
in the queue. -/
def writeBackNext (m : Mach) : Mach :=
  match m.mc.writeBack with
  | [] => m
  | g :: r =>
    let m := modMc (fun c => { c with writeBack := r }) m
    match decodeGran m.mc m.mem g with
    | .corrected d t p _ => { m with mem := m.mem.putGran g d t p }
    | _ => m

/-- DEMAND_WRITE_BACK (R251): A queued write-back of a corrected word is written unless a newer write was accepted. -/
def execDemandWriteBack (s : State) : Res := s.on fun m => if powered m then writeBackNext m else m

end Sys2Proof.Machine
end

