-- ==== Sys2Proof/Machine/StringInstr.lean ====
section
/-! DEFINITION. String and move instructions and the repeat block (R98 to R105). -/

namespace Sys2Proof.Machine

open Sys2Proof

/-- MOVS (R99): Starts a string move from Y to X. -/
def execMovs (e : BitVec 7) (mode : BitVec 4) (opnd : BitVec 20) (s : State) : Res :=
  s.on (instrE ⟨.n, true, fun _ => none, 3⟩ e mode opnd fun _ a => stringSem .movs a)

/-- FILLS (R99): Starts a string fill of X with A. -/
def execFills (e : BitVec 7) (mode : BitVec 4) (opnd : BitVec 20) (s : State) : Res :=
  s.on (instrE ⟨.n, true, fun _ => none, 3⟩ e mode opnd fun _ a => stringSem .fills a)

/-- CMPS (R99): Starts a string compare of X with Y. -/
def execCmps (e : BitVec 7) (mode : BitVec 4) (opnd : BitVec 20) (s : State) : Res :=
  s.on (instrE ⟨.n, true, fun _ => none, 3⟩ e mode opnd fun _ a => stringSem .cmps a)

/-- SCANS (R99): Starts a scan of Y for a byte. -/
def execScans (e : BitVec 7) (mode : BitVec 4) (opnd : BitVec 20) (s : State) : Res :=
  s.on (instrE ⟨.n, true, fun _ => none, 3⟩ e mode opnd fun _ a => stringSem .scans a)

/-- MOVC (R99): Starts a tagged granule move from Y to X. -/
def execMovc (e : BitVec 7) (mode : BitVec 4) (opnd : BitVec 20) (s : State) : Res :=
  s.on (instrE ⟨.n, true, fun _ => none, 3⟩ e mode opnd fun _ a => stringSem .movc a)

/-- CRCS (R99): Starts a CRC-32C update over the bytes at Y. -/
def execCrcs (e : BitVec 7) (mode : BitVec 4) (opnd : BitVec 20) (s : State) : Res :=
  s.on (instrE ⟨.n, true, fun _ => none, 3⟩ e mode opnd fun _ a => stringSem .crcs a)

/-- STRING_STEP (R98): One step of a string instruction handles n bytes and updates X, Y, RCNT and RSTATE. -/
def execStringStep (e : BitVec 7) (host0 host1 host2 host3 : BitVec 128) (s : State) : Res :=
  s.on (stringStep e [host0, host1, host2, host3])

/-- REP (R102): Starts a repeat block of 1 to 16 instructions. -/
def execRep (e : BitVec 7) (mode : BitVec 4) (opnd : BitVec 20) (s : State) : Res :=
  s.on (instrE ⟨.i, true, fun _ => none, 3⟩ e mode opnd fun _ a => .ok (repSem opnd a))

/-- REPEAT_ITERATION_END (R104): After the last body instruction RCNT decrements and the body repeats or the repeat ends. -/
def execRepeatIterationEnd (e : BitVec 7) (s : State) : Res :=
  s.on fun m =>
    if !canRun m e || stopping m e then m
    else
      let p := stepIteration e m
      let due := (leader m e).any Replica.repEnd
      let m := mapLanes e (fun r => if r.repEnd then repeatEnd (loadDue r) else r) m
      let m := if due then countOne e m else m
      if p then stepDone e m else m

end Sys2Proof.Machine
end

