-- ==== Sys2Proof/Machine/SysInstr.lean ====
section
/-! DEFINITION. NOP, hints, fences, invalidations, waits, blank memory and system registers (R86 to R89, R96). -/

namespace Sys2Proof.Machine

open Sys2Proof

/-- NOP (R86): Opcode 0x01 does nothing. -/
def execNop (e : BitVec 7) (mode : BitVec 4) (opnd : BitVec 20) (s : State) : Res :=
  s.on (instrA (plain .n) e mode opnd fun a => a)

/-- HINT (R89): Opcodes 0xE0 to 0xE7 execute as NOP. -/
def execHint (e : BitVec 7) (_num : BitVec 3) (mode : BitVec 4) (opnd : BitVec 20) (s : State) : Res :=
  s.on (instrA (plain .h) e mode opnd fun a => a)

/-- FENCE (R86): Waits until the store buffer is empty. -/
def execFence (e : BitVec 7) (mode : BitVec 4) (opnd : BitVec 20) (s : State) : Res :=
  s.on (instr (plain .n) e mode opnd .empty fun _ a _ => .ok (fx a))

/-- CINV (R63): Invalidates the instruction cache of this tile or of every tile. -/
def execCinv (e : BitVec 7) (mode : BitVec 4) (opnd : BitVec 20) (s : State) : Res :=
  s.on (instr ⟨.i, false, rawZero 1 19, 0⟩ e mode opnd .nothing fun _ a _ => .ok { fx a with ev := .cinv (bit opnd 0) })

/-- RINV (R265): Empties the fence-map region caches of this tile's port or of every port. -/
def execRinv (e : BitVec 7) (mode : BitVec 4) (opnd : BitVec 20) (s : State) : Res :=
  s.on (instr ⟨.i, false, rawZero 1 19, 0⟩ e mode opnd .nothing fun _ a _ => .ok { fx a with ev := .rinv (bit opnd 0) })

/-- WFI (R179): Waits for an interrupt that the engine could take. -/
def execWfi (e : BitVec 7) (mode : BitVec 4) (opnd : BitVec 20) (s : State) : Res :=
  s.on (instr ⟨.n, true, fun _ => none, 1⟩ e mode opnd .nothing fun _ a _ => .ok { fx a with ev := .wfi })

/-- BLANK_MEMORY_ZEROED (R88): Opcode 0x00 raises the blank-memory exception with cause zeroed. -/
def execBlankMemoryZeroed (e : BitVec 7) (mode : BitVec 4) (opnd : BitVec 20) (s : State) : Res :=
  s.on (instrE (plain .h) e mode opnd fun _ _ => .error ⟨0x03#6, 0x01#8, 0#4, 0#36⟩)

/-- BLANK_MEMORY_ERASED (R88): Opcode 0xFF raises the blank-memory exception with cause erased. -/
def execBlankMemoryErased (e : BitVec 7) (mode : BitVec 4) (opnd : BitVec 20) (s : State) : Res :=
  s.on (instrE (plain .h) e mode opnd fun _ _ => .error ⟨0x03#6, 0x02#8, 0#4, 0#36⟩)

/-- MFSR (R96): A := a system register. -/
def execMfsr (e : BitVec 7) (mode : BitVec 4) (opnd : BitVec 20) (s : State) : Res :=
  s.on (instrE ⟨.i, false, rawZero 8 12, 3⟩ e mode opnd fun _ a => mfsrSem opnd a)

/-- MTSR (R96): Writes A to a system register. -/
def execMtsr (e : BitVec 7) (mode : BitVec 4) (opnd : BitVec 20) (s : State) : Res :=
  s.on (instrE ⟨.i, true, rawZero 8 12, 3⟩ e mode opnd fun c a => mtsrSem opnd c a)

end Sys2Proof.Machine
end

