-- ==== Sys2Proof/Machine/YunalRows.lean ====
section
/-! DEFINITION. The Yunal link: heartbeats, the partner, the link's states and the mirror (R494, R502, R504 to R509). -/

namespace Sys2Proof.Machine

open Sys2Proof

/-! ### The states of the link (R494, R506) -/

/-- FULLREQ. -/
def fullReq (m : Mach) : Bool :=
  m.yl.fullEn && slotsRun m.mode.mode
    && (m.yl.mir.toList.any mirValid || m.yl.take || giveNow m || m.yl.rmv)

/-- Training starts, or is latched while lane 1 still goes down. -/
def startTrain (now : Nat) (y : Yunal) : Yunal :=
  if y.lane1Down.isSome then { y with lane1Down := some true } else { y with st := .train, trainAt := now }

/-- Both heartbeats show FULLREQ: a link in silt trains. Either one showing it keeps the link from being idle. -/
def linkRequest (m : Mach) : Mach :=
  let y := m.yl
  let own := fullReq m
  let m := if own || y.pfull then modYl (fun y => { y with idleTicks := 0 }) m else m
  if own && y.pfull && decide (y.st = .silt) then modYl (startTrain m.clk) m else m

/-- LINK_TRAINING_DONE (R506): Training at full rate ends within 200 µs and the link enters FULL or returns to SILT.
DEDUCED: log entry 56. -/
def execLinkTrainingDone (ok : Bool) (s : State) : Res :=
  s.on fun m =>
    if m.yl.st = .train then
      let st := if ok ∧ m.clk ≤ m.yl.trainAt + usClk 200 then YlState.full else .silt
      modYl (fun y => { y with st := st }) m
    else m

/-- Neither side has shown FULLREQ for 16 whole ticks. DEDUCED: log entry 56. -/
def linkIdle (y : Yunal) : Bool := decide (y.st = .full ∨ y.st = .train) && decide (16 < y.idleTicks)

/-- LINK_IDLE (R506): After 16 ticks with no FULLREQ on either side the link returns to SILT. -/
def execLinkIdle (s : State) : Res := s.on fun m => if linkIdle m.yl then modYl ylSilt m else m

/-- Lane 1 is down; a latched re-enable starts its training (R494). -/
def laneDown (now : Nat) (y : Yunal) : Yunal :=
  match y.lane1Down with
  | some true => { y with lane1Down := none, st := if y.st = .silt then .train else y.st, trainAt := now }
  | some false => { y with lane1Down := none }
  | none => y

/-- YUNAL_LANE_SHUTDOWN_COMPLETE (R494): Yunal lane 1 finishes its shutdown on leaving FULL, and a latched re-enable then starts training. -/
def execYunalLaneShutdownComplete (s : State) : Res := s.on fun m => modYl (laneDown m.clk) m

/-! ### Heartbeats (R507, R508) -/

def hbMagic : W32 := 0x9A5E_0C60#32

/-- FLAGS of a heartbeat. -/
def hbFlags (m : Mach) : Byte :=
  at_ (holdNow m) 0 ||| at_ m.yl.take 1 ||| at_ (giveNow m) 2 ||| at_ (decide (m.mode.mode = .hardpan)) 3 ||| at_ m.yl.wake 4
    ||| at_ m.yl.rmv 5 ||| at_ (fullReq m) 6

/-- Bytes 0x00 to 0x1B of a heartbeat. -/
def hbHead (m : Mach) : List Byte :=
  bytesOf hbMagic 0 4 ++ [m.host.slot, hbFlags m] ++ bytesOf m.faults.hpCause 0 2 ++ bytesOf (modeStatWord m.mode) 0 4
    ++ bytesOf m.tick.count 0 8 ++ bytesOf (if giveNow m then m.mode.pendTick else 0#64) 0 8

def heartbeat (m : Mach) : List Byte := hbHead m ++ bytesOf (crc32c (hbHead m)) 0 4

/-- HEARTBEAT_SEND (R507): Every 100 µs the module sends a 32-byte heartbeat on lane 0. -/
def execHeartbeatSend (s : State) : Res :=
  s.on fun m => if !powered m || m.pwr.pfw then m else linkRequest (emit (.heartbeat (heartbeat m)) m)

/-- A heartbeat with a valid MAGIC and CRC. -/
def hbValid (l : List Byte) : Bool :=
  decide (l.length = 32) && decide (leNat (l.take 4) = hbMagic.toNat) && decide (leNat (l.drop 28) = (crc32c (l.take 28)).toNat)

/-- YL_STAT.PFLAGS of the FLAGS of a heartbeat. -/
def hbPflags (f : Byte) : BitVec 5 := put 5 (fld f 0 4 : BitVec 4) 0 ||| at_ (bit f 5) 4

/-- The keeper's answers to the partner's state (R502, R504): it releases the outputs where R502 permits it without the
host, gives way where both modules hold, and carries on with a removal. DEDUCED: log entry 56. -/
def partnerActs (m : Mach) : Mach :=
  let y := m.yl
  let m := if giveOpen m || (y.takeover && bit y.pflags 3) then keeperRelease m else m
  let both := holdNow m && bit y.pflags 0 && !giveNow m && !bit y.pflags 2
  let m := if both && decide (y.pslot.toNat < m.host.slot.toNat) && m.mode.pend.isNone then keeperMode .sleep m else m
  removalStep m

/-- A valid heartbeat is taken. DEDUCED: log entry 56. -/
def partnerSeen (l : List Byte) (m : Mach) : Mach :=
  let y := m.yl
  let f := l.getD 5 0#8
  let word (o n : Nat) : Nat := leNat ((l.drop o).take n)
  let change := !y.pres || decide (hbPflags f ≠ y.pflags)
  let m := modYl (fun y => { y with
    pres := true, pflags := hbPflags f, pslot := l.getD 4 0#8, ptick := BitVec.ofNat 32 (word 0x0C 4)
    pgive := BitVec.ofNat 32 (word 0x14 4), pfull := bit f 6, lastHb := m.clk }) m
  let m := if change then deviceVector 4 (moduleEvent m) else m
  partnerActs (linkRequest (if bit f 4 then wakeEvent .partner m.mode.wkPeer m else m))

/-- HEARTBEAT_RECEIVED (R508): A valid partner heartbeat updates presence and partner flags. -/
def execHeartbeatReceived (l : List Byte) (s : State) : Res :=
  s.on fun m => if powered m && !m.pwr.pfw && hbValid l then partnerSeen l m else m

/-- No valid heartbeat has come for 1 ms (R505, R508). DEDUCED: log entry 56. -/
def partnerLost (m : Mach) : Mach :=
  if !powered m || !m.yl.pres then m
  else
    let m := advanceTo (m.yl.lastHb + usClk 1000) m
    let take := m.yl.takeover && bit m.yl.pflags 0
    let m := modYl (fun y => { y with pres := false, pfull := false }) m
    let m := deviceVector 4 (moduleEvent (report 0x0902 0#64 m))
    removalStep (if take then keeperRelease m else m)

/-- PARTNER_LOST (R508): No valid heartbeat for 1 ms declares the partner lost with fault 0x0902. -/
def execPartnerLost (s : State) : Res := s.on partnerLost

/-! ### The mirror (R509) -/

/-- The fence map permits the sender's reads of pages, in the name of their compartment, by master class 3 (R260). -/
def pagesRead (comp : BitVec 10) (base : Addr) : Nat → Mach → Bool × Mach
  | 0, m => (true, m)
  | n + 1, m =>
    let p := pagesRead comp base n m
    if !p.1 then p else fenceCheck portYunal (.cls comp 3#2) (base + BitVec.ofNat 36 (4096 * n)) false p.2

/-- Entry `k` goes out: its pages but the last as they stand, and the bisques taken for its compartment in the tick that
has just ended, up to 15. An entry whose pages the fence map refuses to the sender does not go out.
DESIGN CHOICE: log entry 57. -/
def mirrorEntry (k : BitVec 4) (m : Mach) : Mach :=
  let w := m.yl.mir.get k
  let rec_ := ((m.yl.lastBisques.filter fun x => decide (x.1 = mirComp w)).map Prod.snd).take 15
  let p := pagesRead (mirComp w) (mirBase w) (mirSize w - 1) m
  if !p.1 then p.2
  else
    let (l, m) := codedBytes ⟨false, 0x7F#7, mirComp w, 0#2⟩ (mirBase w) (4096 * (mirSize w - 1)) p.2
    emit (.mirror k (mirComp w) (fld w 10 5) (fld w 16 8) m.tick.count l rec_) m

/-- The entries in use, in ascending order. -/
def mirrorList (m : Mach) : List (BitVec 4) :=
  ((range 0 16).map (BitVec.ofNat 4)).filter fun k => mirValid (m.yl.mir.get k)

/-- MLAG counts `n` more. DEDUCED: log entry 57. -/
def countLag (n : Nat) (m : Mach) : Mach := modYl (fun y => { y with mlag := satAdd y.mlag n }) m

/-- The mirror at edge + 10 µs, of which the first `started` entries start before the next edge. Outside FULL a tick with
entries in use is missed. DEDUCED: log entry 57. -/
def mirrorSend (started : Nat) (m : Mach) : Mach :=
  let l := mirrorList m
  if !tickRuns m || m.yl.mirSent || l.isEmpty then m
  else
    let m := modYl (fun y => { y with mirSent := true }) (p1Phase m)
    if m.yl.st = .full then countLag (l.length - started) ((l.take started).foldl (fun m k => mirrorEntry k m) m)
    else countLag 1 m

/-- MIRROR_SEND (R509): At edge + 10 µs in FULL each valid mirror entry's pages and bisques are sent. -/
def execMirrorSend (started : Nat) (s : State) : Res := s.on (mirrorSend started)

/-- Writes of a mirror frame, in the name of its compartment, until one is refused. DEDUCED: log entry 57. -/
def mirrorWrites (comp : BitVec 10) : List (Addr × List Byte) → Mach → Mach
  | [], m => m
  | (a, l) :: r, m =>
    let p := fenceCheck portYunal (.cls comp 3#2) a true m
    if p.1 then mirrorWrites comp r (writeBytesFuel ⟨false, 0x7F#7, comp, 0#2⟩ (l.length + 1) a l p.2)
    else modYl (fun y => { y with mfence := true }) p.2

/-- The writes of one entry in their order: its pages, the bisques in its last page, and that page's first 16 bytes.
DEDUCED: log entry 57. -/
def mirrorPlan (k : BitVec 4) (size : BitVec 5) (base : Byte) (tick : BitVec 64) (pages : List Byte)
    (bisques : List (BitVec 2048)) : List (Addr × List Byte) :=
  let b : Addr := 0x4000_0000#36 ||| put 36 base 16
  let last := b + BitVec.ofNat 36 (4096 * (size.toNat - 1))
  let rec_ := bisques.take 15
  (range 0 (size.toNat - 1)).map (fun i => (b + BitVec.ofNat 36 (4096 * i), (pages.drop (4096 * i)).take 4096))
    ++ (range 0 rec_.length).map (fun i =>
        (last + BitVec.ofNat 36 (0x10 + 256 * i), bytesOf (rec_.getD i 0#2048) 0 256))
    ++ [(last, bytesOf tick 0 8 ++ [k.setWidth 8, BitVec.ofNat 8 rec_.length] ++ List.replicate 6 0#8)]

/-- The block of a frame lies where R510 lets an entry lie. DEDUCED: log entry 57. -/
def mirrorBlockOk (size : BitVec 5) (base : Byte) : Bool :=
  decide (2 ≤ size.toNat ∧ size.toNat ≤ 16) && decide (0x1_0000 * base.toNat + 4096 * size.toNat ≤ 0xF0_0000)

/-- MIRROR_FRAME_RECEIVED (R509): The partner writes a received mirror frame into shared SRAM as master class 3. -/
def execMirrorFrameReceived (k : BitVec 4) (comp : BitVec 10) (size : BitVec 5) (base : BitVec 8) (tick : BitVec 64)
    (pages : List Byte) (bisques : List (BitVec 2048)) (s : State) : Res :=
  s.on fun m => if decide (m.yl.st = .full) && mirrorBlockOk size base then mirrorWrites comp (mirrorPlan k size base tick pages bisques) m else m

end Sys2Proof.Machine
end

