-- ==== Sys2Proof/Machine/Dispatch.lean ====
section
/-! DEFINITION. The dispatch: one arm for each command of the opcode table. -/

namespace Sys2Proof.Machine

open Sys2Proof

def exec (i : Instr) (s : State) : Host.Outcome State Fault Refusal :=
  match i with
  | .tickEdge grpOut reread => Sys2Proof.Machine.execTickEdge grpOut reread s
  | .applyOutputs => Sys2Proof.Machine.execApplyOutputs s
  | .p1Start => Sys2Proof.Machine.execP1Start s
  | .commitClose => Sys2Proof.Machine.execCommitClose s
  | .slotBudgetExpire e => Sys2Proof.Machine.execSlotBudgetExpire e s
  | .budgetWarning e => Sys2Proof.Machine.execBudgetWarning e s
  | .tickSyncEdge at_ => Sys2Proof.Machine.execTickSyncEdge at_ s
  | .holdoverEntry => Sys2Proof.Machine.execHoldoverEntry s
  | .holdExpired => Sys2Proof.Machine.execHoldExpired s
  | .tickCtlWrite w v => Sys2Proof.Machine.execTickCtlWrite w v s
  | .tickPeriodWrite w v => Sys2Proof.Machine.execTickPeriodWrite w v s
  | .tickHoldWrite w v => Sys2Proof.Machine.execTickHoldWrite w v s
  | .tickStatRead w => Sys2Proof.Machine.execTickStatRead w s
  | .tickCountRead w => Sys2Proof.Machine.execTickCountRead w s
  | .tilthSwapRequest w v => Sys2Proof.Machine.execTilthSwapRequest w v s
  | .registerWrite w addr len v => Sys2Proof.Machine.execRegisterWrite w addr len v s
  | .modeReqWrite w v => Sys2Proof.Machine.execModeReqWrite w v s
  | .outReleaseWrite w v => Sys2Proof.Machine.execOutReleaseWrite w v s
  | .wakeTimeout step => Sys2Proof.Machine.execWakeTimeout step s
  | .hardpanSafeReached => Sys2Proof.Machine.execHardpanSafeReached s
  | .hostAbortCompletions => Sys2Proof.Machine.execHostAbortCompletions s
  | .logicSuppliesInRegulation slot dt => Sys2Proof.Machine.execLogicSuppliesInRegulation slot dt s
  | .marchTestEnd pass bad corr spst0 spst1 => Sys2Proof.Machine.execMarchTestEnd pass bad corr spst0 spst1 s
  | .startUpChecksComplete ok kind dev res => Sys2Proof.Machine.execStartUpChecksComplete ok kind dev res s
  | .floorBurn fail weak => Sys2Proof.Machine.execFloorBurn fail weak s
  | .storeAccept e parity => Sys2Proof.Machine.execStoreAccept e parity s
  | .loadResponse e hostData upset => Sys2Proof.Machine.execLoadResponse e hostData upset s
  | .hostWindowTimeout e => Sys2Proof.Machine.execHostWindowTimeout e s
  | .lineFill e line err => Sys2Proof.Machine.execLineFill e line err s
  | .loadDelayWrite e => Sys2Proof.Machine.execLoadDelayWrite e s
  | .longOpResult e => Sys2Proof.Machine.execLongOpResult e s
  | .reservationExpire e => Sys2Proof.Machine.execReservationExpire e s
  | .powerFailWarning done weak flashDone sector => Sys2Proof.Machine.execPowerFailWarning done weak flashDone sector s
  | .powerFailDrainExpire => Sys2Proof.Machine.execPowerFailDrainExpire s
  | .powerFailSequenceEnd => Sys2Proof.Machine.execPowerFailSequenceEnd s
  | .mainInterruption back => Sys2Proof.Machine.execMainInterruption back s
  | .nop e mode opnd => Sys2Proof.Machine.execNop e mode opnd s
  | .call e mode opnd => Sys2Proof.Machine.execCall e mode opnd s
  | .callx e mode opnd => Sys2Proof.Machine.execCallx e mode opnd s
  | .ret e mode opnd => Sys2Proof.Machine.execRet e mode opnd s
  | .gcall e mode opnd => Sys2Proof.Machine.execGcall e mode opnd s
  | .gret e mode opnd => Sys2Proof.Machine.execGret e mode opnd s
  | .sysc e mode opnd => Sys2Proof.Machine.execSysc e mode opnd s
  | .sysr e mode opnd => Sys2Proof.Machine.execSysr e mode opnd s
  | .eret e mode opnd => Sys2Proof.Machine.execEret e mode opnd s
  | .trap e mode opnd => Sys2Proof.Machine.execTrap e mode opnd s
  | .fence e mode opnd => Sys2Proof.Machine.execFence e mode opnd s
  | .cinv e mode opnd => Sys2Proof.Machine.execCinv e mode opnd s
  | .rinv e mode opnd => Sys2Proof.Machine.execRinv e mode opnd s
  | .wfi e mode opnd => Sys2Proof.Machine.execWfi e mode opnd s
  | .wfiWake e x => Sys2Proof.Machine.execWfiWake e x s
  | .bkpt e mode opnd => Sys2Proof.Machine.execBkpt e mode opnd s
  | .lda e mode opnd => Sys2Proof.Machine.execLda e mode opnd s
  | .ldaw e mode opnd => Sys2Proof.Machine.execLdaw e mode opnd s
  | .ldaws e mode opnd => Sys2Proof.Machine.execLdaws e mode opnd s
  | .ldah e mode opnd => Sys2Proof.Machine.execLdah e mode opnd s
  | .ldahs e mode opnd => Sys2Proof.Machine.execLdahs e mode opnd s
  | .ldab e mode opnd => Sys2Proof.Machine.execLdab e mode opnd s
  | .ldabs e mode opnd => Sys2Proof.Machine.execLdabs e mode opnd s
  | .lde e mode opnd => Sys2Proof.Machine.execLde e mode opnd s
  | .sta e mode opnd => Sys2Proof.Machine.execSta e mode opnd s
  | .staw e mode opnd => Sys2Proof.Machine.execStaw e mode opnd s
  | .stah e mode opnd => Sys2Proof.Machine.execStah e mode opnd s
  | .stab e mode opnd => Sys2Proof.Machine.execStab e mode opnd s
  | .ste e mode opnd => Sys2Proof.Machine.execSte e mode opnd s
  | .stz e mode opnd => Sys2Proof.Machine.execStz e mode opnd s
  | .lr e mode opnd => Sys2Proof.Machine.execLr e mode opnd s
  | .sc e mode opnd => Sys2Proof.Machine.execSc e mode opnd s
  | .add e mode opnd => Sys2Proof.Machine.execAdd e mode opnd s
  | .adc e mode opnd => Sys2Proof.Machine.execAdc e mode opnd s
  | .sub e mode opnd => Sys2Proof.Machine.execSub e mode opnd s
  | .sbc e mode opnd => Sys2Proof.Machine.execSbc e mode opnd s
  | .rsb e mode opnd => Sys2Proof.Machine.execRsb e mode opnd s
  | .and_ e mode opnd => Sys2Proof.Machine.execAnd e mode opnd s
  | .or_ e mode opnd => Sys2Proof.Machine.execOr e mode opnd s
  | .xor e mode opnd => Sys2Proof.Machine.execXor e mode opnd s
  | .andn e mode opnd => Sys2Proof.Machine.execAndn e mode opnd s
  | .cmp e mode opnd => Sys2Proof.Machine.execCmp e mode opnd s
  | .tst e mode opnd => Sys2Proof.Machine.execTst e mode opnd s
  | .shl e mode opnd => Sys2Proof.Machine.execShl e mode opnd s
  | .shr e mode opnd => Sys2Proof.Machine.execShr e mode opnd s
  | .sar e mode opnd => Sys2Proof.Machine.execSar e mode opnd s
  | .rol e mode opnd => Sys2Proof.Machine.execRol e mode opnd s
  | .ror e mode opnd => Sys2Proof.Machine.execRor e mode opnd s
  | .mfe e mode opnd => Sys2Proof.Machine.execMfe e mode opnd s
  | .mte e mode opnd => Sys2Proof.Machine.execMte e mode opnd s
  | .mfm e mode opnd => Sys2Proof.Machine.execMfm e mode opnd s
  | .mtm e mode opnd => Sys2Proof.Machine.execMtm e mode opnd s
  | .neg e mode opnd => Sys2Proof.Machine.execNeg e mode opnd s
  | .not_ e mode opnd => Sys2Proof.Machine.execNot e mode opnd s
  | .abs_ e mode opnd => Sys2Proof.Machine.execAbs e mode opnd s
  | .clz e mode opnd => Sys2Proof.Machine.execClz e mode opnd s
  | .ctz e mode opnd => Sys2Proof.Machine.execCtz e mode opnd s
  | .popcBits e mode opnd => Sys2Proof.Machine.execPopcBits e mode opnd s
  | .bswap e mode opnd => Sys2Proof.Machine.execBswap e mode opnd s
  | .sext e mode opnd => Sys2Proof.Machine.execSext e mode opnd s
  | .min_ e mode opnd => Sys2Proof.Machine.execMin e mode opnd s
  | .max_ e mode opnd => Sys2Proof.Machine.execMax e mode opnd s
  | .minu e mode opnd => Sys2Proof.Machine.execMinu e mode opnd s
  | .maxu e mode opnd => Sys2Proof.Machine.execMaxu e mode opnd s
  | .mul e mode opnd => Sys2Proof.Machine.execMul e mode opnd s
  | .mulu e mode opnd => Sys2Proof.Machine.execMulu e mode opnd s
  | .mac e mode opnd => Sys2Proof.Machine.execMac e mode opnd s
  | .macu e mode opnd => Sys2Proof.Machine.execMacu e mode opnd s
  | .div e mode opnd => Sys2Proof.Machine.execDiv e mode opnd s
  | .divu e mode opnd => Sys2Proof.Machine.execDivu e mode opnd s
  | .rem e mode opnd => Sys2Proof.Machine.execRem e mode opnd s
  | .remu e mode opnd => Sys2Proof.Machine.execRemu e mode opnd s
  | .fadd e mode opnd => Sys2Proof.Machine.execFadd e mode opnd s
  | .fsub e mode opnd => Sys2Proof.Machine.execFsub e mode opnd s
  | .fmul e mode opnd => Sys2Proof.Machine.execFmul e mode opnd s
  | .fdiv e mode opnd => Sys2Proof.Machine.execFdiv e mode opnd s
  | .fsqrt e mode opnd => Sys2Proof.Machine.execFsqrt e mode opnd s
  | .fcvti e mode opnd => Sys2Proof.Machine.execFcvti e mode opnd s
  | .fcvtf e mode opnd => Sys2Proof.Machine.execFcvtf e mode opnd s
  | .fcvts e mode opnd => Sys2Proof.Machine.execFcvts e mode opnd s
  | .fcvtd e mode opnd => Sys2Proof.Machine.execFcvtd e mode opnd s
  | .fcmp e mode opnd => Sys2Proof.Machine.execFcmp e mode opnd s
  | .fneg e mode opnd => Sys2Proof.Machine.execFneg e mode opnd s
  | .fabs e mode opnd => Sys2Proof.Machine.execFabs e mode opnd s
  | .fmin e mode opnd => Sys2Proof.Machine.execFmin e mode opnd s
  | .fmax e mode opnd => Sys2Proof.Machine.execFmax e mode opnd s
  | .fclass e mode opnd => Sys2Proof.Machine.execFclass e mode opnd s
  | .bcc e cond mode opnd => Sys2Proof.Machine.execBcc e cond mode opnd s
  | .jmpx e mode opnd => Sys2Proof.Machine.execJmpx e mode opnd s
  | .ldcx e mode opnd => Sys2Proof.Machine.execLdcx e mode opnd s
  | .ldcy e mode opnd => Sys2Proof.Machine.execLdcy e mode opnd s
  | .ldcd e mode opnd => Sys2Proof.Machine.execLdcd e mode opnd s
  | .ldcs e mode opnd => Sys2Proof.Machine.execLdcs e mode opnd s
  | .stcx e mode opnd => Sys2Proof.Machine.execStcx e mode opnd s
  | .stcy e mode opnd => Sys2Proof.Machine.execStcy e mode opnd s
  | .stcd e mode opnd => Sys2Proof.Machine.execStcd e mode opnd s
  | .stcs e mode opnd => Sys2Proof.Machine.execStcs e mode opnd s
  | .pcopy e mode opnd => Sys2Proof.Machine.execPcopy e mode opnd s
  | .ptrim e mode opnd => Sys2Proof.Machine.execPtrim e mode opnd s
  | .pmask e mode opnd => Sys2Proof.Machine.execPmask e mode opnd s
  | .pstep e mode opnd => Sys2Proof.Machine.execPstep e mode opnd s
  | .paim e mode opnd => Sys2Proof.Machine.execPaim e mode opnd s
  | .pwrap e mode opnd => Sys2Proof.Machine.execPwrap e mode opnd s
  | .punwrap e mode opnd => Sys2Proof.Machine.execPunwrap e mode opnd s
  | .pfld e mode opnd => Sys2Proof.Machine.execPfld e mode opnd s
  | .movs e mode opnd => Sys2Proof.Machine.execMovs e mode opnd s
  | .fills e mode opnd => Sys2Proof.Machine.execFills e mode opnd s
  | .cmps e mode opnd => Sys2Proof.Machine.execCmps e mode opnd s
  | .scans e mode opnd => Sys2Proof.Machine.execScans e mode opnd s
  | .movc e mode opnd => Sys2Proof.Machine.execMovc e mode opnd s
  | .crcs e mode opnd => Sys2Proof.Machine.execCrcs e mode opnd s
  | .stringStep e host0 host1 host2 host3 => Sys2Proof.Machine.execStringStep e host0 host1 host2 host3 s
  | .rep e mode opnd => Sys2Proof.Machine.execRep e mode opnd s
  | .repeatIterationEnd e => Sys2Proof.Machine.execRepeatIterationEnd e s
  | .ldrc e mode opnd => Sys2Proof.Machine.execLdrc e mode opnd s
  | .push e mode opnd => Sys2Proof.Machine.execPush e mode opnd s
  | .pop e mode opnd => Sys2Proof.Machine.execPop e mode opnd s
  | .pushc e mode opnd => Sys2Proof.Machine.execPushc e mode opnd s
  | .popc e mode opnd => Sys2Proof.Machine.execPopc e mode opnd s
  | .mff e mode opnd => Sys2Proof.Machine.execMff e mode opnd s
  | .mtf e mode opnd => Sys2Proof.Machine.execMtf e mode opnd s
  | .mfsr e mode opnd => Sys2Proof.Machine.execMfsr e mode opnd s
  | .mtsr e mode opnd => Sys2Proof.Machine.execMtsr e mode opnd s
  | .lsi e mode opnd => Sys2Proof.Machine.execLsi e mode opnd s
  | .xchg e mode opnd => Sys2Proof.Machine.execXchg e mode opnd s
  | .setc e mode opnd => Sys2Proof.Machine.execSetc e mode opnd s
  | .selc e mode opnd => Sys2Proof.Machine.execSelc e mode opnd s
  | .tickr e mode opnd x => Sys2Proof.Machine.execTickr e mode opnd x s
  | .tpos e mode opnd x => Sys2Proof.Machine.execTpos e mode opnd x s
  | .budg e mode opnd x => Sys2Proof.Machine.execBudg e mode opnd x s
  | .who e mode opnd x => Sys2Proof.Machine.execWho e mode opnd x s
  | .hint e num mode opnd => Sys2Proof.Machine.execHint e num mode opnd s
  | .blankMemoryZeroed e mode opnd => Sys2Proof.Machine.execBlankMemoryZeroed e mode opnd s
  | .blankMemoryErased e mode opnd => Sys2Proof.Machine.execBlankMemoryErased e mode opnd s
  | .undefinedOpcode e opc mode opnd => Sys2Proof.Machine.execUndefinedOpcode e opc mode opnd s
  | .interruptEntry e x => Sys2Proof.Machine.execInterruptEntry e x s
  | .recoveryDecision e differs => Sys2Proof.Machine.execRecoveryDecision e differs s
  | .stateSweep e => Sys2Proof.Machine.execStateSweep e s
  | .bisque e u => Sys2Proof.Machine.execBisque e u s
  | .forcedBisque e => Sys2Proof.Machine.execForcedBisque e s
  | .grogBistPassEnd t r clean => Sys2Proof.Machine.execGrogBistPassEnd t r clean s
  | .tileGroupCommit w t v => Sys2Proof.Machine.execTileGroupCommit w t v s
  | .tileStatRead w t => Sys2Proof.Machine.execTileStatRead w t s
  | .spanCompare k => Sys2Proof.Machine.execSpanCompare k s
  | .cmintGo w v => Sys2Proof.Machine.execCmintGo w v s
  | .mintComplete => Sys2Proof.Machine.execMintComplete s
  | .patrolScrubLine err0 err1 err2 err3 => Sys2Proof.Machine.execPatrolScrubLine err0 err1 err2 err3 s
  | .sramScrubPass errs => Sys2Proof.Machine.execSramScrubPass errs s
  | .demandWriteBack => Sys2Proof.Machine.execDemandWriteBack s
  | .fenceWrite w v => Sys2Proof.Machine.execFenceWrite w v s
  | .fenceRead w v => Sys2Proof.Machine.execFenceRead w v s
  | .memCnt0Read w => Sys2Proof.Machine.execMemCnt0Read w s
  | .memCnt1Read w => Sys2Proof.Machine.execMemCnt1Read w s
  | .referenceCheck d acOut bcOut abOut => Sys2Proof.Machine.execReferenceCheck d acOut bcOut abOut s
  | .afeStatRead w d => Sys2Proof.Machine.execAfeStatRead w d s
  | .calibrationStart c isMain => Sys2Proof.Machine.execCalibrationStart c isMain s
  | .calibrationResult c zero full => Sys2Proof.Machine.execCalibrationResult c zero full s
  | .detectorEval c p => Sys2Proof.Machine.execDetectorEval c p s
  | .shortSwitchOff c => Sys2Proof.Machine.execShortSwitchOff c s
  | .shortRetry c still => Sys2Proof.Machine.execShortRetry c still s
  | .hartGoAccept c => Sys2Proof.Machine.execHartGoAccept c s
  | .hartTransmit c => Sys2Proof.Machine.execHartTransmit c s
  | .hartResponse c frame answers good id => Sys2Proof.Machine.execHartResponse c frame answers good id s
  | .hartTimeout c => Sys2Proof.Machine.execHartTimeout c s
  | .hartIdentitySequence c => Sys2Proof.Machine.execHartIdentitySequence c s
  | .outputSample c mainCodes shadCodes levels above => Sys2Proof.Machine.execOutputSample c mainCodes shadCodes levels above s
  | .channelCommitRequest w c v => Sys2Proof.Machine.execChannelCommitRequest w c v s
  | .channelStagedWrite w c reg v => Sys2Proof.Machine.execChannelStagedWrite w c reg v s
  | .liveSet w c v => Sys2Proof.Machine.execLiveSet w c v s
  | .chCtlstatRead w c => Sys2Proof.Machine.execChCtlstatRead w c s
  | .rampEnd c => Sys2Proof.Machine.execRampEnd c s
  | .channelEvent c => Sys2Proof.Machine.execChannelEvent c s
  | .timCtlWrite w c v => Sys2Proof.Machine.execTimCtlWrite w c v s
  | .timTopWrite w c v => Sys2Proof.Machine.execTimTopWrite w c v s
  | .timCmpWrite w c v => Sys2Proof.Machine.execTimCmpWrite w c v s
  | .timPhaseWrite w c v => Sys2Proof.Machine.execTimPhaseWrite w c v s
  | .timPhaseRead w c => Sys2Proof.Machine.execTimPhaseRead w c s
  | .periodStart c => Sys2Proof.Machine.execPeriodStart c s
  | .comparatorCrossing c => Sys2Proof.Machine.execComparatorCrossing c s
  | .pulseEdge c dt => Sys2Proof.Machine.execPulseEdge c dt s
  | .periodTimeout c => Sys2Proof.Machine.execPeriodTimeout c s
  | .portReset port perst => Sys2Proof.Machine.execPortReset port perst s
  | .perstDeassert port => Sys2Proof.Machine.execPerstDeassert port s
  | .statusPageUpdate => Sys2Proof.Machine.execStatusPageUpdate s
  | .hostWindowWrite w v => Sys2Proof.Machine.execHostWindowWrite w v s
  | .hostWindowRead w v => Sys2Proof.Machine.execHostWindowRead w v s
  | .kreadySet w v => Sys2Proof.Machine.execKreadySet w v s
  | .sqTailDoorbell port page r v => Sys2Proof.Machine.execSqTailDoorbell port page r v s
  | .cqHeadDoorbell port page r v => Sys2Proof.Machine.execCqHeadDoorbell port page r v s
  | .keeperDoorbell port v => Sys2Proof.Machine.execKeeperDoorbell port v s
  | .descriptorFetch r desc data => Sys2Proof.Machine.execDescriptorFetch r desc data s
  | .outboundPass => Sys2Proof.Machine.execOutboundPass s
  | .serviceNop => Sys2Proof.Machine.execServiceNop s
  | .identify => Sys2Proof.Machine.execIdentify s
  | .createRing area => Sys2Proof.Machine.execCreateRing area s
  | .deleteRing => Sys2Proof.Machine.execDeleteRing s
  | .deleteRingTimeout r => Sys2Proof.Machine.execDeleteRingTimeout r s
  | .mapWindow => Sys2Proof.Machine.execMapWindow s
  | .unmapWindow => Sys2Proof.Machine.execUnmapWindow s
  | .setQuota => Sys2Proof.Machine.execSetQuota s
  | .getQuota => Sys2Proof.Machine.execGetQuota s
  | .allocPages addr => Sys2Proof.Machine.execAllocPages addr s
  | .freePages => Sys2Proof.Machine.execFreePages s
  | .modeRequest => Sys2Proof.Machine.execModeRequest s
  | .outRelease => Sys2Proof.Machine.execOutRelease s
  | .loadCompartment data stage dst => Sys2Proof.Machine.execLoadCompartment data stage dst s
  | .tilthUpdate data => Sys2Proof.Machine.execTilthUpdate data s
  | .readLog => Sys2Proof.Machine.execReadLog s
  | .attest => Sys2Proof.Machine.execAttest s
  | .setTick => Sys2Proof.Machine.execSetTick s
  | .resetModule => Sys2Proof.Machine.execResetModule s
  | .prepareRemoval => Sys2Proof.Machine.execPrepareRemoval s
  | .invalidOpcode => Sys2Proof.Machine.execInvalidOpcode s
  | .hpResetWrite port v => Sys2Proof.Machine.execHpResetWrite port v s
  | .adminRingEnable port area => Sys2Proof.Machine.execAdminRingEnable port area s
  | .adminRingDisable port => Sys2Proof.Machine.execAdminRingDisable port s
  | .fuseBurn w v => Sys2Proof.Machine.execFuseBurn w v s
  | .fuseBurnComplete fail weak => Sys2Proof.Machine.execFuseBurnComplete fail weak s
  | .verify w ksel nolog => Sys2Proof.Machine.execVerify w ksel nolog s
  | .slotBuild w => Sys2Proof.Machine.execSlotBuild w s
  | .secAttest w => Sys2Proof.Machine.execSecAttest w s
  | .recordMac w => Sys2Proof.Machine.execRecordMac w s
  | .secInvalidCommand w k => Sys2Proof.Machine.execSecInvalidCommand w k s
  | .secCommandComplete => Sys2Proof.Machine.execSecCommandComplete s
  | .flashRead w => Sys2Proof.Machine.execFlashRead w s
  | .flashProgram w key => Sys2Proof.Machine.execFlashProgram w key s
  | .flashErase w key => Sys2Proof.Machine.execFlashErase w key s
  | .flashOpComplete devErr n => Sys2Proof.Machine.execFlashOpComplete devErr n s
  | .keyUpdate e => Sys2Proof.Machine.execKeyUpdate e s
  | .storeImage e off => Sys2Proof.Machine.execStoreImage e off s
  | .rngRequest w v => Sys2Proof.Machine.execRngRequest w v s
  | .rngPop w => Sys2Proof.Machine.execRngPop w s
  | .rngRequestServed => Sys2Proof.Machine.execRngRequestServed s
  | .trngStartupTestEnd samples => Sys2Proof.Machine.execTrngStartupTestEnd samples s
  | .drbgReseed samples => Sys2Proof.Machine.execDrbgReseed samples s
  | .continuousTestFailure => Sys2Proof.Machine.execContinuousTestFailure s
  | .wdService w v => Sys2Proof.Machine.execWdService w v s
  | .wdEvid1Read w => Sys2Proof.Machine.execWdEvid1Read w s
  | .moduleWatchdogService w v => Sys2Proof.Machine.execModuleWatchdogService w v s
  | .moduleWatchdogExpire => Sys2Proof.Machine.execModuleWatchdogExpire s
  | .mainClockLost cnt0 cnt1 => Sys2Proof.Machine.execMainClockLost cnt0 cnt1 s
  | .backupOscillatorLost => Sys2Proof.Machine.execBackupOscillatorLost s
  | .faultLogEntry => Sys2Proof.Machine.execFaultLogEntry s
  | .logMirror => Sys2Proof.Machine.execLogMirror s
  | .hardpanRequest w v => Sys2Proof.Machine.execHardpanRequest w v s
  | .hardpanReset w v => Sys2Proof.Machine.execHardpanReset w v s
  | .softwareFaultLog w v => Sys2Proof.Machine.execSoftwareFaultLog w v s
  | .setEscalation e => Sys2Proof.Machine.execSetEscalation e s
  | .ownerEvent e => Sys2Proof.Machine.execOwnerEvent e s
  | .tapReset => Sys2Proof.Machine.execTapReset s
  | .extest bits pins => Sys2Proof.Machine.execExtest bits pins s
  | .samplePreload bits pins => Sys2Proof.Machine.execSamplePreload bits pins s
  | .idcode => Sys2Proof.Machine.execIdcode s
  | .bypass ir bits => Sys2Proof.Machine.execBypass ir bits s
  | .dbgChal req => Sys2Proof.Machine.execDbgChal req s
  | .dbgResp resp => Sys2Proof.Machine.execDbgResp resp s
  | .sessionOpen => Sys2Proof.Machine.execSessionOpen s
  | .lockoutEnd => Sys2Proof.Machine.execLockoutEnd s
  | .nonceLapse => Sys2Proof.Machine.execNonceLapse s
  | .sessionTimeout => Sys2Proof.Machine.execSessionTimeout s
  | .sessionClose v => Sys2Proof.Machine.execSessionClose v s
  | .debugMemoryRead addr => Sys2Proof.Machine.execDebugMemoryRead addr s
  | .debugMemoryWrite addr v => Sys2Proof.Machine.execDebugMemoryWrite addr v s
  | .debugRegisterRead off => Sys2Proof.Machine.execDebugRegisterRead off s
  | .debugRegisterWrite off v => Sys2Proof.Machine.execDebugRegisterWrite off v s
  | .halt v => Sys2Proof.Machine.execHalt v s
  | .haltComplete e => Sys2Proof.Machine.execHaltComplete e s
  | .haltReservationWaitExpire e => Sys2Proof.Machine.execHaltReservationWaitExpire e s
  | .resume v => Sys2Proof.Machine.execResume v s
  | .step v => Sys2Proof.Machine.execStep v s
  | .dregRead => Sys2Proof.Machine.execDregRead s
  | .dregWrite v => Sys2Proof.Machine.execDregWrite v s
  | .dhitRead => Sys2Proof.Machine.execDhitRead s
  | .bscanEnable v => Sys2Proof.Machine.execBscanEnable v s
  | .channelFreeze v => Sys2Proof.Machine.execChannelFreeze v s
  | .timerFreeze v => Sys2Proof.Machine.execTimerFreeze v s
  | .fieldRailLow low fp1 fp2 ma => Sys2Proof.Machine.execFieldRailLow low fp1 fp2 ma s
  | .fieldLimitDrop ma => Sys2Proof.Machine.execFieldLimitDrop ma s
  | .fieldLimitRestore ma => Sys2Proof.Machine.execFieldLimitRestore ma s
  | .pwrStatRead w => Sys2Proof.Machine.execPwrStatRead w s
  | .sentinelScan contacts reserve cell => Sys2Proof.Machine.execSentinelScan contacts reserve cell s
  | .sentinelRelayReset w v => Sys2Proof.Machine.execSentinelRelayReset w v s
  | .sentinelRelayTest w v => Sys2Proof.Machine.execSentinelRelayTest w v s
  | .rtcNowRead w => Sys2Proof.Machine.execRtcNowRead w s
  | .rtcSet w v => Sys2Proof.Machine.execRtcSet w v s
  | .rtcAlarm => Sys2Proof.Machine.execRtcAlarm s
  | .thermalReading a b c d ctl dram0 dram1 => Sys2Proof.Machine.execThermalReading a b c d ctl dram0 dram1 s
  | .tilePowerUpComplete t => Sys2Proof.Machine.execTilePowerUpComplete t s
  | .tileShutdownComplete t => Sys2Proof.Machine.execTileShutdownComplete t s
  | .heartbeatSend => Sys2Proof.Machine.execHeartbeatSend s
  | .heartbeatReceived l => Sys2Proof.Machine.execHeartbeatReceived l s
  | .partnerLost => Sys2Proof.Machine.execPartnerLost s
  | .linkTrainingDone ok => Sys2Proof.Machine.execLinkTrainingDone ok s
  | .linkIdle => Sys2Proof.Machine.execLinkIdle s
  | .mirrorSend started => Sys2Proof.Machine.execMirrorSend started s
  | .mirrorFrameReceived k comp size base tick pages bisques => Sys2Proof.Machine.execMirrorFrameReceived k comp size base tick pages bisques s
  | .ylStatRead w => Sys2Proof.Machine.execYlStatRead w s
  | .attnAssert => Sys2Proof.Machine.execAttnAssert s
  | .backupCellConnected => Sys2Proof.Machine.execBackupCellConnected s
  | .backupCellRemoved => Sys2Proof.Machine.execBackupCellRemoved s
  | .pcieLinkUp port busMaster msixEn => Sys2Proof.Machine.execPcieLinkUp port busMaster msixEn s
  | .yunalLaneShutdownComplete => Sys2Proof.Machine.execYunalLaneShutdownComplete s
  | .hostDmaTimeout r desc data => Sys2Proof.Machine.execHostDmaTimeout r desc data s

end Sys2Proof.Machine
end

