-- ==== Sys2Proof/Machine/Step.lean ====
section
/-! DEFINITION. One step of the block. -/

namespace Sys2Proof.Machine

open Sys2Proof

/-- The command at the front of the queue takes effect, with the queue's rest; on an empty queue one period of the channel
clock passes. DESIGN CHOICE: log entry 1. DESIGN CHOICE: log entry 2. -/
def step (s : State) : Host.Outcome State Fault Refusal :=
  match s.pending with
  | [] => .next { s with m := advanceTo (s.m.clk + 1) s.m }
  | c :: r => exec c { s with pending := r }

/-- The state with the command that a word spells put at the front of its queue. DESIGN CHOICE: log entry 62. -/
def State.withFetchWord (s : State) (nbits w : Nat) : State :=
  match decodeTableWord nbits w with
  | some c => { s with pending := c :: s.pending }
  | none => s

end Sys2Proof.Machine
end

