-- ==== Sys2Proof/Safety.lean ====
section
/-! DEFINITION. The terms in which claims are made: an engine that stands ready for an instruction, the module after an
instruction that only changes registers, and what holds of every state that a run may reach. -/

namespace Sys2Proof.Machine

open Sys2Proof

/-! ### An engine that stands ready -/

/-- No debug request, step or enabled range stands at engine `e` (R468, R474, R478). -/
def undebugged (m : Mach) (e : BitVec 7) : Prop :=
  let x := m.dbg.engs.get e
  x.want = false ∧ x.step = false ∧ x.pass = false ∧ ∀ k, (x.ranges.get k).en = false

/-- A replica with registers `a` to which nothing is due: its buffer is empty, no loaded value waits to be written, no
iteration ends. -/
def Replica.quiet (r : Replica) (a : Arch) : Prop :=
  r.arch = a ∧ r.sb = [] ∧ r.ldue = none ∧ r.repEnd = false

/-- Engine `e` stands at an instruction boundary with nothing due, and each of its lanes, of which there is one or more,
holds the registers `a`: it may run an instruction from PCC, whose word was read without error (R55, R60, R121), outside a
repeat body. A load or a long operation
of the instructions before may be pending in `a` (R72, R73). -/
structure Ready (m : Mach) (e : BitVec 7) (a : Arch) : Prop where
  boundary : atBoundary m e = true
  lanes : lanesOf m e ≠ []
  quiet : ∀ r ∈ lanesOf m e, (rep m (tileOf e) r).quiet a
  notForced : (m.engines.get e).forcedDue = false ∧ (m.engines.get e).undo.length < 216
  undebugged : undebugged m e
  notDue : a.lop = 0#8 ∨ 1 < a.ldist.toNat
  outside : inBody a = false
  fetch : checkFetch a.comp a.ring a.pcc 7#4 a.pcc.cursor = none
  word : wordFault m e a.pcc.cursor = none

/-- The value that is due to A after an instruction that began with registers `a`: that of a load then pending (R72). -/
def Arch.due (a : Arch) : Option W64 := if a.lpend then some a.lval else none

/-- The lanes of engine `e` after an instruction: each holds the registers `b`, the value `due` is due to A, and `sb` stands
in the store buffers. `jump` says that the flow of control changed (R58). -/
def Mach.lanesAfter (m : Mach) (e : BitVec 7) (b : Arch) (due : Option W64) (jump : Bool) (sb : List SbEntry) : Mach :=
  mapLanes e (fun r => { r with
    arch := b
    ldue := due
    prefetch := if jump then [] else r.prefetch.drop 1
    sb := sb }) m

/-- The module after an instruction of engine `e` that counts: its lanes as `lanesAfter` says, the instruction counted, and
the prefetch queues filled from the lines that the engine has (R58); no other register, and no memory, is touched. -/
def Mach.retired (m : Mach) (e : BitVec 7) (b : Arch) (due : Option W64) (jump : Bool) (sb : List SbEntry) : Mach :=
  prefetchFill e (modEng e (fun g => { g with
    fed := false, reread := false, cur := g.cur.map fun r => { r with count := r.count + 1 } })
    (m.lanesAfter e b due jump sb))

/-- The module after a step of a string instruction that goes on (R98, R104): one instruction counted, the registers and the
store buffer of every lane as given, no value due and no change in the flow of control. -/
def Mach.stepped (m : Mach) (e : BitVec 7) (b : Arch) (sb : List SbEntry) : Mach :=
  prefetchFill e (modEng e (fun g => { g with
    fed := false, reread := false, cur := g.cur.map fun r => { r with count := r.count + 1 } })
    (mapLanes e (fun r => { r with arch := b, ldue := none, sb := sb }) m))

/-- The engine's latest instruction took its data from within the tile (R187, R193). -/
def Mach.fed (m : Mach) (e : BitVec 7) : Mach := modEng e (fun g => { g with fed := true }) m

/-- Granule `g` of memory reads as written: no bit of its codeword has flipped and it is not poisoned (R238, R241, R243). -/
def readsClean (m : Mach) (g : Nat) : Prop := m.mem.err g = 0#152 ∧ m.mem.poison g = false

/-- Every entry of the fence map, and every copy of one at engine `e`'s port, that matches an access of compartment `comp` to
shared SRAM lets ring 0 read and write there: the hardware of slot entry, GCALL and GRET passes the map (R125, R260, R263). -/
def sharedOpen (m : Mach) (e : BitVec 7) (comp : BitVec 10) : Prop :=
  let open' (x : FenceEntry) : Prop := ∀ (a : Addr) (write : Bool), region a = .shared → x.matches comp a = true →
    x.grants (.ring comp 0) write = true
  (∀ x ∈ (m.tiles.get (tileOf e)).rcache, open' x.2) ∧ ∀ i, open' (m.mc.fence.get i)

/-- A memory operand in the tile's own SRAM that passes every check of R120 and reads clean: nothing stands between the
instruction and its data (R68, R155). -/
def localOperand (m : Mach) (e : BitVec 7) (a : Arch) (o : MemOp) (k : LdOp) : Prop :=
  checkOp ⟨m, e, []⟩ a o ⟨k.size, k.size, false, k.isCap⟩ = none ∧ shadowArea ⟨m, e, []⟩ o.addr = false
    ∧ region o.addr = .tileAlias ∧ readsClean m (granOf (phys (tileOf e) o.addr))

/-- The bytes of the tile's SRAM that a load at `x` brings, from the lowest upwards (R2). -/
def localData (m : Mach) (e : BitVec 7) (x : Addr) : Gran :=
  m.mem.data (granOf (phys (tileOf e) x)) >>> (8 * (x.toNat % 16))

/-- The value operand of an instruction of class V (R83) is `v`: one of the modes without memory, or a memory operand in the
tile's own SRAM. `step` is what its addressing mode does to the registers (R85). -/
def valueIs (m : Mach) (e : BitVec 7) (a : Arch) (k : LdOp) (mode : BitVec 4) (opnd : BitVec 20) (v : W64)
    (step : Arch → Arch) : Prop :=
  (immediate a mode opnd = some v ∧ step = id) ∨
  (immediate a mode opnd = none ∧ localOperand m e a (memOp a mode opnd) k
    ∧ v = fld (localData m e (memOp a mode opnd).addr) 0 64 ∧ step = (memOp a mode opnd).applyStep)

/-- What a command answers when engine `e`, whose lanes held `a`, goes on to the next instruction with registers `b`. -/
def goesOn (s : State) (e : BitVec 7) (a b : Arch) : Res :=
  .next { s with m := s.m.retired e b.advance a.due false [] }

/-- The same of an instruction that has taken its operand from the tile's own SRAM. -/
def loadsOn (s : State) (e : BitVec 7) (a b : Arch) : Res :=
  .next { s with m := (s.m.retired e b.advance a.due false []).fed e }

/-- The same of an instruction with a value operand (R83), which some modes take from memory. -/
def takesOn (s : State) (e : BitVec 7) (a : Arch) (mode : BitVec 4) (opnd : BitVec 20) (b : Arch) : Res :=
  if (immediate a mode opnd).isSome then goesOn s e a b else loadsOn s e a b

/-- What a command answers when an instruction of engine `e` has moved PCC and left registers `b`. -/
def jumpsTo (s : State) (e : BitVec 7) (a b : Arch) : Res :=
  .next { s with m := s.m.retired e b a.due true [] }

/-- A sum or difference of signed numbers that 64 bits cannot hold. -/
def overflows (x : Int) : Bool := decide (x < -(2 ^ 63) ∨ 2 ^ 63 ≤ x)

/-! ### Stores -/

/-- Entry `y` of a store buffer holds a store of the `size` low bytes of `v` at `x`, made by engine `e` in state `a`: the
granule that holds `x`, just these bytes of it, the tag of a capability store, and the identity of the store (R66, R115,
R192). It has not been issued. -/
def storedAs (y : SbEntry) (m : Mach) (e : BitVec 7) (a : Arch) (x : Addr) (size : Nat) (v : Gran) (cap tag : Bool) : Prop :=
  y.gran.toNat = 16 * (x.toNat / 16) ∧
  (∀ i, i < 16 → (y.mask.getLsbD i = true ↔ x.toNat % 16 ≤ i ∧ i < x.toNat % 16 + size)) ∧
  (∀ i, i < size → byteOf y.data (x.toNat % 16 + i) = byteOf v i) ∧
  y.tag = (cap && tag) ∧ y.cap = cap ∧ y.merged = false ∧ y.withheld = false ∧ y.issued = none ∧
  y.comp = a.comp ∧ y.ring = a.ring ∧ y.pc = a.pcc.cursor ∧ y.tick = m.tick.count ∧ y.pos = runPos m e

/-- A store through operand `o` passes every check of R120 and is not one that a span member's capture takes (R225). -/
def storeAllowed (m : Mach) (e : BitVec 7) (a : Arch) (o : MemOp) (size : Nat) (cap : Bool) : Prop :=
  checkOp ⟨m, e, []⟩ a o ⟨size, size, true, cap⟩ = none ∧ (Ctx.span ⟨m, e, []⟩ && inOutputRecord o.addr) = false

/-- What a command answers when an instruction of engine `e` has put entry `y` into its lanes' buffers: it stands there alone
and is issued, which asks the fence map for it (R67, R125) and touches no memory. -/
def stores (s : State) (e : BitVec 7) (a b : Arch) (y : SbEntry) : Res :=
  .next { s with m := (issueSb e (s.m.retired e b.advance a.due false [y])).2 }

/-! ### Exceptions -/

/-- An exception can be entered through the engine's task-state block: none is in progress, TSBR is legal, and ESTACK holds
a tagged capability that reads clean (R162, R166, R173). -/
def canEnter (m : Mach) (e : BitVec 7) (a : Arch) : Prop :=
  let g := granOf (phys (tileOf e) a.tsbr)
  a.exl = false ∧ a.dfl = false ∧ tsbrOk a.tsbr = true ∧ readsClean m (g + 15) ∧ m.mem.tag (g + 15) = true

/-- Engine `e`, whose lanes held `a`, has entered exception `k` (R163 to R168): every lane stands at the vector in ring 0
with the registers of R167, the granules of the block hold the state before the instruction, no other granule has changed,
and of the module only what an instruction may touch; the queues of fetched words hold what R58 fills them with. -/
structure Entered (s : State) (e : BitVec 7) (a : Arch) (k : Exc) (t : State) : Prop where
  lanes : ∀ r ∈ lanesOf s.m e, rep t.m (tileOf e) r = { rep s.m (tileOf e) r with
    arch := { a with
      ring := 0, pcc := Cap.make (0x1000_0000#36 + put 36 k.vec 5) 0x1000_0000 0x1004_0000 0x0D 0 0 true
      s := Cap.norm ⟨s.m.mem.data (granOf (phys (tileOf e) a.tsbr) + 15), true⟩
      d := Cap.make a.tsbr a.tsbr (a.tsbr + 256) 0x1B 0 0 true
      a := put 64 k.vec 0 ||| put 64 k.cause 8 ||| put 64 k.reg 16
      f := 0, rstate := 0, fast := false, ib := true, exl := true, dfl := false
      lpend := false, lval := 0, lop := 0, lopa := 0, lopb := 0, ldist := 0, lrm := 0, resv := none }
    ldue := none, prefetch := (rep t.m (tileOf e) r).prefetch, sb := [] }
  caps : ∀ i c, [a.pcc, a.s, a.x, a.y, a.d, a.link, a.slink][i]? = some c →
    t.m.mem.data (granOf (phys (tileOf e) a.tsbr) + i) = c.bits ∧ t.m.mem.tag (granOf (phys (tileOf e) a.tsbr) + i) = c.tag
  words : ∀ i d, [a.e ++ a.a, a.f ++ a.m, a.rstate ++ a.rcnt][i]? = some d →
    t.m.mem.data (granOf (phys (tileOf e) a.tsbr) + 7 + i) = d
  pending : let d := t.m.mem.data (granOf (phys (tileOf e) a.tsbr) + 10)
    let d' := t.m.mem.data (granOf (phys (tileOf e) a.tsbr) + 11)
    (a.lpend = true → fld d 0 64 = a.lval) ∧ (a.lop ≠ 0 → fld d 64 64 = a.lopa ∧ fld d' 0 64 = a.lopb) ∧
      fld d' 64 64 = packState a
  cause : t.m.mem.data (granOf (phys (tileOf e) a.tsbr) + 12)
      = k.faddr.setWidth 64 ++ (put 64 k.vec 0 ||| put 64 k.cause 8 ||| put 64 k.reg 16) ∧
    t.m.mem.data (granOf (phys (tileOf e) a.tsbr) + 13) = s.m.tick.count ++ a.ssp.setWidth 64 ∧
    t.m.mem.data (granOf (phys (tileOf e) a.tsbr) + 14) = 0
  others : ∀ j, j < granOf (phys (tileOf e) a.tsbr) ∨ granOf (phys (tileOf e) a.tsbr) + 15 ≤ j →
    t.m.mem.data j = s.m.mem.data j ∧ t.m.mem.tag j = s.m.mem.tag j
  rest : t = { s with m := { s.m with
    tiles := t.m.tiles, engines := t.m.engines, mc := t.m.mc, resv := t.m.resv, mem := t.m.mem, free := s.m.free + 1 } }

/-! ### Commands of the module -/

/-- The module has power, and neither a module reset nor the completion of an entry to HARDPAN is due: an access to a register
has its own effect and no other. -/
def Mach.live (m : Mach) : Prop := m.mode.mode ≠ .dormant ∧ m.watch.resetWanted = none ∧ m.faults.hpDue = false

/-- HARDPAN has been entered with a cause (R48, R449), the queue and the fuses as they were. -/
def hardened (s t : State) (cause : BitVec 16) : Prop :=
  t.m.mode.mode = .hardpan ∧ t.m.faults.hpCause = cause ∧ t.m.mc.dramFrozen = true ∧ t.m.faults.hpDue = false ∧
    t.pending = s.pending ∧ t.fuses = s.fuses

/-- No store waits in a buffer. -/
def Mach.emptied (m : Mach) : Prop := ∀ e r, r ∈ lanesOf m e → (rep m (tileOf e) r).sb = []

/-- An access that the keeper firmware makes: a replica in compartment 0 and ring 0 (R113). -/
def byKeeper (w : Who) : Prop := w.master = .replica ∧ w.comp = 0 ∧ w.ring = 0

/-- What a command answers that leaves the module as `n`, and the fuses and the queue as they are. -/
def leaves (s : State) (n : Mach) : Res := .next { s with m := n }

/-- A word that a read brings. -/
def Mach.read (m : Mach) (v : W32) : Mach := { m with bus := some (v.setWidth 128) }

/-- A fault that the collector takes into its queue (R439). -/
def Mach.faulted (m : Mach) (code : BitVec 16) (arg : W64) : Mach :=
  { m with faults := { m.faults with queue := m.faults.queue ++ [⟨code, arg, m.tick.count, m.clk, []⟩] } }

/-- The collector has room, and the module is not in DORMANT, so that a fault is logged with the tick of its detection. -/
def Mach.hasRoom (m : Mach) : Prop := m.mode.mode ≠ .dormant ∧ m.faults.queue.length < 64

/-- No store waits in a buffer and no fault in the collector: nothing stands between an event and its own effect. -/
def Mach.calm (m : Mach) : Prop :=
  (∀ e r, r ∈ lanesOf m e → (rep m (tileOf e) r).sb = []) ∧ m.faults.queue = []

/-- The areas that are zeroed at each entry to WAKE (R37, R138, R144, R223, R228). -/
abbrev zeroedAtWake (a : Nat) : Prop :=
  (0x40F4_0000 ≤ a ∧ a < 0x40F4_4000) ∨ (0x40F4_8000 ≤ a ∧ a < 0x40F4_9400) ∨ (0x40F5_0000 ≤ a ∧ a < 0x40F5_0400) ∨
    (0x40F6_0000 ≤ a ∧ a < 0x40F8_0000)

/-- The module has been reset (R50): WAKE at edge 0 with its cause, the mode that it left, and memory as it stood but for the
areas that WAKE zeroes. -/
structure WasReset (s t : State) (cause : BitVec 4) : Prop where
  mode : t.m.mode.mode = .wake ∧ t.m.mode.wakeCause = cause ∧ t.m.mode.prev = (modeCode s.m.mode.mode).setWidth 4
  tick : t.m.tick.count = 0 ∧ t.m.tick.edgeAt = s.m.clk ∧ t.m.clk = s.m.clk
  lanes : lanesOf t.m 0 = [0, 1, 2] ∧ ∀ r ∈ lanesOf t.m 0, (rep t.m 0 r).arch = bootArch
  mem : ∀ a, t.m.mem.byte a = if zeroedAtWake a then 0 else s.m.mem.byte a
  rest : t.pending = s.pending ∧ t.fuses = s.fuses ∧ t.m.sec.flashA = s.m.sec.flashA ∧ t.m.sec.flashB = s.m.sec.flashB ∧
    t.m.bkp.scr = s.m.bkp.scr ∧ t.m.bkp.rtc = s.m.bkp.rtc

/-! ### Rings -/

/-- Ring `r` can take a completion at once: none waits before it, its CQ has room, and its port reaches the host (R374). -/
def canAnswer (m : Mach) (r : Byte) : Prop :=
  let x := ringOf m r
  (x.st = .active ∨ x.st = .deleting) ∧ x.waiting = [] ∧ (x.cqTail.toNat + 1) % x.nc ≠ x.cqHead.toNat ∧
    (portOf m.host x.port).up = true ∧ (portOf m.host x.port).busMaster = true

/-- Completion `c` has been written at the CQ tail of ring `r`, after what `pre` says has left the module (R374, R384). -/
structure Answered (s t : State) (r : Byte) (c : Compl) (pre : List Out) : Prop where
  out : let x := ringOf s.m r
    t.m.outbox = s.m.outbox ++ pre ++ [Out.hostWrite x.port (x.cqAddr + BitVec.ofNat 64 (32 * x.cqTail.toNat))
      (bytesOf c.r0 0 8 ++ bytesOf c.r1 0 8 ++ bytesOf c.xfer 0 4 ++ bytesOf s.m.tick.count 0 4 ++ bytesOf c.cid 0 2 ++
        bytesOf (ringOf t.m r).f 0 2 ++ [r, 0, c.status, if x.phase then 1 else 0])]
  tail : let x := ringOf s.m r
    (ringOf t.m r).cqTail.toNat = (x.cqTail.toNat + 1) % x.nc ∧
      (ringOf t.m r).phase = (if (x.cqTail.toNat + 1) % x.nc = 0 then !x.phase else x.phase)
  irq : c.irq = true → ((ringOf s.m r).port, (ringOf s.m r).owner) ∈ t.m.host.irqs
  rest : t.pending = s.pending ∧ t.fuses = s.fuses

/-- The keeper's service `opc` is asked for in descriptor `d` of ring `r`, alone in the queue, and may be performed: its ring
and the mode permit it, and its completion can be written (R379, R387). -/
def asked (m : Mach) (opc : Nat) (r : Byte) (d : BitVec 512) : Prop :=
  m.mode.mode ≠ .dormant ∧ m.host.kready = true ∧ keeperUp m = true ∧ m.host.svc = [⟨r, d⟩] ∧ d.toNat % 2 ^ 8 = opc ∧ canAnswer m r ∧
    (adminOnly opc = true → r.toNat < 2) ∧ serviceMode opc m.mode.mode = true

/-- What a service answers with. -/
def reply (d : BitVec 512) (status : Byte) (r0 : W64) (xfer : Nat) : Compl :=
  ⟨r0, 0, BitVec.ofNat 32 xfer, descCid d, status, descIrq d⟩

/-- The bytes that leave for a host. -/
def sentBytes (l : List Out) : List Byte :=
  l.flatMap fun x => match x with
    | .hostWrite _ _ b => b
    | _ => []

end Sys2Proof.Machine
end

