-- ==== Sys2Proof/Certificates/Slice0/Obligations.lean ====
section
/-! DEFINITION. The statements for the provers. -/

open Sys2Proof Sys2Proof.Machine

/-! ### Instructions on registers -/

/-- R86, R72, R92: the loads into A leave their value pending, LDE and LDRC write at once. -/
def Obligations.ValueLoads : Prop :=
  ∀ (s : State) (e : BitVec 7) (a : Arch) (mode : BitVec 4) (opnd : BitVec 20) (v : W64) (step : Arch → Arch),
    Ready s.m e a → classCheck .v mode opnd = none →
    let b := beginArch a
    let pend (x : W64) : Res := takesOn s e a mode opnd (step { b with lpend := true, lval := x })
    (valueIs s.m e a .lda mode opnd v step → exec (.lda e mode opnd) s = pend v) ∧
    (valueIs s.m e a .ldaw mode opnd v step → exec (.ldaw e mode opnd) s = pend (BitVec.ofNat 64 (v.toNat % 2 ^ 32))) ∧
    (valueIs s.m e a .ldaws mode opnd v step → exec (.ldaws e mode opnd) s = pend ((v.setWidth 32).signExtend 64)) ∧
    (valueIs s.m e a .ldah mode opnd v step → exec (.ldah e mode opnd) s = pend (BitVec.ofNat 64 (v.toNat % 2 ^ 16))) ∧
    (valueIs s.m e a .ldahs mode opnd v step → exec (.ldahs e mode opnd) s = pend ((v.setWidth 16).signExtend 64)) ∧
    (valueIs s.m e a .ldab mode opnd v step → exec (.ldab e mode opnd) s = pend (BitVec.ofNat 64 (v.toNat % 2 ^ 8))) ∧
    (valueIs s.m e a .ldabs mode opnd v step → exec (.ldabs e mode opnd) s = pend ((v.setWidth 8).signExtend 64)) ∧
    (valueIs s.m e a .lde mode opnd v step → exec (.lde e mode opnd) s = takesOn s e a mode opnd (step { b with e := v })) ∧
    (valueIs s.m e a .ldrc mode opnd v step → exec (.ldrc e mode opnd) s = takesOn s e a mode opnd (step { b with rcnt := v }))

/-- R86, R90, R91: sums and differences with their flags.
R86, R91: logic, and the least and greatest of two numbers, with Z and N. -/
def Obligations.ArithmeticAndLogic : Prop :=
  (∀ (s : State) (e : BitVec 7) (a : Arch) (mode : BitVec 4) (opnd : BitVec 20) (v : W64) (step : Arch → Arch),
     Ready s.m e a → classCheck .v mode opnd = none → valueIs s.m e a .add mode opnd v step →
     let b := beginArch a
     let c : Nat := if fC a.f then 1 else 0
     let x : Int := a.a.toInt
     let y : Int := v.toInt
     let res (r : W64) (carry : Bool) (i : Int) : Res :=
       takesOn s e a mode opnd (step { b with a := r, f := setZNCV a.f r carry (overflows i) })
     exec (.add e mode opnd) s = res (a.a + v) (decide (2 ^ 64 ≤ a.a.toNat + v.toNat)) (x + y) ∧
     exec (.adc e mode opnd) s = res (a.a + v + BitVec.ofNat 64 c) (decide (2 ^ 64 ≤ a.a.toNat + v.toNat + c)) (x + y + c) ∧
     exec (.sub e mode opnd) s = res (a.a - v) (decide (a.a.toNat < v.toNat)) (x - y) ∧
     exec (.sbc e mode opnd) s = res (a.a - v - BitVec.ofNat 64 c) (decide (a.a.toNat < v.toNat + c)) (x - y - c) ∧
     exec (.rsb e mode opnd) s = res (v - a.a) (decide (v.toNat < a.a.toNat)) (y - x) ∧
     exec (.cmp e mode opnd) s = takesOn s e a mode opnd (step { b with
       f := setZNCV a.f (a.a - v) (decide (a.a.toNat < v.toNat)) (overflows (x - y)) }) ∧
     exec (.tst e mode opnd) s = takesOn s e a mode opnd (step { b with f := setZN a.f (a.a &&& v) })) ∧
  (∀ (s : State) (e : BitVec 7) (a : Arch) (mode : BitVec 4) (opnd : BitVec 20) (v : W64) (step : Arch → Arch),
     Ready s.m e a → classCheck .v mode opnd = none → valueIs s.m e a .and_ mode opnd v step →
     let res (r : W64) : Res := takesOn s e a mode opnd (step { beginArch a with a := r, f := setZN a.f r })
     exec (.and_ e mode opnd) s = res (a.a &&& v) ∧
     exec (.or_ e mode opnd) s = res (a.a ||| v) ∧
     exec (.xor e mode opnd) s = res (a.a ^^^ v) ∧
     exec (.andn e mode opnd) s = res (a.a &&& ~~~v) ∧
     exec (.min_ e mode opnd) s = res (if a.a.toInt ≤ v.toInt then a.a else v) ∧
     exec (.max_ e mode opnd) s = res (if v.toInt ≤ a.a.toInt then a.a else v) ∧
     exec (.minu e mode opnd) s = res (if a.a ≤ v then a.a else v) ∧
     exec (.maxu e mode opnd) s = res (if v ≤ a.a then a.a else v))

/-- R86, R91: shifts and rotates by the operand modulo 64; C takes the last bit shifted out and stands for a count of 0.
R86, R90, R91: operations on A alone. -/
def Obligations.ShiftsAndSingleOperands : Prop :=
  (∀ (s : State) (e : BitVec 7) (a : Arch) (mode : BitVec 4) (opnd : BitVec 20) (v : W64) (step : Arch → Arch),
     Ready s.m e a → classCheck .v mode opnd = none → valueIs s.m e a .shl mode opnd v step →
     let n : Nat := v.toNat % 64
     let res (r : W64) (out : Bool) : Res :=
       takesOn s e a mode opnd (step { beginArch a with a := r, f := if n = 0 then setZN a.f r else setC (setZN a.f r) out })
     exec (.shl e mode opnd) s = res (a.a <<< n) (a.a.getLsbD (64 - n)) ∧
     exec (.shr e mode opnd) s = res (a.a >>> n) (a.a.getLsbD (n - 1)) ∧
     exec (.sar e mode opnd) s = res (a.a.sshiftRight n) (a.a.getLsbD (n - 1)) ∧
     exec (.rol e mode opnd) s = res ((a.a <<< n) ||| (a.a >>> (64 - n))) (a.a.getLsbD (64 - n)) ∧
     exec (.ror e mode opnd) s = res ((a.a >>> n) ||| (a.a <<< (64 - n))) (a.a.getLsbD (n - 1))) ∧
  (∀ (s : State) (e : BitVec 7) (a : Arch), Ready s.m e a →
     let b := beginArch a
     exec (.neg e 0 0) s = goesOn s e a { b with
       a := 0 - a.a, f := setZNCV a.f (0 - a.a) (decide (a.a ≠ 0)) (decide (a.a = BitVec.intMin 64)) } ∧
     exec (.not_ e 0 0) s = goesOn s e a { b with a := ~~~a.a, f := setZN a.f (~~~a.a) } ∧
     exec (.abs_ e 0 0) s = goesOn s e a { b with
       a := BitVec.ofNat 64 a.a.toInt.natAbs
       f := setV (setZN a.f (BitVec.ofNat 64 a.a.toInt.natAbs)) (decide (a.a = BitVec.intMin 64)) } ∧
     exec (.bswap e 0 0) s = goesOn s e a { b with
       a := BitVec.ofNat 64 (leNat ((bytesOf a.a 0 8).reverse)) } ∧
     (∃ n, exec (.clz e 0 0) s = goesOn s e a { b with a := BitVec.ofNat 64 n, f := setZ a.f (decide (n = 0)) } ∧
       n ≤ 64 ∧ (∀ i, 64 - n ≤ i → i < 64 → a.a.getLsbD i = false) ∧ (n < 64 → a.a.getLsbD (63 - n) = true)) ∧
     (∃ n, exec (.ctz e 0 0) s = goesOn s e a { b with a := BitVec.ofNat 64 n, f := setZ a.f (decide (n = 0)) } ∧
       n ≤ 64 ∧ (∀ i, i < n → a.a.getLsbD i = false) ∧ (n < 64 → a.a.getLsbD n = true)) ∧
     (exec (.popcBits e 0 0) s = goesOn s e a { b with
       a := BitVec.ofNat 64 ((List.range 64).filter fun i => a.a.getLsbD i).length
       f := setZ a.f (decide (((List.range 64).filter fun i => a.a.getLsbD i).length = 0)) }) ∧
     exec (.sext e 0 0) s = goesOn s e a { b with
       a := (a.a.setWidth 8).signExtend 64, f := setZN a.f ((a.a.setWidth 8).signExtend 64) } ∧
     exec (.sext e 0 1) s = goesOn s e a { b with
       a := (a.a.setWidth 16).signExtend 64, f := setZN a.f ((a.a.setWidth 16).signExtend 64) } ∧
     exec (.sext e 0 2) s = goesOn s e a { b with
       a := (a.a.setWidth 32).signExtend 64, f := setZN a.f ((a.a.setWidth 32).signExtend 64) })

/-- R86, R89, R90, R96: moves between the data registers, F, hints, selections by a condition of R91. -/
def Obligations.Moves : Prop :=
  ∀ (s : State) (e : BitVec 7) (a : Arch), Ready s.m e a →
    let b := beginArch a
    exec (.nop e 0 0) s = goesOn s e a b ∧
    (∀ k mode opnd, exec (.hint e k mode opnd) s = goesOn s e a b) ∧
    exec (.mfe e 0 0) s = goesOn s e a { b with a := a.e } ∧
    exec (.mte e 0 0) s = goesOn s e a { b with e := a.a } ∧
    exec (.mfm e 0 0) s = goesOn s e a { b with a := a.m } ∧
    exec (.mtm e 0 0) s = goesOn s e a { b with m := a.a } ∧
    exec (.xchg e 0 0) s = goesOn s e a { b with a := a.e, e := a.a } ∧
    (∀ opnd, exec (.lsi e 0 opnd) s = goesOn s e a { b with
      a := BitVec.ofNat 64 (a.a.toNat * 2 ^ 20 + opnd.toNat) }) ∧
    exec (.mff e 0 0) s = goesOn s e a { b with a := a.f } ∧
    (∃ f, exec (.mtf e 0 0) s = goesOn s e a { b with f := f } ∧
      ∀ i, f.getLsbD i = (a.a.getLsbD i && decide (i < 14 ∧ i ≠ 5 ∧ i ≠ 6))) ∧
    (∀ c : BitVec 4, c ≠ 15#4 → exec (.setc e 0 (c.setWidth 20)) s
      = goesOn s e a { b with a := if Machine.cond c a.f then 1 else 0 }) ∧
    (∀ c : BitVec 4, c ≠ 15#4 → exec (.selc e 0 (c.setWidth 20)) s
      = goesOn s e a { b with a := if Machine.cond c a.f then a.a else a.e }) ∧
    exec (.fence e 0 0) s = goesOn s e a b

/-- R73, R74, R93, R94: a long operation is issued with its operands, its distance and, in floating point, the rounding
mode; one that is in flight is abandoned.
R73, R86, R93: when the long operation of every lane has reached its distance, M and E take the exact integer result, the
division by zero of R93 sets DZ, and the operation is over; LOAD_DELAY_WRITE writes the value due to A (R72). -/
def Obligations.LongOperationsAndLoadDelay : Prop :=
  (∀ (s : State) (e : BitVec 7) (a : Arch) (mode : BitVec 4) (opnd : BitVec 20) (v : W64) (step : Arch → Arch),
     Ready s.m e a → classCheck .v mode opnd = none → valueIs s.m e a .mul mode opnd v step →
     let fly (opc : BitVec 8) (dist : BitVec 5) (rm : BitVec 2) (y : W64) : Arch :=
       { beginArch a with lop := opc, lopa := a.a, lopb := y, ldist := dist, lrm := rm }
     let int (opc : BitVec 8) (dist : BitVec 5) : Res := takesOn s e a mode opnd (step (fly opc dist 0 v))
     let fp (opc : BitVec 8) (dist : BitVec 5) : Res := takesOn s e a mode opnd (step (fly opc dist (fld a.f 7 2) v))
     let one (opc : BitVec 8) (dist : BitVec 5) : Res := goesOn s e a (fly opc dist (fld a.f 7 2) 0)
     exec (.mul e mode opnd) s = int 0x40 4 ∧ exec (.mulu e mode opnd) s = int 0x41 4 ∧
     exec (.mac e mode opnd) s = int 0x42 4 ∧ exec (.macu e mode opnd) s = int 0x43 4 ∧
     exec (.div e mode opnd) s = int 0x44 20 ∧ exec (.divu e mode opnd) s = int 0x45 20 ∧
     exec (.rem e mode opnd) s = int 0x46 20 ∧ exec (.remu e mode opnd) s = int 0x47 20 ∧
     exec (.fadd e mode opnd) s = fp 0x50 6 ∧ exec (.fsub e mode opnd) s = fp 0x51 6 ∧
     exec (.fmul e mode opnd) s = fp 0x52 6 ∧ exec (.fdiv e mode opnd) s = fp 0x53 24 ∧
     exec (.fsqrt e 0 0) s = one 0x54 28 ∧ exec (.fcvti e 0 0) s = one 0x55 6 ∧ exec (.fcvtf e 0 0) s = one 0x56 6 ∧
     exec (.fcvts e 0 0) s = one 0x57 6 ∧ exec (.fcvtd e 0 0) s = one 0x58 6) ∧
  (∀ (s : State) (e : BitVec 7) (r : BitVec 2), r ∈ lanesOf s.m e →
     let x := rep s.m (tileOf e) r
     (x.arch.lop ≠ 0 → x.arch.ldist.toNat ≤ 1 → ∃ t, exec (.longOpResult e) s = .next t ∧
       let y := rep t.m (tileOf e) r
       let a := x.arch.lopa
       let b := x.arch.lopb
       let em : Nat := x.arch.e.toNat * 2 ^ 64 + x.arch.m.toNat
       let is (p : BitVec 128) : Prop := y.arch.m = p.setWidth 64 ∧ y.arch.e = (p >>> 64).setWidth 64
       y.arch.lop = 0 ∧ y.arch.a = x.arch.a ∧ y.arch.pcc = x.arch.pcc ∧ y.sb = x.sb ∧
       (x.arch.lop = 0x40 → is (BitVec.ofInt 128 (a.toInt * b.toInt))) ∧
       (x.arch.lop = 0x41 → is (BitVec.ofNat 128 (a.toNat * b.toNat))) ∧
       (x.arch.lop = 0x42 → is (BitVec.ofInt 128 (em + a.toInt * b.toInt))) ∧
       (x.arch.lop = 0x43 → is (BitVec.ofNat 128 (em + a.toNat * b.toNat))) ∧
       (x.arch.lop = 0x44 → b ≠ 0 → y.arch.m = BitVec.ofInt 64 (a.toInt.tdiv b.toInt) ∧
         y.arch.e = BitVec.ofInt 64 (a.toInt.tmod b.toInt) ∧ y.arch.f = x.arch.f) ∧
       (x.arch.lop = 0x45 → b ≠ 0 → y.arch.m = BitVec.ofNat 64 (a.toNat / b.toNat) ∧
         y.arch.e = BitVec.ofNat 64 (a.toNat % b.toNat) ∧ y.arch.f = x.arch.f) ∧
       (x.arch.lop = 0x44 ∨ x.arch.lop = 0x45 → b = 0 →
         y.arch.m = 0 ∧ y.arch.e = a ∧ y.arch.f = x.arch.f ||| (1 <<< 12)) ∧
       (x.arch.lop = 0x47 → b ≠ 0 → y.arch.m = BitVec.ofNat 64 (a.toNat % b.toNat) ∧ y.arch.e = x.arch.e)) ∧
     (∀ v, x.ldue = some v → ∃ t, exec (.loadDelayWrite e) s = .next t ∧
       rep t.m (tileOf e) r = { x with arch := { x.arch with a := v }, ldue := none }))

/-- R86, R94: floating-point operations that complete at once. FCMP gives Z for equal, N for less and U for unordered, FMIN and
FMAX the smaller or larger with -0 below +0 or the canonical NaN for a NaN, and these three set NV for a signalling NaN. FNEG
and FABS change the sign bit alone, FCLASS sets the one bit of the operand's class. -/
def Obligations.FloatingPointAtOnce : Prop :=
  ∀ (s : State) (e : BitVec 7) (a : Arch) (mode : BitVec 4) (opnd : BitVec 20) (v : W64) (step : Arch → Arch),
    Ready s.m e a → classCheck .v mode opnd = none → valueIs s.m e a .fcmp mode opnd v step →
    let b := beginArch a
    let expo (x : W64) : Nat := x.toNat / 2 ^ 52 % 2048
    let frac (x : W64) : Nat := x.toNat % 2 ^ 52
    let neg (x : W64) : Bool := decide (2 ^ 63 ≤ x.toNat)
    let nan (x : W64) : Bool := decide (expo x = 2047 ∧ frac x ≠ 0)
    let quiet (x : W64) : Bool := decide (2 ^ 51 ≤ frac x)
    let un : Bool := nan a.a || nan v
    let signals : Bool := (nan a.a && !quiet a.a) || (nan v && !quiet v)
    let size (x : W64) : Nat := x.toNat % 2 ^ 63
    -- the order of the numbers, both zeros equal, and the order in which -0 lies below +0
    let num (x : W64) : Int := if neg x then -(size x) else size x
    let place (x : W64) : Int := if neg x then -(size x) - 1 else size x
    let flags : W64 := if signals then a.f ||| ((1 : W64) <<< (13 : Nat)) else a.f
    let picks (i : Instr) (first : Bool) : Prop := exec i s = takesOn s e a mode opnd (step { b with
      a := if un then 0x7FF8_0000_0000_0000 else if first then a.a else v, f := flags })
    (∃ f, exec (.fcmp e mode opnd) s = takesOn s e a mode opnd (step { b with f := f }) ∧
      ∀ i, f.getLsbD i =
        if i = 0 then !un && decide (num a.a = num v) else if i = 1 then !un && decide (num a.a < num v)
        else if i = 2 ∨ i = 3 then false else if i = 4 then un else flags.getLsbD i) ∧
    picks (.fmin e mode opnd) (decide (place a.a ≤ place v)) ∧
    picks (.fmax e mode opnd) (decide (place v ≤ place a.a)) ∧
    exec (.fneg e 0 0) s = goesOn s e a { b with a := a.a ^^^ ((1 : W64) <<< (63 : Nat)) } ∧
    exec (.fabs e 0 0) s = goesOn s e a { b with a := BitVec.ofNat 64 (size a.a) } ∧
    exec (.fclass e 0 0) s = goesOn s e a { b with a := (1 : W64) <<< ((
      if expo a.a = 2047 then (if frac a.a = 0 then (if neg a.a then 0 else 7) else if quiet a.a then 9 else 8)
      else if expo a.a = 0 then (if frac a.a = 0 then (if neg a.a then 3 else 4) else if neg a.a then 2 else 5)
      else if neg a.a then 1 else 6 : Nat)) }

/-! ### Stores and capability loads -/

/-- R66, R85, R86, R115: a store enters the store buffer of every lane with its bytes, its tag and its identity; memory
does not change before the entry is accepted. -/
def Obligations.StoresEnterTheBuffer : Prop :=
  ∀ (s : State) (e : BitVec 7) (a : Arch) (mode : BitVec 4) (opnd : BitVec 20),
    Ready s.m e a →
    let o := memOp a mode opnd
    let b := o.applyStep (beginArch a)
    let goes (i : Instr) (size : Nat) (v : Gran) (cap tag : Bool) : Prop :=
      classCheck .m mode opnd = none → storeAllowed s.m e a o size cap →
        ∃ y, exec i s = stores s e a b y ∧ storedAs y s.m e a o.addr size v cap tag
    let n8 : MemOp := ⟨3, a.s, a.s.cursor - 8, none⟩
    let n16 : MemOp := ⟨3, a.s, a.s.cursor - 16, none⟩
    goes (.sta e mode opnd) 8 (a.a.setWidth 128) false false ∧
    goes (.staw e mode opnd) 4 (a.a.setWidth 128) false false ∧
    goes (.stah e mode opnd) 2 (a.a.setWidth 128) false false ∧
    goes (.stab e mode opnd) 1 (a.a.setWidth 128) false false ∧
    goes (.ste e mode opnd) 8 (a.e.setWidth 128) false false ∧
    goes (.stz e mode opnd) 8 0 false false ∧
    goes (.stcx e mode opnd) 16 a.x.bits true a.x.tag ∧
    goes (.stcy e mode opnd) 16 a.y.bits true a.y.tag ∧
    goes (.stcd e mode opnd) 16 a.d.bits true a.d.tag ∧
    goes (.stcs e mode opnd) 16 a.s.bits true a.s.tag ∧
    (storeAllowed s.m e a n8 8 false → ∃ y,
      exec (.push e 0 0) s = stores s e a { beginArch a with s := a.s.setCursor (a.s.cursor - 8) } y ∧
      storedAs y s.m e a (a.s.cursor - 8) 8 (a.a.setWidth 128) false false) ∧
    (∀ k : BitVec 4, k.toNat ≤ 6 → storeAllowed s.m e a n16 16 true →
      let n : Arch := { beginArch a with s := a.s.setCursor (a.s.cursor - 16) }
      ∃ y, exec (.pushc e 0 (k ++ 0#16)) s = stores s e a n y ∧
        storedAs y s.m e a (a.s.cursor - 16) 16 (capReg n k).bits true (capReg n k).tag)

/-- R86, R92, R106, R112, R116: loads of capabilities with their tags, pops, and LR, from the tile's own SRAM. -/
def Obligations.CapabilityLoadsAndPops : Prop :=
  ∀ (s : State) (e : BitVec 7) (a : Arch) (mode : BitVec 4) (opnd : BitVec 20),
    Ready s.m e a →
    let b := beginArch a
    let o := memOp a mode opnd
    let top : MemOp := ⟨3, a.s, a.s.cursor, none⟩
    let cap (x : Addr) : Cap := Cap.norm
      ⟨s.m.mem.data (granOf (phys (tileOf e) x)), s.m.mem.tag (granOf (phys (tileOf e) x))⟩
    let moved (k : BitVec 4) : Arch := if o.reg = k then b else o.applyStep b
    let up (n : Addr) : Arch := { b with s := a.s.setCursor (a.s.cursor + n) }
    let c16 : BitVec 2 → Prop := fun d => classCheck .m mode opnd = none ∧ localOperand s.m e a o (.ldc d)
    (c16 0 → exec (.ldcx e mode opnd) s = loadsOn s e a { moved 0 with x := cap o.addr }) ∧
    (c16 1 → exec (.ldcy e mode opnd) s = loadsOn s e a { moved 1 with y := cap o.addr }) ∧
    (c16 2 → exec (.ldcd e mode opnd) s = loadsOn s e a { moved 2 with d := cap o.addr }) ∧
    (c16 3 → exec (.ldcs e mode opnd) s = loadsOn s e a { moved 3 with s := cap o.addr }) ∧
    (localOperand s.m e a top .pop → exec (.pop e 0 0) s
      = loadsOn s e a { up 8 with lpend := true, lval := fld (localData s.m e a.s.cursor) 0 64 }) ∧
    (∀ d : BitVec 2, localOperand s.m e a top (.popc d) → exec (.popc e 0 (d.setWidth 4 ++ 0#16)) s
      = loadsOn s e a (setCapReg (if d = 3 then b else up 16) (d.setWidth 4) (cap a.s.cursor))) ∧
    (classCheck .m mode opnd = none → localOperand s.m e a o .lr →
      exec (.lr e mode opnd) s = .next { s with m := { (s.m.retired e
          (o.applyStep { b with lpend := true, lval := fld (localData s.m e o.addr) 0 64
                                resv := some (alignG (phys (tileOf e) o.addr)) }).advance a.due false []).fed e with
        resv := (e, alignG (phys (tileOf e) o.addr)) :: s.m.resv.filter fun z => z.1 ≠ e } })

/-- R106, R107, R115: SC stores 8 bytes of A while the reservation of its granule stands, else nothing; Z tells which, and
the reservation is gone. For a target in the tile's own SRAM that reads clean. -/
def Obligations.StoreConditional : Prop :=
  ∀ (s : State) (e : BitVec 7) (a : Arch) (mode : BitVec 4) (opnd : BitVec 20),
    Ready s.m e a → classCheck .m mode opnd = none →
    let o := memOp a mode opnd
    let x := alignG (phys (tileOf e) o.addr)
    let g := granOf (phys (tileOf e) o.addr)
    let holds : Prop := a.resv = some x ∧ (e, x) ∈ s.m.resv
    checkOp ⟨s.m, e, []⟩ a o ⟨8, 8, true, false⟩ = none → region o.addr = .tileAlias → shadowArea ⟨s.m, e, []⟩ o.addr = false →
    readsClean s.m g →
    ∃ t, exec (.sc e mode opnd) s = .next t ∧
      (∀ r ∈ lanesOf s.m e, (rep t.m (tileOf e) r).arch
        = { (o.applyStep (beginArch a)).advance with f := setZ a.f (decide holds), resv := none }) ∧
      (∀ j, j ≠ g → t.m.mem.data j = s.m.mem.data j ∧ t.m.mem.tag j = s.m.mem.tag j) ∧
      (∀ i, i < 16 → byteOf (t.m.mem.data g) i
        = if holds ∧ o.addr.toNat % 16 ≤ i ∧ i < o.addr.toNat % 16 + 8 then byteOf a.a (i - o.addr.toNat % 16)
          else byteOf (s.m.mem.data g) i) ∧
      t.m.mem.tag g = (if holds then false else s.m.mem.tag g) ∧
      (∀ z ∈ t.m.resv, z.1 ≠ e) ∧ t.pending = s.pending ∧ t.fuses = s.fuses

/-! ### Capability instructions -/

/-- R118: the capability instructions, on operands that pass their checks. -/
def Obligations.CapabilityResults : Prop :=
  ∀ (s : State) (e : BitVec 7) (a : Arch) (dst src : BitVec 4) (imm : BitVec 12),
    Ready s.m e a → dst.toNat ≤ 3 → src.toNat ≤ 6 →
    let b := beginArch a
    let c := capReg a src
    let op (i : BitVec 12) : BitVec 20 := dst ++ src ++ i
    let put' (r : Cap) : Res := goesOn s e a (setCapReg b dst r.norm)
    let mine (x : Cap) : Prop := keeperCtx a.comp a.ring = true ∨ x.owner = a.comp
    let authority : Prop := a.y.tag = true ∧ a.y.kind = 0 ∧ mine a.y ∧ a.y.has rSEAL = true ∧
      a.y.base.toNat ≤ c.base.toNat ∧ c.limit ≤ a.y.limit
    exec (.pcopy e 3 (op imm)) s = put' c ∧
    (c.tag = true → c.kind = 0 → c.has rDRV = true → c.base.toNat ≤ a.a.toNat → a.a.toNat ≤ a.e.toNat → a.e.toNat ≤ c.limit →
      exec (.ptrim e 3 (op 0)) s = put' (Cap.make (a.a.setWidth 36) (a.a.setWidth 36) (a.e.setWidth 36)
        (if a.a = a.e ∧ (a.a = 0 ∨ a.a.toNat = 2 ^ 36) then 0 else c.rights) c.owner 0 true)) ∧
    (∀ mask : BitVec 8, exec (.pmask e 3 (op (mask.setWidth 12))) s
      = put' { c.setRights (c.rights &&& mask) with tag := c.tag && decide (c.kind = 0) }) ∧
    (c.tag = false ∨ c.kind = 0 →
      exec (.pstep e 3 (op imm)) s = put' (c.setCursor (c.cursor + a.a.setWidth 36 + imm.setWidth 36)) ∧
      exec (.paim e 3 (op imm)) s = put' (c.setCursor (a.a.setWidth 36))) ∧
    (authority → c.tag = true → c.kind = 0 → mine c →
      exec (.pwrap e 3 (op 0)) s = put' (c.setKind 1) ∧ exec (.pwrap e 3 (op 1)) s = put' (c.setKind 2)) ∧
    (authority → c.tag = true → c.kind = 2 → mine c →
      (exec (.punwrap e 3 (op 0)) s = put' (c.setKind 0) ∧ exec (.punwrap e 3 (op 1)) s = put' (c.setKind 0))) ∧
    (∀ v k, ([(0, c.cursor.toNat), (1, c.base.toNat), (2, c.limit), (3, c.rights.toNat), (4, c.owner.toNat), (5, c.kind.toNat),
        (6, if c.tag then 1 else 0), (7, (c.limit + (2 ^ 64 - c.base.toNat)) % 2 ^ 64)] : List (BitVec 12 × Nat)).contains (k, v)
        = true →
      exec (.pfld e 3 (0#4 ++ src ++ k)) s
        = goesOn s e a { b with a := BitVec.ofNat 64 v, f := setZ a.f (decide (v = 0)) })

/-- R118, R541: no capability instruction makes authority. What PTRIM, PMASK, PSTEP, PAIM, PWRAP or PUNWRAP place with a tag
comes from a tagged source of the same owner, has no right that the source lacks, and either no right at all or bounds within
those of the source; only PUNWRAP, on a sealed object, turns a sealed source into a usable one. -/
def Obligations.NoAuthorityIsMade : Prop :=
  ∀ (a : Arch) (opnd : BitVec 20) (f : Fx) (k : Nat) (n : Addr),
    (k = 0 ∧ ptrim opnd a = .ok f) ∨ (k = 1 ∧ pmask opnd a = .ok f) ∨ (k = 2 ∧ moveCursor opnd n a = .ok f) ∨
      (k = 3 ∧ pwrap opnd a = .ok f) ∨ (k = 4 ∧ punwrap opnd a = .ok f) →
    let c := cSrc opnd a
    ∃ d, f.arch = setCapReg a (cDst opnd) d ∧
      (d.tag = true → c.tag = true ∧ d.owner = c.owner ∧ (∀ i, i < 8 → d.has i = true → c.has i = true) ∧
        (d.rights = 0 ∨ (c.base.toNat ≤ d.base.toNat ∧ d.limit ≤ c.limit)) ∧ (c.kind ≠ 0 → k = 4 ∧ c.kind = 2))

/-! ### The flow of control -/

/-- R86, R91, R102, R103, R105, R153, R154: branches, jumps, the start of a repeat block, and fast system calls with their
return. A pending load and a long operation complete before SYSC and SYSR (R150). -/
def Obligations.JumpsAndFastCalls : Prop :=
  ∀ (s : State) (e : BitVec 7) (a : Arch) (opnd : BitVec 20),
    Ready s.m e a →
    let b := beginArch a
    let target : Addr := a.pcc.cursor + 4 * opnd.signExtend 36
    let full := completeAll { b with lpend := a.lpend }
    let settled (n : Arch) : Res := .next { s with m := s.m.retired e n none true [] }
    let ent (t : BitVec 2) : Cap := if t = 0 then a.ent0 else if t = 1 then a.ent1 else a.ent2
    let count : W64 := if opnd >>> 4 = 0 then a.a else (opnd >>> 4).setWidth 64
    (∀ c, Machine.cond c a.f = false → exec (.bcc e c 0xB opnd) s = goesOn s e a b) ∧
    (∀ c, Machine.cond c a.f = true → checkFetch a.comp a.ring a.pcc 4 target = none →
      exec (.bcc e c 0xB opnd) s = jumpsTo s e a { b with pcc := a.pcc.setCursor target }) ∧
    (checkFetch a.comp a.ring a.x 0 a.x.cursor = none → exec (.jmpx e 0 0) s = jumpsTo s e a { b with pcc := a.x }) ∧
    (count ≠ 0 → exec (.rep e 0 opnd) s = goesOn s e a { b with
      rcnt := count, rstate := 0x186 ||| ((opnd &&& 15).setWidth 64 <<< 9) ||| ((a.pcc.cursor + 4).setWidth 64 <<< 20) }) ∧
    (count = 0 → exec (.rep e 0 opnd) s = jumpsTo s e a { b with
      rcnt := 0, rstate := 0, pcc := a.pcc.setCursor (a.pcc.cursor + 4 * ((opnd &&& 15).setWidth 36 + 2)) }) ∧
    (∀ t : BitVec 2, opnd &&& 3 = t.setWidth 20 → t < a.ring → ¬(t = 0 ∧ a.ring = 3) → a.fast = false →
      (ent t).tag = true → (t ≠ 0 → (ent t).owner = a.comp) →
      exec (.sysc e 0 opnd) s = settled { full with
        link := a.pcc.setCursor (a.pcc.cursor + 4), slink := a.s, fring := a.ring, fib := a.ib, fast := true, ib := true
        ring := t, pcc := openGate (ent t), e := (opnd >>> 2).setWidth 64 }) ∧
    (a.ring.toNat ≤ 1 → a.fast = true → a.link.tag = true → a.link.kind = 0 →
      exec (.sysr e 0 0) s = settled { full with
        pcc := a.link, s := a.slink, ring := a.fring, ib := a.fib, fast := false })

/-- R96, R105, R152, R155, R162: reads and writes of the system registers, by number and by the ring that may. -/
def Obligations.SystemRegisters : Prop :=
  ∀ (s : State) (e : BitVec 7) (a : Arch), Ready s.m e a →
    let b := beginArch a
    let v : Addr := a.a.setWidth 36
    let reads (k : BitVec 20) (x : W64) : Prop := exec (.mfsr e 0 k) s = goesOn s e a { b with a := x }
    let high : Prop := a.a.toNat < 2 ^ 36
    (a.ring.toNat ≤ 1 → reads 0 (a.tsbr.setWidth 64)) ∧
    (a.ring = 0 → reads 1 (a.ssp.setWidth 64) ∧ reads 2 (a.ent0.cursor.setWidth 64) ∧
      reads 3 (a.ent1.cursor.setWidth 64) ∧ reads 4 (a.ent2.cursor.setWidth 64)) ∧
    reads 5 a.rstate ∧
    (a.ring = 0 → high → tsbrOk v = true → exec (.mtsr e 0 0) s = goesOn s e a { b with tsbr := v, exl := false }) ∧
    (a.ring = 0 → high → v.toNat % 16 = 0 →
      0x1003_8000 + 0x1000 * (posOf e).toNat ≤ v.toNat → v.toNat ≤ 0x1003_9000 + 0x1000 * (posOf e).toNat →
      exec (.mtsr e 0 1) s = goesOn s e a { b with ssp := v }) ∧
    (a.ring = 0 → exec (.mtsr e 0 2) s = goesOn s e a { b with ent0 := a.pcc.setCursor v } ∧
      exec (.mtsr e 0 3) s = goesOn s e a { b with ent1 := a.pcc.setCursor v } ∧
      exec (.mtsr e 0 4) s = goesOn s e a { b with ent2 := a.pcc.setCursor v } ∧
      exec (.mtsr e 0 5) s = goesOn s e a { b with rstate := a.a &&& 0x00FF_FFFF_FFF1_FFFF })

/-- R86, R156: CALL and CALLX put the return capability on S, through the store buffer, and on the shadow stack, and jump;
RET takes it from both and goes there. For S in the tile's own SRAM where it is read. -/
def Obligations.CallAndReturn : Prop :=
  ∀ (s : State) (e : BitVec 7) (a : Arch), Ready s.m e a →
    let b := beginArch a
    let ret := a.pcc.setCursor (a.pcc.cursor + 4)
    let n : MemOp := ⟨3, a.s, a.s.cursor - 16, none⟩
    let g := granOf (phys (tileOf e) (a.ssp - 16))
    let called (i : Instr) (dest : Cap) (reg : BitVec 4) : Prop :=
      storeAllowed s.m e a n 16 true → checkFetch a.comp a.ring dest reg dest.cursor = none →
      0x1003_8010 + 0x1000 * (posOf e).toNat ≤ a.ssp.toNat →
      ∃ t y ok, exec i s = .next t ∧ storedAs y s.m e a (a.s.cursor - 16) 16 ret.bits true ret.tag ∧
        (∀ r ∈ lanesOf s.m e, rep t.m (tileOf e) r = { rep s.m (tileOf e) r with
          arch := { b with s := a.s.setCursor (a.s.cursor - 16), ssp := a.ssp - 16, pcc := dest }
          ldue := a.due, prefetch := (rep t.m (tileOf e) r).prefetch, sb := [{ y with issued := some ok }] }) ∧
        t.m.mem = s.m.mem.putGran g ret.bits ret.tag false ∧
        t = { s with m := { s.m with
          tiles := t.m.tiles, engines := t.m.engines, mc := t.m.mc, resv := t.m.resv, mem := t.m.mem } }
    (∀ opnd, called (.call e 0xB opnd) (a.pcc.setCursor (a.pcc.cursor + 4 * opnd.signExtend 36)) 4) ∧
    called (.callx e 0 0) a.x 0 ∧
    (localOperand s.m e a ⟨3, a.s, a.s.cursor, none⟩ .ret →
      let top := granOf (phys (tileOf e) a.ssp)
      let on := granOf (phys (tileOf e) a.s.cursor)
      readsClean s.m top → 0x1000_0000 ≤ a.ssp.toNat → a.ssp.toNat + 16 ≤ 0x1003_9000 + 0x1000 * (posOf e).toNat →
      s.m.mem.data top = s.m.mem.data on → s.m.mem.tag top = s.m.mem.tag on →
      ¬(s.m.mem.tag top = false ∧ s.m.mem.data top >>> 120 = 0xF1) →
      let n : Arch := { b with
        s := a.s.setCursor (a.s.cursor + 16), ssp := a.ssp + 16, pcc := ⟨s.m.mem.data on, s.m.mem.tag on⟩ }
      exec (.ret e 0 0) s = .next { s with m := (s.m.retired e n a.due true []).fed e })

/-- R146 to R150: GCALL through a gate into another compartment or ring, and GRET back through the frame; a slot frame ends
the slot. A pending load and a long operation complete first. -/
def Obligations.GateCallAndReturn : Prop :=
  ∀ (s : State) (e : BitVec 7) (a : Arch), Ready s.m e a →
    let full := completeAll { beginArch a with lpend := a.lpend }
    let ret := a.pcc.setCursor (a.pcc.cursor + 4)
    let t := gateRing a.x
    let into := granOf (phys (tileOf e) (stkGran a.x.owner t))
    let home := granOf (phys (tileOf e) (stkGran a.comp a.ring))
    let k1 := granOf (phys (tileOf e) (a.ssp - 16))
    let k2 := granOf (phys (tileOf e) (a.ssp - 32))
    let stack : Cap := Cap.norm ⟨s.m.mem.data into, s.m.mem.tag into⟩
    (gateCheck a.x = none → sharedOpen s.m e a.comp → ¬(a.x.owner = a.comp ∧ t = a.ring) → 0x1003_8020 + 0x1000 * (posOf e).toNat ≤ a.ssp.toNat →
      readsClean s.m into → stack.tag = true → stack.kind = 0 → stack.owner = a.x.owner →
      ∃ u, exec (.gcall e 0 0) s = .next u ∧
        (∀ r ∈ lanesOf s.m e, (rep u.m (tileOf e) r).arch = { full with
          pcc := openGate a.x, ring := t, s := stack, ssp := a.ssp - 32
          f := 0, fast := false, fib := false, ib := decide (t.toNat < 2) }) ∧
        u.m.mem = ((s.m.mem.putGran home a.s.bits a.s.tag false).putGran k1 ret.bits ret.tag false).putGran k2
          (gateFrame full) false false) ∧
    (let top := granOf (phys (tileOf e) a.ssp)
      let frame := s.m.mem.data top
      readsClean s.m top → s.m.mem.tag top = false → frame >>> 120 = 0xF1 → 0x1000_0000 ≤ a.ssp.toNat →
      a.ssp.toNat + 16 ≤ 0x1003_9000 + 0x1000 * (posOf e).toNat →
      (frame.getLsbD 6 = true → exec (.gret e 0 0) s
        = .next { s with m := pumped e (endSlot e (s.m.retired e full none true [])) }) ∧
      (let below := granOf (phys (tileOf e) (a.ssp + 16))
        let back : Cap := Cap.norm ⟨s.m.mem.data below, s.m.mem.tag below⟩
        let r : BitVec 2 := frame.setWidth 2
        let kept := granOf (phys (tileOf e) (stkGran back.owner r))
        let other : Bool := decide (back.owner ≠ a.comp)
        frame.getLsbD 6 = false → sharedOpen s.m e a.comp → a.ssp.toNat + 32 ≤ 0x1003_9000 + 0x1000 * (posOf e).toNat →
        readsClean s.m below → readsClean s.m kept →
        ∃ u f, exec (.gret e 0 0) s = .next u ∧
          (∀ i, f.getLsbD i = if i < 5 then full.f.getLsbD i
            else decide (7 ≤ i ∧ i < 14) && frame.getLsbD (8 + i)) ∧
          (∀ x ∈ lanesOf s.m e, (rep u.m (tileOf e) x).arch = { full with
            pcc := back, s := Cap.norm ⟨s.m.mem.data kept, s.m.mem.tag kept⟩, ssp := a.ssp + 32, ring := r
            ib := frame.getLsbD 2, fast := frame.getLsbD 3, fring := (frame >>> 4).setWidth 2, fib := frame.getLsbD 7
            f := f
            x := if other then Cap.null else a.x, y := if other then Cap.null else a.y
            d := if other then Cap.null else a.d }) ∧
          u.m.mem = s.m.mem.putGran home a.s.bits a.s.tag false))

/-! ### Exceptions -/

/-- R86 to R88, R158, R163 to R168, R474: software traps, breakpoints that no session claims, blank memory, undefined opcodes,
encodings that R82 refuses and instructions that the ring may not run enter their exceptions. -/
def Obligations.ExceptionsAreTaken : Prop :=
  ∀ (s : State) (e : BitVec 7) (a : Arch) (mode : BitVec 4) (opnd : BitVec 20),
    Ready s.m e a → canEnter s.m e a →
    let takes (i : Instr) (vec : BitVec 6) (cause : BitVec 8) : Prop :=
      ∃ t, exec i s = .next t ∧ Entered s e a ⟨vec, cause, 0, 0⟩ t
    (∀ code : BitVec 8, takes (.trap e 0 (code.setWidth 20)) 0x09 code) ∧
    (∀ code : BitVec 8, bkptClaimed s.m a.comp = false → takes (.bkpt e 0 (code.setWidth 20)) 0x0A code) ∧
    takes (.blankMemoryZeroed e mode opnd) 0x03 0x01 ∧
    takes (.blankMemoryErased e mode opnd) 0x03 0x02 ∧
    (∀ opc : BitVec 8, ¬(opc.toNat ≤ 0x47) → ¬(0x50 ≤ opc.toNat ∧ opc.toNat ≤ 0x5E) → ¬(0x60 ≤ opc.toNat ∧ opc.toNat ≤ 0x87) →
      ¬(0x90 ≤ opc.toNat ∧ opc.toNat ≤ 0x9B) → ¬(0xA0 ≤ opc.toNat ∧ opc.toNat ≤ 0xA3) →
      ¬(0xE0 ≤ opc.toNat ∧ opc.toNat ≤ 0xE7) → opc ≠ 0xFF → takes (.undefinedOpcode e opc mode opnd) 0x02 0x01) ∧
    (takes (.add e 15 opnd) 0x02 0x02 ∧ takes (.sta e 15 opnd) 0x02 0x02 ∧ takes (.nop e 15 opnd) 0x02 0x02) ∧
    (mode ≠ 0 → mode ≠ 15 → takes (.nop e mode opnd) 0x02 0x03 ∧ takes (.lsi e mode opnd) 0x02 0x03) ∧
    (mode.toNat < 4 → takes (.sta e mode opnd) 0x02 0x03 ∧ takes (.ldcx e mode opnd) 0x02 0x03) ∧
    (opnd ≠ 0 → takes (.fence e 0 opnd) 0x02 0x04) ∧
    (a.ring ≠ 0 → takes (.cinv e 0 0) 0x04 0x01 ∧ takes (.rinv e 0 0) 0x04 0x01 ∧ takes (.mtsr e 0 2) 0x04 0x01) ∧
    (1 < a.ring.toNat → takes (.wfi e 0 0) 0x04 0x01 ∧ takes (.eret e 0 0) 0x04 0x01)

/-- R168, R169: an exception entry followed by ERET at its handler gives every lane back the registers from before the
instruction. Outside WAKE and HARDPAN, with a block that holds a legal PCC and with no error in a fetched line; the places that the spec gives no value to
(LVAL, LOPA and LOPB with nothing pending) may differ, and the reservation is gone. -/
def Obligations.ExceptionThenReturn : Prop :=
  ∀ (s : State) (e : BitVec 7) (a : Arch) (code : BitVec 8),
    Ready s.m e a → canEnter s.m e a →
    s.m.mode.mode ≠ .wake → s.m.mode.mode ≠ .hardpan → (s.m.engines.get e).undo.length < 200 →
    (∀ y ∈ (s.m.engines.get e).lineBuf, y.bad = Tbl.all 2 0) → (∀ y ∈ (s.m.tiles.get (tileOf e)).icache, y.bad = Tbl.all 2 0) →
    a.pcc.kind = 0 → (∀ c ∈ [a.s, a.x, a.y, a.d, a.link, a.slink], c.norm = c) →
    a.f &&& fMask = a.f → a.rstate &&& rstateMask = a.rstate →
    ∃ t u n, exec (.trap e 0 (code.setWidth 20)) s = .next t ∧ exec (.eret e 0 0) t = .next u ∧
      (∀ r ∈ lanesOf s.m e, (rep u.m (tileOf e) r).arch = n) ∧
      n = { a with lval := n.lval, lopa := n.lopa, lopb := n.lopb, resv := none } ∧
      (a.lpend = true → n.lval = a.lval) ∧ (a.lop ≠ 0 → n.lopa = a.lopa ∧ n.lopb = a.lopb)

/-! ### Reads of the module, waits, invalidations, breakpoints -/

/-- R86, R108: TICKR, TPOS, BUDG and WHO bring the tick number, the channel clocks since the edge, the clocks left of the
budget, and the engine's identity, where no lane takes the moment late and nothing strikes the path. -/
def Obligations.ReadsOfTheModule : Prop :=
  ∀ (s : State) (e : BitVec 7) (a : Arch) (x : Exchange), Ready s.m e a →
    x.parity = false → (liveCode s.m e = 4 → x.late = 0 ∧ x.agr = 0) →
    let reads (i : Instr) (n : Nat) : Prop := exec i s = loadsOn s e a { beginArch a with a := BitVec.ofNat 64 n }
    reads (.tickr e 0 0 x) s.m.tick.count.toNat ∧
    reads (.tpos e 0 0 x) (s.m.clk - s.m.tick.edgeAt) ∧
    (∀ r, (s.m.engines.get e).cur = some r →
      reads (.budg e 0 0 x) (r.start + r.slot.budget.toNat * 512 / 5 - s.m.clk)) ∧
    reads (.who e 0 0 x)
      (e.toNat + a.comp.toNat * 2 ^ 8 + a.ring.toNat * 2 ^ 24 + (liveCode s.m e).toNat * 2 ^ 28)

/-- R63, R86, R179, R265, R474: WFI waits; CINV and RINV empty the caches of the own tile or of all (RINV with no store in flight); a BKPT that the session
claims asks for a halt with cause 6 and goes on to the boundary after it (that PCC stands after it is a choice of the model, log entry 48). -/
def Obligations.WaitsAndInvalidations : Prop :=
  ∀ (s : State) (e : BitVec 7) (a : Arch), Ready s.m e a →
    let m := s.m.retired e (beginArch a).advance a.due false []
    let gives (i : Instr) (n : Mach) : Prop := exec i s = .next { s with m := n }
    (a.ring.toNat ≤ 1 → gives (.wfi e 0 0) (modEng e (fun g => { g with act := .wfi }) m)) ∧
    (a.ring = 0 →
      gives (.cinv e 0 0) (modTile (tileOf e) (fun t => { t with icache := [] }) m) ∧
      gives (.cinv e 0 1) { m with tiles := m.tiles.map fun t => { t with icache := [] } } ∧
      (s.m.emptied →
        gives (.rinv e 0 0) (modTile (tileOf e) (fun t => { t with rcache := [] }) m) ∧
        gives (.rinv e 0 1) { m with
          tiles := m.tiles.map fun t => { t with rcache := [] }, mc := { m.mc with portCaches := Tbl.all 2 [] } })) ∧
    (∀ code : BitVec 8, bkptClaimed s.m a.comp = true → ∃ t, exec (.bkpt e 0 (code.setWidth 20)) s = .next t ∧
      (t.m.dbg.engs.get e).want = true ∧ (t.m.dbg.engs.get e).wantCause = 6 ∧
      (∀ r ∈ lanesOf s.m e, (rep t.m (tileOf e) r).arch = (beginArch a).advance) ∧
      t.m.mem = s.m.mem ∧ t.pending = s.pending ∧ t.fuses = s.fuses)

/-! ### String instructions and repeat blocks -/

/-- R98, R99: a string instruction begins, with its number in RSTATE; with RCNT = 0 it is complete at once. (Z = 1, N = C = 0
of CMPS and Z = 0 of SCANS with nothing to compare are choices of the model, log entry 15.)
R98, R99: one step of FILLS, which stores as many bytes of A as fit into the granule, and one step of SCANS, which goes on
to the byte that A names. An engine in a string instruction is one that would stand ready if it ran. -/
def Obligations.StringInstructions : Prop :=
  (∀ (s : State) (e : BitVec 7) (a : Arch), Ready s.m e a →
     let begins (i : Instr) (opc : BitVec 8) : Prop := exec i s = .next { s with
       m := modEng e (fun g => { g with act := .string opc })
         (mapLanes e (fun r => { r with arch := { a with rstate := 0x100 ||| opc.setWidth 64 } }) s.m) }
     let done (i : Instr) (f : W64) : Prop := exec i s = goesOn s e a { beginArch a with rstate := 0, f := f }
     (a.rcnt ≠ 0 → begins (.movs e 0 0) 0x80 ∧ begins (.fills e 0 0) 0x81 ∧ begins (.cmps e 0 0) 0x82 ∧
       begins (.scans e 0 0) 0x83 ∧ begins (.crcs e 0 0) 0x85 ∧
       (a.x.cursor.toNat % 16 = 0 → a.y.cursor.toNat % 16 = 0 → a.rcnt.toNat % 16 = 0 → begins (.movc e 0 0) 0x84)) ∧
     (a.rcnt = 0 → done (.movs e 0 0) a.f ∧ done (.fills e 0 0) a.f ∧ done (.movc e 0 0) a.f ∧ done (.crcs e 0 0) a.f ∧
       done (.cmps e 0 0) (setC (setN (setZ a.f true) false) false) ∧ done (.scans e 0 0) (setZ a.f false))) ∧
  (∀ (s : State) (e : BitVec 7) (a : Arch) (h0 h1 h2 h3 : BitVec 128),
     Ready (modEng e (fun g => { g with act := .run }) s.m) e a → 0 < a.rcnt.toNat →
     let b := beginArch a
     let ran := modEng e (fun g => { g with act := .run }) s.m
     let steps (m : Mach) : Prop := exec (.stringStep e h0 h1 h2 h3) s = .next { s with m := m }
     (let n := min a.rcnt.toNat (16 - a.x.cursor.toNat % 16)
       let o : MemOp := ⟨0, a.x, a.x.cursor, none⟩
       let left : Arch := { b with
         x := a.x.setCursor (a.x.cursor + BitVec.ofNat 36 n), rcnt := a.rcnt - BitVec.ofNat 64 n }
       (s.m.engines.get e).act = .string 0x81 → checkOp ⟨s.m, e, []⟩ a o ⟨n, 1, true, false⟩ = none →
       (Ctx.span ⟨s.m, e, []⟩ && inOutputRecord a.x.cursor) = false →
       ∃ y v, storedAs y s.m e a a.x.cursor n v false false ∧
         (∀ i, i < n → byteOf v i = byteOf a.a ((a.x.cursor.toNat + i) % 8)) ∧
         (a.rcnt.toNat = n → steps (issueSb e (ran.retired e { left with rstate := 0 }.advance a.due false [y])).2) ∧
         (n < a.rcnt.toNat → steps (issueSb e (s.m.stepped e { left with lpend := a.lpend } [y])).2)) ∧
     (let n := min a.rcnt.toNat (16 - a.y.cursor.toNat % 16)
       let o : MemOp := ⟨1, a.y, a.y.cursor, none⟩
       let at' (j : Nat) : Arch := { b with
         y := a.y.setCursor (a.y.cursor + BitVec.ofNat 36 j), rcnt := a.rcnt - BitVec.ofNat 64 j }
       let same (i : Nat) : Prop := byteOf (localData s.m e a.y.cursor) i = byteOf a.a 0
       (s.m.engines.get e).act = .string 0x83 → checkOp ⟨s.m, e, []⟩ a o ⟨n, 1, false, false⟩ = none →
       shadowArea ⟨s.m, e, []⟩ a.y.cursor = false → region a.y.cursor = .tileAlias →
       readsClean s.m (granOf (phys (tileOf e) a.y.cursor)) →
       (∀ j, j < n → same j → (∀ i, i < j → ¬ same i) →
         steps ((ran.retired e { at' j with rstate := 0, f := setZ a.f true }.advance a.due false []).fed e)) ∧
       ((∀ i, i < n → ¬ same i) →
         (a.rcnt.toNat = n → steps ((ran.retired e { at' n with rstate := 0, f := setZ a.f false }.advance a.due false []).fed e)) ∧
         (n < a.rcnt.toNat → steps ((s.m.stepped e { at' n with lpend := a.lpend } []).fed e)))))

/-- R75, R104, R105: at the end of an iteration, which counts as one instruction, RCNT counts down; the body begins anew at its start, or the block ends. -/
def Obligations.RepeatIterations : Prop :=
  ∀ (s : State) (e : BitVec 7) (a : Arch), canRun s.m e = true → undebugged s.m e → lanesOf s.m e ≠ [] →
    (∀ r ∈ lanesOf s.m e, let x := rep s.m (tileOf e) r; x.arch = a ∧ x.ldue = none ∧ x.repEnd = true) →
    let ends (n : Arch) : Prop := exec (.repeatIterationEnd e) s = .next { s with
      m := modEng e (fun g => { g with cur := g.cur.map fun r => { r with count := r.count + 1 } })
        (mapLanes e (fun r => { r with arch := n, repEnd := false, ldue := a.due }) s.m) }
    let b := beginArch a
    (a.rcnt = 1 → ends { b with rcnt := 0, rstate := 0 }) ∧
    (a.rcnt ≠ 1 → ends { b with
      rcnt := a.rcnt - 1, rstate := a.rstate &&& ~~~0x1_E000, pcc := a.pcc.setCursor ((a.rstate >>> 20).setWidth 36) })

/-! ### What happens to an engine between instructions -/

/-- R67, R70, R115, R155: the oldest store reaches the tile's own SRAM: the bytes that it names change and no other, the
granule's tag is that of a whole 16-byte store; into the shadow stacks it is dropped with notice cause 5. For an engine whose
lanes hold the one entry alike.
R64, R65, R72, R187: the data of a load of shared SRAM that the fence map permits reaches every lane, which goes on with the
value pending; a load of a host window that is not answered in 100 µs ends in vector 0x06 with cause 0x06. -/
def Obligations.MemoryTransactions : Prop :=
  (∀ (s : State) (e : BitVec 7) (y : SbEntry) (parity : Bool), lanesOf s.m e ≠ [] → (s.m.engines.get e).act ≠ .bisque →
     (∀ r ∈ lanesOf s.m e, (rep s.m (tileOf e) r).sb = [y]) → s.m.watch.resetWanted = none →
     y.issued ≠ some false → (s.m.watch.wd.get e).due = false → (parity = true → (lanesOf s.m e).length = 1) →
     region y.gran = .tileAlias → y.mask ≠ 0 →
     let g := granOf (phys (tileOf e) y.gran)
     let inShadow : Prop := 0x3_8000 ≤ y.gran.toNat % 2 ^ 18 ∧ y.gran.toNat % 2 ^ 18 < 0x3_C000
     ∃ t, exec (.storeAccept e parity) s = .next t ∧
       (∀ r ∈ lanesOf s.m e, rep t.m (tileOf e) r = { rep s.m (tileOf e) r with sb := [] }) ∧
       t.pending = s.pending ∧ t.fuses = s.fuses ∧
       (inShadow → t.m.mem = s.m.mem ∧ (s.m.faults.queue.length < 64 →
         ∃ v, t.m.faults.queue = s.m.faults.queue ++ [v] ∧ v.code = 0x0207 ∧ v.time = s.m.clk)) ∧
       (¬ inShadow → readsClean s.m g →
         (∀ i, i < 16 → byteOf (t.m.mem.data g) i
           = if y.mask.getLsbD i then byteOf y.data i else byteOf (s.m.mem.data g) i) ∧
         t.m.mem.tag g = (decide (y.mask = 0xFFFF) && y.tag) ∧
         (∀ j, j ≠ g → t.m.mem.data j = s.m.mem.data j ∧ t.m.mem.tag j = s.m.mem.tag j))) ∧
  (∀ (s : State) (e : BitVec 7) (a : Arch) (l : FabLoad) (host : BitVec 128) (lane : BitVec 2),
     (s.m.engines.get e).act = .load l → Ready (modEng e (fun g => { g with act := .run }) s.m) e a →
     (l.op = .lda → (memOp a l.mode l.opnd).addr = l.addr → region l.addr = .shared → readsClean s.m (granOf l.addr) →
       l.addr.toNat % 8 = 0 →
       (fenceCheck (.tile (tileOf e)) (.ring a.comp a.ring) l.addr false s.m).1 = true →
       ∃ t, exec (.loadResponse e host ⟨false, lane, 0⟩) s = .next t ∧ (t.m.engines.get e).act = .run ∧
         (∀ r ∈ lanesOf s.m e, let y := rep t.m (tileOf e) r
           y.arch = ((memOp a l.mode l.opnd).applyStep { beginArch a with
             lpend := true
             lval := BitVec.ofNat 64 ((s.m.mem.data (granOf l.addr)).toNat / 2 ^ (8 * (l.addr.toNat % 16))) }).advance ∧
           y.ldue = a.due ∧ y.sb = []) ∧
         t.m.mem = s.m.mem ∧ t.pending = s.pending ∧ t.fuses = s.fuses) ∧
     (region l.addr = .hostWin → canEnter s.m e a → ∃ t, exec (.hostWindowTimeout e) s = .next t ∧
       Entered { s with m := modEng e (fun g => { g with act := .run }) s.m } e a ⟨0x06, 0x06, 0, l.addr⟩ t))

/-- R60 to R62, R107: a line fill within PCC's limit brings its 64 bytes into the tile's instruction cache; an engine's
reservation lapses. -/
def Obligations.LineFillsAndLapses : Prop :=
  ∀ (s : State) (e : BitVec 7) (x : Addr),
    let g := granOf (phys (tileOf e) (x &&& ~~~63))
    (s.m.mode.mode ≠ .dormant → validEngine s.m e = true → region x = .tileAlias →
        (∃ r l, (lanesOf s.m e).head? = some r ∧ l = (rep s.m (tileOf e) r).arch.pcc.limit ∧ x.toNat / 64 * 64 < l) →
        (∀ k, k < 4 → readsClean s.m (g + k)) → ∃ t, exec (.lineFill e x 0) s = .next t ∧
          (⟨(x >>> 6).setWidth 30, s.m.mem.data (g + 3) ++ s.m.mem.data (g + 2) ++ s.m.mem.data (g + 1) ++ s.m.mem.data g,
            Tbl.all 2 0⟩ : ICLine) ∈ (t.m.tiles.get (tileOf e)).icache ∧
          t.m.mem = s.m.mem ∧ (∀ r, (rep t.m (tileOf e) r).arch = (rep s.m (tileOf e) r).arch)) ∧
    (∃ t, exec (.reservationExpire e) s = .next t ∧ (∀ z ∈ t.m.resv, z.1 ≠ e) ∧
      (∀ r ∈ lanesOf s.m e, rep t.m (tileOf e) r
        = { rep s.m (tileOf e) r with arch := { (rep s.m (tileOf e) r).arch with resv := none } }) ∧
      (∀ z ∈ s.m.resv, z.1 ≠ e → z ∈ t.m.resv) ∧ t.m.mem = s.m.mem)

/-- R166, R167, R176, R177, R179: an interrupt enters its vector at a boundary, the lowest vector first, and is pending no
more; a WFI ends when one becomes pending, and enters it where IB = 0. By an engine of lowest number among those that could
take it. -/
def Obligations.InterruptsAreTaken : Prop :=
  ∀ (s : State) (e : BitVec 7) (a : Arch) (x : Exchange),
    Ready (modEng e (fun g => { g with act := .run }) s.m) e a → canEnter s.m e a →
    (s.m.engines.get e).notices = [] → (s.m.engines.get e).budgetPend = false →
    (∀ r, (s.m.engines.get e).cur = some r → r.slot.span = false) →
    x.parity = false → (liveCode s.m e = 4 → x.agr = 0 ∧
      ∀ r, (s.m.engines.get e).cur = some r → 0 < r.count ∧ r.count % 256 = 0) →
    ((s.m.engines.get e).cur ≠ none ∨ s.m.mode.mode = .wake ∨ s.m.mode.mode = .hardpan) →
    (∀ k : BitVec 7, k < e → ∀ r, (lanesOf s.m k).head? = some r → (rep s.m (tileOf k) r).arch.comp ≠ a.comp) →
    let running := modEng e (fun g => { g with act := .run }) s.m
    let cleared (b : Nat) : State := { s with m := { running with
      ints := s.m.ints.upd a.comp fun x => x &&& ~~~((1 : BitVec 4) <<< b) } }
    let first (b : Nat) : Prop := (s.m.ints.get a.comp).getLsbD b = true ∧
      ∀ k, k < b → (s.m.ints.get a.comp).getLsbD k = false
    let vec (b : Nat) : BitVec 6 := if b = 3 then 0x15 else BitVec.ofNat 6 (0x11 + b)
    let enters (i : Instr) (b : Nat) : Prop := ∃ t, exec i s = .next t ∧ Entered (cleared b) e a ⟨vec b, 0, 0, 0⟩ t
    (∀ b, b < 4 → first b → a.ib = false →
      ((s.m.engines.get e).act = .run → enters (.interruptEntry e x) b) ∧
      ((s.m.engines.get e).act = .wfi → enters (.wfiWake e x) b)) ∧
    (∀ b, b < 4 → first b → a.ib = true →
      ((s.m.engines.get e).act = .wfi → exec (.wfiWake e x) s = .next { s with m := running }))

/-! ### Bisques, slots and recovery -/

/-- R206 to R213: a bisque writes both copies of the record with the next generation and empties the undo log, at the start of
a slot and where one is forced. -/
def Obligations.BisquesAreTaken : Prop :=
  ∀ (s : State) (e : BitVec 7) (a : Arch) (u : BisqueUpset), lanesOf s.m e ≠ [] →
    (∀ r ∈ lanesOf s.m e, (rep s.m (tileOf e) r).quiet a) → a.lop = 0 ∨ 1 < a.ldist.toNat →
    let g := s.m.engines.get e
    let copy (pos : BitVec 6) (forced bad : Bool) : BisqueCopy := ⟨a, g.copy0.gen + 1, pos, forced, bad⟩
    (∀ r, g.act = .bisque → g.cur = some r → g.todo = [] → ∃ t, exec (.bisque e u) s = .next t ∧
      (t.m.engines.get e).copy0 = copy r.slot.pos false u.bad0 ∧ (t.m.engines.get e).copy1 = copy r.slot.pos false u.bad1) ∧
    (∀ r, g.forcedDue = true ∨ (isPair (liveCode s.m e) (posOf e) = true ∧ 216 ≤ g.undo.length) → canRun s.m e = true → g.act = .run → g.cur = some r →
      ∃ t, exec (.forcedBisque e) s = .next t ∧
        (t.m.engines.get e).copy0 = copy r.slot.pos true false ∧ (t.m.engines.get e).copy1 = copy r.slot.pos true false ∧
        (t.m.engines.get e).undo = [] ∧ (t.m.engines.get e).forcedDue = false ∧ t.m.mem = s.m.mem)

/-- R151: a slot begins with the registers that its gate, its stack and its argument give; TSBR and ENT0 stay. For a
compartment's gate table in shared SRAM that reads clean, by a slot that is no span member.
R33 to R37, R176: at the end of its budget a slot ends: its commit marks are gone, the engine's overruns are counted, the
position is named, and the engine is idle where the list is at its end; 5 µs before, the budget warning is pending. -/
def Obligations.SlotsAndBudgets : Prop :=
  (∀ (s : State) (e : BitVec 7) (a : Arch) (r : Run) (u : BisqueUpset), lanesOf s.m e ≠ [] →
     (∀ k ∈ lanesOf s.m e, (rep s.m (tileOf e) k).quiet a) →
     let g := s.m.engines.get e
     g.act = .bisque → g.cur = some r → r.slot.span = false → sharedOpen s.m e r.slot.comp →
     let held (x : Addr) : Cap := Cap.norm ⟨s.m.mem.data (granOf x), s.m.mem.tag (granOf x)⟩
     let clean (x : Addr) : Prop := readsClean s.m (granOf x)
     let entry (k : Nat) : Addr := 0x40F6_0000 + BitVec.ofNat 36 (128 * r.slot.comp.toNat + 16 * k)
     let table := held (entry 0)
     let at' := table.base + BitVec.ofNat 36 (16 * r.slot.gate.toNat)
     let gate := held at'
     let ring : BitVec 2 := gate.cursor.setWidth 2 + 1
     let named (k : Nat) : Cap := if (held (entry k)).tag then held (entry k) else Cap.null
     clean (entry 0) → clean at' → (∀ k, k < 7 → clean (entry k)) → region at' = .shared →
     table.tag = true → table.has rRD = true → table.has rLDC = true →
     table.base.toNat + 16 * r.slot.gate.toNat + 16 ≤ table.limit →
     gateCheck gate = none → gate.owner = r.slot.comp → (held (entry (1 + ring.toNat))).tag = true →
     ∃ t, exec (.bisque e u) s = .next t ∧ (t.m.engines.get e).act = .run ∧
       (∀ k ∈ lanesOf s.m e, (rep t.m (tileOf e) k).arch = { a with
         pcc := (gate.setKind 0).setCursor (gate.cursor &&& ~~~3), ring := ring, s := held (entry (1 + ring.toNat))
         a := r.slot.arg.setWidth 64, e := 0, m := 0, f := 0, rcnt := 0, rstate := 0
         x := Cap.null, y := Cap.null, d := Cap.null, link := Cap.null, slink := Cap.null
         ent1 := named 5, ent2 := named 6, ib := decide (ring.toNat < 2), exl := false, dfl := false, fast := false
         fring := 0, fib := false, ssp := 0x1003_8FF0 + 0x1000 * (posOf e).setWidth 36
         lpend := false, lval := 0, lop := 0, lopa := 0, lopb := 0, ldist := 0, lrm := 0, resv := none })) ∧
  (∀ (s : State) (e : BitVec 7) (r : Run), (s.m.engines.get e).cur = some r → r.begun = true →
     (s.m.engines.get e).halted = false → tickRuns s.m = true →
     let word (m : Mach) (o : Nat) : Nat :=
       ((m.mem.data ((0x40F4_0000 + 128 * e.toNat + o) / 16)).toNat / 2 ^ (8 * (o % 16))) % 2 ^ 32
     ((s.m.engines.get e).todo = [] → s.m.tick.copied = 128 → ∃ t, exec (.slotBudgetExpire e) s = .next t ∧
       (t.m.engines.get e).cur = none ∧ (t.m.engines.get e).act = .idle ∧
       s.m.clk ≤ t.m.clk ∧ r.start + r.slot.budget.toNat * 512 / 5 ≤ t.m.clk ∧
       (∀ c, (t.m.marks.get c).1 ≠ some (e, r.slot.pos) ∧ (t.m.marks.get c).2 ≠ some (e, r.slot.pos)) ∧
       ((∀ k, k < 8 → readsClean s.m ((0x40F4_0000 + 128 * e.toNat) / 16 + k)) →
         word t.m 0x40 = min (word s.m 0x40 + 1) (2 ^ 32 - 1) ∧
         word t.m 0x50 = t.m.tick.count.toNat % 2 ^ 32 ∧ word t.m 0x54 = t.m.tick.count.toNat / 2 ^ 32 ∧
         word t.m 0x58 % 256 = r.slot.pos.toNat)) ∧
     (20 < r.slot.budget.toNat → r.warned = false → ∃ t, exec (.budgetWarning e) s = .next t ∧
       (t.m.engines.get e).budgetPend = true ∧ s.m.clk ≤ t.m.clk ∧
       r.start + (r.slot.budget.toNat - 5) * 512 / 5 ≤ t.m.clk ∧ (s.m.tick.copied = 128 → t.m.mem = s.m.mem)))

/-- R215 to R217, R222: after an unwind, the slot goes on if this is its first recovery and the time left is at least the time
lost, else it has failed, and its commit marks are gone; so it does, with the persistent-mismatch fault, where the state read
back differs. -/
def Obligations.RecoveryDecides : Prop :=
  ∀ (s : State) (e : BitVec 7) (r : Run) (t0 : Nat),
    (s.m.engines.get e).act = .recovery t0 → (s.m.engines.get e).cur = some r →
    let failed (t : State) : Prop := (t.m.engines.get e).cur = none ∧ (t.m.engines.get e).act = .idle ∧
      (t.m.engines.get e).undo = [] ∧ t.m.mem = s.m.mem ∧
      ∀ c, (t.m.marks.get c).1 ≠ some (e, r.slot.pos) ∧ (t.m.marks.get c).2 ≠ some (e, r.slot.pos)
    let left := r.start + r.slot.budget.toNat * 512 / 5 - s.m.clk
    (r.recovered = false → t0 - r.bisqueAt ≤ left → (s.m.engines.get e).copy0.bad = false →
      (s.m.engines.get e).copy0.forced = true →
      exec (.recoveryDecision e false) s = .next { s with m := modEng e (fun g => { g with
        act := .run, cur := some { r with recovered := true } }) s.m }) ∧
    (r.recovered = true ∨ left < t0 - r.bisqueAt → (s.m.engines.get e).todo = [] →
      ∃ t, exec (.recoveryDecision e false) s = .next t ∧ failed t) ∧
    ((s.m.engines.get e).todo = [] → s.m.hasRoom →
      ∃ t f l, exec (.recoveryDecision e true) s = .next t ∧ failed t ∧ t.m.faults.queue = s.m.faults.queue ++ f :: l ∧
        f.code = 0x0304)

/-! ### The tick -/

/-- R11, R17, R31, R38, R535: the registers of the tick and of the tilth table, open to every master.
R4, R42 to R46, R54, R70, R535: mode requests and MODE_CTL, by the keeper; another's store is dropped, with notice cause 3. -/
def Obligations.TickAndModeRegisters : Prop :=
  (∀ (s : State) (w : Who) (v : W32), s.m.live → w.master ≠ .debug →
     let t := s.m.tick
     let takes (i : Instr) (n : TickSt) : Prop := exec i s = leaves s { s.m with tick := n }
     let open' : Prop := s.m.mode.mode = .wake ∨ s.m.mode.mode = .commission
     let low (n : Nat) : Nat := v.toNat % 2 ^ n
     (open' → takes (.tickCtlWrite w v) { t with srcNext := some (v.getLsbD 0) }) ∧
     (open' → 250 ≤ low 17 → low 17 ≤ 100000 → takes (.tickPeriodWrite w v) { t with periodNext := some (v.setWidth 17) }) ∧
     (low 17 < 250 ∨ 100000 < low 17 → takes (.tickPeriodWrite w v) { t with werr := true }) ∧
     (open' → low 16 ≠ 0 → v.toNat / 2 ^ 16 % 16 ≠ 0 → takes (.tickHoldWrite w v) { t with
       limitNext := some (v.setWidth 16), reacqNext := some ((v >>> 16).setWidth 4) }) ∧
     (¬ open' → takes (.tickCtlWrite w v) { t with werr := true } ∧ takes (.tickPeriodWrite w v) { t with werr := true } ∧
       takes (.tickHoldWrite w v) { t with werr := true }) ∧
     (∃ x : W32, exec (.tickStatRead w) s = leaves s ({ s.m with tick := { t with spurious := 0 } }.read x) ∧
       x.getLsbD 0 = t.extLock ∧ x.getLsbD 1 = t.holdover ∧ x.getLsbD 2 = t.holdExpired ∧ x.getLsbD 3 = t.werr ∧
       x.toNat / 2 ^ 16 = t.spurious.toNat) ∧
     exec (.tickCountRead w) s = leaves s ({ s.m with tick := { t with countHi := (t.count >>> 32).setWidth 32 } }.read
       (t.count.setWidth 32)) ∧
     takes (.tilthSwapRequest w v) { t with swapPend := true } ∧
     (v.toNat % 256 ≠ 0 → w.master = .replica →
       takes (.registerWrite w 0x8000_0120 4 v) { t with ovrLimit := v.setWidth 8 })) ∧
  -- the period written is in force from the next edge on
  (∀ (s : State) (grp : BitVec 32) (bad : List (BitVec 5 × BitVec 2)) (x : Nat), s.m.mode.mode ≠ .dormant → s.m.watch.mainLost = false → s.m.pwr.pfw = false →
     s.m.tick.phase = .closed → nextEdgeAt s.m.tick = some x → s.m.emptied →
     ∃ u, exec (.tickEdge grp bad) s = .next u ∧ u.m.tick.period = s.m.tick.periodNext.getD s.m.tick.period) ∧
  (∀ (s : State) (w : Who) (v : W32), s.m.live →
     let x := s.m.mode
     let refused (i : Instr) (k : BitVec 4) : Prop := exec i s = leaves s { s.m with mode := { x with refuse := k } }
     let fit : Prop := x.mode = .commission ∧ x.pend = none
     let noLive : Prop := ∀ c, (s.m.chans.get c).live = false
     (byKeeper w → fit → s.m.dbg.level.toNat < 2 → s.m.dbg.bscan = false → noLive →
       ∃ t, exec (.modeReqWrite w 0x5A3C_0003) s = .next t ∧ t.m.mode = { x with
         pend := some .operate, refuse := 0
         pendTick := s.m.tick.count + (if s.m.tick.phase = .closed then 2 else 1) }) ∧
     (byKeeper w → x.mode = .operate → x.pend = none → ∃ t, exec (.modeReqWrite w 0x5A3C_0004) s = .next t ∧
       t.m.mode.pend = some .sleep ∧ t.m.mode.mode = .operate) ∧
     (byKeeper w → x.mode = .commission →
       refused (.modeReqWrite w 0x5A3C_0004) 1 ∧ refused (.modeReqWrite w 0x1234_0003) 2) ∧
     (byKeeper w → x.mode = .commission → x.pend ≠ none → refused (.modeReqWrite w 0x5A3C_0003) 3) ∧
     (byKeeper w → fit → 2 ≤ s.m.dbg.level.toNat → refused (.modeReqWrite w 0x5A3C_0003) 4) ∧
     (byKeeper w → fit → s.m.dbg.level.toNat < 2 → s.m.dbg.bscan = true → refused (.modeReqWrite w 0x5A3C_0003) 5) ∧
     (byKeeper w → fit → s.m.dbg.level.toNat < 2 → s.m.dbg.bscan = false → ¬ noLive →
       refused (.modeReqWrite w 0x5A3C_0003) 6) ∧
     (byKeeper w → exec (.outReleaseWrite w v) s = leaves s { s.m with mode := { x with
       outRel := x.outRel || decide (x.mode = .operate), wkHost := v.getLsbD 8, wkSent := v.getLsbD 9
       wkPeer := v.getLsbD 10, wkRtc := v.getLsbD 11 } }) ∧
     (w.master = .replica → ¬(w.comp = 0 ∧ w.ring = 0) → s.m.hasRoom →
       ∀ i ∈ [Instr.modeReqWrite w v, .outReleaseWrite w v, .registerWrite w 0x8000_0200 4 v],
         ∃ t f, exec i s = .next t ∧ t.m.mode = x ∧ t.m.mint = s.m.mint ∧ t.m.faults.queue = s.m.faults.queue ++ [f] ∧
           f.code = 0x0205))

/-- R19 to R22, R31, R33, R34, R46: an edge counts the tick and takes the registers written for it; the apply, P1 and C
follow in their order. A store that an edge makes drain could write a register, so the buffers are empty here.
R12 to R16: tick-sync edges within 2 µs of the next edge set it and others are spurious; without one, the generator places
the edge 2 µs after its window and holds over, up to the limit. -/
def Obligations.TicksAndTheirSource : Prop :=
  (∀ (s : State) (grp : BitVec 32) (bad : List (BitVec 5 × BitVec 2)), s.m.mode.mode ≠ .dormant → s.m.watch.mainLost = false → s.m.pwr.pfw = false →
     let t := s.m.tick
     (∀ x, t.phase = .closed → nextEdgeAt t = some x → s.m.emptied →
       ∃ u, exec (.tickEdge grp bad) s = .next u ∧ u.m.tick.count = t.count + 1 ∧ u.m.tick.edgeAt = x ∧ u.m.tick.phase = .p0 ∧
         u.m.tick.period = t.periodNext.getD t.period ∧ u.m.tick.periodNext = none ∧ u.m.tick.swapPend = false ∧
         u.m.tick.active = (if t.swapPend then !t.active else t.active) ∧ s.m.clk ≤ u.m.clk ∧ x ≤ u.m.clk ∧
         u.pending = s.pending ∧ u.fuses = s.fuses) ∧
     (t.phase = .p0 → ∃ u, exec .applyOutputs s = .next u ∧ u.m.tick.phase = .applied ∧ u.m.tick.count = t.count ∧
       t.edgeAt + 512 ≤ u.m.clk) ∧
     (t.phase = .applied → ∃ u, exec .p1Start s = .next u ∧ u.m.tick.phase = .p1 ∧ u.m.tick.count = t.count ∧
       t.edgeAt + 1024 ≤ u.m.clk ∧
       ((s.m.mode.mode = .commission ∨ s.m.mode.mode = .operate) → (∀ e, (s.m.dbg.engs.get e).defer = false) →
         ∀ e p l, let g := s.m.engines.get e
           g.todo = p :: l → e.toNat < t.copied → g.cur = none → g.halted = false → g.keeper = false → validEngine s.m e = true →
           s.m.pwr.tiles.get (tileOf e) = .on → ∃ r, (u.m.engines.get e).cur = some r ∧ r.slot = p ∧
             (u.m.engines.get e).todo = l ∧ (u.m.engines.get e).act = .bisque)) ∧
     (t.phase = .p1 → ∃ u, exec .commitClose s = .next u ∧ u.m.tick.phase = .closed ∧ u.m.tick.count = t.count ∧
       t.edgeAt + (t.period.toNat - (if t.extLock then 27 else 25)) * 512 / 5 ≤ u.m.clk ∧
       u.m.mode.outRelAtC = s.m.mode.outRel ∧
       ∀ e, (s.m.engines.get e).halted = false → (s.m.engines.get e).keeper = false →
         (u.m.engines.get e).cur = none ∧ (u.m.engines.get e).todo = [])) ∧
  (∀ (s : State) (d : Nat), s.m.mode.mode ≠ .dormant → s.m.watch.mainLost = false → s.m.pwr.pfw = false →
     s.m.dbg.bscan = false →
     let t := s.m.tick
     let p := t.period.toNat
     -- the copier may carry on meanwhile
     let now (n u : TickSt) : Prop := u = { n with copied := u.copied, window := u.window, malformed := u.malformed }
     let near : Prop := 512 * p ≤ 5 * d + 1024 ∧ 5 * d ≤ 512 * p + 1024
     (t.src = false → exec (.tickSyncEdge d) s = leaves s s.m) ∧
     (t.src = true → t.extLock = true → near → ∃ u, exec (.tickSyncEdge d) s = .next u ∧
       now { t with nextEdge := some (t.nextEdge.getD (t.edgeAt + d)) } u.m.tick) ∧
     (t.src = true → t.extLock = true → ¬ near → ∃ u, exec (.tickSyncEdge d) s = .next u ∧
       now { t with spurious := BitVec.ofNat 16 (min (t.spurious.toNat + 1) 0xFFFF) } u.m.tick) ∧
     (t.src = true → t.extLock = true → t.nextEdge = none → ∃ u, exec .holdoverEntry s = .next u ∧
       u.m.tick.holdover = true ∧ u.m.tick.extLock = false ∧ u.m.tick.holdTicks = 0 ∧ u.m.tick.count = t.count ∧
       u.m.tick.nextEdge = some (t.edgeAt + (1024 * p + 2048 + 5) / 10)) ∧
     (t.holdover = true → t.expDone = false → t.limit.toNat ≤ t.holdTicks → s.m.hasRoom →
       exec .holdExpired s = leaves s
         ({ s.m with tick := { t with holdExpired := true, expDone := true } }.faulted 0x0101 (t.limit.setWidth 64))))

/-! ### Modes, power, faults -/

/-- R41, R47, R50, R253, R255, R404, R414, R484: power up enters WAKE with an empty memory and the fuses as they read, or HARDPAN
where they cannot be resolved; the march marks the spares that it could not apply and lets the checks let WAKE end at an edge,
or they end it in HARDPAN with their fault; so does a WAKE of 60 s. -/
def Obligations.WakeBeginsAndEnds : Prop :=
  ∀ (s : State), s.m.calm → s.m.faults.hpDue = false →
    let wake : Prop := s.m.mode.mode = .wake ∧ s.m.pwr.pfw = false
    let stops (i : Instr) (code : BitVec 16) : Prop := ∃ t, exec i s = .next t ∧ hardened s t code
    (∀ slot dt, s.m.mode.mode = .dormant → ∃ t, exec (.logicSuppliesInRegulation slot dt) s = .next t ∧
      t.m.mode.wakeCause = 0 ∧ t.m.mode.prev = s.m.mode.prevKept ∧ t.m.tick.count = 0 ∧
      t.m.mem = ⟨[], [], [], []⟩ ∧ t.m.host.slot = slot ∧ t.m.sec.fuse = s.fuses ∧ t.m.clk = s.m.clk + dt ∧
      lanesOf t.m 0 = [0, 1, 2] ∧ (∀ r ∈ lanesOf t.m 0, (rep t.m 0 r).arch = bootArch) ∧
      (s.fuses.bootFault = none → t.m.mode.mode = .wake) ∧
      (s.fuses.bootFault ≠ none → t.m.mode.mode = .hardpan ∧ t.m.faults.hpCause = 0x0701)) ∧
    (∀ bad w0 w1, wake → s.m.mode.marchDone = false →
      (∃ t a b, exec (.marchTestEnd true bad [] w0 w1) s = .next t ∧ t.m.mode = { s.m.mode with marchDone := true } ∧
        t.m.mem = ⟨[], [], [], []⟩ ∧ t.m.mc = { s.m.mc with spst0 := a, spst1 := b } ∧
        (bootSpare s.m.sec = none → a = 0 ∧ b = 0) ∧
        ∀ r d l, bootSpare s.m.sec = some (r, d, l) → ∀ k, k < 32 →
          let valid (n : Nat) : Bool := (l[n]?).any fun x => x.getLsbD 31
          (a.getLsbD k = true → valid k = true) ∧ (b.getLsbD k = true → valid (32 + k) = true) ∧
          (valid k = true → w0.getLsbD k = true → a.getLsbD k = true) ∧
          (valid (32 + k) = true → w1.getLsbD k = true → b.getLsbD k = true)) ∧
      stops (.marchTestEnd false bad [] w0 w1) 0x0406) ∧
    (∀ kind dev res, wake → s.m.mode.checksPassed = false →
      (s.m.mode.marchDone = true → s.m.sec.fuse.provisioned = false →
        ∃ t, exec (.startUpChecksComplete true kind dev res) s = .next t ∧
          t.m.mode = { s.m.mode with checksPassed := true }) ∧
      stops (.startUpChecksComplete false kind dev res) 0x0702) ∧
    (∀ step, wake → stops (.wakeTimeout step) 0x0105) ∧
    (∀ grp x, wake → s.m.watch.mainLost = false → s.m.mode.checksPassed = true → s.m.mode.pend = none →
      s.m.tick.phase = .closed → nextEdgeAt s.m.tick = some x → s.m.faults.esc = 0 →
      (s.m.engines.get 0).act = .run → (s.m.engines.get 0).forcedDue = false → (s.m.engines.get 0).undo = [] →
      (∀ k, (s.m.watch.wd.get k).run = false) → (∀ k, (s.m.tiles.get k).degraded = false ∧ (s.m.tiles.get k).pend = false) →
      ∃ t, exec (.tickEdge grp []) s = .next t ∧
        t.m.mode.mode = (if s.m.mode.autostart then .operate else .commission) ∧ t.m.tick.count = s.m.tick.count + 1)

/-- R51, R71, R486 to R489: MAIN falls and returns, or the warning comes, the buffers are emptied and the module goes to
DORMANT with what the cell keeps. -/
def Obligations.MainIsLost : Prop :=
  ∀ (s : State),
    let p := s.m.pwr
    (p.supply = .on → exec (.mainInterruption false) s
      = leaves s { s.m with pwr := { p with supply := .ride, rideAt := s.m.clk, mainOk := false } }) ∧
    (p.supply = .ride → exec (.mainInterruption true) s = leaves s { s.m with pwr := { p with
      supply := .on, mainOk := true, dips := BitVec.ofNat 8 (min (p.dips.toNat + 1) 255) } }) ∧
    (∀ done weak n l, p.supply = .ride → s.m.sec.burn = none →
      ∃ t, exec (.powerFailWarning done weak n l) s = .next t ∧ t.m.pwr.supply = .fail ∧ t.m.pwr.pfw = true ∧
        t.m.pwr.drainOpen = true ∧ t.m.mode.pend = none ∧ t.m.mode.prevKept = (modeCode s.m.mode.mode).setWidth 4 ∧
        t.fuses = s.fuses ∧ p.rideAt + 1536000 ≤ t.m.clk ∧ t.m.sec.flJob = none ∧
        ∀ c, isOutMode (s.m.chans.get c).mode = true → (t.m.chans.get c).atSafe = true) ∧
    (p.supply = .fail → p.drainOpen = true → s.m.faults.queue.length < 64 →
      (∀ e, ∀ r ∈ lanesOf s.m e, ∀ y, (rep s.m (tileOf e) r).sb.head? = some y → region y.gran = .hostWin) →
      ∃ t f, exec .powerFailDrainExpire s = .next t ∧ t.m.pwr.drainOpen = false ∧
        (∀ e, ∀ r ∈ lanesOf s.m e, rep t.m (tileOf e) r = { rep s.m (tileOf e) r with sb := [] }) ∧
        t.m.faults.queue = s.m.faults.queue ++ [f] ∧ f.code = 0x0806 ∧ t.m.mem = s.m.mem) ∧
    (p.supply = .fail → p.drainOpen = false →
      ∃ t, exec .powerFailSequenceEnd s = .next t ∧ t.m.mode.mode = .dormant ∧ t.m.pwr.supply = .off ∧
        t.m.mem = ⟨[], [], [], []⟩ ∧ t.fuses = s.fuses ∧ t.m.sec.flashA = s.m.sec.flashA ∧ t.m.faults.queue = [] ∧
        (s.m.bkp.cell = true → t.m.bkp.scr = s.m.bkp.scr ∧ t.m.mode.prevKept = s.m.mode.prevKept) ∧
        (s.m.bkp.cell = false → ∀ k, t.m.bkp.scr.get k = 0))

/-- R437, R446 to R453: HARDPAN is entered at a request, a bite of the module watchdog and the loss of the main clock, and left
through a module reset.
R442 to R445: a service of an engine's watchdog by its owner, a wrong one, which resets the engine or with CRIT enters HARDPAN,
and one by another; the evidence is read. -/
def Obligations.HardpanAndWatchdogs : Prop :=
  (∀ (s : State) (w : Who) (v : W32),
     let keyed : Prop := s.m.live ∧ byKeeper w ∧ v.toNat / 2 ^ 16 = 0x5A3C
     let x := s.m.watch
     let fit : Prop := s.m.mode.mode ≠ .hardpan ∧ s.m.pwr.pfw = false
     (keyed → fit → s.m.emptied → s.m.hasRoom → v.getLsbD 1 = false → ∃ t f, exec (.hardpanRequest w v) s = .next t ∧
       hardened s t 0x0E05 ∧ f ∈ t.m.faults.queue ∧ f.code = 0x0E05 ∧ f.arg.toNat = s.m.faults.swa0.toNat % 2 ^ 16) ∧
     (keyed → fit → v.getLsbD 0 = false → s.m.faults.queue = [] → s.m.sec.fuse.bootFault = none →
       ∃ t, exec (.hardpanReset w v) s = .next t ∧ WasReset s t 2) ∧
     (s.m.mode.mode = .hardpan → x.resetWanted = none →
       exec .hardpanSafeReached s = leaves s { s.m with faults := { s.m.faults with hpSafe := true } }) ∧
     (s.m.mode.mode = .hardpan → x.resetWanted = some 3 → s.m.pwr.pfw = false → s.m.faults.queue = [] →
       s.m.sec.fuse.bootFault = none → ∃ t, exec .hardpanSafeReached s = .next t ∧ WasReset s t 3) ∧
     (s.m.live → byKeeper w → s.m.mode.mode ≠ .sleep →
       let good : Prop := v.setWidth 16 = w.tick.setWidth 16 ^^^ x.mSalt ∧ x.mAt + 1024000 * x.mMin.toNat ≤ s.m.clk
       let begun : Mach := { s.m with watch := { x with mAt := s.m.clk } }
       (good → exec (.moduleWatchdogService w v) s = leaves s begun) ∧
       (¬ good → s.m.mode.mode = .hardpan → s.m.hasRoom →
         exec (.moduleWatchdogService w v) s = leaves s (begun.faulted 0x0604 1)) ∧
       (¬ good → fit → s.m.emptied → s.m.hasRoom → ∃ t f, exec (.moduleWatchdogService w v) s = .next t ∧
         hardened s t 0x0604 ∧ f ∈ t.m.faults.queue ∧ f.code = 0x0604 ∧ f.arg = 1 ∧ t.m.watch.mAt = s.m.clk)) ∧
     (fit → s.m.mode.mode ≠ .dormant → s.m.emptied → s.m.mode.mode ≠ .sleep → x.mainLost = false → x.resetWanted = none →
       (∀ e, (s.m.engines.get e).halted = false) → ∃ t, exec .moduleWatchdogExpire s = .next t ∧
         hardened s t 0x0604 ∧ t.m.watch.mAt = t.m.clk ∧ x.mAt + 1024000 * x.mMax.toNat ≤ t.m.clk) ∧
     (∀ n0 n1 : BitVec 12, fit → s.m.calm → s.m.mode.mode ≠ .dormant →
       x.mainLost = false → x.bkpLost = false → (n0.toNat < 3000 ∨ 3250 < n0.toNat) → (n1.toNat < 3000 ∨ 3250 < n1.toNat) →
       ∃ t, exec (.mainClockLost n0 n1) s = .next t ∧ hardened s t 0x0605 ∧ t.m.watch.mainLost = true ∧
         t.m.host.portA.up = false ∧ t.m.host.portB.up = false) ∧
     (s.m.hasRoom → x.mainLost = false → x.bkpLost = false → exec .backupOscillatorLost s = leaves s
       ({ s.m with bkp := { s.m.bkp with valid := false }, watch := { x with bkpLost := true } }.faulted 0x0606 0))) ∧
  (∀ (s : State) (w : Who) (v : W32), s.m.live → s.m.hasRoom → w.master = .replica →
     let x := s.m.watch.wd.get w.eng
     x.due = false →
     let set' (y : Watchdog) : Mach := { s.m with watch := { s.m.watch with wd := s.m.watch.wd.set w.eng y } }
     -- the watchdog stops with its evidence, and the fault is the next in the queue
     let bites (also : State → Prop) : Prop := ∃ t f l, exec (.wdService w v) s = .next t ∧
       t.m.watch.wd = (set' { x with run := false, bitten := true }).watch.wd ∧
       t.m.faults.queue = s.m.faults.queue ++ f :: l ∧ f.code = 0x0602 ∧ also t
     -- the engine is reset, with CRIT HARDPAN begins, and in HARDPAN neither
     let wrong : Prop :=
       (x.crit = false → s.m.mode.mode ≠ .hardpan → bites fun t => ∀ r ∈ lanesOf s.m w.eng,
         (rep t.m (tileOf w.eng) r).arch = resetArch (posOf w.eng) ∧ (rep t.m (tileOf w.eng) r).sb = []) ∧
       (x.crit = true → s.m.mode.mode ≠ .hardpan → s.m.pwr.pfw = false → s.m.emptied → bites fun t => hardened s t 0x0602) ∧
       (s.m.mode.mode = .hardpan → bites fun t => t.m.tiles = s.m.tiles ∧ t.m.engines = s.m.engines)
     let right : Prop := v.setWidth 16 = w.tick.setWidth 16 ^^^ x.salt
     (x.en = false → exec (.wdService w v) s = leaves s s.m) ∧
     (x.en = true → w.comp = x.owner → right → x.run = false ∨ x.wmin.toNat ≤ x.age → x.bitten = false →
       exec (.wdService w v) s = leaves s (set' { x with
         run := true, age := 0, pc := w.pc, comp := w.comp, tick := w.tick.setWidth 16 })) ∧
     (x.en = true → w.comp = x.owner → ¬ right → wrong) ∧
     (x.en = true → w.comp = x.owner → right → x.run = true → x.age < x.wmin.toNat → wrong) ∧
     (x.en = true → w.comp ≠ x.owner → ¬(w.comp = 0 ∧ w.ring = 0) → ∃ t f, exec (.wdService w v) s = .next t ∧
       t.m.watch = s.m.watch ∧ t.m.faults.queue = s.m.faults.queue ++ [f] ∧ f.code = 0x0603) ∧
     (byKeeper w → ∃ d : W32, exec (.wdEvid1Read w) s = leaves s (({ s.m with watch := { s.m.watch with
         wd := s.m.watch.wd.upd s.m.watch.sel fun y => { y with bitten := false } } }).read d) ∧
       d.getLsbD 15 = (s.m.watch.wd.get s.m.watch.sel).bitten ∧ d.getLsbD 14 = (s.m.watch.wd.get s.m.watch.sel).run))

/-- R433 to R441, R454, R500: the collector writes an entry and carries out the reaction, H entering HARDPAN; software codes,
escalation, owner events, and the mirror in flash. -/
def Obligations.FaultLog : Prop :=
  ∀ (s : State) (w : Who) (v : W32) (e : BitVec 7) (a : Arch),
    let x := s.m.faults
    (∀ ev, x.queue = [ev] → x.hpDue = false → x.headerOk = true → x.newest = none → ev.cont = [] → ev.code = 0x0102 →
      ∃ t, exec .faultLogEntry s = .next t ∧ t.m.faults.queue = [] ∧ t.m.faults.wr = x.wr + 1 ∧
        t.m.mode = s.m.mode ∧ t.m.engines = s.m.engines ∧ t.m.ints = s.m.ints ∧
        (∀ k : BitVec 7, let n := (t.m.faults.entries.get k).toNat
          if k.toNat = x.wr.toNat % 127 then
            n % 2 ^ 16 = 0x0102 ∧ n / 2 ^ 16 % 2 = (if s.m.bkp.valid then 0 else 1) ∧ n / 2 ^ 32 % 2 ^ 32 = x.wr.toNat ∧
              n / 2 ^ 64 % 2 ^ 64 = s.m.bkp.rtc.toNat ∧ n / 2 ^ 128 % 2 ^ 64 = ev.tick.toNat ∧ n / 2 ^ 192 = ev.arg.toNat
          else t.m.faults.entries.get k = x.entries.get k)) ∧
    (∀ ev, x.queue = [ev] → ev.code = 0x0701 → s.m.mode.mode ≠ .dormant → s.m.mode.mode ≠ .hardpan →
      s.m.pwr.pfw = false → s.m.emptied →
      ∃ t, exec .faultLogEntry s = .next t ∧ t.m.mode.mode = .hardpan ∧ t.m.faults.hpCause = 0x0701 ∧
        t.m.mode.outRel = false ∧ ∀ c, isOutMode (s.m.chans.get c).mode = true → (t.m.chans.get c).atSafe = true) ∧
    (s.m.live → byKeeper w → s.m.hasRoom →
      let code : Nat := v.toNat % 2 ^ 16
      let known : Prop := (0x0E01 ≤ code ∧ code ≤ 0x0E04) ∨ (0x0F00 ≤ code ∧ code ≤ 0x0FFF)
      (known → exec (.softwareFaultLog w v) s = leaves s (s.m.faulted (v.setWidth 16) (x.swa1 ++ x.swa0))) ∧
      (¬ known → exec (.softwareFaultLog w v) s = leaves s { s.m with faults := { x with werr := true } })) ∧
    (Ready s.m e a → a.ring = 0 → a.fast = true →
      let answers (i : Instr) (k : W64) (m : Mach) : Prop := exec i s = leaves s
        (mapLanes e (fun r => { r with arch := { r.arch with a := k } }) m)
      (a.e = 0x102 →
        (a.fring = 1 → a.link.owner = 1 → s.m.mode.mode = .commission →
          answers (.setEscalation e) 0 { s.m with faults := { x with esc := a.a.setWidth 5 } }) ∧
        (¬(a.fring = 1 ∧ a.link.owner = 1 ∧ s.m.mode.mode = .commission) → answers (.setEscalation e) 8 s.m)) ∧
      (a.e = 0x103 →
        (a.fring ≠ 1 → answers (.ownerEvent e) 8 s.m) ∧
        (a.fring = 1 → look 0 x.ownerEvents a.link.owner.toNat < 16 → s.m.hasRoom →
          ∃ t f, exec (.ownerEvent e) s = .next t ∧ t.m.faults.queue = x.queue ++ [f] ∧
            f.code.toNat = 0x0F00 + a.a.toNat % 256 ∧ f.arg.toNat = a.a.toNat / 2 ^ 8 % 2 ^ 24 ∧
            ∀ r ∈ lanesOf s.m e, (rep t.m (tileOf e) r).arch = { a with a := 0 }))) ∧
    (s.m.mode.mode ≠ .dormant → s.m.pwr.pfw = false → s.m.watch.mainLost = false → s.m.sec.flJob = none →
      x.wr ≠ x.mirwr → x.mirrorAt = 0 → x.fresh = false → ∃ t, exec .logMirror s = .next t ∧
        t.m.faults = { x with mirwr := x.wr, mirrorAt := s.m.clk, mirrorHalf := !x.mirrorHalf } ∧
        ∀ i, i < 4096 →
          look 0xFF t.m.sec.flashA ((if x.mirrorHalf then 0x2000 else 0x3000) + i)
            = byteOf (logWord x (i / 4 * 4)) (i % 4) ∧
          look 0xFF t.m.sec.flashB ((if x.mirrorHalf then 0x2000 else 0x3000) + i)
            = byteOf (logWord x (i / 4 * 4)) (i % 4))

/-! ### The block as a whole -/

/-- A step runs the command at the front of the queue on the state with the rest. With an empty queue one channel clock passes:
that is the model's choice (log entry 2). -/
def Obligations.StepRunsFront : Prop :=
  ∀ (s : State) (c : Instr),
    Machine.step { s with pending := c :: s.pending } = exec c s ∧
    (s.pending = [] → ∃ t, Machine.step s = .next t ∧ t.m.clk = s.m.clk + 1 ∧ t.pending = [] ∧ t.fuses = s.fuses ∧
      t.m.mode = s.m.mode ∧ t.m.tick = { s.m.tick with copied := t.m.tick.copied, window := t.m.tick.window, malformed := t.m.tick.malformed } ∧
      (s.m.tick.copied = 128 → t.m.tick = s.m.tick ∧ t.m.faults = s.m.faults))

/-- No command stops the module, and none touches the queue. -/
def Obligations.EveryCommandIsAnswered : Prop :=
  ∀ (c : Instr) (s : State), ∃ t, exec c s = .next t ∧ t.pending = s.pending

/-- R402, R406: fuse bits are set and never cleared, and only a burn sets them: by FUSE_CTL, by the keeper's raising of the
floors, or one that the power-fail warning cuts short. Every step keeps it that a bit read as 1 at the M1 margin is read as
1 at the M0 margin. -/
def Obligations.FusesNeverClear : Prop :=
  (∀ (s t : State), Machine.step s = .next t → ∀ i j,
    ((s.fuses.m0.get i).getLsbD j = true → (t.fuses.m0.get i).getLsbD j = true) ∧
    ((s.fuses.m1.get i).getLsbD j = true → (t.fuses.m1.get i).getLsbD j = true)) ∧
  -- a bit that reads 1 at the M1 margin reads 1 at the M0 margin
  (∀ (s t : State), Machine.step s = .next t →
    (∀ i j, (s.fuses.m1.get i).getLsbD j = true → (s.fuses.m0.get i).getLsbD j = true) →
    ∀ i j, (t.fuses.m1.get i).getLsbD j = true → (t.fuses.m0.get i).getLsbD j = true) ∧
  (∀ (c : Instr) (s t : State), exec c s = .next t → t.fuses ≠ s.fuses →
    (∃ f k, c = .floorBurn f k) ∨ (∃ f k, c = .fuseBurnComplete f k ∧ s.m.sec.burn ≠ none) ∨
    (∃ f k n l, c = .powerFailWarning f k n l))

/-- R11, R18, R41, R134, R184, R413: the module at edge 0 of its first WAKE. That no fuse is burned, that the memory holds
zeros and that nothing waits are the model's choices (log entries 3 and 4). -/
def Obligations.ResetState : Prop :=
  let s := State.reset
  s.m.mode.mode = .wake ∧ s.m.mode.pend = none ∧ s.m.tick.count = 0 ∧ s.m.tick.period = 1000 ∧ s.m.tick.src = false ∧
  Ready s.m 0 bootArch ∧ bootArch.pcc.cursor = 0x100 ∧ bootArch.ring = 0 ∧ bootArch.comp = 0 ∧
  (∀ e : BitVec 7, validEngine s.m e = decide (posOf e = 0)) ∧
  (∀ t : BitVec 5, lanesOf s.m (t ++ 0#2) = [0, 1, 2] ∧ (rep s.m t 3).state = .grog) ∧
  s.pending = [] ∧ s.m.mem.wf = true ∧ (∀ a, s.m.mem.byte a = 0) ∧
  (∀ i, s.fuses.m0.get i = 0 ∧ s.fuses.m1.get i = 0)

/-! ### Tiles and memory -/

/-- R185, R205: a commit of a staged grouping is taken or turned away with its code; the tile's status is read.
R194, R196, R198, R202 to R204: a replica's self-test ends and moves it between its states; a sweep leaves lanes that agree
as they are, and fences the one of three that differs. -/
def Obligations.TilesAndReplicas : Prop :=
  (∀ (s : State) (w : Who) (t : BitVec 5) (v : W32), s.m.live →
     let x := s.m.tiles.get t
     let voted : Bool := decide (v.toNat % 8 = 0 ∨ v.toNat % 8 = 4)
     let sw : Byte := (v >>> 8).setWidth 8
     let k : BitVec 3 :=
       if 5 ≤ v.toNat % 8 then 1
       else if t = 0 ∧ voted = false then 2
       else if admitted x < (if voted then 3 else 4) then 3
       else if s.m.mode.mode ≠ .commission ∧ s.m.mode.mode ≠ .operate then 4
       else if x.pend = true then 5 else 0
     (byKeeper w → exec (.tileGroupCommit w t v) s = leaves s (modTile t (fun y => { y with
       code := v.setWidth 3, sweep := if sw = 0 then y.sweep else sw, werr := y.werr || decide (sw = 0)
       rej := k, pend := y.pend || decide (k = 0) }) s.m)) ∧
     (w.master = .replica → ¬(w.comp = 0 ∧ w.ring = 0) → s.m.hasRoom →
       ∃ u f, exec (.tileGroupCommit w t v) s = .next u ∧ u.m.tiles = s.m.tiles ∧
         u.m.faults.queue = s.m.faults.queue ++ [f] ∧ f.code = 0x0205) ∧
     (w.master ≠ .debug → ∃ d : W32, exec (.tileStatRead w t) s
         = leaves s ((modTile t (fun y => { y with mism := 0, drop := 0 }) s.m).read d) ∧
       d.toNat % 2 ^ 3 = x.live.toNat ∧ d.getLsbD 3 = x.pend ∧ d.toNat / 2 ^ 4 % 2 ^ 3 = x.rej.toNat ∧
       d.getLsbD 7 = x.degraded ∧ d.getLsbD 8 = x.werr ∧ d.toNat / 2 ^ 16 % 2 ^ 8 = x.mism.toNat ∧
       d.toNat / 2 ^ 24 = x.drop.toNat)) ∧
  ((∀ (s : State) (t : BitVec 5) (r : BitVec 2), s.m.hasRoom → (rep s.m t r).bist = true →
     -- the fault of R201 has been told, or there is no cause for it
     (s.m.tiles.get t).degraded = false ∨ (s.m.tiles.get t).noGrog = true →
     let x := rep s.m t r
     let ends (clean : Bool) (y : Replica) : Prop :=
       exec (.grogBistPassEnd t r clean) s = leaves s (modRep t r (fun _ => y) s.m)
     let moves (clean : Bool) (k : RepState) (code : BitVec 16) : Prop :=
       ∃ u f, exec (.grogBistPassEnd t r clean) s = .next u ∧ (rep u.m t r).state = k ∧ (rep u.m t r).pass = 0 ∧
         (rep u.m t r).bist = false ∧ f ∈ u.m.faults.queue ∧ f.code = code
     (x.state = .fenced → x.pass ≠ 2 → ends true { x with bist := false, pass := x.pass + 1 }) ∧
     (x.state = .fenced → x.pass = 2 → moves true .grog 0x030C) ∧
     (x.state = .fenced → x.fail ≠ 2 → ends false { x with bist := false, pass := 0, fail := x.fail + 1 }) ∧
     (x.state = .fenced ∨ x.state = .grog → x.fail = 2 → moves false .retired 0x0307) ∧
     (x.state = .grog → ends true { x with bist := false }) ∧
     (x.state = .grog → x.fail ≠ 2 → ∃ u, exec (.grogBistPassEnd t r false) s = .next u ∧
       (rep u.m t r).state = .fenced ∧ (rep u.m t r).fail = x.fail + 1 ∧ (rep u.m t r).pass = 0)) ∧
   (∀ (s : State) (e : BitVec 7), atBoundary s.m e = true → forcedOwed s.m e = false →
     (∀ r ∈ lanesOf s.m e, let x := rep s.m (tileOf e) r
       x.sb = [] ∧ x.ldue = none ∧ x.repEnd = false ∧ x.arch.lop = 0) →
     s.m.tick.count.toNat % (s.m.tiles.get (tileOf e)).sweep.toNat = 0 →
     s.m.tick.edgeAt + s.m.tick.period.toNat * 512 / 10 ≤ s.m.clk →
     (∀ a, (∀ r ∈ lanesOf s.m e, (rep s.m (tileOf e) r).arch = a) → exec (.stateSweep e) s = leaves s s.m) ∧
     (∀ a b c, lanesOf s.m e = [a, b, c] → (rep s.m (tileOf e) a).arch = (rep s.m (tileOf e) b).arch →
       (rep s.m (tileOf e) c).arch.compared ≠ (rep s.m (tileOf e) a).arch.compared → s.m.hasRoom →
       (liveCode s.m e = 4 → ∃ r, (s.m.engines.get e).cur = some r ∧ 0 < r.count ∧ r.count % 256 = 0) →
       ∃ u f, exec (.stateSweep e) s = .next u ∧ lanesOf u.m e = [a, b] ∧ (rep u.m (tileOf e) c).state = .fenced ∧
         rep u.m (tileOf e) a = rep s.m (tileOf e) a ∧ rep u.m (tileOf e) b = rep s.m (tileOf e) b ∧
         f ∈ u.m.faults.queue ∧ f.code = 0x0301)))

/-- R226 to R228: a span is compared by its rule: equal signatures commit the records of the lowest member that agrees, a
member that differs or is absent is named in its status and in a fault. -/
def Obligations.SpansAreCompared : Prop :=
  ∀ (s : State) (i : BitVec 6) (n : Nat) (r : Nat → MemberResult) (outcome : BitVec 8) (odd : BitVec 3) (take : Option Nat),
    spanValid s.m.spans i = true → (s.m.spans.get i).members = n → (s.m.spanRuns.get i).compared = false →
    r = (s.m.spanRuns.get i).get → (∀ k, k < n → r k ≠ .waiting ∧ endTime (r k) + 103 ≤ s.m.clk) → s.m.hasRoom →
    (s.m.tick.phase = .closed ∨ ∀ k, k < n → endTime (r k) + 103 < closeAt s.m.tick) →
    let sig (k : Nat) := sigOf (r k)
    let here (k : Nat) : Prop := sig k ≠ none
    let table : Prop :=
      (n = 2 ∧ here 0 ∧ sig 0 = sig 1 ∧ outcome = 1 ∧ odd = 0 ∧ take = some 0) ∨
      (n = 2 ∧ here 0 ∧ here 1 ∧ sig 0 ≠ sig 1 ∧ outcome = 2 ∧ odd = 3 ∧ take = none) ∨
      (n = 2 ∧ ¬ here 0 ∧ here 1 ∧ outcome = 3 ∧ odd = 1 ∧ take = none) ∨
      (n = 3 ∧ here 0 ∧ sig 0 = sig 1 ∧ sig 1 = sig 2 ∧ outcome = 1 ∧ odd = 0 ∧ take = some 0) ∨
      (n = 3 ∧ here 0 ∧ sig 0 = sig 1 ∧ here 2 ∧ sig 1 ≠ sig 2 ∧ outcome = 2 ∧ odd = 4 ∧ take = some 0) ∨
      (n = 3 ∧ here 0 ∧ sig 0 = sig 2 ∧ here 1 ∧ sig 0 ≠ sig 1 ∧ outcome = 2 ∧ odd = 2 ∧ take = some 0) ∨
      (n = 3 ∧ here 1 ∧ sig 1 = sig 2 ∧ here 0 ∧ sig 0 ≠ sig 1 ∧ outcome = 2 ∧ odd = 1 ∧ take = some 1) ∨
      (n = 3 ∧ here 0 ∧ here 1 ∧ here 2 ∧ sig 0 ≠ sig 1 ∧ sig 0 ≠ sig 2 ∧ sig 1 ≠ sig 2 ∧ outcome = 2 ∧ odd = 7 ∧ take = none) ∨
      (n = 3 ∧ here 0 ∧ sig 0 = sig 2 ∧ ¬ here 1 ∧ outcome = 3 ∧ odd = 2 ∧ take = some 0) ∨
      (n = 3 ∧ here 1 ∧ sig 1 = sig 2 ∧ ¬ here 0 ∧ outcome = 3 ∧ odd = 1 ∧ take = some 1) ∨
      (n = 3 ∧ here 0 ∧ sig 0 = sig 1 ∧ ¬ here 2 ∧ outcome = 3 ∧ odd = 4 ∧ take = some 0) ∨
      (n = 3 ∧ ¬ here 0 ∧ ¬ here 1 ∧ outcome = 3 ∧ odd = (if sig 2 = none then 7 else 3) ∧ take = none)
    table →
    let mine (k : Nat) := recsOf (r k)
    let place (x : SpanRec) : Nat := 0x40F80040 + 128 * x.chan.toNat + (if x.buf then 16 else 0)
    let st : Nat := 0x40F49000 + 16 * i.toNat
    ∃ t d, exec (.spanCompare i) s = .next t ∧ (t.m.spanRuns.get i).compared = true ∧ t.m.mem.data (st / 16) = d ∧
      d.toNat % 2 ^ 64 = s.m.tick.count.toNat ∧ d.toNat / 2 ^ 64 % 2 ^ 8 = outcome.toNat ∧
      d.toNat / 2 ^ 72 % 2 ^ 8 = odd.toNat ∧
      (∀ k, take = some k → (mine k).Pairwise (fun x y => x.chan ≠ y.chan) → ∀ x ∈ mine k,
        t.m.mem.data (place x / 16) = x.data) ∧
      (∀ g, g ≠ st / 16 → (∀ k x, take = some k → x ∈ mine k → g ≠ place x / 16) → t.m.mem.data g = s.m.mem.data g) ∧
      (outcome = 1 → t.m.faults = s.m.faults) ∧
      (outcome ≠ 1 → ∃ f, t.m.faults.queue = s.m.faults.queue ++ [f] ∧
        f.code = (if outcome = 2 then 0x030A else 0x030B) ∧ f.arg.toNat % 2 ^ 6 = i.toNat ∧
        f.arg.toNat / 2 ^ 8 % 2 ^ 3 = odd.toNat)

/-- R135, R136, R234: the mint's checks in their order, and its store of a capability with its tag.
R257, R258, R266: the keeper writes and reads an entry of the fence store, and the counters of memory are read and
cleared. -/
def Obligations.MintAndFence : Prop :=
  (∀ (s : State) (w : Who) (v : W32), s.m.live →
     let x := s.m.mint
     let a : Addr := x.addrHi ++ x.addrLo
     let c : Cap := ⟨x.w3 ++ x.w2 ++ x.w1 ++ x.w0, true⟩
     let n := a.toNat
     let memory : Bool := decide ((0x20000000 ≤ n ∧ n < 0x20800000) ∨ (0x40000000 ≤ n ∧ n < 0x41000000) ∨ 0x800000000 ≤ n)
     let area : Bool := decide ((0x20000000 ≤ n ∧ n < 0x20800000 ∧ 0x38000 ≤ n % 0x40000 ∧ n % 0x40000 < 0x3C000) ∨
       (0x40F40000 ≤ n ∧ n < 0x40F44000) ∨ (0x40F48000 ≤ n ∧ n < 0x40F49400) ∨ (0x40F50000 ≤ n ∧ n < 0x40F50400) ∨
       (0x40F80000 ≤ n ∧ n < 0x41000000))
     let k : BitVec 3 :=
       if c.kind = 3 ∨ c.limit < c.base.toNat then 2
       else if n % 16 ≠ 0 then 3 else if memory = false then 4 else if area = true then 6 else 0
     (byKeeper w → x.busy = true → exec (.cmintGo w v) s = leaves s { s.m with mint := { x with err := 1 } }) ∧
     (byKeeper w → x.busy = false → k ≠ 0 → exec (.cmintGo w v) s = leaves s { s.m with mint := { x with err := k } }) ∧
     (byKeeper w → x.busy = false → k = 0 → exec (.cmintGo w v) s
       = leaves s { s.m with mint := { x with err := 0, busy := true, target := a, value := c.bits } }) ∧
     (x.busy = true → let ok := (fenceCheck .direct (.ring 0 0) x.target true s.m).1
       ∃ t, exec .mintComplete s = .next t ∧ t.m.mint = { x with busy := false, err := if ok then x.err else 5 } ∧
         (∀ g, t.m.mem.data g = if ok = true ∧ g = x.target.toNat / 16 then x.value else s.m.mem.data g) ∧
         (∀ g, t.m.mem.tag g = if ok = true ∧ g = x.target.toNat / 16 then true else s.m.mem.tag g))) ∧
  (∀ (s : State) (w : Who) (v : W32), s.m.live →
     let c := s.m.mc
     let f := c.fw
     let on (f : FenceEntry) : Bool := f.w2.getLsbD 10
     let base (f : FenceEntry) : Nat := f.w0.toNat % 2 ^ 24
     let top (f : FenceEntry) : Nat := if f.w1.toNat % 2 ^ 24 = 0 then 2 ^ 24 else f.w1.toNat % 2 ^ 24
     let spare : Bool := decide (f.w0.toNat / 2 ^ 24 ≠ 0 ∨ f.w1.toNat / 2 ^ 24 ≠ 0 ∨ f.w2.getLsbD 11 = true ∨
       f.w2.toNat / 2 ^ 22 ≠ 0 ∨ f.w3.toNat / 2 ^ 8 ≠ 0)
     let apart (g : FenceEntry) : Bool := f.w2.getLsbD 8 && g.w2.getLsbD 8 &&
       decide (f.w2.toNat / 2 ^ 12 % 2 ^ 10 ≠ g.w2.toNat / 2 ^ 12 % 2 ^ 10)
     let clash : Prop := ∃ j, j ≠ c.sel ∧ on (c.fence.get j) = true ∧ base f < top (c.fence.get j) ∧
       base (c.fence.get j) < top f ∧ apart (c.fence.get j) = false
     let gets (i : Instr) (n : MemCtl) : Prop := exec i s = leaves s { s.m with mc := n }
     let ready : Prop := byKeeper w ∧ c.fbusyUntil ≤ s.m.clk
     (byKeeper w → v.getLsbD 1 = false → s.m.clk < c.fbusyUntil → gets (.fenceWrite w v) { c with ferr := 1 }) ∧
     (ready → v.getLsbD 1 = false →
       let e := c.fence.get c.sel
       let refused (k : BitVec 3) : Prop := gets (.fenceWrite w v) { c with ferr := k, fbusyUntil := s.m.clk + (Config.entryBusy s.m.clk).val }
       (e.w2.getLsbD 9 = true → refused 2) ∧
       (e.w2.getLsbD 9 = false → on f = true → spare = true ∨ top f ≤ base f → refused 3) ∧
       (e.w2.getLsbD 9 = false → on f = true → spare = false → base f < top f → clash → refused 4) ∧
       (e.w2.getLsbD 9 = false → on f = false ∨ (spare = false ∧ base f < top f ∧ ¬ clash) →
         gets (.fenceWrite w v) { c with fence := c.fence.set c.sel f, ferr := 0, fbusyUntil := s.m.clk + (Config.entryBusy s.m.clk).val })) ∧
     (byKeeper w → v.getLsbD 0 = false → gets (.fenceRead w v)
       { c with fw := c.fence.get c.sel, fbusyUntil := max c.fbusyUntil (s.m.clk + (Config.entryBusy s.m.clk).val) }) ∧
     (w.master ≠ .debug → exec (.memCnt0Read w) s = leaves s
       ({ s.m with mc := { c with sramc := 0, dramc := 0 } }.read (c.dramc ++ c.sramc))) ∧
     (w.master ≠ .debug → exec (.memCnt1Read w) s = leaves s
       ({ s.m with mc := { c with chkc := 0, icpar := 0, ueSram := 0, ueDram := 0 } }.read
         (c.ueDram ++ c.ueSram ++ c.icpar ++ c.chkc))))

/-- R243, R245, R247 to R251: a scrub or a write-back writes a corrected word, with its tag and poison, over the wrong one and
counts it; one that cannot be corrected stays in SRAM, counted and logged. -/
def Obligations.MemoryIsScrubbed : Prop :=
  ∀ (s : State) (g : Nat) (x : BitVec 152) (d : Gran) (t p : Bool) (k : BitVec 5),
    let c := s.m.mc
    let scrubs : Prop := c.scrubOn = true ∧ (s.m.mode.mode = .commission ∨ s.m.mode.mode = .operate ∨ s.m.mode.mode = .hardpan)
    let whole (u : State) : Prop := (u.m.mem.data g = d ∧ u.m.mem.tag g = t ∧ u.m.mem.poison g = p ∧ u.m.mem.err g = 0) ∧
      ∀ j, j ≠ g → u.m.mem.data j = s.m.mem.data j ∧ u.m.mem.tag j = s.m.mem.tag j ∧ u.m.mem.err j = s.m.mem.err j
    let first := 0x80000000 + 4 * c.scrubLine.toNat
    (scrubs → (∀ j, first ≤ j → j < first + 4 → s.m.mem.err j = 0) → c.scrubLine ≠ BitVec.allOnes 29 →
      (∃ u, exec (.patrolScrubLine 0 0 0 0) s = .next u ∧ u.m.mc = { c with scrubLine := c.scrubLine + 1 } ∧
        ∀ j, u.m.mem.data j = s.m.mem.data j ∧ u.m.mem.err j = s.m.mem.err j) ∧
      (g = first → decodeGran c (s.m.mem.flip g x) g = .corrected d t p k →
        ∃ u, exec (.patrolScrubLine x 0 0 0) s = .next u ∧ whole u ∧ u.m.mc.scrubLine = c.scrubLine + 1 ∧
          (k.toNat < 17 → u.m.mc.dramc = satInc c.dramc ∧ u.m.mc.chkc = c.chkc) ∧
          (17 ≤ k.toNat → k.toNat < 19 → u.m.mc.chkc = satInc c.chkc ∧ u.m.mc.dramc = c.dramc))) ∧
    (scrubs → c.scrubLine = BitVec.allOnes 29 → (∀ j, first ≤ j → j < first + 4 → s.m.mem.err j = 0) →
      ∃ u, exec (.patrolScrubLine 0 0 0 0) s = .next u ∧ u.m.mc.scrubLine = 0 ∧ u.m.mc.passes = satInc c.passes ∧
        u.m.mc.rowCnt = [] ∧ ∀ i, u.m.mc.devCnt.get i = 0) ∧
    (scrubs → s.m.mem.errs = [] → 0x40000000 ≤ 16 * g → 16 * g < 0x41000000 → x ≠ 0 →
      (decodeGran c (s.m.mem.flip g x) g = .corrected d t p k →
        ∃ u, exec (.sramScrubPass [(g, x)]) s = .next u ∧ whole u ∧ u.m.mc.sramc = satInc c.sramc) ∧
      (decodeGran c (s.m.mem.flip g x) g = .bad d → s.m.hasRoom →
        ∃ u f, exec (.sramScrubPass [(g, x)]) s = .next u ∧ u.m.mem.data g = s.m.mem.data g ∧ u.m.mem.err g = x ∧
          u.m.mc.ueSram = satInc c.ueSram ∧ u.m.faults.queue = s.m.faults.queue ++ [f] ∧ f.code = 0x0401)) ∧
    (∀ l, s.m.mode.mode ≠ .dormant → c.writeBack = g :: l → decodeGran c s.m.mem g = .corrected d t p k →
      ∃ u, exec .demandWriteBack s = .next u ∧ whole u ∧ u.m.mc = { c with writeBack := l })

/-! ### Channels -/

/-- R282, R300: a die's references are judged: a pattern seen in three checks in a row is the verdict, and all good is
reached again after 30 checks in window; AFE_STAT is read.
R284, R306, R307: a path goes on its calibration points, and what they give is taken or turned away. R286, R288: detectors
need three evaluations, and a switch output at its limit is switched off and retried. -/
def Obligations.AnalogueChecks : Prop :=
  (∀ (s : State) (d : BitVec 2) (ac bc ab : Bool),
     let x := s.m.dies.get d
     let p : BitVec 3 := BitVec.ofBool ab ++ BitVec.ofBool bc ++ BitVec.ofBool ac
     let v : BitVec 3 := match ac, bc, ab with
       | false, false, false => 0
       | true, false, true => 1
       | false, true, true => 2
       | true, true, false => 3
       | _, _, _ => 4
     let ok : BitVec 3 := if v = 0 then 7 else if v = 1 then 6 else if v = 2 then 5 else if v = 3 then 3 else 0
     let n := if x.pattern = p then x.same + 1 else 1
     let k := if v = 0 then x.allIn + 1 else 0
     let y : Die := { x with pattern := p, same := n, allIn := k }
     let run : Res := exec (.referenceCheck d ac bc ab) s
     (s.m.mode.mode ≠ .dormant → n < 3 ∨ (x.judged = true ∧ x.verdict = v) ∨ (x.judged = true ∧ v = 0 ∧ k < 30) →
       run = leaves s (modDie d (fun _ => y) s.m)) ∧
     (s.m.mode.mode ≠ .dormant → 3 ≤ n → v = 0 → x.judged = false ∨ (x.verdict ≠ 0 ∧ 30 ≤ k) →
       run = leaves s (modDie d (fun _ => { y with judged := true, verdict := 0, refOk := 7 }) s.m)) ∧
     (s.m.hasRoom → 3 ≤ n → v ≠ 0 → x.judged = false ∨ x.verdict ≠ v → ∃ t f, run = .next t ∧
       t.m.dies.get d = { y with judged := true, verdict := v, refOk := ok, refEvt := satInc x.refEvt } ∧
       t.m.faults.queue = s.m.faults.queue ++ [f] ∧ f.code = 0x0501 ∧ f.arg.toNat / 2 ^ 8 % 4 = d.toNat ∧
       ∀ c : BitVec 8, c.toNat / 64 = d.toNat → (t.m.chans.get c).calOn = none) ∧
     (∀ w : Who, s.m.live → w.master ≠ .debug → ∃ r : W32, exec (.afeStatRead w d) s
         = leaves s ((modDie d (fun x => { x with refEvt := 0 }) s.m).read r) ∧
       r.toNat % 2 ^ 4 = x.refOk.toNat ∧ r.toNat / 2 ^ 4 % 2 ^ 8 = x.grpOk.toNat ∧ r.toNat / 2 ^ 16 = x.refEvt.toNat)) ∧
  (∀ (s : State) (c : BitVec 8),
     let x := s.m.chans.get c
     let becomes (i : Instr) (y : Chan) : Prop := exec i s = leaves s (modChan c (fun _ => y) s.m)
     (x.mode ≠ 0 → x.calOn = none → (dieOf s.m c).verdict = 0 →
       (x.calNextMain ≤ s.m.clk → becomes (.calibrationStart c true)
         { x with calOn := some true, calPoint := s.m.clk, calNextMain := x.calNextMain + 600 * 102400000 }) ∧
       (x.calNextShadow ≤ s.m.clk → becomes (.calibrationStart c false)
         { x with calOn := some false, calPoint := s.m.clk, calNextShadow := x.calNextMain + 300 * 102400000 })) ∧
     (∀ zero full : List (BitVec 4), ∀ isMain : Bool, x.calOn = some isMain →
       x.calPoint + 409600 ≤ s.m.clk → zero.length = 20480 → full.length = 20480 →
       readsClean s.m (granOf (parAddr c 0x10)) → s.m.hasRoom →
       let z := calReading zero
       let gain := div64 (u75 x) (sub64 (calReading full) z)
       let off := mul64 (gain ^^^ 0x8000000000000000) z
       let fg := wide (if isMain then x.cfg.mainGain else x.cfg.shadGain)
       let fo := wide (if isMain then x.cfg.mainOff else x.cfg.shadOff)
       -- 0.02 of the factory gain, and 0.005 of the span
       let near : Bool := (f64 gain).finite && (f64 off).finite &&
         le64 (abs64 (sub64 gain fg)) (mul64 0x3F947AE147AE147B (abs64 fg)) &&
         le64 (abs64 (sub64 off fo)) (mul64 0x3F747AE147AE147B (spanOf x))
       let o := if isMain then 0x10 else 0x18
       ∃ t, exec (.calibrationResult c zero full) s = .next t ∧ (t.m.chans.get c).calOn = none ∧
         let path : Path := if isMain then (t.m.chans.get c).main else (t.m.chans.get c).shadow
         if near then
           path.cal = 1 ∧ path.gain = wide (narrow gain) ∧ path.offset = wide (narrow off) ∧
             par t.m c o = narrow gain ∧ par t.m c (o + 4) = narrow off
         else path.cal = 2 ∧ path.gain = fg ∧ path.offset = fo ∧ t.m.mem = s.m.mem ∧
           ∃ q, t.m.faults.queue = s.m.faults.queue ++ [q] ∧ q.code = 0x0503) ∧
     (∀ p : Probe,
       let rests : Prop := x.mode = 0 ∨ (s.m.pwr.railLow = true ∧ drivesT x = true)
       let seen (found : Bool) (n : Nat) (b : Bool) : Nat × Bool :=
         if found = b then (0, b) else if n + 1 < 3 then (n + 1, b) else (0, found)
       let o := seen (finds x p).1 x.openCnt x.openSet
       let h := seen (finds x p).2 x.shortCnt x.shortSet
       let new : Bool := (o.2 && !x.openSet) || (h.2 && !x.shortSet)
       (rests → exec (.detectorEval c p) s = leaves s s.m) ∧
       (¬ rests → becomes (.detectorEval c p) { x with
         openCnt := o.1, openSet := o.2, shortCnt := h.1, shortSet := h.2
         evtNow := if new then x.evtNow ||| 4 else x.evtNow })) ∧
     (x.mode = 7 ∨ x.mode = 9 → isOn x.drive = true →
       (x.shortOff = none → becomes (.shortSwitchOff c) { x with
         shortOff := some s.m.clk, shortSet := true, shortCnt := 0
         evtNow := if x.shortSet then x.evtNow else x.evtNow ||| 4 }) ∧
       (∀ still t0, x.shortOff = some t0 → t0 + 10240000 ≤ s.m.clk →
         becomes (.shortRetry c still) { x with shortOff := if still then some s.m.clk else none })))

/-- R291 to R295: a HART modem takes a request, sends it, takes the answer or gives up, and learns its device's address. -/
def Obligations.HartTransactions : Prop :=
  ∀ (s : State) (c : BitVec 8),
    let x := s.m.chans.get c
    let h := x.hart
    let ctl := par s.m c 0x200
    let len := ctl.toNat / 2 ^ 8 % 2 ^ 8
    let clean : Prop := ∀ k, k < 32 → readsClean s.m (granOf (parAddr c 0x200) + k)
    let isOn : Prop := x.mode = 10 ∨ x.mode = 11
    let hart (t : State) : Hart := (t.m.chans.get c).hart
    let told (t : State) : Prop := (t.m.ints.get (s.m.owner.get c)).getLsbD 1 = true
    let quiet : Prop := h.quiet = 0 ∨ h.quiet + 2048000 ≤ s.m.clk
    let sends (i : Instr) (f : List Byte) (y : Hart) : Prop := ∃ t, exec i s = .next t ∧
      t.m.outbox = s.m.outbox ++ [Out.hart c f] ∧ hart t = y
    let bytes (at_ n : Nat) (t : State) : List Byte := (range at_ n).map fun k => hwRead8 (parAddr c k) t.m
    (isOn → clean → ctl.getLsbD 0 = true →
      ∃ t, exec (.hartGoAccept c) s = .next t ∧ par t.m c 0x200 = ctl - 1 ∧
        (h.state = 1 ∨ h.state = 2 ∨ h.state = 3 → hart t = h) ∧
        (¬(h.state = 1 ∨ h.state = 2 ∨ h.state = 3) →
          (1 ≤ len ∧ len ≤ 240 → hart t = { h with state := 1, tries := 0 } ∧ (par t.m c 0x204).toNat % 8 = 1) ∧
          (len = 0 ∨ 240 < len → hart t = { h with state := 6 } ∧ (par t.m c 0x204).toNat % 8 = 6 ∧ told t))) ∧
    (isOn → h.state = 1 → h.idValid = true → h.idRun = false → quiet → clean →
      (1 ≤ len → len ≤ 240 → sends (.hartTransmit c) (bytes 0x210 len s)
        { h with state := 2, tries := h.tries + 1, txEnd := s.m.clk + (6 + len) * 11 * 102400000 / 1200 }) ∧
      (len = 0 ∨ 240 < len → ∃ t, exec (.hartTransmit c) s = .next t ∧ hart t = { h with state := 6 } ∧ told t ∧
        t.m.outbox = s.m.outbox)) ∧
    (∀ (frame : List Byte) (id : BitVec 40), isOn → h.state = 3 → h.idWait = false → clean → frame.length < 256 →
      (∃ t, exec (.hartResponse c frame true true id) s = .next t ∧
        hart t = { h with state := 4, quiet := s.m.clk, rxLen := BitVec.ofNat 8 frame.length } ∧
        bytes 0x300 frame.length t = frame ∧ told t) ∧
      (∃ t, exec (.hartResponse c frame true false id) s = .next t ∧
        hart t = { h with state := if h.tries = 3 then 6 else 1, quiet := s.m.clk } ∧ (h.tries = 3 → told t)) ∧
      (∃ t, exec (.hartResponse c frame false true id) s = .next t ∧
        hart t = { h with quiet := s.m.clk, discard := satInc h.discard })) ∧
    (∀ (frame : List Byte) (id : BitVec 40), isOn → h.state = 0 → h.idWait = true → clean → frame.length ≤ 256 →
      ∃ t, exec (.hartResponse c frame true true id) s = .next t ∧
        hart t = { h with quiet := s.m.clk, idRun := false, idWait := false, idValid := true } ∧
        bytes 0x208 5 t = bytesOf id 0 5) ∧
    (isOn → h.state = 3 → h.idWait = false → h.txEnd + 31232000 ≤ s.m.clk → ∃ t, exec (.hartTimeout c) s = .next t ∧
      hart t = { h with state := if h.tries = 3 then 5 else 1 } ∧ (h.tries = 3 → told t)) ∧
    (isOn → h.idRun = true → h.idWait = false → h.idNext ≤ s.m.clk → h.state = 0 → quiet →
      sends (.hartIdentitySequence c) [0x02, 0x80, 0x00, 0x00]
        { h with idWait := true, idTries := h.idTries + 1, txEnd := s.m.clk + 10 * 11 * 102400000 / 1200 })

/-- R139, R327, R328, R332, R335, R336, R340: the registers of a channel, for the keeper and the channel's owner, and its event.
An access by another is refused. -/
def Obligations.ChannelRegisters : Prop :=
  ∀ (s : State) (w : Who) (c : BitVec 8) (v : W32), s.m.live →
    let x := s.m.chans.get c
    let may : Prop := byKeeper w ∨ (w.master = .replica ∧ s.m.owner.get c = w.comp)
    let becomes (i : Instr) (y : Chan) : Prop := exec i s = leaves s (modChan c (fun _ => y) s.m)
    let commission : Bool := decide (s.m.mode.mode = .commission)
    let y : Chan := { x with
      comEn := if commission then v.getLsbD 1 else x.comEn, evtEn := (v >>> 16).setWidth 8
      outfail := x.outfail && !v.getLsbD 13, strmErr := x.strmErr && !v.getLsbD 14 }
    let commit (z : Chan) : Prop := becomes (.channelCommitRequest w c v) z
    (may → becomes (.channelStagedWrite w c 0 v) { x with stMode := v } ∧
      becomes (.channelStagedWrite w c 1 v) { x with stProc := v } ∧
      becomes (.channelStagedWrite w c 2 v) { x with stLim := v } ∧
      becomes (.channelStagedWrite w c 3 v) { x with stSafe := v }) ∧
    (may → v.getLsbD 2 = x.live →
      (x.cpend = true → commit y) ∧
      (x.cpend = false → s.m.mode.mode = .commission ∨ s.m.mode.mode = .operate →
        (x.ramping = false → x.rampDue = false → commit { y with cpend := true }) ∧
        (x.ramping = true ∨ x.rampDue = true → commit { y with
          cpend := true, held := true, holdAt := none, reenPend := decide (x.stMode.toNat % 16 ≠ 0) })) ∧
      (x.cpend = false → s.m.mode.mode ≠ .commission → s.m.mode.mode ≠ .operate → commit { y with
        cres := 3, held := false, holdAt := none, reenPend := false, evtNow := x.evtNow ||| 0x10 })) ∧
    (may → v.getLsbD 0 = false → let sets (z : Chan) : Prop := becomes (.liveSet w c v) z
      (v.getLsbD 2 = x.live → sets y) ∧
      (v.getLsbD 2 = true → x.live = false → s.m.mode.mode = .commission → sets { y with
        live := true, liveBad := 0, stProc := x.cfg.proc, stLim := x.cfg.lim, stSafe := x.cfg.safe }) ∧
      (v.getLsbD 2 = true → x.live = false → s.m.mode.mode ≠ .commission → sets y) ∧
      (v.getLsbD 2 = false → x.live = true → sets { y with live := false, liveBad := 0 })) ∧
    (may → ∃ d : W32, exec (.chCtlstatRead w c) s
        = leaves s ((modChan c (fun x => { x with evt := 0 }) s.m).read d) ∧
      d.getLsbD 1 = x.comEn ∧ d.getLsbD 2 = x.live ∧ d.getLsbD 3 = x.cpend ∧ d.getLsbD 4 = x.reenPend ∧
      d.getLsbD 5 = x.ramping ∧ d.toNat / 2 ^ 6 % 2 ^ 2 = x.cres.toNat ∧ d.toNat / 2 ^ 8 % 2 ^ 5 = x.cfail.toNat ∧
      d.getLsbD 13 = x.outfail ∧ d.getLsbD 14 = x.strmErr ∧ d.toNat / 2 ^ 16 % 2 ^ 8 = x.evtEn.toNat ∧
      d.toNat / 2 ^ 24 = x.evt.toNat) ∧
    (w.master = .replica → ¬ may → s.m.hasRoom → ∀ i ∈ [Instr.channelCommitRequest w c v, .channelStagedWrite w c 0 v,
        .liveSet w c v, .timCtlWrite w c v, .timTopWrite w c v],
      ∃ t f, exec i s = .next t ∧ t.m.chans = s.m.chans ∧ t.m.faults.queue = s.m.faults.queue ++ [f] ∧ f.code = 0x0205) ∧
    (s.m.tick.edgeAt + 204 ≤ s.m.clk → let on := x.evtNow &&& x.evtEn
      ∃ t, exec (.channelEvent c) s = .next t ∧ t.m.chans.get c = { x with evt := x.evt ||| on, evtNow := 0 } ∧
        t.m.ints.get (s.m.owner.get c) = s.m.ints.get (s.m.owner.get c) ||| (if on = 0 then 0 else 2))

/-- R301, R304, R308 to R311, R334: an output sample of an analogue channel: both paths filtered, calibrated and linearised, the
comparison of the two, and what makes the sample valid. A ramp ends with the output at zero. -/
def Obligations.SamplesAndRamps : Prop :=
  ∀ (s : State) (c : BitVec 8) (mc sc : List (BitVec 4)) (levels : List (Int × Int)) (above : BitVec 2),
    let x := s.m.chans.get c
    let g := x.cfg
    let samples : Prop := s.m.mode.mode = .commission ∨ s.m.mode.mode = .operate ∨ s.m.mode.mode = .hardpan ∨
      (s.m.mode.mode = .sleep ∧ isOutMode x.mode = true)
    let run : Res := exec (.outputSample c mc sc levels above) s
    let a := pathSample g mc x.main
    let b := pathSample g sc x.shadow
    let va := g.stage34 a.2 a.1
    let vb := g.stage34 b.2 b.1
    let differs : Bool := decide (lt64 (wide g.div) (abs64 (sub64 va vb)) = true)
    (x.live = false → x.mode = 0 ∨ x.frozen = true ∨ ¬ samples → run = leaves s s.m) ∧
    (x.live = false → x.mode ≠ 0 → x.mode ≠ 6 → x.mode ≠ 8 → x.frozen = false → samples → mc.length = g.ratio →
      sc.length = g.ratio → x.calOn = none → x.altBack = false → g.strm = false →
      ∃ t, let y := t.m.chans.get c
        run = .next t ∧ y.value = narrow va ∧ y.aux = (if 0 < x.shadow.settle then nan32 else narrow vb) ∧
        y.isNew = true ∧ y.samples = x.samples + 1 ∧ y.main.settle = x.main.settle - 1 ∧
        y.status.getLsbD 1 = decide (0 < x.main.settle) ∧ y.status.getLsbD 14 = false ∧
        t.m.mem = s.m.mem ∧ t.m.faults = s.m.faults ∧ t.m.engines = s.m.engines ∧
        (x.main.settle = 0 → x.shadow.settle = 0 → g.lim.getLsbD 5 = true → differs = true →
          y.divRun = x.divRun + 1 ∧ (g.divCnt ≤ x.divRun + 1 → y.status.getLsbD 2 = true ∧ y.status.getLsbD 0 = false)) ∧
        (0 < x.main.settle ∨ refsGood s.m c = false ∨ above.getLsbD 0 = true ∨ s.m.mode.mode = .hardpan →
          y.status.getLsbD 0 = false) ∧
        (x.main.settle = 0 → refsGood s.m c = true → above.getLsbD 0 = false → s.m.mode.mode ≠ .hardpan →
          x.openSet = false → x.shortSet = false → g.mode.getLsbD 8 = false → g.lim.getLsbD 5 = false →
          s.m.pwr.railLow = false →
          y.status.getLsbD 0 = true ∧ (g.lim.getLsbD 0 = true → le64 (wide g.hh) va = true → y.status.getLsbD 3 = true) ∧
            (g.lim.getLsbD 3 = true → le64 va (wide g.ll) = true → y.status.getLsbD 6 = true))) ∧
    (x.ramping = true → s.m.clk < x.rampAt + x.rampLen → ∃ t, exec (.rampEnd c) s = .next t ∧
      t.m.clk = x.rampAt + x.rampLen ∧ (t.m.chans.get c).drive = 0 ∧ (t.m.chans.get c).ramping = true)

/-- R343, R347, R349 to R352, R354, R355: the timer registers of a channel.
R342, R346, R348, R349, R356, R357: a waveform reaches its next period start or crossing, in the clock that its count gives;
edges of a pulse input are counted and timed; a period that is too long times out. -/
def Obligations.Timers : Prop :=
  (∀ (s : State) (w : Who) (c : BitVec 8) (v : W32), s.m.live →
     byKeeper w ∨ (w.master = .replica ∧ s.m.owner.get c = w.comp) →
     let x := s.m.chans.get c
     let t := x.timer
     let becomes (i : Instr) (y : Timer) : Prop := exec i s = leaves s (modChan c (fun x => { x with timer := y }) s.m)
     let low : Nat := v.toNat % 2 ^ 8
     let high : Nat := v.toNat / 2 ^ 8 % 2 ^ 8
     let n := t.count.toNat
     let sound : Bool := decide ((n < t.cmp.toNat ∧ n < v.toNat) ∨ (t.cmp.toNat ≤ n ∧ v.toNat ≤ n))
     becomes (.timCtlWrite w c v) { t with
       next := some (v.setWidth 9), werr := t.werr && !v.getLsbD 11, mwarn := t.mwarn && !v.getLsbD 12 } ∧
     (2 ≤ v.toNat → becomes (.timTopWrite w c v) { t with top := v }) ∧
     (v.toNat < 2 → becomes (.timTopWrite w c v) { t with werr := true }) ∧
     (x.mode = 9 → becomes (.timCmpWrite w c v) { t with werr := true }) ∧
     (x.mode ≠ 9 → becomes (.timCmpWrite w c v) { t with cmp := v, mwarn := t.mwarn || !sound }) ∧
     (low ≤ high → becomes (.timPhaseWrite w c v) { t with k := v.setWidth 8, nm1 := (v >>> 8).setWidth 8 }) ∧
     (high < low → becomes (.timPhaseWrite w c v) { t with werr := true }) ∧
     exec (.timPhaseRead w c) s = leaves s ((modChan c (fun x => { x with
       timer := { t with capHi := (t.cap >>> 32).setWidth 16, capd := t.capPresent } }) s.m).read (t.cap.setWidth 32))) ∧
  (∀ (s : State) (c : BitVec 8),
     let x := s.m.chans.get c
     let t := x.timer
     let n := t.count.toNat
     let after (u : State) : Timer := (u.m.chans.get c).timer
     let told (k : Nat) (u : State) : Prop := t.evtEn.getLsbD k = true → (u.m.ints.get (s.m.owner.get c)).getLsbD 2 = true
     let runs (k : BitVec 3) : Prop := t.run = true ∧ t.stopped = false ∧ t.use = k
     (runs 1 → x.ramping = false → t.up = true → n < t.top.toNat → (t.ud = false →
         ∃ u, exec (.periodStart c) s = .next u ∧ u.m.clk = s.m.clk + (t.top.toNat - n + 1) ∧ (after u).count = 0 ∧
           told 0 u ∧ (x.mode = 9 → (after u).level = decide (0 < t.cmp.toNat))) ∧
       (n < t.cmp.toNat → t.cmp.toNat ≤ t.top.toNat →
         ∃ u, exec (.comparatorCrossing c) s = .next u ∧ u.m.clk = s.m.clk + (t.cmp.toNat - n) ∧
           (after u).count.toNat = t.cmp.toNat ∧ told 1 u ∧ (x.mode = 9 → (after u).level = false))) ∧
     (∀ dt, x.mode = 8 → ∃ u, exec (.pulseEdge c dt) s = .next u ∧
       (runs 2 → u.m.clk = s.m.clk + dt ∧ (after u).count = t.count + 1 ∧ (after u).edges = t.edges + 1) ∧
       (runs 3 → u.m.clk = s.m.clk + dt ∧ (after u).count = 0 ∧ (after u).edges = t.edges + 1 ∧
         (after u).last = s.m.clk + dt ∧ (after u).first = (if t.edges = 0 then s.m.clk + dt else t.first)) ∧
       (runs 4 → (after u).count = 0 ∧ (after u).latest = some (s.m.clk + dt) ∧ (after u).timedOut = false ∧
         ∀ l, t.latest = some l → (after u).period = BitVec.ofNat 48 (s.m.clk + dt - l) ∧ (after u).ended = true)) ∧
     (runs 4 → t.timedOut = false → let z := t.latest.getD t.since + t.top.toNat + 1
       s.m.clk < z → ∃ u, exec (.periodTimeout c) s = .next u ∧ u.m.clk = z ∧ (after u).timedOut = true ∧
         (after u).period = 0 ∧ told 3 u))

/-! ### The hosts -/

/-- R371, R372, R399, R400: the keeper writes and reads an entry of the host windows and opens the rings to the ports; a host
resets the module, and enables and disables its admin ring.
R366 to R368, R391, R395, R396: a port's reset takes its rings down and leaves the mode; a link comes up; the status page
shows the tick of its update at both ends.
R365, R384: on entry to HARDPAN the ports answer what they have fetched with ABORTED and the bytes moved before; in any
other mode they do not. -/
def Obligations.PortsAndTheirRings : Prop :=
  ((∀ (s : State) (w : Who) (v : W32) (p : Bool) (area : Addr),
      let h := s.m.host
      let x := portOf h p
      let gets (i : Instr) (n : HostIf) : Prop := exec i s = leaves s { s.m with host := n }
      let e := h.hw
      let pages : Nat := e.w2.toNat % 2 ^ 11
      let spare : Bool := decide (e.w0.toNat % 2 ^ 12 ≠ 0 ∨ e.w2.getLsbD 11 = true ∨ e.w2.toNat / 2 ^ 15 ≠ 0 ∨
        e.w3.toNat / 2 ^ 10 % 2 ^ 21 ≠ 0)
      let k : BitVec 2 := if e.w3.getLsbD 31 = false then 0 else if spare = true ∨ pages = 0 ∨ 1024 < pages then 2
        else if e.w3.toNat % 2 ^ 10 = 0 then 3 else 0
      let key : Prop := v.getLsbD 0 = true ∧ v.toNat / 2 ^ 16 = 0x5A3C
      let on : Prop := s.m.mode.mode ≠ .dormant ∧ x.up = true
      let open_ : Prop := on ∧ s.m.mode.mode ≠ .sleep ∧ s.m.mode.mode ≠ .hardpan
      let r : Byte := if p then 1 else 0
      let fit : Prop := x.asq.toNat % 4096 = 0 ∧ x.acq.toNat % 4096 = 0 ∧ 4 ≤ x.admCfg.toNat % 16 ∧ x.admCfg.toNat % 16 ≤ 12 ∧
        4 ≤ x.admCfg.toNat / 16 ∧ x.admCfg.toNat / 16 ≤ 12
      (s.m.live → byKeeper w →
        (v.getLsbD 1 = false → s.m.clk < h.busyUntil → gets (.hostWindowWrite w v) { h with err := 1 }) ∧
        (v.getLsbD 1 = false → h.busyUntil ≤ s.m.clk → gets (.hostWindowWrite w v) { h with
          err := k, win := if k = 0 then h.win.set h.sel e else h.win, busyUntil := s.m.clk + (Config.entryBusy s.m.clk).val }) ∧
        (v.getLsbD 0 = false → gets (.hostWindowRead w v)
          { h with hw := h.win.get h.sel, busyUntil := max h.busyUntil (s.m.clk + (Config.entryBusy s.m.clk).val) }) ∧
        gets (.kreadySet w v) { h with kready := true }) ∧
      (on → key → s.m.mode.mode = .operate →
        exec (.hpResetWrite p v) s = leaves s (modPort p (fun y => { y with rstRef := true }) s.m)) ∧
      (on → key → s.m.mode.mode ≠ .operate → s.m.mode.mode ≠ .hardpan → s.m.pwr.pfw = false →
        s.m.watch.resetWanted = none → s.m.faults.queue = [] → s.m.sec.fuse.bootFault = none →
        ∃ t, exec (.hpResetWrite p v) s = .next t ∧ WasReset s t 1) ∧
      -- a power-fail warning comes first, and in HARDPAN the outputs, before the reset
      (on → key → s.m.mode.mode ≠ .operate → s.m.mode.mode ≠ .hardpan → s.m.pwr.pfw = true →
        exec (.hpResetWrite p v) s = leaves s { s.m with watch := { s.m.watch with resetWanted := some 1 } }) ∧
      (on → key → s.m.mode.mode = .hardpan → s.m.faults.hpSafe = false ∨ s.m.pwr.pfw = true →
        exec (.hpResetWrite p v) s = leaves s { s.m with watch := { s.m.watch with resetWanted := some 3 } }) ∧
      (on → key → s.m.mode.mode = .hardpan → s.m.faults.hpSafe = true → s.m.pwr.pfw = false → s.m.faults.queue = [] →
        s.m.sec.fuse.bootFault = none → ∃ t, exec (.hpResetWrite p v) s = .next t ∧ WasReset s t 3) ∧
      (on → ¬ key → exec (.hpResetWrite p v) s = leaves s s.m) ∧
      (open_ → (ringOf s.m r).st = .free →
        (¬ fit → exec (.adminRingEnable p area) s = leaves s (modPort p (fun y => { y with admErr := true }) s.m)) ∧
        (fit → ∃ t, let y := ringOf t.m r
          exec (.adminRingEnable p area) s = .next t ∧ y.st = .active ∧ y.owner = 1 ∧ y.port = p ∧ y.sqAddr = x.asq ∧
          y.cqAddr = x.acq ∧ y.ns = 2 ^ (x.admCfg.toNat % 16) ∧ y.nc = 2 ^ (x.admCfg.toNat / 16) ∧ y.phase = true ∧
          y.f = y.t ∧ y.outstanding = 0)) ∧
      (open_ → (ringOf s.m r).st = .active → ∃ t, exec (.adminRingDisable p) s = .next t ∧
        (ringOf t.m r).st = .deleting ∧ (ringOf t.m r).delAt = s.m.clk + 10240000)) ∧
   (∀ (s : State) (p : Bool), s.m.mode.mode ≠ .dormant →
      let x := portOf s.m.host p
      let other := portOf s.m.host (!p)
      (∀ perst, perst = true ∨ x.up = true → ∃ t, exec (.portReset p perst) s = .next t ∧
        portOf t.m.host p = { HPort.reset with perst := perst } ∧ t.m.mode = s.m.mode ∧
        (∀ r : Byte, (ringOf s.m r).port = p → (ringOf s.m r).st ≠ .free →
          if 2 ≤ r.toNat ∧ (ringOf s.m r).st = .active
          then (ringOf t.m r).st = .down ∧ (ringOf t.m r).outstanding = 0
          else (ringOf s.m r).st = .active ∨ (ringOf s.m r).st = .deleting → (ringOf t.m r).st = .free) ∧
        (∀ r : Byte, (ringOf s.m r).port ≠ p → (ringOf t.m r).st = (ringOf s.m r).st)) ∧
      (∀ perst, perst = true ∨ x.up = true → (∀ r : Byte, (ringOf s.m r).port = p → (ringOf s.m r).st = .free) →
        s.m.hasRoom → ∃ t f, exec (.portReset p perst) s = .next t ∧ t.m.faults.queue = s.m.faults.queue ++ [f] ∧
          f.code = 0x0901 ∧ f.arg = (if p then 1 else 0) ∧ t.m.mem = s.m.mem) ∧
      exec (.perstDeassert p) s = leaves s (modPort p (fun y => { y with perst := false }) s.m) ∧
      (∀ b e, x.perst = false → x.up = false → s.m.watch.mainLost = false → ∃ t, exec (.pcieLinkUp p b e) s = .next t ∧
        portOf t.m.host p = { x with up := true, busMaster := b, msixEn := e } ∧
        (other.up = true → other.msixEn = true → other.oneShot.getLsbD 5 = false → msixMasked other 1029 = false →
          t.m.outbox = s.m.outbox ++ [Out.msix (!p) 1029])) ∧
      (s.m.watch.mainLost = false → s.m.pwr.pfw = false → ∃ t, exec .statusPageUpdate s = .next t ∧
        s.m.tick.edgeAt + 2048 ≤ t.m.clk ∧ ∀ i, i < 8 →
          look 0 t.m.host.page i = byteOf s.m.tick.count i ∧ look 0 t.m.host.page (0x3FFF8 + i) = byteOf s.m.tick.count i ∧
          (i < 4 → look 0 t.m.host.page (8 + i) = byteOf (modeStatWord s.m.mode) i)))) ∧
  (∀ (s : State) (r : Byte),
     (s.m.mode.mode ≠ .hardpan → exec .hostAbortCompletions s = leaves s s.m) ∧
     (s.m.mode.mode = .hardpan → ∃ t, exec .hostAbortCompletions s = .next t ∧ t.m.mem = s.m.mem ∧ t.m.mode = s.m.mode ∧
       ((ringOf s.m r).st = .active ∨ (ringOf s.m r).st = .deleting →
         (ringOf t.m r).msgs = [] ∧ (s.m.host.removal = false → (ringOf t.m r).svcs = []))) ∧
     (∀ y : Msg, s.m.mode.mode = .hardpan → s.m.host.removal = false → s.m.host.irqs = [] → canAnswer s.m r →
       (ringOf s.m r).msgs = [y] → (ringOf s.m r).svcs = [] → y.irq = false →
       (∀ q : Byte, q ≠ r → (ringOf s.m q).msgs = [] ∧ (ringOf s.m q).svcs = []) →
       ∃ t, exec .hostAbortCompletions s = .next t ∧ Answered s t r ⟨0, 0, y.moved, y.cid, 9, false⟩ [] ∧
         (ringOf t.m r).msgs = []) ∧
     (∀ (cid : BitVec 16), s.m.mode.mode = .hardpan → s.m.host.removal = false → s.m.host.irqs = [] → canAnswer s.m r →
       (ringOf s.m r).msgs = [] → (ringOf s.m r).svcs = [(cid, false)] →
       (∀ q : Byte, q ≠ r → (ringOf s.m q).msgs = [] ∧ (ringOf s.m q).svcs = []) →
       ∃ t, exec .hostAbortCompletions s = .next t ∧ Answered s t r ⟨0, 0, 0, cid, 9, false⟩ [] ∧
         (ringOf t.m r).svcs = []))

/-- R374, R376 to R379, R381, R382, R384, R385: doorbells, fetched descriptors, answers that firmware has posted. -/
def Obligations.RingsAndDescriptors : Prop :=
  ∀ (s : State) (p : Bool) (r : Byte) (v : W32),
    let x := ringOf s.m r
    let up : Prop := s.m.mode.mode ≠ .dormant ∧ (portOf s.m.host p).up = true
    let running : Prop := s.m.host.kready = true ∧
      (s.m.mode.mode = .wake ∨ s.m.mode.mode = .commission ∨ s.m.mode.mode = .operate)
    let mine (page : BitVec 10) (n : Nat) : Prop := x.st = .active ∧ x.owner = page ∧ x.port = p ∧ v.toNat < n
    let drops (i : Instr) : Prop := exec i s = leaves s (modPort p (fun y => { y with dropped := satInc y.dropped }) s.m)
    (∀ page : BitVec 10, up → ¬(page = 0 ∧ r = 0) →
      (running → mine page x.ns →
        exec (.sqTailDoorbell p page r v) s = leaves s (modRing r (fun y => { y with t := v.setWidth 16 }) s.m)) ∧
      (¬ mine page x.ns ∨ s.m.host.kready = false ∨ s.m.mode.mode = .hardpan → drops (.sqTailDoorbell p page r v))) ∧
    (∀ page : BitVec 10, up → x.waiting = [] →
      (running → mine page x.nc →
        exec (.cqHeadDoorbell p page r v) s = leaves s (modRing r (fun y => { y with cqHead := v.setWidth 16 }) s.m)) ∧
      (¬ mine page x.nc ∨ s.m.host.kready = false ∨ s.m.mode.mode = .hardpan → drops (.cqHeadDoorbell p page r v))) ∧
    (up → running → exec (.keeperDoorbell p v) s
      = leaves s { s.m with ints := s.m.ints.upd 0 fun i => i ||| 1 }) ∧
    (up → ¬ running → s.m.mode.mode ≠ .sleep → drops (.keeperDoorbell p v)) ∧
    (∀ (d : BitVec 512) (data : List Byte), mayFetch s.m r = true → x.fmt = false →
      let n := d.toNat / 2 ^ 32 % 2 ^ 32
      let dma : Prop := d.getLsbD 8 = true ∨ d.getLsbD 9 = true
      let bad : Prop := d.toNat / 2 ^ 11 % 2 ^ 5 ≠ 0 ∨ d.toNat / 2 ^ 164 % 2 ^ 28 ≠ 0 ∨ (dma ∧ (n = 0 ∨ 0x100000 < n)) ∨
        (d.toNat % 2 ^ 8 < 0x40 ∧ d.toNat / 2 ^ 128 % 2 ^ 36 ≠ 0)
      let taken (t : State) : Prop := (ringOf t.m r).f.toNat = (x.f.toNat + 1) % x.ns
      (bad → canAnswer s.m r → ∃ t, exec (.descriptorFetch r d data) s = .next t ∧ taken t ∧
        Answered s t r (reply d 0x0A 0 0) []) ∧
      (¬ bad → d.toNat % 2 ^ 8 < 0x40 → ∃ t, exec (.descriptorFetch r d data) s = .next t ∧ taken t ∧
        t.m.host.svc = s.m.host.svc ++ [⟨r, d⟩] ∧ (ringOf t.m r).svcs = x.svcs ++ [(descCid d, descIrq d)] ∧
        (t.m.ints.get 0).getLsbD 0 = true) ∧
      (¬ bad → 0x40 ≤ d.toNat % 2 ^ 8 → ¬ dma → x.area.toNat % 16 = 0 →
        let slot : Addr := x.area + BitVec.ofNat 36 (0x40 + 64 * (x.inWr.toNat % x.ns))
        slot.toNat = x.area.toNat + 0x40 + 64 * (x.inWr.toNat % x.ns) → (portWrite x slot (bytesOf d 0 64) s.m).1 = true →
        ∃ t, exec (.descriptorFetch r d data) s = .next t ∧ taken t ∧ (ringOf t.m r).inWr = x.inWr + 1 ∧
          (ringOf t.m r).outstanding = x.outstanding + 1 ∧ (t.m.ints.get x.owner).getLsbD 0 = true ∧
          ∀ i, i < 64 → t.m.mem.byte (slot.toNat + i) = byteOf d i) ∧
      (¬ bad → 0x40 ≤ d.toNat % 2 ^ 8 → dma → quotaLimit s.m.host x.owner 1 < n → canAnswer s.m r →
        ∃ t, exec (.descriptorFetch r d data) s = .next t ∧ taken t ∧ Answered s t r (reply d 3 0 0) [])) ∧
    (mayFetch s.m r = true → canAnswer s.m r → ∃ t c, exec (.hostDmaTimeout r none []) s = .next t ∧
      Answered s t r c [] ∧ c.status = 5 ∧ c.xfer = 0 ∧ (ringOf t.m r).f.toNat = (x.f.toNat + 1) % x.ns) ∧
    (∀ (y : Msg) (l : List Byte), s.m.mode.mode ≠ .dormant → s.m.mode.mode ≠ .hardpan → canAnswer s.m r → x.st = .active →
      x.area ≠ 0 → (∀ q : Byte, q ≠ r → (ringOf s.m q).st = .free ∧ (ringOf s.m q).waiting = []) →
      s.m.host.attnHeld = false → s.m.host.removal = false → s.m.host.irqs = [] → x.msgs = [y] → y.dmaOut = false →
      y.irq = false → areaRead x 0x14 s.m = (x.outRd + 1, s.m) →
      portRead x (x.area + BitVec.ofNat 36 (0x40 + 64 * x.ns + 32 * (x.outRd.toNat % x.nc))) 32 s.m = (some l, s.m) →
      l.length = 32 → leNat ((l.drop 24).take 2) = y.k.toNat →
      ∃ t, exec .outboundPass s = .next t ∧ (ringOf t.m r).msgs = [] ∧ (ringOf t.m r).outRd = x.outRd + 1 ∧
        Answered s t r ⟨BitVec.ofNat 64 (leNat (l.take 8)), BitVec.ofNat 64 (leNat ((l.drop 8).take 8)), y.moved, y.cid,
          l.getD 30 0, false⟩ [])

/-- R365, R384, R387, R393, R425, R427, R438, R502, R504: the keeper's services that ask, report, set the tick and the mode,
release the outputs, reset the module, and prepare its removal. -/
def Obligations.Services : Prop :=
  ∀ (s : State) (r : Byte) (d : BitVec 512),
    let par32 (o : Nat) : W32 := BitVec.ofNat 32 (d.toNat / 2 ^ (8 * o) % 2 ^ 32)
    let len : Nat := d.toNat / 2 ^ 32 % 2 ^ 32
    let gives (i : Instr) (status : Byte) (r0 : W64) (ok : State → Prop) : Prop :=
      ∃ t pre, exec i s = .next t ∧ Answered s t r (reply d status r0 0) pre ∧ sentBytes pre = [] ∧ t.m.host.svc = [] ∧ ok t
    let sends (i : Instr) (r0 : W64) (l : List Byte) : Prop :=
      let n := if d.getLsbD 9 then min len l.length else 0
      ∃ t pre, exec i s = .next t ∧ Answered s t r (reply d 0 r0 n) pre ∧ sentBytes pre = l.take n ∧ t.m.host.svc = []
    (asked s.m 0 r d → gives .serviceNop 0 0 fun t => t.m.mem = s.m.mem ∧ t.m.mode = s.m.mode) ∧
    (asked s.m 1 r d → sends .identify 0 (identity s.m)) ∧
    (asked s.m 0xE r d → sends .readLog (BitVec.ofNat 64 (min s.m.faults.wr.toNat 127)) (logBytes s.m.faults)) ∧
    (asked s.m 0xF r d → s.m.sec.fuse.provisioned = true → ∃ k : Nat, 0 < k ∧ k < p384n ∧
      let body := reportBody (bytesOf d 0x18 32) s.m
      let l := body ++ ecdsaSign (kAtt s.m.sec) k body
      sends .attest (BitVec.ofNat 64 l.length) l) ∧
    (asked s.m 0xF r d → s.m.sec.fuse.provisioned = false → ∃ r0, gives .attest 8 r0 fun _ => True) ∧
    (asked s.m 0x10 r d →
      let period := (par32 0x1C).toNat % 2 ^ 17
      let limit := (par32 0x20).toNat % 2 ^ 16
      let reacq := (par32 0x20).toNat / 2 ^ 16 % 2 ^ 4
      let fit : Prop := 250 ≤ period ∧ period ≤ 100000 ∧ limit ≠ 0 ∧ reacq ≠ 0
      (fit → gives .setTick 0 0 fun t => t.m.tick = { s.m.tick with
        srcNext := some ((par32 0x18).getLsbD 0), periodNext := some (BitVec.ofNat 17 period)
        limitNext := some (BitVec.ofNat 16 limit), reacqNext := some (BitVec.ofNat 4 reacq) }) ∧
      (¬ fit → gives .setTick 2 0 fun t => t.m.tick = s.m.tick)) ∧
    (asked s.m 0xA r d → (par32 0x18).toNat % 2 ^ 8 = 4 → s.m.mode.mode = .operate → s.m.mode.pend = none →
      ∃ e, gives .modeRequest 0 e fun t => t.m.mode.pend = some .sleep ∧ t.m.mode.pendTick = e ∧ t.m.mode.mode = .operate) ∧
    (asked s.m 0xA r d → (par32 0x18).toNat % 2 ^ 8 = 4 → s.m.mode.mode = .commission →
      gives .modeRequest 8 1 fun t => t.m.mode = { s.m.mode with refuse := 1 }) ∧
    (asked s.m 0xB r d → s.m.yl.pres = false → gives .outRelease 0 0 fun t => t.m.mode = { s.m.mode with outRel := true }) ∧
    (asked s.m 0xB r d → mayRelease s.m = false → ∃ r0, gives .outRelease 8 r0 fun t => t.m.mode = s.m.mode) ∧
    (asked s.m 0x11 r d → (par32 0x18).toNat % 2 ^ 16 = 0x5A3C → s.m.pwr.pfw = false → s.m.faults.queue = [] →
      s.m.sec.fuse.bootFault = none → ∃ t, exec .resetModule s = .next t ∧ WasReset s t 2) ∧
    (asked s.m 0x11 r d → (par32 0x18).toNat % 2 ^ 16 ≠ 0x5A3C → gives .resetModule 2 0 fun t => t.m.mode = s.m.mode) ∧
    (asked s.m 0x12 r d → ∃ t, exec .prepareRemoval s = .next t ∧ t.m.host.removal = true ∧
      t.m.host.removalBy = some (r, descCid d, descIrq d) ∧ t.m.host.svc = [] ∧ t.m.yl.rmv = true ∧
      (s.m.mode.mode = .operate → s.m.mode.outRel = false → s.m.mode.pend = none → t.m.mode.pend = some .sleep)) ∧
    (s.m.mode.mode ≠ .dormant → s.m.host.kready = true → keeperUp s.m = true → s.m.host.svc = [⟨r, d⟩] → canAnswer s.m r →
      let opc := d.toNat % 2 ^ 8
      (0x13 ≤ opc → gives .invalidOpcode 1 0 fun t => t.m.mem = s.m.mem ∧ t.m.mode = s.m.mode) ∧
      -- a ring or a mode that the table of R387 does not permit
      (opc = 0x10 → 2 ≤ r.toNat → gives .setTick 7 0 fun t => t.m.tick = s.m.tick) ∧
      (opc = 0x10 → r.toNat < 2 → s.m.mode.mode = .operate → gives .setTick 6 0 fun t => t.m.tick = s.m.tick))

/-- R371, R375, R387 to R389, R392 to R394: the services that make and delete rings, map windows, set quotas and hand out pages,
and those that bring images and schedules. The pages, and the places at which an image is staged, are the keeper's choice. -/
def Obligations.ResourceServices : Prop :=
  ∀ (s : State) (r : Byte) (d : BitVec 512) (c : BitVec 10) (area : Addr),
    let field (o n : Nat) : Nat := d.toNat / 2 ^ (8 * o) % 2 ^ n
    let gives (i : Instr) (status : Byte) (r0 : W64) (ok : State → Prop) : Prop :=
      ∃ t pre, exec i s = .next t ∧ Answered s t r (reply d status r0 0) pre ∧ sentBytes pre = [] ∧ t.m.host.svc = [] ∧ ok t
    let h := s.m.host
    let named : Prop := field 0x18 16 = c.toNat
    let n : Nat := field 0x1C 32
    (∀ x q f, asked s.m 2 r d → ringArgs d = some x → freeRingId s.m = some q → freeFence s.m = some f → q ≠ r →
      let k := areaPages x.ns x.nc
      (pagesOf h x.owner + k ≤ quotaLimit h x.owner 3 → pagesFree s.m area k = true →
        gives (.createRing area) 0 (q.setWidth 64) fun t => ringOf t.m q = { x with st := .active, area := area, phase := true } ∧
          t.m.host.allocs = h.allocs ++ [⟨x.owner, area, k⟩] ∧ (t.m.mc.fence.get f).valid = true ∧
          (t.m.mc.fence.get f).comp = x.owner) ∧
      (quotaLimit h x.owner 3 < pagesOf h x.owner + k → gives (.createRing area) 3 0 fun t => ringOf t.m q = ringOf s.m q)) ∧
    (asked s.m 2 r d → field 0x18 16 < 2 ∨ field 0x1A 4 < 4 → gives (.createRing area) 2 0 fun t => t.m.mem = s.m.mem) ∧
    (∀ q : Byte, asked s.m 3 r d → field 0x18 8 = q.toNat → 2 ≤ q.toNat → q ≠ r →
      (ringOf s.m q).st = .active ∨ (ringOf s.m q).st = .down → (region ((ringOf s.m q).area + 8)).isMem = true →
      ∃ t, exec .deleteRing s = .next t ∧
        (ringOf t.m q).st = .deleting ∧ (ringOf t.m q).delBy = some (r, descCid d, descIrq d) ∧
        (ringOf t.m q).delAt = s.m.clk + 10240000 ∧ t.m.outbox = s.m.outbox ∧ t.m.host.svc = []) ∧
    (asked s.m 3 r d → field 0x18 8 < 2 → gives .deleteRing 2 0 fun t => ∀ q, (ringOf t.m q).st = (ringOf s.m q).st) ∧
    (∀ q : Byte, let x := ringOf s.m q
      s.m.mode.mode ≠ .dormant → x.st = .deleting → x.delBy = some (r, descCid d, descIrq d) → q ≠ r → canAnswer s.m r →
      (region (x.area + 8)).isMem = true → ∃ t pre, exec (.deleteRingTimeout q) s = .next t ∧
        Answered s t r (reply d 0 (BitVec.ofNat 64 x.outstanding) 0) pre ∧ (ringOf t.m q).st = .free ∧ x.delAt ≤ t.m.clk) ∧
    (∀ i : Byte, asked s.m 4 r d → named → freeWindow s.m = some i →
      let pages := field 0x1C 16
      let host := field 0x20 64
      (c ≠ 0 → 1 ≤ pages → pages ≤ 1024 → host % 4096 = 0 → windowsOf h c < quotaLimit h c 2 →
        gives .mapWindow 0 (i.setWidth 64) fun t => let w := t.m.host.win.get i
          w.valid = true ∧ w.owner = c ∧ w.pages = pages ∧ w.base.toNat = host ∧ w.reserved = false ∧
          w.w2.getLsbD 12 = d.getLsbD 208 ∧ w.w2.getLsbD 13 = d.getLsbD 209 ∧ w.w2.getLsbD 14 = d.getLsbD 210) ∧
      (c = 0 ∨ pages = 0 ∨ 1024 < pages ∨ host % 4096 ≠ 0 → gives .mapWindow 2 0 fun t => t.m.host.win = h.win)) ∧
    (asked s.m 5 r d → gives .unmapWindow 0 0 fun t => t.m.host.win = h.win.set (BitVec.ofNat 8 (field 0x18 8)) HostWin.reset) ∧
    (asked s.m 6 r d → named →
      let item := field 0x1A 8
      let lim : W32 := BitVec.ofNat 32 n
      let i : BitVec 3 := BitVec.ofNat 3 item
      let fit : Prop := 2 ≤ c.toNat ∧ item < 5 ∧ n ≤ ((h.quota.get c).ceil.get i).toNat
      let limits (t : State) : Prop := (t.m.host.quota.get c).limit = (h.quota.get c).limit.set i lim
      (¬ fit → gives .setQuota 2 0 fun t => t.m.host.quota = h.quota) ∧
      (fit → item ≠ 4 ∨ engineUse (bankBudgets s.m) c ≤ n → gives .setQuota 0 s.m.tick.count limits) ∧
      (fit → item = 4 → n < engineUse (bankBudgets s.m) c →
        gives .setQuota 0 (s.m.tick.count + 1) fun t => limits t ∧ t.m.tick.swapPend = true)) ∧
    (asked s.m 7 r d → named → (r.toNat < 2 ∨ (ringOf s.m r).owner = c →
        ∃ t a b, exec .getQuota s = .next t ∧ Answered s t r ⟨a, b, 0, descCid d, 0, descIrq d⟩ []) ∧
      (2 ≤ r.toNat → (ringOf s.m r).owner ≠ c → gives .getQuota 7 0 fun t => t.m.host.quota = h.quota)) ∧
    (asked s.m 8 r d → named → c ≠ 0 → field 0x1A 8 < 2 → n ≠ 0 →
      (pagesOf h c + n ≤ quotaLimit h c 3 → pagesFree s.m area n = true →
        (field 0x1A 8 = 1 ↔ 0x800000000 ≤ area.toNat) → gives (.allocPages area) 0 (area.setWidth 64) fun t =>
          t.m.host.allocs = h.allocs ++ [⟨c, area, n⟩] ∧ ∃ k, t.m.host.delivered = h.delivered ++ [k] ∧ k.1 = c ∧
            k.2.1.tag = true ∧ k.2.1.base = area ∧ k.2.1.owner = c) ∧
      (quotaLimit h c 3 < pagesOf h c + n → gives (.allocPages area) 3 0 fun t => t.m.host.allocs = h.allocs)) ∧
    (asked s.m 9 r d → named → field 0x20 64 = area.toNat → (∀ q : Byte, (ringOf s.m q).st = .free ∨ (ringOf s.m q).area ≠ area) →
      (∃ x ∈ h.allocs, x.comp = c ∧ x.addr = area) → gives .freePages 0 0 fun t =>
        t.m.host.allocs = h.allocs.filter fun x => !(decide (x.comp = c) && decide (x.addr = area))) ∧
    (∀ data : List Byte, asked s.m 0xC r d → named → c ≠ 0 → d.getLsbD 8 = true → field 4 32 ≤ data.length → s.m.sec.busy = false →
      let img := data.take (field 4 32)
      let hd : Header := ⟨img.take 0x140⟩
      (img.length < 0x140 ∨ hd.kind ≠ 2 ∨ hd.comp ≠ c.toNat →
        gives (.loadCompartment data area area) 2 0 fun t => t.m.mem = s.m.mem) ∧
      (∀ dst f, 0x140 ≤ img.length → hd.kind = 2 → hd.comp = c.toNat → hd.formOk = true → img.length = 0x140 + hd.len →
        freeFence s.m = some f → pagesFree s.m area ((img.length + 4095) / 4096) = true →
        pagesFree s.m dst ((hd.len + 4095) / 4096) = true →
        ∃ t k, exec (.loadCompartment data area dst) s = .next t ∧ Answered s t r k [] ∧ k.cid = descCid d ∧
          (k.status = 0 → (t.m.mc.fence.get f).valid = true ∧ (t.m.mc.fence.get f).locked = true ∧
            (t.m.mc.fence.get f).comp = c ∧ t.m.host.allocs = h.allocs ++ [⟨c, dst, (hd.len + 4095) / 4096⟩]) ∧
          (k.status ≠ 0 → k.status = 8 ∧ (t.m.mc.fence.get f).valid = false))) ∧
    (∀ data : List Byte, asked s.m 0xD r d → d.getLsbD 8 = true → field 4 32 = 0x20000 → data.length = 0x20000 →
      (bankOk data s.m = true → ∃ t, exec (.tilthUpdate data) s = .next t ∧
        Answered s t r (reply d 0 (s.m.tick.count + 1) 0x20000) [] ∧ t.m.tick = { s.m.tick with swapPend := true } ∧
        ∀ i, i < 0x20000 → t.m.mem.byte ((bankBase (!s.m.tick.active)).toNat + i) = data.getD i 0) ∧
      (bankOk data s.m = false → ∃ r0, gives (.tilthUpdate data) 8 r0 fun t => t.m.mem = s.m.mem ∧ t.m.tick = s.m.tick))

/-! ### Security -/

/-- R402, R404, R406, R421: the checks of a burn in their order, the bits that it leaves programmed, and the burn of the
floors. -/
def Obligations.FusesAreBurned : Prop :=
  ∀ (s : State) (w : Who) (v : W32),
    let x := s.m.sec
    let i := x.fSel.toNat
    let life : W32 := x.fuse.m0.get 0 ||| x.fuse.m0.get 1
    let key : Prop := v.toNat / 2 ^ 16 = 0x5A3C
    let inMode : Prop := s.m.mode.mode = .wake ∨ s.m.mode.mode = .commission ∨ s.m.mode.mode = .operate
    let may : Prop := i < 2 ∨ (148 ≤ i ∧ i < 162) ∨
      ((i < 34 ∨ (60 ≤ i ∧ i < 86) ∨ (112 ≤ i ∧ i < 192)) ∧ life.getLsbD 0 = false) ∨
      (((34 ≤ i ∧ i < 60) ∨ (86 ≤ i ∧ i < 112)) ∧ life.getLsbD 1 = false)
    let inOrder : Prop := ∀ j k, k < j → j < 32 → x.fMask.getLsbD j = true → life.getLsbD k = true
    let refused (k : BitVec 3) : Prop := exec (.fuseBurn w v) s = leaves s { s.m with sec := { x with fErr := k } }
    (s.m.live → byKeeper w →
      (x.burn ≠ none → refused 1) ∧
      (x.burn = none → ¬ key → refused 2) ∧
      (x.burn = none → key → ¬ inMode → refused 3) ∧
      (x.burn = none → key → inMode → ¬ may → refused 4) ∧
      (x.burn = none → key → inMode → may → i < 2 → ¬ inOrder → refused 5) ∧
      (x.burn = none → key → inMode → may → 2 ≤ i ∨ inOrder → exec (.fuseBurn w v) s
        = leaves s { s.m with sec := { x with fErr := 0, burn := some (x.fSel, x.fMask) } })) ∧
    (∀ (k : Byte) (mask fail weak : W32), x.burn = some (k, mask) →
      let want := mask &&& ~~~(s.fuses.m1.get k)
      ∃ t, exec (.fuseBurnComplete fail weak) s = .next t ∧ t.pending = s.pending ∧
        t.m = { s.m with sec := { x with
          fuse := t.fuses, burn := none, fErr := if want &&& fail = 0 then x.fErr else 6 } } ∧
        t.fuses.m1 = s.fuses.m1.set k (s.fuses.m1.get k ||| (mask &&& ~~~fail)) ∧
        t.fuses.m0 = s.fuses.m0.set k (s.fuses.m0.get k ||| (want &&& (~~~fail ||| weak)))) ∧
    (x.floorDue = true → s.m.mode.mode = .commission ∨ s.m.mode.mode = .operate → x.burn = none → s.m.pwr.pfw = false →
      x.fuse = s.fuses → ∃ t, exec (.floorBurn 0 0) s = .next t ∧
        t.m = { s.m with sec := { x with fuse := t.fuses, floorDue := false } } ∧
        ∀ (a : Byte) (j : Nat), j < 32 → ((t.fuses.m1.get a).getLsbD j = true ↔
          (s.fuses.m1.get a).getLsbD j = true ∨
          (150 ≤ a.toNat ∧ a.toNat < 158 ∧ 32 * (a.toNat - 150) + j < x.keyGen.toNat) ∨
          (158 ≤ a.toNat ∧ a.toNat < 162 ∧ 32 * (a.toNat - 158) + j < x.keySvn.toNat)))

/-- R409, R410, R416, R417, R426, R427, R429: the commands of the security engine, with the checks in their order, and what
each of them writes. -/
def Obligations.SecurityCommands : Prop :=
  ∀ (s : State) (w : Who), s.m.live → byKeeper w → (∀ g, readsClean s.m g) →
    let x := s.m.sec
    let a : Addr := (x.arg1.setWidth 4 : BitVec 4) ++ x.arg0
    let b : Addr := (x.arg3.setWidth 4 : BitVec 4) ++ x.arg2
    let reads (a : Addr) (n : Nat) : Prop := granted false s.m a n = true
    let writes (a : Addr) (n : Nat) : Prop := granted true s.m a n = true
    let ends (i : Instr) (k : BitVec 4) (ok : State → Prop) : Prop :=
      ∃ t, exec i s = .next t ∧ t.m.sec.busy = true ∧ t.m.sec.next = k ∧ ok t
    let still (t : State) : Prop := t.m.mem = s.m.mem ∧ t.m.sec.log = x.log
    let wrote (a : Addr) (l : List Byte) (t : State) : Prop := memBytes t.m a l.length = l ∧
      ∀ y, y < a.toNat ∨ a.toNat + l.length ≤ y → t.m.mem.byte y = s.m.mem.byte y
    (x.busy = true → ∀ i ∈ [Instr.verify w false false, .slotBuild w, .secAttest w, .recordMac w, .secInvalidCommand w 0],
      exec i s = leaves s { s.m with sec := { x with res := 1 } }) ∧
    (x.busy = false → ∀ k, ends (.secInvalidCommand w k) 2 still) ∧
    (x.busy = true → exec .secCommandComplete s
      = leaves s { s.m with sec := { x with busy := false, res := x.next, len := x.nextLen } }) ∧
    -- VERIFY
    (∀ nolog ksel : Bool, x.busy = false →
      let h : Header := ⟨memBytes s.m a 0x140⟩
      let ct := memBytes s.m (a + 0x140) h.len
      let pub := h.part 0x70 96
      let slot := if ksel then (newestSlot x).bind (slotOf x) else x.slotInForce
      let owners : Bool := decide (h.kind = 1 ∨ (h.kind = 2 ∧ h.comp ≠ 1))
      let key : Option (List Byte) :=
        if h.kind = 4 then
          if x.fuse.owned = true ∧ sha384 pub = hBytes x 34 12 then some (kPack x) else none
        else if owners = true then slot.bind fun k => if pub = k.pub then some k.key else none
        else if x.fuse.provisioned = true ∧ sha384 pub = hBytes x 8 12 then some (hBytes x 130 8) else none
      let old : Prop := (h.kind = 0 ∧ h.svn < x.fuse.svnFloor) ∨ (h.kind = 4 ∧ h.keyGen < x.fuse.keyFloor) ∨
        (owners = true ∧ ∀ k, slot = some k → h.keyGen ≠ k.gen.toNat)
      let i : Instr := .verify w ksel nolog
      (¬ reads a 0x140 → ends i 8 still) ∧
      (reads a 0x140 → h.formOk = false → ends i 2 still) ∧
      (reads a 0x140 → h.formOk = true → ¬ reads (a + 0x140) h.len → ends i 8 still) ∧
      (reads a 0x140 → h.formOk = true → reads (a + 0x140) h.len →
        (owners = true → slot = none → ends i 0xA still) ∧
        (¬(owners = true ∧ slot = none) → key = none → ends i 3 still) ∧
        (∀ k, key = some k →
          (old → ends i 4 still) ∧
          (¬ old → sha384 ct ≠ h.part 0x40 48 → ends i 5 still) ∧
          (¬ old → sha384 ct = h.part 0x40 48 → ecdsaVerify pub (h.part 0 0xD0) (h.part 0xD0 96) = false → ends i 6 still) ∧
          (¬ old → sha384 ct = h.part 0x40 48 → ecdsaVerify pub (h.part 0 0xD0) (h.part 0xD0 96) = true →
            let plain := gcmOpen k (h.part 0x18 12) (h.part 0 0x18) ct (h.part 0x24 16)
            (plain = none → writes b h.len → ends i 7 (wrote b (List.replicate h.len 0))) ∧
            (∀ p, plain = some p → ¬ writes b h.len → ends i 8 still) ∧
            (∀ p, plain = some p → p.length = h.len → writes b h.len →
              (nolog = true → ends i 0 fun t => wrote b p t ∧ t.m.sec.log = x.log) ∧
              (nolog = false → 1040 ≤ x.log.length → ends i 9 fun t => wrote b p t ∧ t.m.sec.log = x.log) ∧
              (nolog = false → x.log.length < 1040 → ends i 0 fun t => wrote b p t ∧ ∃ e, t.m.sec.log = x.log ++ [e] ∧
                e.bytes = h.part 0x40 48 ++ h.part 6 2 ++ h.part 4 2 ++ h.part 8 4 ++ bytesOf s.m.tick.count 0 8)))))) ∧
    -- SLOT_BUILD
    (x.busy = false →
      let pack := memBytes s.m a 0x1C0
      let slot : Addr := b &&& ~~~1
      let d : Byte := if x.slotOk = true ∧ x.bootStat.getLsbD 0 = false then 1 else 0
      let gen := (pack.drop 0xC).take 4
      let iv (last : Byte) : List Byte := gen ++ [d, 0, 0, 0, 0, 0, 0, last]
      let mac := gmac (kMac x) (iv 0) pack
      let commit : List Byte := [0x21, 0x0C, 0x3B, 0x6D] ++ gen ++ List.replicate 8 0
      (¬ reads a 0x1C0 → ends (.slotBuild w) 8 still) ∧
      (∀ k, reads a 0x1C0 → packageSlot x pack = .error k → ends (.slotBuild w) k still) ∧
      (∀ q, reads a 0x1C0 → packageSlot x pack = .ok q → writes slot 0x1000 → ends (.slotBuild w) 0 (wrote slot
        (pack ++ mac ++ List.replicate 0x630 0xFF ++ commit ++ gmac (kMac x) (iv 1) (commit ++ mac)
          ++ List.replicate 0x7E0 0xFF)))) ∧
    -- ATTEST
    (x.busy = false →
      let n := 176 + 64 * x.log.length
      (¬ reads (a + 0x10) 32 → ends (.secAttest w) 8 still) ∧
      (reads (a + 0x10) 32 → x.fuse.provisioned = false → ends (.secAttest w) 0xA still) ∧
      (reads (a + 0x10) 32 → x.fuse.provisioned = true → writes a n → ∃ k : Nat, 0 < k ∧ k < p384n ∧
        let body := reportBody (memBytes s.m (a + 0x10) 32) s.m
        ends (.secAttest w) 0 fun t => wrote a (body ++ ecdsaSign (kAtt x) k body) t ∧
          t.m.sec.nextLen = BitVec.ofNat 16 (n / 16))) ∧
    -- RECORD_MAC
    (x.busy = false →
      let r := memBytes s.m a 264
      let mac := gmac (kRec x) (r.take 4 ++ List.replicate 8 0) r
      (¬ reads a 264 → ends (.recordMac w) 8 still) ∧
      (reads a 264 → x.fuse.provisioned = false → ends (.recordMac w) 0xA still) ∧
      (reads a 264 → x.fuse.provisioned = true →
        (x.arg2.getLsbD 0 = false → writes (a + 264) 16 → ends (.recordMac w) 0 (wrote (a + 264) mac)) ∧
        (x.arg2.getLsbD 0 = true → reads (a + 264) 16 →
          ends (.recordMac w) (if memBytes s.m (a + 264) 16 = mac then 0 else 7) still)))

/-- R417, R419, R420, R430: flash operations begin and end, and the owner's two calls write a key slot that is valid at the
next boot, and an image in both devices. -/
def Obligations.FlashIsWritten : Prop :=
  ∀ (s : State) (w : Who) (key : BitVec 16),
    let x := s.m.sec
    let gives (i : Instr) (y : Sec) : Prop := exec i s = leaves s { s.m with sec := y }
    let cell (d : Bool) (t : State) (k : Nat) : Byte := look 0xFF (if d then t.m.sec.flashB else t.m.sec.flashA) k
    let fit : Prop := x.flAddr.toNat % 16 = 0 ∧ x.flLen.toNat % 16 = 0 ∧ x.flLen.toNat ≤ 0x100000 ∧
      x.flAddr.toNat + x.flLen.toNat ≤ 0x4000000
    let job (op : BitVec 2) : Sec :=
      { x with flErr := 0, flJob := some ⟨op, x.flDev, x.flAddr, x.flHi ++ x.flLo, x.flLen⟩ }
    (s.m.live → byKeeper w →
      (x.flJob ≠ none → ∀ i ∈ [Instr.flashRead w, .flashProgram w key, .flashErase w key], gives i { x with flErr := 1 }) ∧
      (x.flJob = none → fit → gives (.flashRead w) (job 1)) ∧
      (x.flJob = none → ¬ fit → gives (.flashRead w) { x with flErr := 2 } ∧ gives (.flashProgram w key) { x with flErr := 2 }) ∧
      (x.flJob = none → fit →
        gives (.flashProgram w key) (if key = 0x5A3C then job 2 else { x with flErr := 5 })) ∧
      (x.flJob = none → gives (.flashErase w key)
        (if x.flAddr.toNat % 4096 ≠ 0 then { x with flErr := 2 } else if key = 0x5A3C then job 3 else { x with flErr := 5 }))) ∧
    (∀ j, x.flJob = some j → (∀ g, readsClean s.m g) →
      let o := j.off.toNat
      let n := j.len.toNat
      let ended (t : State) (k : BitVec 3) : Prop := t.m.sec.flJob = none ∧ t.m.sec.flErr = k
      (j.op = 1 → granted true s.m j.mem n = true → ∃ t, exec (.flashOpComplete false 0) s = .next t ∧ ended t 0 ∧
        memBytes t.m j.mem n = (List.range n).map (fun k => cell j.dev s (o + k)) ∧
        (∀ y, y < j.mem.toNat ∨ j.mem.toNat + n ≤ y → t.m.mem.byte y = s.m.mem.byte y) ∧
        ∀ d k, cell d t k = cell d s k) ∧
      (j.op = 2 → granted false s.m j.mem n = true → ∃ t, exec (.flashOpComplete false 0) s = .next t ∧ ended t 0 ∧
        t.m.mem = s.m.mem ∧ ∀ d k, cell d t k = if d = j.dev ∧ o ≤ k ∧ k < o + n
          then cell d s k &&& (memBytes s.m j.mem n).getD (k - o) 0 else cell d s k) ∧
      (j.op = 3 → ∃ t, exec (.flashOpComplete false 0) s = .next t ∧ ended t 0 ∧ t.m.mem = s.m.mem ∧
        ∀ d k, cell d t k = if d = j.dev ∧ o ≤ k ∧ k < o + 4096 then 0xFF else cell d s k) ∧
      (∀ k, ∃ t, exec (.flashOpComplete true k) s = .next t ∧ ended t 4)) ∧
    (∀ (e : BitVec 7) (a : Arch) (off : BitVec 26), Ready s.m e a → a.ring = 0 → a.fast = true → (∀ g, readsClean s.m g) →
      let answers (i : Instr) (k : W64) (m : Mach) : Prop := exec i s = leaves s
        (mapLanes e (fun r => { r with arch := { r.arch with a := k } }) m)
      let open_ : Prop := a.fring = 1 ∧ a.link.owner = 1 ∧ s.m.mode.mode = .commission ∧ x.busy = false ∧ x.flJob = none
      let covers (n : Nat) : Prop := a.x.tag = true ∧ a.x.kind = 0 ∧ a.x.has rRD = true ∧
        a.x.inBounds a.x.cursor n = true ∧ (region a.x.cursor).isMem = true
      let data (n : Nat) := memBytes s.m (phys (tileOf e) a.x.cursor) n
      (a.e = 0x100 → ¬ open_ → answers (.keyUpdate e) 8 s.m) ∧
      (a.e = 0x100 → open_ → ¬ covers 0x1C0 → answers (.keyUpdate e) 8 s.m) ∧
      (∀ k, a.e = 0x100 → open_ → covers 0x1C0 → packageSlot x (data 0x1C0) = .error k → answers (.keyUpdate e) 8 s.m) ∧
      (∀ q, a.e = 0x100 → open_ → covers 0x1C0 → packageSlot x (data 0x1C0) = .ok q →
        let d : Bool := x.slotOk && !x.bootStat.getLsbD 0
        let above : Prop := ∀ k, x.slotA = some k ∨ x.slotB = some k → k.gen < q.gen
        (¬ above → answers (.keyUpdate e) 8 s.m) ∧
        (above → ∃ t, exec (.keyUpdate e) s = .next t ∧ flashSlot t.m.sec d = some q ∧
          t.m.sec.bootStat = x.bootStat ∧ (∀ k, cell (!d) t k = cell (!d) s k) ∧
          (∀ k, 4096 ≤ k → cell d t k = cell d s k) ∧ ∀ r ∈ lanesOf s.m e, (rep t.m (tileOf e) r).arch = { a with a := 0 })) ∧
      (a.e = 0x101 → ¬ open_ → answers (.storeImage e off) 8 s.m) ∧
      (a.e = 0x101 → open_ → covers 0x140 →
        let h : Header := ⟨data 0x140⟩
        let n := 0x140 + h.len
        covers n →
        (h.formOk = false → answers (.storeImage e off) 8 s.m) ∧
        (∀ o p, h.formOk = true → imageOffset h off = some o →
          checkImage x ((newestSlot x).bind (slotOf x)) h ((data n).drop 0x140) = .ok p →
          ∃ t, exec (.storeImage e off) s = .next t ∧
            (∀ d k, k < n → cell d t (o + k) = (data n).getD k 0) ∧
            (∀ d k, k < o ∨ o + (n + 4095) / 4096 * 4096 ≤ k → cell d t k = cell d s k) ∧
            ∀ r ∈ lanesOf s.m e, (rep t.m (tileOf e) r).arch = { a with a := 0 })))

/-- R424: a request is a generate call, up to 8 are queued and served in order, one more is ignored and sets OVF; the head's
bytes stand in RNG_OUT0 to RNG_OUT15 and POP removes it. R422, R423, R431: the states of the DRBG, which CTR_DRBG with AES-256
seeds with DEVICE_ID, reseeds and draws from. -/
def Obligations.RandomNumbers : Prop :=
  ∀ (s : State) (w : Who) (v : W32),
    let x := s.m.sec
    let gives (i : Instr) (y : Sec) : Prop := exec i s = leaves s { s.m with sec := y }
    let none_ (l : List RngReq) : List RngReq := l.map fun q => if q.out = none then { q with out := some none } else q
    let seed (samples : BitVec 1024) : DrbgState :=
      if x.drbg = .startup then drbgSeed (sampleBytes samples) (hBytes x 2 2) else x.drbgState.reseed (sampleBytes samples)
    let fresh (samples : BitVec 1024) (t : Nat) : Sec :=
      { x.setDrbg (seed samples) with drbg := .ready, calls := 0, reseedAt := t, startFails := 0 }
    (s.m.live → byKeeper w →
      (8 ≤ x.reqs.length → v.getLsbD 3 = false → gives (.rngRequest w v) { x with ovf := true }) ∧
      (x.reqs.length < 8 → v.getLsbD 3 = false → gives (.rngRequest w v) { x with
        reqs := x.reqs ++ [⟨(v >>> 1).setWidth 2, if x.drbg = .exhausted then some none else none⟩] }) ∧
      gives (.rngPop w) { x with reqs := x.reqs.drop 1 }) ∧
    -- RNG_OUT0 to RNG_OUT15 show the head's bytes
    (∀ (k : Fin 16) (q : RngReq) (n : BitVec 512) (l : List RngReq), byKeeper w → x.reqs = q :: l → q.out = some (some n) →
      regRead w (BitVec.ofNat 36 (0x80000680 + 4 * k.val)) s.m = (some (BitVec.ofNat 32 (n.toNat / 2 ^ (32 * k.val))), s.m)) ∧
    (s.m.mode.mode ≠ .dormant →
      (∀ q l, x.reqs = q :: l → q.out = none →
        -- the blocks after V, and the state after the call
        let k := q.blocks.toNat + 1
        let call := x.drbgState.generate k
        let n := BitVec.ofNat 512 (leNat call.1)
        let after : Sec := { x.setDrbg call.2 with reqs := { q with out := some (some n) } :: l, calls := x.calls + 1 }
        n.toNat = leNat call.1 ∧ call.1.length = 16 * k ∧
        (x.drbg = .startup → exec .rngRequestServed s = leaves s s.m) ∧
        (x.drbg = .ready → x.calls.toNat < 4096 → gives .rngRequestServed after) ∧
        (x.drbg = .ready → 4096 ≤ x.calls.toNat → exec .rngRequestServed s = leaves s s.m) ∧
        (x.drbg = .degraded → x.calls.toNat + 1 < 65536 → gives .rngRequestServed after) ∧
        (x.drbg = .degraded → x.calls.toNat = 65535 → gives .rngRequestServed
          { after with reqs := { q with out := some (some n) } :: none_ l, drbg := .exhausted }) ∧
        (x.drbg = .exhausted → gives .rngRequestServed { x with reqs := none_ x.reqs })) ∧
      (∀ samples, x.drbg ≠ .ready → healthy samples = true → gives (.trngStartupTestEnd samples) (fresh samples s.m.clk)) ∧
      (∀ samples, x.drbg = .startup → healthy samples = false → x.startFails ≠ 2 →
        gives (.trngStartupTestEnd samples) { x with startFails := x.startFails + 1 }) ∧
      (∀ samples, x.drbg = .startup → healthy samples = false → x.startFails = 2 → s.m.mode.mode = .wake → s.m.calm →
        s.m.pwr.pfw = false → ∃ t, exec (.trngStartupTestEnd samples) s = .next t ∧ t.m.mode.mode = .hardpan ∧
          t.m.faults.hpCause = 0x0703) ∧
      (∀ samples, x.drbg = .degraded ∨ x.drbg = .exhausted → healthy samples = false →
        exec (.trngStartupTestEnd samples) s = leaves s s.m) ∧
      (∀ samples, x.drbg = .ready → healthy samples = true →
        (4096 ≤ x.calls.toNat → gives (.drbgReseed samples) (fresh samples s.m.clk)) ∧
        (x.calls.toNat < 4096 → ∃ t, exec (.drbgReseed samples) s = .next t ∧ t.m.sec = fresh samples t.m.clk ∧
          t.m.clk = max s.m.clk (x.reseedAt + 102400000))) ∧
      (∀ samples, healthy samples = false → exec (.drbgReseed samples) s = leaves s s.m) ∧
      (x.drbg = .ready → s.m.hasRoom → exec .continuousTestFailure s = leaves s
        ({ s.m with sec := { x with drbg := .degraded } }.faulted 0x0704 (x.calls.setWidth 64))) ∧
      (x.drbg ≠ .ready → exec .continuousTestFailure s = leaves s s.m))

/-! ### Debug -/

/-- R456, R457: the TAP's instructions and what each shifts out, lowest bit first.
R458 to R463: the checks of a request in their order, its nonce, the check of a response, the lockout, and the ends of a
session. -/
def Obligations.PortAndSessions : Prop :=
  (∀ (s : State), s.m.mode.mode ≠ .dormant →
     let d := s.m.dbg
     let scans (i : Instr) (y : Debug) (out : List Byte) : Prop :=
       exec i s = leaves s { s.m with dbg := y, outbox := s.m.outbox ++ [Out.tdo out] }
     let shifts (out : List Byte) (l : List Bool) : Prop := out.length = (l.length + 7) / 8 ∧
       ∀ k, k < l.length → (out.getD (k / 8) 0).getLsbD (k % 8) = l.getD k false
     let bypassed (i : Instr) (ir : Byte) (bits : List Bool) : Prop :=
       ∃ out, shifts out ((false :: bits).take bits.length) ∧ scans i { d with ir := ir, extest := false } out
     exec .tapReset s = leaves s { s.m with dbg := { d with ir := 2, extest := false } } ∧
     scans .idcode { d with ir := 2, extest := false } [0x3B, 0x8A, 0x12, 0x19] ∧
     (∀ (ir : Byte) (bits : List Bool), ir ∉ [0x00, 0x01, 0x02, 0x10, 0x11, 0x12] → bypassed (.bypass ir bits) ir bits) ∧
     (∀ bits pins : List Bool,
       (d.bscan = false → bypassed (.extest bits pins) 0 bits ∧ bypassed (.samplePreload bits pins) 1 bits) ∧
       (d.bscan = true → ∃ out, shifts out pins ∧
         scans (.extest bits pins) { d with ir := 0, extest := true, scan := bits } out ∧
         scans (.samplePreload bits pins) { d with ir := 1, extest := false, scan := bits } out))) ∧
  (∀ (s : State) (req : Byte), s.m.mode.mode ≠ .dormant →
     let d := s.m.dbg
     let f := s.m.sec.fuse
     let life : W32 := f.m0.get 0 ||| f.m0.get 1
     let cfg : W32 := f.m0.get 148 ||| f.m0.get 149
     let level : BitVec 2 := req.setWidth 2
     let owner : Bool := req.getLsbD 2
     let key : Bool := if owner then life.getLsbD 1 && !cfg.getLsbD 1 && decide (level ≠ 3)
       else life.getLsbD 0 && !cfg.getLsbD 0
     let factory : Prop := life.getLsbD 0 = false ∧ req = 3
     let inMode (level : BitVec 2) : Prop := s.m.mode.mode = .commission ∨ (level.toNat ≤ 1 ∧
       (s.m.mode.mode = .operate ∨ s.m.mode.mode = .sleep ∨ s.m.mode.mode = .hardpan))
     let scans (i : Instr) (out : List Byte) (n : Mach) : Prop :=
       exec i s = leaves s { n with outbox := s.m.outbox ++ [Out.tdo out] }
     let captured : List Byte := d.status :: bytesOf ((d.nonce.map Prod.fst).getD 0) 0 32
     let reply (k : Byte) : Prop := scans (.dbgChal req) captured
       { s.m with dbg := { d with ir := 0x10, extest := false, status := k } }
     let failed (x : Debug) : Debug := { x with
       fails := satInc x.fails, lockout := if 2 ≤ x.fails.toNat ∧ x.lockout = none then some (s.m.clk + 6144000000) else x.lockout }
     let idle : Prop := d.lockout = none ∧ d.check = none ∧ d.level = 0
     let sound : Prop := req.toNat / 8 = 0 ∧ level ≠ 0
     let closed (t : State) : Prop := t.m.dbg.level = 0 ∧ t.m.dbg.bscan = false ∧ (∀ c, t.m.dbg.frz.get c = 0) ∧
       ∀ e, (t.m.dbg.engs.get e).want = false
     (d.lockout ≠ none → reply 4) ∧
     (d.lockout = none → d.check ≠ none → reply 1) ∧
     (d.lockout = none → d.check = none → d.level ≠ 0 → reply 6) ∧
     (idle → ¬ sound → reply 7) ∧
     (idle → sound → ¬ inMode level → reply 2) ∧
     (idle → sound → inMode level → key = false → ¬ factory → reply 3) ∧
     (idle → sound → inMode level → key = true → s.m.sec.drbg ≠ .ready → reply 5) ∧
     (idle → sound → inMode level → key = true → s.m.sec.drbg = .ready →
       let call := s.m.sec.drbgState.generate 2
       scans (.dbgChal req) captured { s.m with
         sec := { s.m.sec.setDrbg call.2 with calls := s.m.sec.calls + 1 }
         dbg := { d with
           ir := 0x10, extest := false, status := 0, nonce := some (BitVec.ofNat 256 (leNat call.1), s.m.clk, req) } }) ∧
     (idle → inMode 3 → factory → ∃ t, exec (.dbgChal req) s = .next t ∧ t.m.dbg.level = 3 ∧ t.m.dbg.owner = false ∧
       t.m.dbg.fails = 0 ∧ t.m.dbg.comp = 2 ∧ t.m.dbg.ring = 1 ∧ t.m.dbg.nonce = none) ∧
     -- the response
     (∀ resp : BitVec 1536, d.check = none →
       (d.nonce = none → scans (.dbgResp resp) (List.replicate 192 0)
         { s.m with dbg := failed { d with ir := 0x11, extest := false } }) ∧
       (∀ n t0 r, d.nonce = some (n, t0, r) →
         let pub := bytesOf resp 0 96
         let msg : List Byte := [0x50, 0x0C, 0x5E, 0x9A, r, 0, 0, 0] ++ hBytes s.m.sec 2 2 ++ bytesOf n 0 32
         let digest := if r.getLsbD 2 then hBytes s.m.sec 86 12 else hBytes s.m.sec 60 12
         scans (.dbgResp resp) (List.replicate 192 0) { s.m with dbg := { d with
           ir := 0x11, extest := false, nonce := none, status := 1
           check := some (decide (sha384 pub = digest) && ecdsaVerify pub msg (bytesOf resp 96 96), r) } })) ∧
     (∀ r : Byte, let asked : BitVec 2 := r.setWidth 2
       (d.check = some (false, r) → exec .sessionOpen s = leaves s { s.m with dbg := failed { d with check := none, status := 0 } }) ∧
       (d.check = some (true, r) → inMode asked → ∃ t, exec .sessionOpen s = .next t ∧ t.m.dbg.level = asked ∧
         t.m.dbg.owner = r.getLsbD 2 ∧ t.m.dbg.fails = 0 ∧ t.m.dbg.lastAcc = s.m.clk ∧ t.m.dbg.comp = 2 ∧ t.m.dbg.ring = 1) ∧
       (d.check = some (true, r) → asked ≠ 0 → ¬ inMode asked →
         exec .sessionOpen s = leaves s { s.m with dbg := { d with check := none, status := 2 } })) ∧
     -- the ends
     (∀ t0, d.lockout = some t0 → ∃ t, exec .lockoutEnd s = .next t ∧ t.m.dbg = { d with lockout := none } ∧ t0 ≤ t.m.clk) ∧
     (∀ n t0 r, d.nonce = some (n, t0, r) → ∃ t, exec .nonceLapse s = .next t ∧ t.m.dbg = { d with nonce := none } ∧
       t0 + 1024000000 ≤ t.m.clk) ∧
     (d.level ≠ 0 →
       (∃ t, exec .sessionTimeout s = .next t ∧ closed t ∧ d.lastAcc + 1024000000 ≤ t.m.clk) ∧
       ∀ v, ∃ t, exec (.sessionClose v) s = .next t ∧ closed t))

/-- R464 to R467, R476, R477, R480 to R482: debug accesses, with what refuses them; a read has no other effect. -/
def Obligations.DebugAccesses : Prop :=
  ∀ (s : State) (a : Addr) (v : W32), s.m.mode.mode ≠ .dormant →
    let d := s.m.dbg
    let out := Out.tdo (bytesOf (d.accData ++ d.accAddr ++ 0#2 ++ d.res : BitVec 72) 0 9)
    -- the module `n`, with the result of the access in place
    let ends (i : Instr) (at_ : Addr) (n : Mach) (res : BitVec 2) (x : W32) (cause : BitVec 4) : Prop :=
      exec i s = leaves s { n with outbox := s.m.outbox ++ [out], dbg := { n.dbg with
        ir := 0x12, extest := false, lastAcc := s.m.clk, res := res, accAddr := at_, accData := x, rcause := cause } }
    let word (i : Instr) (at_ : Addr) (n : Mach) (x : W32) : Prop := ends i at_ n 0 x d.rcause
    let refused (i : Instr) (at_ : Addr) (cause : BitVec 4) : Prop := ends i at_ s.m 2 0 cause
    let controls : Prop := 2 ≤ d.level.toNat ∧ s.m.mode.mode = .commission
    let eng (f : DEng → DEng) : Mach := { s.m with dbg := { d with engs := d.engs.upd d.eng f } }
    -- memory
    (d.level = 0 → refused (.debugMemoryRead a) a 1) ∧
    (d.level.toNat < 2 → refused (.debugMemoryWrite a v) a 1) ∧
    (d.level ≠ 0 → a.toNat % 4 ≠ 0 → refused (.debugMemoryRead a) a 6) ∧
    (2 ≤ d.level.toNat → a.toNat % 4 ≠ 0 → refused (.debugMemoryWrite a v) a 6) ∧
    (d.level ≠ 0 → a.toNat % 4 = 0 → region a = .hostWin ∨ (0x80000680 ≤ a.toNat ∧ a.toNat < 0x800006C0) →
      ends (.debugMemoryRead a) a s.m 3 0 d.rcause) ∧
    (d.level ≠ 0 → a.toNat % 4 = 0 → region a = .shared → readsClean s.m (granOf a) → dbgAllowed a false s.m = true →
      word (.debugMemoryRead a) a s.m (fld (s.m.mem.data (granOf a)) (8 * (a.toNat % 16)) 32)) ∧
    (d.level ≠ 0 → region a = .regs → ∃ res x cause, ends (.debugMemoryRead a) a s.m res x cause) ∧
    (2 ≤ d.level.toNat → a.toNat % 4 = 0 → 0x40000000 ≤ a.toNat → a.toNat < 0x40F00000 → readsClean s.m (granOf a) →
      (dbgAllowed a true s.m = false → refused (.debugMemoryWrite a v) a 3) ∧
      (dbgAllowed a true s.m = true → ∃ t, exec (.debugMemoryWrite a v) s = .next t ∧ t.m.mem.tag (granOf a) = false ∧
        ∀ k, t.m.mem.byte k = if a.toNat ≤ k ∧ k < a.toNat + 4 then byteOf v (k - a.toNat) else s.m.mem.byte k)) ∧
    -- registers of the debug block
    (∃ x : W32, word (.debugRegisterRead 0) 0 s.m x ∧ x.toNat % 4 = d.level.toNat ∧ x.getLsbD 2 = d.owner ∧
      x.getLsbD 3 = d.bscan ∧ x.toNat / 2 ^ 4 % 2 ^ 4 = d.fails.toNat ∧ x.getLsbD 8 = d.lockout.isSome ∧
      x.toNat / 2 ^ 12 = d.rcause.toNat) ∧
    (d.level = 0 → refused (.debugRegisterRead 8) 8 1 ∧ refused (.debugRegisterWrite 8 v) 8 1) ∧
    (d.level = 1 → refused (.debugRegisterWrite 8 v) 8 1 ∧ refused (.halt v) 0xC 1 ∧ refused (.dregWrite v) 0x10 1 ∧
      refused (.channelFreeze v) 0x28 1) ∧
    (2 ≤ d.level.toNat →
      word (.debugRegisterWrite 8 v) 8 { s.m with dbg := { d with eng := v.setWidth 7, idx := (v >>> 8).setWidth 12 } } 0 ∧
      word (.debugRegisterWrite 0x14 v) 0x14 (eng fun x => { x with
        ranges := x.ranges.upd (d.idx.setWidth 3) fun r => { r with lo := v } }) 0) ∧
    (d.level ≠ 0 → let x := d.engs.get d.eng
      word .dhitRead 0x20 (eng fun x => { x with hit := 0 })
        (x.hit.setWidth 32 ||| ((x.hadr >>> 32).setWidth 32 <<< 8))) ∧
    -- DCTL
    (d.level ≠ 0 → v.getLsbD 13 = false →
      let comp : BitVec 10 := v.setWidth 10
      let ring : BitVec 2 := (v >>> 10).setWidth 2
      let mine : Prop := (d.owner = true ∧ 2 ≤ comp.toNat ∧ ring ≠ 0) ∨
        (d.owner = false ∧ (ring ≠ 0 ∨ (comp = 0 ∧ d.level = 3)))
      let off : Bool := (s.m.sec.fuse.m0.get 148 ||| s.m.sec.fuse.m0.get 149).getLsbD 2
      let with_ (b : Bool) : Mach := { s.m with dbg := { d with comp := comp, ring := ring, bscan := b } }
      (¬ mine → refused (.bscanEnable v) 4 1) ∧
      (mine → v.getLsbD 12 = false → word (.bscanEnable v) 4 (with_ false) 0) ∧
      (mine → v.getLsbD 12 = true → controls → off = false → word (.bscanEnable v) 4 (with_ true) 0) ∧
      (mine → v.getLsbD 12 = true → ¬(controls ∧ off = false) → ends (.bscanEnable v) 4 (with_ d.bscan) 2 0 2)) ∧
    -- DFRZ
    (2 ≤ d.level.toNat → ∀ i ∈ [Instr.channelFreeze v, .timerFreeze v],
      (¬ controls → refused i 0x28 2) ∧
      (controls → ∃ t, exec i s = .next t ∧ t.m.dbg.frzCh = v.setWidth 8 ∧
        (∀ c, t.m.dbg.frz.get c = if c = v.setWidth 8 then (v >>> 8).setWidth 3 else d.frz.get c) ∧
        (v.getLsbD 10 = false → (t.m.chans.get (v.setWidth 8)).timer.stopped = v.getLsbD 9))) ∧
    -- DREG
    (∀ l rest, lanesOf s.m d.eng = l :: rest → validEngine s.m d.eng = true →
      let g := s.m.engines.get d.eng
      let a := (rep s.m (tileOf d.eng) l).arch
      (d.level ≠ 0 → g.halted = false → d.idx.toNat < 0x40 → refused .dregRead 0x10 4) ∧
      (d.level ≠ 0 → g.halted = true → d.idx = 0x1C → word .dregRead 0x10 s.m (a.a.setWidth 32)) ∧
      (d.level ≠ 0 → g.halted = true → d.idx = 0x1D → word .dregRead 0x10 s.m ((a.a >>> 32).setWidth 32)) ∧
      (d.level ≠ 0 → d.idx.toNat = 0xC3 ∨ 0x808 ≤ d.idx.toNat → refused .dregRead 0x10 6) ∧
      (2 ≤ d.level.toNat → g.halted = false → d.idx.toNat < 0x40 → refused (.dregWrite v) 0x10 4) ∧
      (d.level = 2 → g.halted = true → d.idx = 2 → refused (.dregWrite v) 0x10 5) ∧
      (2 ≤ d.level.toNat → g.halted = true → d.idx = 0x1C → ∃ t, exec (.dregWrite v) s = .next t ∧
        ∀ r ∈ lanesOf s.m d.eng, let o := (rep s.m (tileOf d.eng) r).arch
          let n := (rep t.m (tileOf d.eng) r).arch
          n.a.setWidth 32 = v ∧ n.a >>> 32 = o.a >>> 32 ∧ n.e = o.e ∧ n.m = o.m ∧ n.rcnt = o.rcnt ∧ n.pcc = o.pcc ∧
            n.s = o.s ∧ n.x = o.x ∧ n.y = o.y ∧ n.d = o.d ∧ n.link = o.link ∧ n.slink = o.slink)) ∧
    (d.level ≠ 0 → validEngine s.m d.eng = false → refused .dregRead 0x10 7) ∧
    (2 ≤ d.level.toNat → validEngine s.m d.eng = false → refused (.dregWrite v) 0x10 7)

/-- R468 to R474: a halt is asked for, waits for an SC, and completes; a halted engine runs on, at once or, near the moment C,
at the next P1. -/
def Obligations.EnginesAreHalted : Prop :=
  ∀ (s : State) (v : W32), s.m.mode.mode = .commission → 2 ≤ s.m.dbg.level.toNat →
    let d := s.m.dbg
    let e := d.eng
    let x := d.engs.get e
    let g := s.m.engines.get e
    let after (t : State) : DEng := t.m.dbg.engs.get e
    let eng (t : State) : Engine := t.m.engines.get e
    let others (t : State) : Prop := ∀ k, k ≠ e → t.m.engines.get k = s.m.engines.get k ∧ t.m.dbg.engs.get k = d.engs.get k
    let at_ : Nat := s.m.tick.edgeAt + (s.m.tick.period.toNat - if s.m.tick.extLock then 27 else 25) * 512 / 5
    let late : Prop := s.m.tick.phase ≠ .p1 ∨ at_ ≤ s.m.clk + 1024
    -- HALT
    (v.toNat / 2 % 4 = 0 → v.getLsbD 6 = false → validEngine s.m e = true → g.halted = false → x.want = false →
      (g.cur ≠ none ∨ g.keeper = true → ∃ t, exec (.halt v) s = .next t ∧ others t ∧ eng t = g ∧ after t = { x with
        hgrp := (v >>> 3).setWidth 3, hgen := false, want := true, wantCause := 1, wantSrc := e
        waitSc := (leader s.m e).any fun l => l.arch.resv.isSome }) ∧
      (g.cur = none → g.keeper = false → (∀ r ∈ lanesOf s.m e, (rep s.m (tileOf e) r).sb = []) →
        ∃ t, exec (.halt v) s = .next t ∧ others t ∧ eng t = { g with halted := true } ∧ (after t).hcause = 1 ∧
          (after t).src = e ∧ (after t).want = false)) ∧
    (validEngine s.m e = false → ∀ i ∈ [Instr.halt v, .resume v, .step v], ∃ t, exec i s = .next t ∧
      t.m = { s.m with outbox := t.m.outbox, dbg := { d with
        ir := 0x12, extest := false, lastAcc := s.m.clk, res := 2, accAddr := 0xC, accData := 0, rcause := 7 } }) ∧
    (∀ k : BitVec 7,
      let y := d.engs.get k
      (y.want = false → exec (.haltComplete k) s = leaves s s.m ∧ exec (.haltReservationWaitExpire k) s = leaves s s.m) ∧
      (y.want = true → y.waitSc = false → d.owner = false → (s.m.engines.get k).act = .run →
        (∀ r ∈ lanesOf s.m k, let z := rep s.m (tileOf k) r
          z.sb = [] ∧ z.ldue = none ∧ z.repEnd = false ∧ z.arch.lop = 0) →
        ∃ t, exec (.haltComplete k) s = .next t ∧ (t.m.engines.get k).halted = true ∧
          (t.m.dbg.engs.get k).hcause = y.wantCause ∧ (t.m.dbg.engs.get k).src = y.wantSrc ∧
          (t.m.dbg.engs.get k).want = false ∧ t.m.mem = s.m.mem ∧
          -- a reservation that still stood is cleared, and RESV says so
          (t.m.dbg.engs.get k).resv = (y.resv || (leader s.m k).any fun l => l.arch.resv.isSome) ∧
          (∀ z ∈ t.m.resv, z.1 ≠ k) ∧
          ∀ r ∈ lanesOf s.m k, (rep t.m (tileOf k) r).arch = { (rep s.m (tileOf k) r).arch with resv := none }) ∧
      (y.want = true → y.waitSc = true → ∃ t, exec (.haltReservationWaitExpire k) s = .next t ∧
        (t.m.dbg.engs.get k).waitSc = false ∧ (t.m.dbg.engs.get k).resv = true ∧ (t.m.dbg.engs.get k).want = true ∧
        (∀ z ∈ t.m.resv, z.1 ≠ k) ∧ ∀ r ∈ lanesOf s.m k, (rep t.m (tileOf k) r).arch.resv = none)) ∧
    -- RESUME and STEP
    (v.getLsbD 0 = false → v.getLsbD 6 = false → validEngine s.m e = true →
      (g.halted = true → ¬ late → g.cur ≠ none ∨ g.keeper = true →
        (v.getLsbD 2 = false → ∃ t, exec (.resume v) s = .next t ∧ others t ∧ eng t = { g with halted := false } ∧
          (after t).hcause = 0 ∧ (after t).step = false ∧ (after t).resv = false) ∧
        (v.getLsbD 1 = false → ∃ t, exec (.step v) s = .next t ∧ others t ∧ eng t = { g with halted := false } ∧
          (after t).hcause = 0 ∧ (after t).step = true)) ∧
      (g.halted = true → late → v.getLsbD 2 = false → ∃ t, exec (.resume v) s = .next t ∧ others t ∧ eng t = g ∧
        (after t).defer = true ∧ (after t).deferStep = false) ∧
      (g.halted = false → v.getLsbD 1 = false → v.getLsbD 2 = false → ∃ t, exec (.resume v) s = .next t ∧ others t ∧ eng t = g))

/-! ### Power, heat, the backup domain and the Yunal link -/

/-- R485, R493 to R498, R510: the field rail and its limiter, the tiles' power domains, and what a reading of the sensors
brings; PWR_STAT is read. -/
def Obligations.PowerAndHeat : Prop :=
  ∀ (s : State), s.m.mode.mode ≠ .dormant →
    let p := s.m.pwr
    let event : Tbl 10 (BitVec 4) := s.m.ints.upd 0 fun i => i ||| 8
    let gives (i : Instr) (y : Power) : Prop := exec i s = leaves s { s.m with pwr := y }
    (∀ w : Who, s.m.live → byKeeper w → ∃ d : W32, exec (.pwrStatRead w) s
        = leaves s ({ s.m with pwr := { p with dips := 0 } }.read d) ∧
      d.getLsbD 0 = p.mainOk ∧ d.getLsbD 1 = p.pfw ∧ d.getLsbD 2 = p.fp1 ∧ d.getLsbD 3 = p.fp2 ∧
      d.getLsbD 4 = !p.railLow ∧ d.getLsbD 5 = p.flim ∧ d.getLsbD 6 = p.cellLow ∧
      d.toNat / 2 ^ 8 % 2 ^ 8 = p.dips.toNat ∧ d.toNat / 2 ^ 16 = p.fieldMa.toNat) ∧
    (∀ (low f1 f2 : Bool) (ma : BitVec 16), exec (.fieldRailLow low f1 f2 ma) s = leaves s { s.m with
      pwr := { p with railLow := low, fp1 := f1, fp2 := f2, fieldMa := ma }
      ints := if low && !p.railLow then event else s.m.ints }) ∧
    (∀ ma : BitVec 16,
      (p.flim = false → 8000 < ma.toNat → exec (.fieldLimitDrop ma) s
        = leaves s { s.m with pwr := { p with flim := true, fieldMa := ma }, ints := event }) ∧
      (p.flim = true → ma.toNat < 8000 → exec (.fieldLimitRestore ma) s
        = leaves s { s.m with pwr := { p with flim := false, fieldMa := ma }, ints := event })) ∧
    (∀ t : BitVec 5, let x := p.tiles.get t
      let u : TilePower := if x = .up then .warm else x
      gives (.tilePowerUpComplete t) { p with tiles := p.tiles.set t u }) ∧
    (∀ t : BitVec 5, let x := p.tiles.get t
      let z : TilePower := if x = .down true then .up else if x = .down false then .off else x
      gives (.tileShutdownComplete t) { p with tiles := p.tiles.set t z }) ∧
    (∀ a b c d ctl dram0 dram1 : BitVec 16, s.m.calm → s.m.faults.hpDue = false → p.supply ≠ .fail →
      let run : Res := exec (.thermalReading a b c d ctl dram0 dram1) s
      let dies : List (BitVec 16) := [a, b, c, d, ctl]
      let drams : List (BitVec 16) := [dram0, dram1]
      -- 64 units to a degree
      ((∀ x ∈ dies, x.toInt < 150 * 64) → (∀ x ∈ drams, x.toInt < 105 * 64) → ∃ t, run = .next t ∧
        t.m.pwr.rdy = true ∧ t.m.mode = s.m.mode ∧ t.m.pwr.tmax ∈ dies ∧ (∀ x ∈ dies, x.toInt ≤ t.m.pwr.tmax.toInt) ∧
        (∀ (k : Fin 5), let x := (dies.getD k 0).toInt
          let on := t.m.pwr.warned.get (BitVec.ofNat 3 k)
          let was := p.warned.get (BitVec.ofNat 3 k)
          (125 * 64 < x → on.getLsbD 0 = true) ∧ (140 * 64 < x → on.getLsbD 1 = true) ∧
          (147 * 64 < x → on.getLsbD 2 = true) ∧
          (x ≤ 125 * 64 → was.getLsbD 0 = false → on.getLsbD 0 = false) ∧
          (x ≤ 140 * 64 → was.getLsbD 1 = false → on.getLsbD 1 = false) ∧
          (x ≤ 147 * 64 → was.getLsbD 2 = false → on.getLsbD 2 = false)) ∧
        (147 * 64 < ctl.toInt → t.m.pwr.clkNext = some 2) ∧ t.m.pwr.coreClk = p.coreClk ∧
        (∀ (k : Fin 2), let x := (drams.getD k 0).toInt
          (85 * 64 < x → t.m.pwr.dram2x.getLsbD k = true) ∧ (x < 80 * 64 → t.m.pwr.dram2x.getLsbD k = false) ∧
          (80 * 64 ≤ x → x ≤ 85 * 64 → t.m.pwr.dram2x.getLsbD k = p.dram2x.getLsbD k) ∧
          (95 * 64 < x → t.m.pwr.dramThr.getLsbD k = true) ∧ (x < 90 * 64 → t.m.pwr.dramThr.getLsbD k = false) ∧
          (90 * 64 ≤ x → x ≤ 95 * 64 → t.m.pwr.dramThr.getLsbD k = p.dramThr.getLsbD k)) ∧
        ((∀ x ∈ dies, x.toInt ≤ 125 * 64) → (∀ k, p.warned.get k = 0) → t.m.faults = s.m.faults ∧ t.m.pwr.level = 0)) ∧
      (150 * 64 ≤ ctl.toInt → (p.warned.get 4).getLsbD 3 = false → s.m.mode.mode ≠ .hardpan → p.pfw = false →
        (∀ x ∈ [a, b, c, d], x.toInt < 150 * 64) → (∀ x ∈ drams, x.toInt < 105 * 64) →
        ∃ t, run = .next t ∧ t.m.mode.mode = .hardpan ∧ t.m.faults.hpCause = 0x0804) ∧
      (105 * 64 ≤ dram0.toInt → p.dramHot.getLsbD 0 = false → s.m.mode.mode ≠ .hardpan → p.pfw = false →
        (∀ x ∈ dies, x.toInt < 150 * 64) → ∃ t, run = .next t ∧ t.m.mode.mode = .hardpan ∧ t.m.faults.hpCause = 0x0805))

/-- R489 to R492, R510, R519: the sentinel's scans and relays, the clock and its alarm, the cell, and the attention input. -/
def Obligations.BackupDomain : Prop :=
  ∀ (s : State) (w : Who) (v : W32),
    let b := s.m.bkp
    let gives (i : Instr) (y : Backup) : Prop := exec i s = leaves s { s.m with bkp := y }
    let event (t : State) : Prop := (t.m.ints.get 0).getLsbD 3 = true
    let key : Prop := v.toNat / 2 ^ 16 = 0x5A3C
    let now : Prop := b.almEn = true ∧ (b.rtc >>> 16).setWidth 32 = b.alm ∧ b.almLast ≠ some ((b.rtc >>> 16).setWidth 48)
    -- a scan in which input `k` alone may differ
    (∀ (contacts : Byte) (reserve cell : BitVec 16) (k : Fin 8), s.m.hasRoom → s.m.faults.queue.length < 63 →
      s.m.dbg.bscan = false → b.baseline = true → b.pend = 0 →
      (∀ j : Fin 8, j ≠ k → b.sentCfg.getLsbD (4 * j.val) = false ∨ contacts.getLsbD j = b.sentIn.getLsbD j) →
      let closed := contacts.getLsbD k
      let differs : Prop := b.sentCfg.getLsbD (4 * k.val) = true ∧ closed ≠ b.sentIn.getLsbD k
      let n := b.runs.get (BitVec.ofNat 3 k)
      let guard : Bool := decide (2800 ≤ reserve.toNat ∧ 2500 ≤ cell.toNat)
      let abnormal : Prop := closed ≠ b.sentCfg.getLsbD (4 * k.val + 1)
      let named (r : Nat) : Bool := b.sentCfg.getLsbD (4 * k.val + 2 + r)
      ∃ t, exec (.sentinelScan contacts reserve cell) s = .next t ∧ t.m.bkp.guard = guard ∧
        t.m.pwr.cellLow = decide (cell.toNat < 2600) ∧
        (¬ differs ∨ n + 1 < 3 → t.m.bkp.sentIn = b.sentIn ∧ t.m.faults = s.m.faults ∧ t.m.bkp.rly = b.rly ∧
          t.m.bkp.pend = 0 ∧ t.m.ints = s.m.ints ∧
          t.m.bkp.runs.get (BitVec.ofNat 3 k) = (if b.sentCfg.getLsbD (4 * k.val) ∧ closed ≠ b.sentIn.getLsbD k then n + 1 else 0)) ∧
        (differs → 2 ≤ n → t.m.bkp.sentIn.getLsbD k = closed ∧
          (∀ j : Fin 8, j ≠ k → t.m.bkp.sentIn.getLsbD j = b.sentIn.getLsbD j) ∧
          (∃ f l, t.m.faults.queue = s.m.faults.queue ++ f :: l ∧ f.code = 0x0807 ∧
            f.arg.toNat = k.val + (if closed then 8 else 0) ∧ ∀ g ∈ l, g.code = 0x0808) ∧
          (abnormal → event t ∧ ∀ r : Fin 2,
            t.m.bkp.rly.getLsbD r = (b.rly.getLsbD r || (named r && guard)) ∧
            t.m.bkp.pend.getLsbD r = (named r && !guard && !b.rly.getLsbD r)) ∧
          (¬ abnormal → t.m.bkp.rly = b.rly ∧ t.m.bkp.pend = 0 ∧ t.m.ints = s.m.ints))) ∧
    (∀ contacts reserve cell, s.m.hasRoom → s.m.dbg.bscan = false → b.baseline = false → b.pend = 0 →
      ∃ t, exec (.sentinelScan contacts reserve cell) s = .next t ∧ t.m.bkp.sentIn = contacts ∧ t.m.bkp.baseline = true ∧
        t.m.faults = s.m.faults) ∧
    -- registers
    (s.m.live → byKeeper w →
      (¬ key → exec (.sentinelRelayReset w v) s = leaves s s.m ∧ exec (.sentinelRelayTest w v) s = leaves s s.m) ∧
      (key → v.toNat % 16 < 4 → gives (.sentinelRelayReset w v) { b with
        rly := b.rly &&& ~~~(v.setWidth 2), pend := b.pend &&& ~~~(v.setWidth 2) }) ∧
      (∀ r : Fin 2, key → v.toNat % 16 = 4 * 2 ^ r.val → let bit : BitVec 2 := BitVec.ofNat 2 (2 ^ r.val)
        (b.rly.getLsbD r = true → exec (.sentinelRelayTest w v) s = leaves s s.m) ∧
        (b.rly.getLsbD r = false → b.guard = true →
          gives (.sentinelRelayTest w v) { b with rly := b.rly ||| bit, pend := b.pend &&& ~~~bit }) ∧
        (b.rly.getLsbD r = false → b.guard = false → s.m.hasRoom → exec (.sentinelRelayTest w v) s
          = leaves s ({ s.m with bkp := { b with pend := b.pend ||| bit } }.faulted 0x0808 0))) ∧
      exec (.rtcNowRead w) s = leaves s
        ({ s.m with bkp := { b with rtcHi := (b.rtc >>> 32).setWidth 32 } }.read (b.rtc.setWidth 32)) ∧
      gives (.rtcSet w v) { b with
        almEn := v.getLsbD 1, almHit := b.almHit && !v.getLsbD 2
        rtcLoad := if v.toNat / 2 ^ 16 = 0x5A3C then some (b.setHi ++ b.setLo) else b.rtcLoad }) ∧
    -- the value is loaded at the next edge of the oscillator, one for every 3125 channel clocks
    (∀ x, s.pending = [] → s.m.mode.mode ≠ .dormant → s.m.watch.bkpLost = false → b.rtcRem = 3124 →
      ∃ t, Machine.step s = .next t ∧
        (b.rtcLoad = some x → t.m.bkp.rtc = x ∧ t.m.bkp.valid = true) ∧ (b.rtcLoad = none → t.m.bkp.rtc = b.rtc + 2)) ∧
    -- the alarm
    ((¬ now → exec .rtcAlarm s = leaves s s.m) ∧
      (now → s.m.watch.bkpLost = false → s.m.mode.mode ≠ .dormant ∨ b.cell = true →
        ∃ t, exec .rtcAlarm s = .next t ∧ t.m.bkp.almHit = true ∧ t.m.bkp.rtc = b.rtc ∧
          (s.m.mode.mode = .dormant → t.m.ints = s.m.ints) ∧
          (s.m.mode.mode ≠ .dormant → s.m.mode.mode ≠ .sleep → event t) ∧
          (s.m.mode.mode = .sleep → s.m.mode.wkRtc = true → t.m.mode.awake = true))) ∧
    -- the cell
    gives .backupCellConnected { b with cell := true } ∧
    (s.m.mode.mode ≠ .dormant → gives .backupCellRemoved { b with cell := false }) ∧
    (s.m.mode.mode = .dormant → ∃ t, exec .backupCellRemoved s = .next t ∧ t.m.bkp.valid = false ∧ t.m.bkp.rtc = 0 ∧
      t.m.bkp.cell = false ∧ t.m.faults.wr = 0 ∧ (∀ k, t.m.bkp.scr.get k = 0) ∧ t.m.mode.mode = .dormant) ∧
    -- ATTN#
    (s.m.mode.mode ≠ .dormant → s.m.pwr.pfw = false → s.m.dbg.bscan = false → s.m.host.attnHeld = false →
      s.m.host.attnSeen = false →
      (s.m.host.kready = false → s.m.mode.mode ≠ .hardpan →
        exec .attnAssert s = leaves s { s.m with host := { s.m.host with attnHeld := true } }) ∧
      (s.m.host.kready = true → ∃ t, exec .attnAssert s = .next t ∧ t.m.host.removal = true ∧ t.m.yl.rmv = true ∧
        t.m.host.attnSeen = true))

/-- R494, R502, R505 to R508, R510: the link's states, heartbeats, the partner's presence and what its flags bring.
R260, R509: the mirror goes out at edge + 10 µs, as far as the fence map lets its sender read, and what comes in is written in the name of its compartment, with its last page
made of the sender's bisques. -/
def Obligations.YunalLink : Prop :=
  (∀ (s : State), s.m.mode.mode ≠ .dormant →
     let y := s.m.yl
     let gives (i : Instr) (x : Yunal) : Prop := exec i s = leaves s { s.m with yl := x }
     let still (i : Instr) : Prop := exec i s = leaves s s.m
     let hold : Prop := s.m.mode.mode = .operate ∧ s.m.mode.outRel = true
     let giving : Prop := hold ∧ s.m.mode.pend ≠ none
     let asks : Prop := y.fullEn = true ∧ (s.m.mode.mode = .commission ∨ s.m.mode.mode = .operate) ∧
       ((∃ k, (y.mir.get k).getLsbD 15 = true) ∨ y.take = true ∨ giving ∨ y.rmv = true)
     let event (t : State) : Prop := (t.m.ints.get 0).getLsbD 3 = true
     (s.m.pwr.pfw = false → ∃ t l, exec .heartbeatSend s = .next t ∧ t.m.outbox = s.m.outbox ++ [Out.heartbeat l] ∧
       l.length = 32 ∧ l.take 4 = [0x60, 0x0C, 0x5E, 0x9A] ∧ l.getD 4 0 = s.m.host.slot ∧
       (∀ f : Byte, l.drop 5 = f :: l.drop 6 → (f.getLsbD 0 = true ↔ hold) ∧ f.getLsbD 1 = y.take ∧ (f.getLsbD 2 = true ↔ giving) ∧
         (f.getLsbD 3 = true ↔ s.m.mode.mode = .hardpan) ∧ f.getLsbD 4 = y.wake ∧ f.getLsbD 5 = y.rmv ∧
         (f.getLsbD 6 = true ↔ asks) ∧ f.getLsbD 7 = false) ∧
       (l.drop 6).take 2 = bytesOf s.m.faults.hpCause 0 2 ∧ (l.drop 8).take 4 = bytesOf (modeStatWord s.m.mode) 0 4 ∧
       (l.drop 0xC).take 8 = bytesOf s.m.tick.count 0 8 ∧
       (giving → (l.drop 0x14).take 8 = bytesOf s.m.mode.pendTick 0 8) ∧
       (¬ giving → (l.drop 0x14).take 8 = List.replicate 8 0) ∧ l.drop 0x1C = bytesOf (crc32c (l.take 0x1C)) 0 4 ∧
       (asks → y.pfull = true → y.st = .silt → y.lane1Down = none → t.m.yl.st = .train) ∧
       (¬(asks ∧ y.pfull = true) → t.m.yl.st = y.st)) ∧
     (∀ l : List Byte, s.m.pwr.pfw = false →
       let sound : Prop := l.length = 32 ∧ l.take 4 = [0x60, 0x0C, 0x5E, 0x9A] ∧ l.drop 0x1C = bytesOf (crc32c (l.take 0x1C)) 0 4
       let f := l.getD 5 0
       let flags : BitVec 5 := BitVec.ofBool (f.getLsbD 5) ++ f.setWidth 4
       (¬ sound → still (.heartbeatReceived l)) ∧
       (sound → ∃ t, exec (.heartbeatReceived l) s = .next t ∧ t.m.yl.pres = true ∧ t.m.yl.pflags = flags ∧
         t.m.yl.pslot = l.getD 4 0 ∧ bytesOf t.m.yl.ptick 0 4 = (l.drop 0xC).take 4 ∧
         bytesOf t.m.yl.pgive 0 4 = (l.drop 0x14).take 4 ∧ t.m.yl.pfull = f.getLsbD 6 ∧ t.m.yl.lastHb = s.m.clk ∧
         (y.pres = false ∨ y.pflags ≠ flags → event t) ∧
         -- of two modules that both hold, that of the higher slot asks for SLEEP
         (hold → s.m.mode.pend = none → f.getLsbD 0 = true → f.getLsbD 2 = false →
           (l.getD 4 0).toNat < s.m.host.slot.toNat → t.m.mode.pend = some .sleep) ∧
         -- takeover from a partner in HARDPAN
         (s.m.mode.mode = .operate → y.takeover = true → f.getLsbD 3 = true → t.m.mode.outRel = true))) ∧
     (y.pres = false → still .partnerLost) ∧
     (y.pres = true → s.m.hasRoom → ∃ t f, exec .partnerLost s = .next t ∧ t.m.yl.pres = false ∧
       t.m.clk = max s.m.clk (y.lastHb + 102400) ∧ t.m.faults.queue = s.m.faults.queue ++ [f] ∧ f.code = 0x0902 ∧ event t ∧
       (s.m.mode.mode = .operate → y.takeover = true → y.pflags.getLsbD 0 = true → t.m.mode.outRel = true) ∧
       (y.takeover = false ∨ y.pflags.getLsbD 0 = false → t.m.mode.outRel = s.m.mode.outRel)) ∧
     (∀ ok, (y.st = .train → gives (.linkTrainingDone ok)
         { y with st := if ok = true ∧ s.m.clk ≤ y.trainAt + 20480 then .full else .silt }) ∧
       (y.st ≠ .train → still (.linkTrainingDone ok))) ∧
     (y.st = .full → 16 < y.idleTicks → gives .linkIdle { y with st := .silt, lane1Down := some false }) ∧
     (y.st = .train → 16 < y.idleTicks → gives .linkIdle { y with st := .silt }) ∧
     (y.idleTicks ≤ 16 → still .linkIdle) ∧
     (y.lane1Down = some false → gives .yunalLaneShutdownComplete { y with lane1Down := none }) ∧
     (y.lane1Down = some true → y.st = .silt →
       gives .yunalLaneShutdownComplete { y with lane1Down := none, st := .train, trainAt := s.m.clk }) ∧
     (∀ w : Who, s.m.live → byKeeper w → ∃ d : W32, exec (.ylStatRead w) s
         = leaves s ({ s.m with yl := { y with mlag := 0 } }.read d) ∧
       d.toNat % 4 = (match y.st with | .off => 0 | .silt => 1 | .train => 2 | .full => 3) ∧ d.getLsbD 2 = y.pres ∧
       d.toNat / 2 ^ 3 % 2 ^ 5 = y.pflags.toNat ∧ d.toNat / 2 ^ 8 % 2 ^ 8 = y.pslot.toNat ∧
       d.toNat / 2 ^ 16 % 2 ^ 8 = y.mlag.toNat ∧ d.getLsbD 24 = y.mfence)) ∧
  ((∀ (s : State) (started : Nat), s.m.mode.mode ≠ .dormant → s.m.watch.mainLost = false → s.m.pwr.pfw = false →
     s.m.tick.phase = .p1 →
     let y := s.m.yl
     let used (k : BitVec 4) : Prop := (y.mir.get k).getLsbD 15 = true
     ((∀ k, ¬ used k) ∨ y.mirSent = true → exec (.mirrorSend started) s = leaves s s.m) ∧
     ((∃ k, used k) → y.mirSent = false → y.st ≠ .full → exec (.mirrorSend started) s
       = leaves s { s.m with yl := { y with mirSent := true, mlag := satInc y.mlag } }) ∧
     (∀ k, used k → (∀ j, used j → j = k) → y.mirSent = false → y.st = .full →
       let e := y.mir.get k
       let base : Addr := 0x40000000 + (((e >>> 16).setWidth 8 : Byte).setWidth 36 <<< 16)
       let size := e.toNat / 2 ^ 10 % 2 ^ 5
       let comp : BitVec 10 := e.setWidth 10
       exec (.mirrorSend 0) s = leaves s { s.m with yl := { y with mirSent := true, mlag := satInc y.mlag } } ∧
       -- the pages that go out are read in the compartment's name, by master class 3
       ((∀ g, readsClean s.m g) → ∃ caches, exec (.mirrorSend (started + 1)) s = leaves s { s.m with
         mc := { s.m.mc with portCaches := caches }
         yl := { y with mirSent := true }
         outbox := s.m.outbox ++ if (pagesRead comp base (size - 1) s.m).1 then
           [Out.mirror k comp ((e >>> 10).setWidth 5) ((e >>> 16).setWidth 8) s.m.tick.count
             (memBytes s.m base (4096 * (size - 1)))
             (((y.lastBisques.filter fun x => decide (x.1 = comp)).map Prod.snd).take 15)] else [] }))) ∧
   (∀ (s : State) (k : BitVec 4) (comp : BitVec 10) (size : BitVec 5) (base : Byte) (tick : BitVec 64) (pages : List Byte)
     (bisques : List (BitVec 2048)),
     let i : Instr := .mirrorFrameReceived k comp size base tick pages bisques
     let first : Addr := 0x40000000 + (base.setWidth 36 <<< 16)
     let n := 4096 * (size.toNat - 1)
     let last : Addr := first + BitVec.ofNat 36 n
     (s.m.yl.st ≠ .full → exec i s = leaves s s.m) ∧
     (s.m.yl.st = .full → 2 ≤ size.toNat → size.toNat ≤ 16 → 0x10000 * base.toNat + 4096 * size.toNat ≤ 0xF00000 →
       pages.length = n → bisques.length ≤ 15 → ∃ t, exec i s = .next t ∧
         (∀ a, a < first.toNat ∨ first.toNat + 4096 * size.toNat ≤ a → t.m.mem.byte a = s.m.mem.byte a) ∧
         ((fenceCheck portYunal (.cls comp 3) first true s.m).1 = false → t.m.yl.mfence = true ∧ t.m.mem = s.m.mem) ∧
         (t.m.yl.mfence = false → memBytes t.m first n = pages ∧
           (∀ j, j < bisques.length → memBytes t.m (last + BitVec.ofNat 36 (0x10 + 256 * j)) 256
             = bytesOf (bisques.getD j 0) 0 256) ∧
           memBytes t.m last 16 = bytesOf tick 0 8 ++ [k.setWidth 8, BitVec.ofNat 8 bisques.length] ++ List.replicate 6 0 ∧
           ∀ g, first.toNat / 16 ≤ g → g < first.toNat / 16 + 256 * (size.toNat - 1) → t.m.mem.tag g = false))))
end

