-- ==== Sys2Proof/Laws/State.lean ====
section
/-! SUPPORT. What each named update of the module leaves of its fields, and what a table holds after an update. -/

namespace Sys2Proof.Machine

open Sys2Proof

/-! ### Tables -/

/-- An entry that has just been set. -/
@[simp] theorem Tbl.get_set_same {k : Nat} {α : Type} (t : Tbl k α) (i : BitVec k) (x : α) :
    (Tbl.set t i x).get i = x := by
  simp [Tbl.get, Tbl.set]

/-- Every other entry stands. -/
theorem Tbl.get_set_ne {k : Nat} {α : Type} (t : Tbl k α) {i j : BitVec k} (x : α) (h : j ≠ i) :
    (Tbl.set t i x).get j = t.get j := by
  have h' : i.toNat ≠ j.toNat := fun e => h (BitVec.eq_of_toNat_eq e).symm
  simp [Tbl.get, Tbl.set, h']

/-- An entry that has just been changed. -/
@[simp] theorem Tbl.get_upd_same {k : Nat} {α : Type} (t : Tbl k α) (i : BitVec k) (f : α → α) :
    (Tbl.upd t i f).get i = f (t.get i) := by
  simp [Tbl.upd]

/-- Every other entry stands. -/
theorem Tbl.get_upd_ne {k : Nat} {α : Type} (t : Tbl k α) {i j : BitVec k} (f : α → α) (h : j ≠ i) :
    (Tbl.upd t i f).get j = t.get j :=
  Tbl.get_set_ne t _ h

/-- An entry after a change of entry `i`. -/
theorem Tbl.get_upd {k : Nat} {α : Type} (t : Tbl k α) (i j : BitVec k) (f : α → α) :
    (Tbl.upd t i f).get j = if j = i then f (t.get i) else t.get j := by
  split
  · next h => subst h; simp
  · next h => exact Tbl.get_upd_ne t f h

/-! ### Commands that take effect on the module -/

@[simp] theorem State.on_eq (s : State) (f : Mach → Mach) : s.on f = .next { s with m := f s.m } := rfl


/-! ### `modTile` -/

@[simp] theorem modTile_clk (t : BitVec 5) (f : Tile → Tile) (m : Mach) :
    (modTile t f m).clk = m.clk := rfl
@[simp] theorem modTile_free (t : BitVec 5) (f : Tile → Tile) (m : Mach) :
    (modTile t f m).free = m.free := rfl
@[simp] theorem modTile_bus (t : BitVec 5) (f : Tile → Tile) (m : Mach) :
    (modTile t f m).bus = m.bus := rfl
@[simp] theorem modTile_outbox (t : BitVec 5) (f : Tile → Tile) (m : Mach) :
    (modTile t f m).outbox = m.outbox := rfl
@[simp] theorem modTile_tick (t : BitVec 5) (f : Tile → Tile) (m : Mach) :
    (modTile t f m).tick = m.tick := rfl
@[simp] theorem modTile_mode (t : BitVec 5) (f : Tile → Tile) (m : Mach) :
    (modTile t f m).mode = m.mode := rfl
@[simp] theorem modTile_tiles (t : BitVec 5) (f : Tile → Tile) (m : Mach) :
    (modTile t f m).tiles = m.tiles.upd t f := rfl
@[simp] theorem modTile_engines (t : BitVec 5) (f : Tile → Tile) (m : Mach) :
    (modTile t f m).engines = m.engines := rfl
@[simp] theorem modTile_ints (t : BitVec 5) (f : Tile → Tile) (m : Mach) :
    (modTile t f m).ints = m.ints := rfl
@[simp] theorem modTile_supNotices (t : BitVec 5) (f : Tile → Tile) (m : Mach) :
    (modTile t f m).supNotices = m.supNotices := rfl
@[simp] theorem modTile_supOverruns (t : BitVec 5) (f : Tile → Tile) (m : Mach) :
    (modTile t f m).supOverruns = m.supOverruns := rfl
@[simp] theorem modTile_resv (t : BitVec 5) (f : Tile → Tile) (m : Mach) :
    (modTile t f m).resv = m.resv := rfl
@[simp] theorem modTile_owner (t : BitVec 5) (f : Tile → Tile) (m : Mach) :
    (modTile t f m).owner = m.owner := rfl
@[simp] theorem modTile_spans (t : BitVec 5) (f : Tile → Tile) (m : Mach) :
    (modTile t f m).spans = m.spans := rfl
@[simp] theorem modTile_spanRuns (t : BitVec 5) (f : Tile → Tile) (m : Mach) :
    (modTile t f m).spanRuns = m.spanRuns := rfl
@[simp] theorem modTile_marks (t : BitVec 5) (f : Tile → Tile) (m : Mach) :
    (modTile t f m).marks = m.marks := rfl
@[simp] theorem modTile_mint (t : BitVec 5) (f : Tile → Tile) (m : Mach) :
    (modTile t f m).mint = m.mint := rfl
@[simp] theorem modTile_mem (t : BitVec 5) (f : Tile → Tile) (m : Mach) :
    (modTile t f m).mem = m.mem := rfl
@[simp] theorem modTile_mc (t : BitVec 5) (f : Tile → Tile) (m : Mach) :
    (modTile t f m).mc = m.mc := rfl
@[simp] theorem modTile_dies (t : BitVec 5) (f : Tile → Tile) (m : Mach) :
    (modTile t f m).dies = m.dies := rfl
@[simp] theorem modTile_chans (t : BitVec 5) (f : Tile → Tile) (m : Mach) :
    (modTile t f m).chans = m.chans := rfl
@[simp] theorem modTile_host (t : BitVec 5) (f : Tile → Tile) (m : Mach) :
    (modTile t f m).host = m.host := rfl
@[simp] theorem modTile_sec (t : BitVec 5) (f : Tile → Tile) (m : Mach) :
    (modTile t f m).sec = m.sec := rfl
@[simp] theorem modTile_faults (t : BitVec 5) (f : Tile → Tile) (m : Mach) :
    (modTile t f m).faults = m.faults := rfl
@[simp] theorem modTile_watch (t : BitVec 5) (f : Tile → Tile) (m : Mach) :
    (modTile t f m).watch = m.watch := rfl
@[simp] theorem modTile_dbg (t : BitVec 5) (f : Tile → Tile) (m : Mach) :
    (modTile t f m).dbg = m.dbg := rfl
@[simp] theorem modTile_pwr (t : BitVec 5) (f : Tile → Tile) (m : Mach) :
    (modTile t f m).pwr = m.pwr := rfl
@[simp] theorem modTile_bkp (t : BitVec 5) (f : Tile → Tile) (m : Mach) :
    (modTile t f m).bkp = m.bkp := rfl
@[simp] theorem modTile_yl (t : BitVec 5) (f : Tile → Tile) (m : Mach) :
    (modTile t f m).yl = m.yl := rfl

/-! ### `modEng` -/

@[simp] theorem modEng_clk (e : BitVec 7) (f : Engine → Engine) (m : Mach) :
    (modEng e f m).clk = m.clk := rfl
@[simp] theorem modEng_free (e : BitVec 7) (f : Engine → Engine) (m : Mach) :
    (modEng e f m).free = m.free := rfl
@[simp] theorem modEng_bus (e : BitVec 7) (f : Engine → Engine) (m : Mach) :
    (modEng e f m).bus = m.bus := rfl
@[simp] theorem modEng_outbox (e : BitVec 7) (f : Engine → Engine) (m : Mach) :
    (modEng e f m).outbox = m.outbox := rfl
@[simp] theorem modEng_tick (e : BitVec 7) (f : Engine → Engine) (m : Mach) :
    (modEng e f m).tick = m.tick := rfl
@[simp] theorem modEng_mode (e : BitVec 7) (f : Engine → Engine) (m : Mach) :
    (modEng e f m).mode = m.mode := rfl
@[simp] theorem modEng_tiles (e : BitVec 7) (f : Engine → Engine) (m : Mach) :
    (modEng e f m).tiles = m.tiles := rfl
@[simp] theorem modEng_engines (e : BitVec 7) (f : Engine → Engine) (m : Mach) :
    (modEng e f m).engines = m.engines.upd e f := rfl
@[simp] theorem modEng_ints (e : BitVec 7) (f : Engine → Engine) (m : Mach) :
    (modEng e f m).ints = m.ints := rfl
@[simp] theorem modEng_supNotices (e : BitVec 7) (f : Engine → Engine) (m : Mach) :
    (modEng e f m).supNotices = m.supNotices := rfl
@[simp] theorem modEng_supOverruns (e : BitVec 7) (f : Engine → Engine) (m : Mach) :
    (modEng e f m).supOverruns = m.supOverruns := rfl
@[simp] theorem modEng_resv (e : BitVec 7) (f : Engine → Engine) (m : Mach) :
    (modEng e f m).resv = m.resv := rfl
@[simp] theorem modEng_owner (e : BitVec 7) (f : Engine → Engine) (m : Mach) :
    (modEng e f m).owner = m.owner := rfl
@[simp] theorem modEng_spans (e : BitVec 7) (f : Engine → Engine) (m : Mach) :
    (modEng e f m).spans = m.spans := rfl
@[simp] theorem modEng_spanRuns (e : BitVec 7) (f : Engine → Engine) (m : Mach) :
    (modEng e f m).spanRuns = m.spanRuns := rfl
@[simp] theorem modEng_marks (e : BitVec 7) (f : Engine → Engine) (m : Mach) :
    (modEng e f m).marks = m.marks := rfl
@[simp] theorem modEng_mint (e : BitVec 7) (f : Engine → Engine) (m : Mach) :
    (modEng e f m).mint = m.mint := rfl
@[simp] theorem modEng_mem (e : BitVec 7) (f : Engine → Engine) (m : Mach) :
    (modEng e f m).mem = m.mem := rfl
@[simp] theorem modEng_mc (e : BitVec 7) (f : Engine → Engine) (m : Mach) :
    (modEng e f m).mc = m.mc := rfl
@[simp] theorem modEng_dies (e : BitVec 7) (f : Engine → Engine) (m : Mach) :
    (modEng e f m).dies = m.dies := rfl
@[simp] theorem modEng_chans (e : BitVec 7) (f : Engine → Engine) (m : Mach) :
    (modEng e f m).chans = m.chans := rfl
@[simp] theorem modEng_host (e : BitVec 7) (f : Engine → Engine) (m : Mach) :
    (modEng e f m).host = m.host := rfl
@[simp] theorem modEng_sec (e : BitVec 7) (f : Engine → Engine) (m : Mach) :
    (modEng e f m).sec = m.sec := rfl
@[simp] theorem modEng_faults (e : BitVec 7) (f : Engine → Engine) (m : Mach) :
    (modEng e f m).faults = m.faults := rfl
@[simp] theorem modEng_watch (e : BitVec 7) (f : Engine → Engine) (m : Mach) :
    (modEng e f m).watch = m.watch := rfl
@[simp] theorem modEng_dbg (e : BitVec 7) (f : Engine → Engine) (m : Mach) :
    (modEng e f m).dbg = m.dbg := rfl
@[simp] theorem modEng_pwr (e : BitVec 7) (f : Engine → Engine) (m : Mach) :
    (modEng e f m).pwr = m.pwr := rfl
@[simp] theorem modEng_bkp (e : BitVec 7) (f : Engine → Engine) (m : Mach) :
    (modEng e f m).bkp = m.bkp := rfl
@[simp] theorem modEng_yl (e : BitVec 7) (f : Engine → Engine) (m : Mach) :
    (modEng e f m).yl = m.yl := rfl

/-! ### `modRep` -/

@[simp] theorem modRep_clk (t : BitVec 5) (r : BitVec 2) (f : Replica → Replica) (m : Mach) :
    (modRep t r f m).clk = m.clk := rfl
@[simp] theorem modRep_free (t : BitVec 5) (r : BitVec 2) (f : Replica → Replica) (m : Mach) :
    (modRep t r f m).free = m.free := rfl
@[simp] theorem modRep_bus (t : BitVec 5) (r : BitVec 2) (f : Replica → Replica) (m : Mach) :
    (modRep t r f m).bus = m.bus := rfl
@[simp] theorem modRep_outbox (t : BitVec 5) (r : BitVec 2) (f : Replica → Replica) (m : Mach) :
    (modRep t r f m).outbox = m.outbox := rfl
@[simp] theorem modRep_tick (t : BitVec 5) (r : BitVec 2) (f : Replica → Replica) (m : Mach) :
    (modRep t r f m).tick = m.tick := rfl
@[simp] theorem modRep_mode (t : BitVec 5) (r : BitVec 2) (f : Replica → Replica) (m : Mach) :
    (modRep t r f m).mode = m.mode := rfl
@[simp] theorem modRep_tiles (t : BitVec 5) (r : BitVec 2) (f : Replica → Replica) (m : Mach) :
    (modRep t r f m).tiles = m.tiles.upd t fun tl => { tl with reps := tl.reps.upd r f } := rfl
@[simp] theorem modRep_engines (t : BitVec 5) (r : BitVec 2) (f : Replica → Replica) (m : Mach) :
    (modRep t r f m).engines = m.engines := rfl
@[simp] theorem modRep_ints (t : BitVec 5) (r : BitVec 2) (f : Replica → Replica) (m : Mach) :
    (modRep t r f m).ints = m.ints := rfl
@[simp] theorem modRep_supNotices (t : BitVec 5) (r : BitVec 2) (f : Replica → Replica) (m : Mach) :
    (modRep t r f m).supNotices = m.supNotices := rfl
@[simp] theorem modRep_supOverruns (t : BitVec 5) (r : BitVec 2) (f : Replica → Replica) (m : Mach) :
    (modRep t r f m).supOverruns = m.supOverruns := rfl
@[simp] theorem modRep_resv (t : BitVec 5) (r : BitVec 2) (f : Replica → Replica) (m : Mach) :
    (modRep t r f m).resv = m.resv := rfl
@[simp] theorem modRep_owner (t : BitVec 5) (r : BitVec 2) (f : Replica → Replica) (m : Mach) :
    (modRep t r f m).owner = m.owner := rfl
@[simp] theorem modRep_spans (t : BitVec 5) (r : BitVec 2) (f : Replica → Replica) (m : Mach) :
    (modRep t r f m).spans = m.spans := rfl
@[simp] theorem modRep_spanRuns (t : BitVec 5) (r : BitVec 2) (f : Replica → Replica) (m : Mach) :
    (modRep t r f m).spanRuns = m.spanRuns := rfl
@[simp] theorem modRep_marks (t : BitVec 5) (r : BitVec 2) (f : Replica → Replica) (m : Mach) :
    (modRep t r f m).marks = m.marks := rfl
@[simp] theorem modRep_mint (t : BitVec 5) (r : BitVec 2) (f : Replica → Replica) (m : Mach) :
    (modRep t r f m).mint = m.mint := rfl
@[simp] theorem modRep_mem (t : BitVec 5) (r : BitVec 2) (f : Replica → Replica) (m : Mach) :
    (modRep t r f m).mem = m.mem := rfl
@[simp] theorem modRep_mc (t : BitVec 5) (r : BitVec 2) (f : Replica → Replica) (m : Mach) :
    (modRep t r f m).mc = m.mc := rfl
@[simp] theorem modRep_dies (t : BitVec 5) (r : BitVec 2) (f : Replica → Replica) (m : Mach) :
    (modRep t r f m).dies = m.dies := rfl
@[simp] theorem modRep_chans (t : BitVec 5) (r : BitVec 2) (f : Replica → Replica) (m : Mach) :
    (modRep t r f m).chans = m.chans := rfl
@[simp] theorem modRep_host (t : BitVec 5) (r : BitVec 2) (f : Replica → Replica) (m : Mach) :
    (modRep t r f m).host = m.host := rfl
@[simp] theorem modRep_sec (t : BitVec 5) (r : BitVec 2) (f : Replica → Replica) (m : Mach) :
    (modRep t r f m).sec = m.sec := rfl
@[simp] theorem modRep_faults (t : BitVec 5) (r : BitVec 2) (f : Replica → Replica) (m : Mach) :
    (modRep t r f m).faults = m.faults := rfl
@[simp] theorem modRep_watch (t : BitVec 5) (r : BitVec 2) (f : Replica → Replica) (m : Mach) :
    (modRep t r f m).watch = m.watch := rfl
@[simp] theorem modRep_dbg (t : BitVec 5) (r : BitVec 2) (f : Replica → Replica) (m : Mach) :
    (modRep t r f m).dbg = m.dbg := rfl
@[simp] theorem modRep_pwr (t : BitVec 5) (r : BitVec 2) (f : Replica → Replica) (m : Mach) :
    (modRep t r f m).pwr = m.pwr := rfl
@[simp] theorem modRep_bkp (t : BitVec 5) (r : BitVec 2) (f : Replica → Replica) (m : Mach) :
    (modRep t r f m).bkp = m.bkp := rfl
@[simp] theorem modRep_yl (t : BitVec 5) (r : BitVec 2) (f : Replica → Replica) (m : Mach) :
    (modRep t r f m).yl = m.yl := rfl

/-! ### `modMc` -/

@[simp] theorem modMc_clk (f : MemCtl → MemCtl) (m : Mach) :
    (modMc f m).clk = m.clk := rfl
@[simp] theorem modMc_free (f : MemCtl → MemCtl) (m : Mach) :
    (modMc f m).free = m.free := rfl
@[simp] theorem modMc_bus (f : MemCtl → MemCtl) (m : Mach) :
    (modMc f m).bus = m.bus := rfl
@[simp] theorem modMc_outbox (f : MemCtl → MemCtl) (m : Mach) :
    (modMc f m).outbox = m.outbox := rfl
@[simp] theorem modMc_tick (f : MemCtl → MemCtl) (m : Mach) :
    (modMc f m).tick = m.tick := rfl
@[simp] theorem modMc_mode (f : MemCtl → MemCtl) (m : Mach) :
    (modMc f m).mode = m.mode := rfl
@[simp] theorem modMc_tiles (f : MemCtl → MemCtl) (m : Mach) :
    (modMc f m).tiles = m.tiles := rfl
@[simp] theorem modMc_engines (f : MemCtl → MemCtl) (m : Mach) :
    (modMc f m).engines = m.engines := rfl
@[simp] theorem modMc_ints (f : MemCtl → MemCtl) (m : Mach) :
    (modMc f m).ints = m.ints := rfl
@[simp] theorem modMc_supNotices (f : MemCtl → MemCtl) (m : Mach) :
    (modMc f m).supNotices = m.supNotices := rfl
@[simp] theorem modMc_supOverruns (f : MemCtl → MemCtl) (m : Mach) :
    (modMc f m).supOverruns = m.supOverruns := rfl
@[simp] theorem modMc_resv (f : MemCtl → MemCtl) (m : Mach) :
    (modMc f m).resv = m.resv := rfl
@[simp] theorem modMc_owner (f : MemCtl → MemCtl) (m : Mach) :
    (modMc f m).owner = m.owner := rfl
@[simp] theorem modMc_spans (f : MemCtl → MemCtl) (m : Mach) :
    (modMc f m).spans = m.spans := rfl
@[simp] theorem modMc_spanRuns (f : MemCtl → MemCtl) (m : Mach) :
    (modMc f m).spanRuns = m.spanRuns := rfl
@[simp] theorem modMc_marks (f : MemCtl → MemCtl) (m : Mach) :
    (modMc f m).marks = m.marks := rfl
@[simp] theorem modMc_mint (f : MemCtl → MemCtl) (m : Mach) :
    (modMc f m).mint = m.mint := rfl
@[simp] theorem modMc_mem (f : MemCtl → MemCtl) (m : Mach) :
    (modMc f m).mem = m.mem := rfl
@[simp] theorem modMc_mc (f : MemCtl → MemCtl) (m : Mach) :
    (modMc f m).mc = f m.mc := rfl
@[simp] theorem modMc_dies (f : MemCtl → MemCtl) (m : Mach) :
    (modMc f m).dies = m.dies := rfl
@[simp] theorem modMc_chans (f : MemCtl → MemCtl) (m : Mach) :
    (modMc f m).chans = m.chans := rfl
@[simp] theorem modMc_host (f : MemCtl → MemCtl) (m : Mach) :
    (modMc f m).host = m.host := rfl
@[simp] theorem modMc_sec (f : MemCtl → MemCtl) (m : Mach) :
    (modMc f m).sec = m.sec := rfl
@[simp] theorem modMc_faults (f : MemCtl → MemCtl) (m : Mach) :
    (modMc f m).faults = m.faults := rfl
@[simp] theorem modMc_watch (f : MemCtl → MemCtl) (m : Mach) :
    (modMc f m).watch = m.watch := rfl
@[simp] theorem modMc_dbg (f : MemCtl → MemCtl) (m : Mach) :
    (modMc f m).dbg = m.dbg := rfl
@[simp] theorem modMc_pwr (f : MemCtl → MemCtl) (m : Mach) :
    (modMc f m).pwr = m.pwr := rfl
@[simp] theorem modMc_bkp (f : MemCtl → MemCtl) (m : Mach) :
    (modMc f m).bkp = m.bkp := rfl
@[simp] theorem modMc_yl (f : MemCtl → MemCtl) (m : Mach) :
    (modMc f m).yl = m.yl := rfl

/-! ### `modDbg` -/

@[simp] theorem modDbg_clk (f : Debug → Debug) (m : Mach) :
    (modDbg f m).clk = m.clk := rfl
@[simp] theorem modDbg_free (f : Debug → Debug) (m : Mach) :
    (modDbg f m).free = m.free := rfl
@[simp] theorem modDbg_bus (f : Debug → Debug) (m : Mach) :
    (modDbg f m).bus = m.bus := rfl
@[simp] theorem modDbg_outbox (f : Debug → Debug) (m : Mach) :
    (modDbg f m).outbox = m.outbox := rfl
@[simp] theorem modDbg_tick (f : Debug → Debug) (m : Mach) :
    (modDbg f m).tick = m.tick := rfl
@[simp] theorem modDbg_mode (f : Debug → Debug) (m : Mach) :
    (modDbg f m).mode = m.mode := rfl
@[simp] theorem modDbg_tiles (f : Debug → Debug) (m : Mach) :
    (modDbg f m).tiles = m.tiles := rfl
@[simp] theorem modDbg_engines (f : Debug → Debug) (m : Mach) :
    (modDbg f m).engines = m.engines := rfl
@[simp] theorem modDbg_ints (f : Debug → Debug) (m : Mach) :
    (modDbg f m).ints = m.ints := rfl
@[simp] theorem modDbg_supNotices (f : Debug → Debug) (m : Mach) :
    (modDbg f m).supNotices = m.supNotices := rfl
@[simp] theorem modDbg_supOverruns (f : Debug → Debug) (m : Mach) :
    (modDbg f m).supOverruns = m.supOverruns := rfl
@[simp] theorem modDbg_resv (f : Debug → Debug) (m : Mach) :
    (modDbg f m).resv = m.resv := rfl
@[simp] theorem modDbg_owner (f : Debug → Debug) (m : Mach) :
    (modDbg f m).owner = m.owner := rfl
@[simp] theorem modDbg_spans (f : Debug → Debug) (m : Mach) :
    (modDbg f m).spans = m.spans := rfl
@[simp] theorem modDbg_spanRuns (f : Debug → Debug) (m : Mach) :
    (modDbg f m).spanRuns = m.spanRuns := rfl
@[simp] theorem modDbg_marks (f : Debug → Debug) (m : Mach) :
    (modDbg f m).marks = m.marks := rfl
@[simp] theorem modDbg_mint (f : Debug → Debug) (m : Mach) :
    (modDbg f m).mint = m.mint := rfl
@[simp] theorem modDbg_mem (f : Debug → Debug) (m : Mach) :
    (modDbg f m).mem = m.mem := rfl
@[simp] theorem modDbg_mc (f : Debug → Debug) (m : Mach) :
    (modDbg f m).mc = m.mc := rfl
@[simp] theorem modDbg_dies (f : Debug → Debug) (m : Mach) :
    (modDbg f m).dies = m.dies := rfl
@[simp] theorem modDbg_chans (f : Debug → Debug) (m : Mach) :
    (modDbg f m).chans = m.chans := rfl
@[simp] theorem modDbg_host (f : Debug → Debug) (m : Mach) :
    (modDbg f m).host = m.host := rfl
@[simp] theorem modDbg_sec (f : Debug → Debug) (m : Mach) :
    (modDbg f m).sec = m.sec := rfl
@[simp] theorem modDbg_faults (f : Debug → Debug) (m : Mach) :
    (modDbg f m).faults = m.faults := rfl
@[simp] theorem modDbg_watch (f : Debug → Debug) (m : Mach) :
    (modDbg f m).watch = m.watch := rfl
@[simp] theorem modDbg_dbg (f : Debug → Debug) (m : Mach) :
    (modDbg f m).dbg = f m.dbg := rfl
@[simp] theorem modDbg_pwr (f : Debug → Debug) (m : Mach) :
    (modDbg f m).pwr = m.pwr := rfl
@[simp] theorem modDbg_bkp (f : Debug → Debug) (m : Mach) :
    (modDbg f m).bkp = m.bkp := rfl
@[simp] theorem modDbg_yl (f : Debug → Debug) (m : Mach) :
    (modDbg f m).yl = m.yl := rfl

/-! ### `modDEng` -/

@[simp] theorem modDEng_clk (e : BitVec 7) (f : DEng → DEng) (m : Mach) :
    (modDEng e f m).clk = m.clk := rfl
@[simp] theorem modDEng_free (e : BitVec 7) (f : DEng → DEng) (m : Mach) :
    (modDEng e f m).free = m.free := rfl
@[simp] theorem modDEng_bus (e : BitVec 7) (f : DEng → DEng) (m : Mach) :
    (modDEng e f m).bus = m.bus := rfl
@[simp] theorem modDEng_outbox (e : BitVec 7) (f : DEng → DEng) (m : Mach) :
    (modDEng e f m).outbox = m.outbox := rfl
@[simp] theorem modDEng_tick (e : BitVec 7) (f : DEng → DEng) (m : Mach) :
    (modDEng e f m).tick = m.tick := rfl
@[simp] theorem modDEng_mode (e : BitVec 7) (f : DEng → DEng) (m : Mach) :
    (modDEng e f m).mode = m.mode := rfl
@[simp] theorem modDEng_tiles (e : BitVec 7) (f : DEng → DEng) (m : Mach) :
    (modDEng e f m).tiles = m.tiles := rfl
@[simp] theorem modDEng_engines (e : BitVec 7) (f : DEng → DEng) (m : Mach) :
    (modDEng e f m).engines = m.engines := rfl
@[simp] theorem modDEng_ints (e : BitVec 7) (f : DEng → DEng) (m : Mach) :
    (modDEng e f m).ints = m.ints := rfl
@[simp] theorem modDEng_supNotices (e : BitVec 7) (f : DEng → DEng) (m : Mach) :
    (modDEng e f m).supNotices = m.supNotices := rfl
@[simp] theorem modDEng_supOverruns (e : BitVec 7) (f : DEng → DEng) (m : Mach) :
    (modDEng e f m).supOverruns = m.supOverruns := rfl
@[simp] theorem modDEng_resv (e : BitVec 7) (f : DEng → DEng) (m : Mach) :
    (modDEng e f m).resv = m.resv := rfl
@[simp] theorem modDEng_owner (e : BitVec 7) (f : DEng → DEng) (m : Mach) :
    (modDEng e f m).owner = m.owner := rfl
@[simp] theorem modDEng_spans (e : BitVec 7) (f : DEng → DEng) (m : Mach) :
    (modDEng e f m).spans = m.spans := rfl
@[simp] theorem modDEng_spanRuns (e : BitVec 7) (f : DEng → DEng) (m : Mach) :
    (modDEng e f m).spanRuns = m.spanRuns := rfl
@[simp] theorem modDEng_marks (e : BitVec 7) (f : DEng → DEng) (m : Mach) :
    (modDEng e f m).marks = m.marks := rfl
@[simp] theorem modDEng_mint (e : BitVec 7) (f : DEng → DEng) (m : Mach) :
    (modDEng e f m).mint = m.mint := rfl
@[simp] theorem modDEng_mem (e : BitVec 7) (f : DEng → DEng) (m : Mach) :
    (modDEng e f m).mem = m.mem := rfl
@[simp] theorem modDEng_mc (e : BitVec 7) (f : DEng → DEng) (m : Mach) :
    (modDEng e f m).mc = m.mc := rfl
@[simp] theorem modDEng_dies (e : BitVec 7) (f : DEng → DEng) (m : Mach) :
    (modDEng e f m).dies = m.dies := rfl
@[simp] theorem modDEng_chans (e : BitVec 7) (f : DEng → DEng) (m : Mach) :
    (modDEng e f m).chans = m.chans := rfl
@[simp] theorem modDEng_host (e : BitVec 7) (f : DEng → DEng) (m : Mach) :
    (modDEng e f m).host = m.host := rfl
@[simp] theorem modDEng_sec (e : BitVec 7) (f : DEng → DEng) (m : Mach) :
    (modDEng e f m).sec = m.sec := rfl
@[simp] theorem modDEng_faults (e : BitVec 7) (f : DEng → DEng) (m : Mach) :
    (modDEng e f m).faults = m.faults := rfl
@[simp] theorem modDEng_watch (e : BitVec 7) (f : DEng → DEng) (m : Mach) :
    (modDEng e f m).watch = m.watch := rfl
@[simp] theorem modDEng_dbg (e : BitVec 7) (f : DEng → DEng) (m : Mach) :
    (modDEng e f m).dbg = { m.dbg with engs := m.dbg.engs.upd e f } := rfl
@[simp] theorem modDEng_pwr (e : BitVec 7) (f : DEng → DEng) (m : Mach) :
    (modDEng e f m).pwr = m.pwr := rfl
@[simp] theorem modDEng_bkp (e : BitVec 7) (f : DEng → DEng) (m : Mach) :
    (modDEng e f m).bkp = m.bkp := rfl
@[simp] theorem modDEng_yl (e : BitVec 7) (f : DEng → DEng) (m : Mach) :
    (modDEng e f m).yl = m.yl := rfl

/-! ### `modDie` -/

@[simp] theorem modDie_clk (d : BitVec 2) (f : Die → Die) (m : Mach) :
    (modDie d f m).clk = m.clk := rfl
@[simp] theorem modDie_free (d : BitVec 2) (f : Die → Die) (m : Mach) :
    (modDie d f m).free = m.free := rfl
@[simp] theorem modDie_bus (d : BitVec 2) (f : Die → Die) (m : Mach) :
    (modDie d f m).bus = m.bus := rfl
@[simp] theorem modDie_outbox (d : BitVec 2) (f : Die → Die) (m : Mach) :
    (modDie d f m).outbox = m.outbox := rfl
@[simp] theorem modDie_tick (d : BitVec 2) (f : Die → Die) (m : Mach) :
    (modDie d f m).tick = m.tick := rfl
@[simp] theorem modDie_mode (d : BitVec 2) (f : Die → Die) (m : Mach) :
    (modDie d f m).mode = m.mode := rfl
@[simp] theorem modDie_tiles (d : BitVec 2) (f : Die → Die) (m : Mach) :
    (modDie d f m).tiles = m.tiles := rfl
@[simp] theorem modDie_engines (d : BitVec 2) (f : Die → Die) (m : Mach) :
    (modDie d f m).engines = m.engines := rfl
@[simp] theorem modDie_ints (d : BitVec 2) (f : Die → Die) (m : Mach) :
    (modDie d f m).ints = m.ints := rfl
@[simp] theorem modDie_supNotices (d : BitVec 2) (f : Die → Die) (m : Mach) :
    (modDie d f m).supNotices = m.supNotices := rfl
@[simp] theorem modDie_supOverruns (d : BitVec 2) (f : Die → Die) (m : Mach) :
    (modDie d f m).supOverruns = m.supOverruns := rfl
@[simp] theorem modDie_resv (d : BitVec 2) (f : Die → Die) (m : Mach) :
    (modDie d f m).resv = m.resv := rfl
@[simp] theorem modDie_owner (d : BitVec 2) (f : Die → Die) (m : Mach) :
    (modDie d f m).owner = m.owner := rfl
@[simp] theorem modDie_spans (d : BitVec 2) (f : Die → Die) (m : Mach) :
    (modDie d f m).spans = m.spans := rfl
@[simp] theorem modDie_spanRuns (d : BitVec 2) (f : Die → Die) (m : Mach) :
    (modDie d f m).spanRuns = m.spanRuns := rfl
@[simp] theorem modDie_marks (d : BitVec 2) (f : Die → Die) (m : Mach) :
    (modDie d f m).marks = m.marks := rfl
@[simp] theorem modDie_mint (d : BitVec 2) (f : Die → Die) (m : Mach) :
    (modDie d f m).mint = m.mint := rfl
@[simp] theorem modDie_mem (d : BitVec 2) (f : Die → Die) (m : Mach) :
    (modDie d f m).mem = m.mem := rfl
@[simp] theorem modDie_mc (d : BitVec 2) (f : Die → Die) (m : Mach) :
    (modDie d f m).mc = m.mc := rfl
@[simp] theorem modDie_dies (d : BitVec 2) (f : Die → Die) (m : Mach) :
    (modDie d f m).dies = m.dies.upd d f := rfl
@[simp] theorem modDie_chans (d : BitVec 2) (f : Die → Die) (m : Mach) :
    (modDie d f m).chans = m.chans := rfl
@[simp] theorem modDie_host (d : BitVec 2) (f : Die → Die) (m : Mach) :
    (modDie d f m).host = m.host := rfl
@[simp] theorem modDie_sec (d : BitVec 2) (f : Die → Die) (m : Mach) :
    (modDie d f m).sec = m.sec := rfl
@[simp] theorem modDie_faults (d : BitVec 2) (f : Die → Die) (m : Mach) :
    (modDie d f m).faults = m.faults := rfl
@[simp] theorem modDie_watch (d : BitVec 2) (f : Die → Die) (m : Mach) :
    (modDie d f m).watch = m.watch := rfl
@[simp] theorem modDie_dbg (d : BitVec 2) (f : Die → Die) (m : Mach) :
    (modDie d f m).dbg = m.dbg := rfl
@[simp] theorem modDie_pwr (d : BitVec 2) (f : Die → Die) (m : Mach) :
    (modDie d f m).pwr = m.pwr := rfl
@[simp] theorem modDie_bkp (d : BitVec 2) (f : Die → Die) (m : Mach) :
    (modDie d f m).bkp = m.bkp := rfl
@[simp] theorem modDie_yl (d : BitVec 2) (f : Die → Die) (m : Mach) :
    (modDie d f m).yl = m.yl := rfl

/-! ### `modHost` -/

@[simp] theorem modHost_clk (f : HostIf → HostIf) (m : Mach) :
    (modHost f m).clk = m.clk := rfl
@[simp] theorem modHost_free (f : HostIf → HostIf) (m : Mach) :
    (modHost f m).free = m.free := rfl
@[simp] theorem modHost_bus (f : HostIf → HostIf) (m : Mach) :
    (modHost f m).bus = m.bus := rfl
@[simp] theorem modHost_outbox (f : HostIf → HostIf) (m : Mach) :
    (modHost f m).outbox = m.outbox := rfl
@[simp] theorem modHost_tick (f : HostIf → HostIf) (m : Mach) :
    (modHost f m).tick = m.tick := rfl
@[simp] theorem modHost_mode (f : HostIf → HostIf) (m : Mach) :
    (modHost f m).mode = m.mode := rfl
@[simp] theorem modHost_tiles (f : HostIf → HostIf) (m : Mach) :
    (modHost f m).tiles = m.tiles := rfl
@[simp] theorem modHost_engines (f : HostIf → HostIf) (m : Mach) :
    (modHost f m).engines = m.engines := rfl
@[simp] theorem modHost_ints (f : HostIf → HostIf) (m : Mach) :
    (modHost f m).ints = m.ints := rfl
@[simp] theorem modHost_supNotices (f : HostIf → HostIf) (m : Mach) :
    (modHost f m).supNotices = m.supNotices := rfl
@[simp] theorem modHost_supOverruns (f : HostIf → HostIf) (m : Mach) :
    (modHost f m).supOverruns = m.supOverruns := rfl
@[simp] theorem modHost_resv (f : HostIf → HostIf) (m : Mach) :
    (modHost f m).resv = m.resv := rfl
@[simp] theorem modHost_owner (f : HostIf → HostIf) (m : Mach) :
    (modHost f m).owner = m.owner := rfl
@[simp] theorem modHost_spans (f : HostIf → HostIf) (m : Mach) :
    (modHost f m).spans = m.spans := rfl
@[simp] theorem modHost_spanRuns (f : HostIf → HostIf) (m : Mach) :
    (modHost f m).spanRuns = m.spanRuns := rfl
@[simp] theorem modHost_marks (f : HostIf → HostIf) (m : Mach) :
    (modHost f m).marks = m.marks := rfl
@[simp] theorem modHost_mint (f : HostIf → HostIf) (m : Mach) :
    (modHost f m).mint = m.mint := rfl
@[simp] theorem modHost_mem (f : HostIf → HostIf) (m : Mach) :
    (modHost f m).mem = m.mem := rfl
@[simp] theorem modHost_mc (f : HostIf → HostIf) (m : Mach) :
    (modHost f m).mc = m.mc := rfl
@[simp] theorem modHost_dies (f : HostIf → HostIf) (m : Mach) :
    (modHost f m).dies = m.dies := rfl
@[simp] theorem modHost_chans (f : HostIf → HostIf) (m : Mach) :
    (modHost f m).chans = m.chans := rfl
@[simp] theorem modHost_host (f : HostIf → HostIf) (m : Mach) :
    (modHost f m).host = f m.host := rfl
@[simp] theorem modHost_sec (f : HostIf → HostIf) (m : Mach) :
    (modHost f m).sec = m.sec := rfl
@[simp] theorem modHost_faults (f : HostIf → HostIf) (m : Mach) :
    (modHost f m).faults = m.faults := rfl
@[simp] theorem modHost_watch (f : HostIf → HostIf) (m : Mach) :
    (modHost f m).watch = m.watch := rfl
@[simp] theorem modHost_dbg (f : HostIf → HostIf) (m : Mach) :
    (modHost f m).dbg = m.dbg := rfl
@[simp] theorem modHost_pwr (f : HostIf → HostIf) (m : Mach) :
    (modHost f m).pwr = m.pwr := rfl
@[simp] theorem modHost_bkp (f : HostIf → HostIf) (m : Mach) :
    (modHost f m).bkp = m.bkp := rfl
@[simp] theorem modHost_yl (f : HostIf → HostIf) (m : Mach) :
    (modHost f m).yl = m.yl := rfl

/-! ### `modRing` -/

@[simp] theorem modRing_clk (r : Byte) (f : Ring → Ring) (m : Mach) :
    (modRing r f m).clk = m.clk := rfl
@[simp] theorem modRing_free (r : Byte) (f : Ring → Ring) (m : Mach) :
    (modRing r f m).free = m.free := rfl
@[simp] theorem modRing_bus (r : Byte) (f : Ring → Ring) (m : Mach) :
    (modRing r f m).bus = m.bus := rfl
@[simp] theorem modRing_outbox (r : Byte) (f : Ring → Ring) (m : Mach) :
    (modRing r f m).outbox = m.outbox := rfl
@[simp] theorem modRing_tick (r : Byte) (f : Ring → Ring) (m : Mach) :
    (modRing r f m).tick = m.tick := rfl
@[simp] theorem modRing_mode (r : Byte) (f : Ring → Ring) (m : Mach) :
    (modRing r f m).mode = m.mode := rfl
@[simp] theorem modRing_tiles (r : Byte) (f : Ring → Ring) (m : Mach) :
    (modRing r f m).tiles = m.tiles := rfl
@[simp] theorem modRing_engines (r : Byte) (f : Ring → Ring) (m : Mach) :
    (modRing r f m).engines = m.engines := rfl
@[simp] theorem modRing_ints (r : Byte) (f : Ring → Ring) (m : Mach) :
    (modRing r f m).ints = m.ints := rfl
@[simp] theorem modRing_supNotices (r : Byte) (f : Ring → Ring) (m : Mach) :
    (modRing r f m).supNotices = m.supNotices := rfl
@[simp] theorem modRing_supOverruns (r : Byte) (f : Ring → Ring) (m : Mach) :
    (modRing r f m).supOverruns = m.supOverruns := rfl
@[simp] theorem modRing_resv (r : Byte) (f : Ring → Ring) (m : Mach) :
    (modRing r f m).resv = m.resv := rfl
@[simp] theorem modRing_owner (r : Byte) (f : Ring → Ring) (m : Mach) :
    (modRing r f m).owner = m.owner := rfl
@[simp] theorem modRing_spans (r : Byte) (f : Ring → Ring) (m : Mach) :
    (modRing r f m).spans = m.spans := rfl
@[simp] theorem modRing_spanRuns (r : Byte) (f : Ring → Ring) (m : Mach) :
    (modRing r f m).spanRuns = m.spanRuns := rfl
@[simp] theorem modRing_marks (r : Byte) (f : Ring → Ring) (m : Mach) :
    (modRing r f m).marks = m.marks := rfl
@[simp] theorem modRing_mint (r : Byte) (f : Ring → Ring) (m : Mach) :
    (modRing r f m).mint = m.mint := rfl
@[simp] theorem modRing_mem (r : Byte) (f : Ring → Ring) (m : Mach) :
    (modRing r f m).mem = m.mem := rfl
@[simp] theorem modRing_mc (r : Byte) (f : Ring → Ring) (m : Mach) :
    (modRing r f m).mc = m.mc := rfl
@[simp] theorem modRing_dies (r : Byte) (f : Ring → Ring) (m : Mach) :
    (modRing r f m).dies = m.dies := rfl
@[simp] theorem modRing_chans (r : Byte) (f : Ring → Ring) (m : Mach) :
    (modRing r f m).chans = m.chans := rfl
@[simp] theorem modRing_host (r : Byte) (f : Ring → Ring) (m : Mach) :
    (modRing r f m).host = { m.host with rings := m.host.rings.upd r f } := rfl
@[simp] theorem modRing_sec (r : Byte) (f : Ring → Ring) (m : Mach) :
    (modRing r f m).sec = m.sec := rfl
@[simp] theorem modRing_faults (r : Byte) (f : Ring → Ring) (m : Mach) :
    (modRing r f m).faults = m.faults := rfl
@[simp] theorem modRing_watch (r : Byte) (f : Ring → Ring) (m : Mach) :
    (modRing r f m).watch = m.watch := rfl
@[simp] theorem modRing_dbg (r : Byte) (f : Ring → Ring) (m : Mach) :
    (modRing r f m).dbg = m.dbg := rfl
@[simp] theorem modRing_pwr (r : Byte) (f : Ring → Ring) (m : Mach) :
    (modRing r f m).pwr = m.pwr := rfl
@[simp] theorem modRing_bkp (r : Byte) (f : Ring → Ring) (m : Mach) :
    (modRing r f m).bkp = m.bkp := rfl
@[simp] theorem modRing_yl (r : Byte) (f : Ring → Ring) (m : Mach) :
    (modRing r f m).yl = m.yl := rfl

/-! ### `modMint` -/

@[simp] theorem modMint_clk (f : Mint → Mint) (m : Mach) :
    (modMint f m).clk = m.clk := rfl
@[simp] theorem modMint_free (f : Mint → Mint) (m : Mach) :
    (modMint f m).free = m.free := rfl
@[simp] theorem modMint_bus (f : Mint → Mint) (m : Mach) :
    (modMint f m).bus = m.bus := rfl
@[simp] theorem modMint_outbox (f : Mint → Mint) (m : Mach) :
    (modMint f m).outbox = m.outbox := rfl
@[simp] theorem modMint_tick (f : Mint → Mint) (m : Mach) :
    (modMint f m).tick = m.tick := rfl
@[simp] theorem modMint_mode (f : Mint → Mint) (m : Mach) :
    (modMint f m).mode = m.mode := rfl
@[simp] theorem modMint_tiles (f : Mint → Mint) (m : Mach) :
    (modMint f m).tiles = m.tiles := rfl
@[simp] theorem modMint_engines (f : Mint → Mint) (m : Mach) :
    (modMint f m).engines = m.engines := rfl
@[simp] theorem modMint_ints (f : Mint → Mint) (m : Mach) :
    (modMint f m).ints = m.ints := rfl
@[simp] theorem modMint_supNotices (f : Mint → Mint) (m : Mach) :
    (modMint f m).supNotices = m.supNotices := rfl
@[simp] theorem modMint_supOverruns (f : Mint → Mint) (m : Mach) :
    (modMint f m).supOverruns = m.supOverruns := rfl
@[simp] theorem modMint_resv (f : Mint → Mint) (m : Mach) :
    (modMint f m).resv = m.resv := rfl
@[simp] theorem modMint_owner (f : Mint → Mint) (m : Mach) :
    (modMint f m).owner = m.owner := rfl
@[simp] theorem modMint_spans (f : Mint → Mint) (m : Mach) :
    (modMint f m).spans = m.spans := rfl
@[simp] theorem modMint_spanRuns (f : Mint → Mint) (m : Mach) :
    (modMint f m).spanRuns = m.spanRuns := rfl
@[simp] theorem modMint_marks (f : Mint → Mint) (m : Mach) :
    (modMint f m).marks = m.marks := rfl
@[simp] theorem modMint_mint (f : Mint → Mint) (m : Mach) :
    (modMint f m).mint = f m.mint := rfl
@[simp] theorem modMint_mem (f : Mint → Mint) (m : Mach) :
    (modMint f m).mem = m.mem := rfl
@[simp] theorem modMint_mc (f : Mint → Mint) (m : Mach) :
    (modMint f m).mc = m.mc := rfl
@[simp] theorem modMint_dies (f : Mint → Mint) (m : Mach) :
    (modMint f m).dies = m.dies := rfl
@[simp] theorem modMint_chans (f : Mint → Mint) (m : Mach) :
    (modMint f m).chans = m.chans := rfl
@[simp] theorem modMint_host (f : Mint → Mint) (m : Mach) :
    (modMint f m).host = m.host := rfl
@[simp] theorem modMint_sec (f : Mint → Mint) (m : Mach) :
    (modMint f m).sec = m.sec := rfl
@[simp] theorem modMint_faults (f : Mint → Mint) (m : Mach) :
    (modMint f m).faults = m.faults := rfl
@[simp] theorem modMint_watch (f : Mint → Mint) (m : Mach) :
    (modMint f m).watch = m.watch := rfl
@[simp] theorem modMint_dbg (f : Mint → Mint) (m : Mach) :
    (modMint f m).dbg = m.dbg := rfl
@[simp] theorem modMint_pwr (f : Mint → Mint) (m : Mach) :
    (modMint f m).pwr = m.pwr := rfl
@[simp] theorem modMint_bkp (f : Mint → Mint) (m : Mach) :
    (modMint f m).bkp = m.bkp := rfl
@[simp] theorem modMint_yl (f : Mint → Mint) (m : Mach) :
    (modMint f m).yl = m.yl := rfl

/-! ### `modPwr` -/

@[simp] theorem modPwr_clk (f : Power → Power) (m : Mach) :
    (modPwr f m).clk = m.clk := rfl
@[simp] theorem modPwr_free (f : Power → Power) (m : Mach) :
    (modPwr f m).free = m.free := rfl
@[simp] theorem modPwr_bus (f : Power → Power) (m : Mach) :
    (modPwr f m).bus = m.bus := rfl
@[simp] theorem modPwr_outbox (f : Power → Power) (m : Mach) :
    (modPwr f m).outbox = m.outbox := rfl
@[simp] theorem modPwr_tick (f : Power → Power) (m : Mach) :
    (modPwr f m).tick = m.tick := rfl
@[simp] theorem modPwr_mode (f : Power → Power) (m : Mach) :
    (modPwr f m).mode = m.mode := rfl
@[simp] theorem modPwr_tiles (f : Power → Power) (m : Mach) :
    (modPwr f m).tiles = m.tiles := rfl
@[simp] theorem modPwr_engines (f : Power → Power) (m : Mach) :
    (modPwr f m).engines = m.engines := rfl
@[simp] theorem modPwr_ints (f : Power → Power) (m : Mach) :
    (modPwr f m).ints = m.ints := rfl
@[simp] theorem modPwr_supNotices (f : Power → Power) (m : Mach) :
    (modPwr f m).supNotices = m.supNotices := rfl
@[simp] theorem modPwr_supOverruns (f : Power → Power) (m : Mach) :
    (modPwr f m).supOverruns = m.supOverruns := rfl
@[simp] theorem modPwr_resv (f : Power → Power) (m : Mach) :
    (modPwr f m).resv = m.resv := rfl
@[simp] theorem modPwr_owner (f : Power → Power) (m : Mach) :
    (modPwr f m).owner = m.owner := rfl
@[simp] theorem modPwr_spans (f : Power → Power) (m : Mach) :
    (modPwr f m).spans = m.spans := rfl
@[simp] theorem modPwr_spanRuns (f : Power → Power) (m : Mach) :
    (modPwr f m).spanRuns = m.spanRuns := rfl
@[simp] theorem modPwr_marks (f : Power → Power) (m : Mach) :
    (modPwr f m).marks = m.marks := rfl
@[simp] theorem modPwr_mint (f : Power → Power) (m : Mach) :
    (modPwr f m).mint = m.mint := rfl
@[simp] theorem modPwr_mem (f : Power → Power) (m : Mach) :
    (modPwr f m).mem = m.mem := rfl
@[simp] theorem modPwr_mc (f : Power → Power) (m : Mach) :
    (modPwr f m).mc = m.mc := rfl
@[simp] theorem modPwr_dies (f : Power → Power) (m : Mach) :
    (modPwr f m).dies = m.dies := rfl
@[simp] theorem modPwr_chans (f : Power → Power) (m : Mach) :
    (modPwr f m).chans = m.chans := rfl
@[simp] theorem modPwr_host (f : Power → Power) (m : Mach) :
    (modPwr f m).host = m.host := rfl
@[simp] theorem modPwr_sec (f : Power → Power) (m : Mach) :
    (modPwr f m).sec = m.sec := rfl
@[simp] theorem modPwr_faults (f : Power → Power) (m : Mach) :
    (modPwr f m).faults = m.faults := rfl
@[simp] theorem modPwr_watch (f : Power → Power) (m : Mach) :
    (modPwr f m).watch = m.watch := rfl
@[simp] theorem modPwr_dbg (f : Power → Power) (m : Mach) :
    (modPwr f m).dbg = m.dbg := rfl
@[simp] theorem modPwr_pwr (f : Power → Power) (m : Mach) :
    (modPwr f m).pwr = f m.pwr := rfl
@[simp] theorem modPwr_bkp (f : Power → Power) (m : Mach) :
    (modPwr f m).bkp = m.bkp := rfl
@[simp] theorem modPwr_yl (f : Power → Power) (m : Mach) :
    (modPwr f m).yl = m.yl := rfl

/-! ### `modBkp` -/

@[simp] theorem modBkp_clk (f : Backup → Backup) (m : Mach) :
    (modBkp f m).clk = m.clk := rfl
@[simp] theorem modBkp_free (f : Backup → Backup) (m : Mach) :
    (modBkp f m).free = m.free := rfl
@[simp] theorem modBkp_bus (f : Backup → Backup) (m : Mach) :
    (modBkp f m).bus = m.bus := rfl
@[simp] theorem modBkp_outbox (f : Backup → Backup) (m : Mach) :
    (modBkp f m).outbox = m.outbox := rfl
@[simp] theorem modBkp_tick (f : Backup → Backup) (m : Mach) :
    (modBkp f m).tick = m.tick := rfl
@[simp] theorem modBkp_mode (f : Backup → Backup) (m : Mach) :
    (modBkp f m).mode = m.mode := rfl
@[simp] theorem modBkp_tiles (f : Backup → Backup) (m : Mach) :
    (modBkp f m).tiles = m.tiles := rfl
@[simp] theorem modBkp_engines (f : Backup → Backup) (m : Mach) :
    (modBkp f m).engines = m.engines := rfl
@[simp] theorem modBkp_ints (f : Backup → Backup) (m : Mach) :
    (modBkp f m).ints = m.ints := rfl
@[simp] theorem modBkp_supNotices (f : Backup → Backup) (m : Mach) :
    (modBkp f m).supNotices = m.supNotices := rfl
@[simp] theorem modBkp_supOverruns (f : Backup → Backup) (m : Mach) :
    (modBkp f m).supOverruns = m.supOverruns := rfl
@[simp] theorem modBkp_resv (f : Backup → Backup) (m : Mach) :
    (modBkp f m).resv = m.resv := rfl
@[simp] theorem modBkp_owner (f : Backup → Backup) (m : Mach) :
    (modBkp f m).owner = m.owner := rfl
@[simp] theorem modBkp_spans (f : Backup → Backup) (m : Mach) :
    (modBkp f m).spans = m.spans := rfl
@[simp] theorem modBkp_spanRuns (f : Backup → Backup) (m : Mach) :
    (modBkp f m).spanRuns = m.spanRuns := rfl
@[simp] theorem modBkp_marks (f : Backup → Backup) (m : Mach) :
    (modBkp f m).marks = m.marks := rfl
@[simp] theorem modBkp_mint (f : Backup → Backup) (m : Mach) :
    (modBkp f m).mint = m.mint := rfl
@[simp] theorem modBkp_mem (f : Backup → Backup) (m : Mach) :
    (modBkp f m).mem = m.mem := rfl
@[simp] theorem modBkp_mc (f : Backup → Backup) (m : Mach) :
    (modBkp f m).mc = m.mc := rfl
@[simp] theorem modBkp_dies (f : Backup → Backup) (m : Mach) :
    (modBkp f m).dies = m.dies := rfl
@[simp] theorem modBkp_chans (f : Backup → Backup) (m : Mach) :
    (modBkp f m).chans = m.chans := rfl
@[simp] theorem modBkp_host (f : Backup → Backup) (m : Mach) :
    (modBkp f m).host = m.host := rfl
@[simp] theorem modBkp_sec (f : Backup → Backup) (m : Mach) :
    (modBkp f m).sec = m.sec := rfl
@[simp] theorem modBkp_faults (f : Backup → Backup) (m : Mach) :
    (modBkp f m).faults = m.faults := rfl
@[simp] theorem modBkp_watch (f : Backup → Backup) (m : Mach) :
    (modBkp f m).watch = m.watch := rfl
@[simp] theorem modBkp_dbg (f : Backup → Backup) (m : Mach) :
    (modBkp f m).dbg = m.dbg := rfl
@[simp] theorem modBkp_pwr (f : Backup → Backup) (m : Mach) :
    (modBkp f m).pwr = m.pwr := rfl
@[simp] theorem modBkp_bkp (f : Backup → Backup) (m : Mach) :
    (modBkp f m).bkp = f m.bkp := rfl
@[simp] theorem modBkp_yl (f : Backup → Backup) (m : Mach) :
    (modBkp f m).yl = m.yl := rfl

/-! ### `modYl` -/

@[simp] theorem modYl_clk (f : Yunal → Yunal) (m : Mach) :
    (modYl f m).clk = m.clk := rfl
@[simp] theorem modYl_free (f : Yunal → Yunal) (m : Mach) :
    (modYl f m).free = m.free := rfl
@[simp] theorem modYl_bus (f : Yunal → Yunal) (m : Mach) :
    (modYl f m).bus = m.bus := rfl
@[simp] theorem modYl_outbox (f : Yunal → Yunal) (m : Mach) :
    (modYl f m).outbox = m.outbox := rfl
@[simp] theorem modYl_tick (f : Yunal → Yunal) (m : Mach) :
    (modYl f m).tick = m.tick := rfl
@[simp] theorem modYl_mode (f : Yunal → Yunal) (m : Mach) :
    (modYl f m).mode = m.mode := rfl
@[simp] theorem modYl_tiles (f : Yunal → Yunal) (m : Mach) :
    (modYl f m).tiles = m.tiles := rfl
@[simp] theorem modYl_engines (f : Yunal → Yunal) (m : Mach) :
    (modYl f m).engines = m.engines := rfl
@[simp] theorem modYl_ints (f : Yunal → Yunal) (m : Mach) :
    (modYl f m).ints = m.ints := rfl
@[simp] theorem modYl_supNotices (f : Yunal → Yunal) (m : Mach) :
    (modYl f m).supNotices = m.supNotices := rfl
@[simp] theorem modYl_supOverruns (f : Yunal → Yunal) (m : Mach) :
    (modYl f m).supOverruns = m.supOverruns := rfl
@[simp] theorem modYl_resv (f : Yunal → Yunal) (m : Mach) :
    (modYl f m).resv = m.resv := rfl
@[simp] theorem modYl_owner (f : Yunal → Yunal) (m : Mach) :
    (modYl f m).owner = m.owner := rfl
@[simp] theorem modYl_spans (f : Yunal → Yunal) (m : Mach) :
    (modYl f m).spans = m.spans := rfl
@[simp] theorem modYl_spanRuns (f : Yunal → Yunal) (m : Mach) :
    (modYl f m).spanRuns = m.spanRuns := rfl
@[simp] theorem modYl_marks (f : Yunal → Yunal) (m : Mach) :
    (modYl f m).marks = m.marks := rfl
@[simp] theorem modYl_mint (f : Yunal → Yunal) (m : Mach) :
    (modYl f m).mint = m.mint := rfl
@[simp] theorem modYl_mem (f : Yunal → Yunal) (m : Mach) :
    (modYl f m).mem = m.mem := rfl
@[simp] theorem modYl_mc (f : Yunal → Yunal) (m : Mach) :
    (modYl f m).mc = m.mc := rfl
@[simp] theorem modYl_dies (f : Yunal → Yunal) (m : Mach) :
    (modYl f m).dies = m.dies := rfl
@[simp] theorem modYl_chans (f : Yunal → Yunal) (m : Mach) :
    (modYl f m).chans = m.chans := rfl
@[simp] theorem modYl_host (f : Yunal → Yunal) (m : Mach) :
    (modYl f m).host = m.host := rfl
@[simp] theorem modYl_sec (f : Yunal → Yunal) (m : Mach) :
    (modYl f m).sec = m.sec := rfl
@[simp] theorem modYl_faults (f : Yunal → Yunal) (m : Mach) :
    (modYl f m).faults = m.faults := rfl
@[simp] theorem modYl_watch (f : Yunal → Yunal) (m : Mach) :
    (modYl f m).watch = m.watch := rfl
@[simp] theorem modYl_dbg (f : Yunal → Yunal) (m : Mach) :
    (modYl f m).dbg = m.dbg := rfl
@[simp] theorem modYl_pwr (f : Yunal → Yunal) (m : Mach) :
    (modYl f m).pwr = m.pwr := rfl
@[simp] theorem modYl_bkp (f : Yunal → Yunal) (m : Mach) :
    (modYl f m).bkp = m.bkp := rfl
@[simp] theorem modYl_yl (f : Yunal → Yunal) (m : Mach) :
    (modYl f m).yl = f m.yl := rfl

/-! ### `modSec` -/

@[simp] theorem modSec_clk (f : Sec → Sec) (m : Mach) :
    (modSec f m).clk = m.clk := rfl
@[simp] theorem modSec_free (f : Sec → Sec) (m : Mach) :
    (modSec f m).free = m.free := rfl
@[simp] theorem modSec_bus (f : Sec → Sec) (m : Mach) :
    (modSec f m).bus = m.bus := rfl
@[simp] theorem modSec_outbox (f : Sec → Sec) (m : Mach) :
    (modSec f m).outbox = m.outbox := rfl
@[simp] theorem modSec_tick (f : Sec → Sec) (m : Mach) :
    (modSec f m).tick = m.tick := rfl
@[simp] theorem modSec_mode (f : Sec → Sec) (m : Mach) :
    (modSec f m).mode = m.mode := rfl
@[simp] theorem modSec_tiles (f : Sec → Sec) (m : Mach) :
    (modSec f m).tiles = m.tiles := rfl
@[simp] theorem modSec_engines (f : Sec → Sec) (m : Mach) :
    (modSec f m).engines = m.engines := rfl
@[simp] theorem modSec_ints (f : Sec → Sec) (m : Mach) :
    (modSec f m).ints = m.ints := rfl
@[simp] theorem modSec_supNotices (f : Sec → Sec) (m : Mach) :
    (modSec f m).supNotices = m.supNotices := rfl
@[simp] theorem modSec_supOverruns (f : Sec → Sec) (m : Mach) :
    (modSec f m).supOverruns = m.supOverruns := rfl
@[simp] theorem modSec_resv (f : Sec → Sec) (m : Mach) :
    (modSec f m).resv = m.resv := rfl
@[simp] theorem modSec_owner (f : Sec → Sec) (m : Mach) :
    (modSec f m).owner = m.owner := rfl
@[simp] theorem modSec_spans (f : Sec → Sec) (m : Mach) :
    (modSec f m).spans = m.spans := rfl
@[simp] theorem modSec_spanRuns (f : Sec → Sec) (m : Mach) :
    (modSec f m).spanRuns = m.spanRuns := rfl
@[simp] theorem modSec_marks (f : Sec → Sec) (m : Mach) :
    (modSec f m).marks = m.marks := rfl
@[simp] theorem modSec_mint (f : Sec → Sec) (m : Mach) :
    (modSec f m).mint = m.mint := rfl
@[simp] theorem modSec_mem (f : Sec → Sec) (m : Mach) :
    (modSec f m).mem = m.mem := rfl
@[simp] theorem modSec_mc (f : Sec → Sec) (m : Mach) :
    (modSec f m).mc = m.mc := rfl
@[simp] theorem modSec_dies (f : Sec → Sec) (m : Mach) :
    (modSec f m).dies = m.dies := rfl
@[simp] theorem modSec_chans (f : Sec → Sec) (m : Mach) :
    (modSec f m).chans = m.chans := rfl
@[simp] theorem modSec_host (f : Sec → Sec) (m : Mach) :
    (modSec f m).host = m.host := rfl
@[simp] theorem modSec_sec (f : Sec → Sec) (m : Mach) :
    (modSec f m).sec = f m.sec := rfl
@[simp] theorem modSec_faults (f : Sec → Sec) (m : Mach) :
    (modSec f m).faults = m.faults := rfl
@[simp] theorem modSec_watch (f : Sec → Sec) (m : Mach) :
    (modSec f m).watch = m.watch := rfl
@[simp] theorem modSec_dbg (f : Sec → Sec) (m : Mach) :
    (modSec f m).dbg = m.dbg := rfl
@[simp] theorem modSec_pwr (f : Sec → Sec) (m : Mach) :
    (modSec f m).pwr = m.pwr := rfl
@[simp] theorem modSec_bkp (f : Sec → Sec) (m : Mach) :
    (modSec f m).bkp = m.bkp := rfl
@[simp] theorem modSec_yl (f : Sec → Sec) (m : Mach) :
    (modSec f m).yl = m.yl := rfl

/-! ### `modTick` -/

@[simp] theorem modTick_clk (f : TickSt → TickSt) (m : Mach) :
    (modTick f m).clk = m.clk := rfl
@[simp] theorem modTick_free (f : TickSt → TickSt) (m : Mach) :
    (modTick f m).free = m.free := rfl
@[simp] theorem modTick_bus (f : TickSt → TickSt) (m : Mach) :
    (modTick f m).bus = m.bus := rfl
@[simp] theorem modTick_outbox (f : TickSt → TickSt) (m : Mach) :
    (modTick f m).outbox = m.outbox := rfl
@[simp] theorem modTick_tick (f : TickSt → TickSt) (m : Mach) :
    (modTick f m).tick = f m.tick := rfl
@[simp] theorem modTick_mode (f : TickSt → TickSt) (m : Mach) :
    (modTick f m).mode = m.mode := rfl
@[simp] theorem modTick_tiles (f : TickSt → TickSt) (m : Mach) :
    (modTick f m).tiles = m.tiles := rfl
@[simp] theorem modTick_engines (f : TickSt → TickSt) (m : Mach) :
    (modTick f m).engines = m.engines := rfl
@[simp] theorem modTick_ints (f : TickSt → TickSt) (m : Mach) :
    (modTick f m).ints = m.ints := rfl
@[simp] theorem modTick_supNotices (f : TickSt → TickSt) (m : Mach) :
    (modTick f m).supNotices = m.supNotices := rfl
@[simp] theorem modTick_supOverruns (f : TickSt → TickSt) (m : Mach) :
    (modTick f m).supOverruns = m.supOverruns := rfl
@[simp] theorem modTick_resv (f : TickSt → TickSt) (m : Mach) :
    (modTick f m).resv = m.resv := rfl
@[simp] theorem modTick_owner (f : TickSt → TickSt) (m : Mach) :
    (modTick f m).owner = m.owner := rfl
@[simp] theorem modTick_spans (f : TickSt → TickSt) (m : Mach) :
    (modTick f m).spans = m.spans := rfl
@[simp] theorem modTick_spanRuns (f : TickSt → TickSt) (m : Mach) :
    (modTick f m).spanRuns = m.spanRuns := rfl
@[simp] theorem modTick_marks (f : TickSt → TickSt) (m : Mach) :
    (modTick f m).marks = m.marks := rfl
@[simp] theorem modTick_mint (f : TickSt → TickSt) (m : Mach) :
    (modTick f m).mint = m.mint := rfl
@[simp] theorem modTick_mem (f : TickSt → TickSt) (m : Mach) :
    (modTick f m).mem = m.mem := rfl
@[simp] theorem modTick_mc (f : TickSt → TickSt) (m : Mach) :
    (modTick f m).mc = m.mc := rfl
@[simp] theorem modTick_dies (f : TickSt → TickSt) (m : Mach) :
    (modTick f m).dies = m.dies := rfl
@[simp] theorem modTick_chans (f : TickSt → TickSt) (m : Mach) :
    (modTick f m).chans = m.chans := rfl
@[simp] theorem modTick_host (f : TickSt → TickSt) (m : Mach) :
    (modTick f m).host = m.host := rfl
@[simp] theorem modTick_sec (f : TickSt → TickSt) (m : Mach) :
    (modTick f m).sec = m.sec := rfl
@[simp] theorem modTick_faults (f : TickSt → TickSt) (m : Mach) :
    (modTick f m).faults = m.faults := rfl
@[simp] theorem modTick_watch (f : TickSt → TickSt) (m : Mach) :
    (modTick f m).watch = m.watch := rfl
@[simp] theorem modTick_dbg (f : TickSt → TickSt) (m : Mach) :
    (modTick f m).dbg = m.dbg := rfl
@[simp] theorem modTick_pwr (f : TickSt → TickSt) (m : Mach) :
    (modTick f m).pwr = m.pwr := rfl
@[simp] theorem modTick_bkp (f : TickSt → TickSt) (m : Mach) :
    (modTick f m).bkp = m.bkp := rfl
@[simp] theorem modTick_yl (f : TickSt → TickSt) (m : Mach) :
    (modTick f m).yl = m.yl := rfl

/-! ### `modMode` -/

@[simp] theorem modMode_clk (f : ModeSt → ModeSt) (m : Mach) :
    (modMode f m).clk = m.clk := rfl
@[simp] theorem modMode_free (f : ModeSt → ModeSt) (m : Mach) :
    (modMode f m).free = m.free := rfl
@[simp] theorem modMode_bus (f : ModeSt → ModeSt) (m : Mach) :
    (modMode f m).bus = m.bus := rfl
@[simp] theorem modMode_outbox (f : ModeSt → ModeSt) (m : Mach) :
    (modMode f m).outbox = m.outbox := rfl
@[simp] theorem modMode_tick (f : ModeSt → ModeSt) (m : Mach) :
    (modMode f m).tick = m.tick := rfl
@[simp] theorem modMode_mode (f : ModeSt → ModeSt) (m : Mach) :
    (modMode f m).mode = f m.mode := rfl
@[simp] theorem modMode_tiles (f : ModeSt → ModeSt) (m : Mach) :
    (modMode f m).tiles = m.tiles := rfl
@[simp] theorem modMode_engines (f : ModeSt → ModeSt) (m : Mach) :
    (modMode f m).engines = m.engines := rfl
@[simp] theorem modMode_ints (f : ModeSt → ModeSt) (m : Mach) :
    (modMode f m).ints = m.ints := rfl
@[simp] theorem modMode_supNotices (f : ModeSt → ModeSt) (m : Mach) :
    (modMode f m).supNotices = m.supNotices := rfl
@[simp] theorem modMode_supOverruns (f : ModeSt → ModeSt) (m : Mach) :
    (modMode f m).supOverruns = m.supOverruns := rfl
@[simp] theorem modMode_resv (f : ModeSt → ModeSt) (m : Mach) :
    (modMode f m).resv = m.resv := rfl
@[simp] theorem modMode_owner (f : ModeSt → ModeSt) (m : Mach) :
    (modMode f m).owner = m.owner := rfl
@[simp] theorem modMode_spans (f : ModeSt → ModeSt) (m : Mach) :
    (modMode f m).spans = m.spans := rfl
@[simp] theorem modMode_spanRuns (f : ModeSt → ModeSt) (m : Mach) :
    (modMode f m).spanRuns = m.spanRuns := rfl
@[simp] theorem modMode_marks (f : ModeSt → ModeSt) (m : Mach) :
    (modMode f m).marks = m.marks := rfl
@[simp] theorem modMode_mint (f : ModeSt → ModeSt) (m : Mach) :
    (modMode f m).mint = m.mint := rfl
@[simp] theorem modMode_mem (f : ModeSt → ModeSt) (m : Mach) :
    (modMode f m).mem = m.mem := rfl
@[simp] theorem modMode_mc (f : ModeSt → ModeSt) (m : Mach) :
    (modMode f m).mc = m.mc := rfl
@[simp] theorem modMode_dies (f : ModeSt → ModeSt) (m : Mach) :
    (modMode f m).dies = m.dies := rfl
@[simp] theorem modMode_chans (f : ModeSt → ModeSt) (m : Mach) :
    (modMode f m).chans = m.chans := rfl
@[simp] theorem modMode_host (f : ModeSt → ModeSt) (m : Mach) :
    (modMode f m).host = m.host := rfl
@[simp] theorem modMode_sec (f : ModeSt → ModeSt) (m : Mach) :
    (modMode f m).sec = m.sec := rfl
@[simp] theorem modMode_faults (f : ModeSt → ModeSt) (m : Mach) :
    (modMode f m).faults = m.faults := rfl
@[simp] theorem modMode_watch (f : ModeSt → ModeSt) (m : Mach) :
    (modMode f m).watch = m.watch := rfl
@[simp] theorem modMode_dbg (f : ModeSt → ModeSt) (m : Mach) :
    (modMode f m).dbg = m.dbg := rfl
@[simp] theorem modMode_pwr (f : ModeSt → ModeSt) (m : Mach) :
    (modMode f m).pwr = m.pwr := rfl
@[simp] theorem modMode_bkp (f : ModeSt → ModeSt) (m : Mach) :
    (modMode f m).bkp = m.bkp := rfl
@[simp] theorem modMode_yl (f : ModeSt → ModeSt) (m : Mach) :
    (modMode f m).yl = m.yl := rfl

/-! ### `modChan` -/

@[simp] theorem modChan_clk (c : BitVec 8) (f : Chan → Chan) (m : Mach) :
    (modChan c f m).clk = m.clk := rfl
@[simp] theorem modChan_free (c : BitVec 8) (f : Chan → Chan) (m : Mach) :
    (modChan c f m).free = m.free := rfl
@[simp] theorem modChan_bus (c : BitVec 8) (f : Chan → Chan) (m : Mach) :
    (modChan c f m).bus = m.bus := rfl
@[simp] theorem modChan_outbox (c : BitVec 8) (f : Chan → Chan) (m : Mach) :
    (modChan c f m).outbox = m.outbox := rfl
@[simp] theorem modChan_tick (c : BitVec 8) (f : Chan → Chan) (m : Mach) :
    (modChan c f m).tick = m.tick := rfl
@[simp] theorem modChan_mode (c : BitVec 8) (f : Chan → Chan) (m : Mach) :
    (modChan c f m).mode = m.mode := rfl
@[simp] theorem modChan_tiles (c : BitVec 8) (f : Chan → Chan) (m : Mach) :
    (modChan c f m).tiles = m.tiles := rfl
@[simp] theorem modChan_engines (c : BitVec 8) (f : Chan → Chan) (m : Mach) :
    (modChan c f m).engines = m.engines := rfl
@[simp] theorem modChan_ints (c : BitVec 8) (f : Chan → Chan) (m : Mach) :
    (modChan c f m).ints = m.ints := rfl
@[simp] theorem modChan_supNotices (c : BitVec 8) (f : Chan → Chan) (m : Mach) :
    (modChan c f m).supNotices = m.supNotices := rfl
@[simp] theorem modChan_supOverruns (c : BitVec 8) (f : Chan → Chan) (m : Mach) :
    (modChan c f m).supOverruns = m.supOverruns := rfl
@[simp] theorem modChan_resv (c : BitVec 8) (f : Chan → Chan) (m : Mach) :
    (modChan c f m).resv = m.resv := rfl
@[simp] theorem modChan_owner (c : BitVec 8) (f : Chan → Chan) (m : Mach) :
    (modChan c f m).owner = m.owner := rfl
@[simp] theorem modChan_spans (c : BitVec 8) (f : Chan → Chan) (m : Mach) :
    (modChan c f m).spans = m.spans := rfl
@[simp] theorem modChan_spanRuns (c : BitVec 8) (f : Chan → Chan) (m : Mach) :
    (modChan c f m).spanRuns = m.spanRuns := rfl
@[simp] theorem modChan_marks (c : BitVec 8) (f : Chan → Chan) (m : Mach) :
    (modChan c f m).marks = m.marks := rfl
@[simp] theorem modChan_mint (c : BitVec 8) (f : Chan → Chan) (m : Mach) :
    (modChan c f m).mint = m.mint := rfl
@[simp] theorem modChan_mem (c : BitVec 8) (f : Chan → Chan) (m : Mach) :
    (modChan c f m).mem = m.mem := rfl
@[simp] theorem modChan_mc (c : BitVec 8) (f : Chan → Chan) (m : Mach) :
    (modChan c f m).mc = m.mc := rfl
@[simp] theorem modChan_dies (c : BitVec 8) (f : Chan → Chan) (m : Mach) :
    (modChan c f m).dies = m.dies := rfl
@[simp] theorem modChan_chans (c : BitVec 8) (f : Chan → Chan) (m : Mach) :
    (modChan c f m).chans = m.chans.upd c f := rfl
@[simp] theorem modChan_host (c : BitVec 8) (f : Chan → Chan) (m : Mach) :
    (modChan c f m).host = m.host := rfl
@[simp] theorem modChan_sec (c : BitVec 8) (f : Chan → Chan) (m : Mach) :
    (modChan c f m).sec = m.sec := rfl
@[simp] theorem modChan_faults (c : BitVec 8) (f : Chan → Chan) (m : Mach) :
    (modChan c f m).faults = m.faults := rfl
@[simp] theorem modChan_watch (c : BitVec 8) (f : Chan → Chan) (m : Mach) :
    (modChan c f m).watch = m.watch := rfl
@[simp] theorem modChan_dbg (c : BitVec 8) (f : Chan → Chan) (m : Mach) :
    (modChan c f m).dbg = m.dbg := rfl
@[simp] theorem modChan_pwr (c : BitVec 8) (f : Chan → Chan) (m : Mach) :
    (modChan c f m).pwr = m.pwr := rfl
@[simp] theorem modChan_bkp (c : BitVec 8) (f : Chan → Chan) (m : Mach) :
    (modChan c f m).bkp = m.bkp := rfl
@[simp] theorem modChan_yl (c : BitVec 8) (f : Chan → Chan) (m : Mach) :
    (modChan c f m).yl = m.yl := rfl

/-! ### `modWatch` -/

@[simp] theorem modWatch_clk (f : Watch → Watch) (m : Mach) :
    (modWatch f m).clk = m.clk := rfl
@[simp] theorem modWatch_free (f : Watch → Watch) (m : Mach) :
    (modWatch f m).free = m.free := rfl
@[simp] theorem modWatch_bus (f : Watch → Watch) (m : Mach) :
    (modWatch f m).bus = m.bus := rfl
@[simp] theorem modWatch_outbox (f : Watch → Watch) (m : Mach) :
    (modWatch f m).outbox = m.outbox := rfl
@[simp] theorem modWatch_tick (f : Watch → Watch) (m : Mach) :
    (modWatch f m).tick = m.tick := rfl
@[simp] theorem modWatch_mode (f : Watch → Watch) (m : Mach) :
    (modWatch f m).mode = m.mode := rfl
@[simp] theorem modWatch_tiles (f : Watch → Watch) (m : Mach) :
    (modWatch f m).tiles = m.tiles := rfl
@[simp] theorem modWatch_engines (f : Watch → Watch) (m : Mach) :
    (modWatch f m).engines = m.engines := rfl
@[simp] theorem modWatch_ints (f : Watch → Watch) (m : Mach) :
    (modWatch f m).ints = m.ints := rfl
@[simp] theorem modWatch_supNotices (f : Watch → Watch) (m : Mach) :
    (modWatch f m).supNotices = m.supNotices := rfl
@[simp] theorem modWatch_supOverruns (f : Watch → Watch) (m : Mach) :
    (modWatch f m).supOverruns = m.supOverruns := rfl
@[simp] theorem modWatch_resv (f : Watch → Watch) (m : Mach) :
    (modWatch f m).resv = m.resv := rfl
@[simp] theorem modWatch_owner (f : Watch → Watch) (m : Mach) :
    (modWatch f m).owner = m.owner := rfl
@[simp] theorem modWatch_spans (f : Watch → Watch) (m : Mach) :
    (modWatch f m).spans = m.spans := rfl
@[simp] theorem modWatch_spanRuns (f : Watch → Watch) (m : Mach) :
    (modWatch f m).spanRuns = m.spanRuns := rfl
@[simp] theorem modWatch_marks (f : Watch → Watch) (m : Mach) :
    (modWatch f m).marks = m.marks := rfl
@[simp] theorem modWatch_mint (f : Watch → Watch) (m : Mach) :
    (modWatch f m).mint = m.mint := rfl
@[simp] theorem modWatch_mem (f : Watch → Watch) (m : Mach) :
    (modWatch f m).mem = m.mem := rfl
@[simp] theorem modWatch_mc (f : Watch → Watch) (m : Mach) :
    (modWatch f m).mc = m.mc := rfl
@[simp] theorem modWatch_dies (f : Watch → Watch) (m : Mach) :
    (modWatch f m).dies = m.dies := rfl
@[simp] theorem modWatch_chans (f : Watch → Watch) (m : Mach) :
    (modWatch f m).chans = m.chans := rfl
@[simp] theorem modWatch_host (f : Watch → Watch) (m : Mach) :
    (modWatch f m).host = m.host := rfl
@[simp] theorem modWatch_sec (f : Watch → Watch) (m : Mach) :
    (modWatch f m).sec = m.sec := rfl
@[simp] theorem modWatch_faults (f : Watch → Watch) (m : Mach) :
    (modWatch f m).faults = m.faults := rfl
@[simp] theorem modWatch_watch (f : Watch → Watch) (m : Mach) :
    (modWatch f m).watch = f m.watch := rfl
@[simp] theorem modWatch_dbg (f : Watch → Watch) (m : Mach) :
    (modWatch f m).dbg = m.dbg := rfl
@[simp] theorem modWatch_pwr (f : Watch → Watch) (m : Mach) :
    (modWatch f m).pwr = m.pwr := rfl
@[simp] theorem modWatch_bkp (f : Watch → Watch) (m : Mach) :
    (modWatch f m).bkp = m.bkp := rfl
@[simp] theorem modWatch_yl (f : Watch → Watch) (m : Mach) :
    (modWatch f m).yl = m.yl := rfl

/-! ### `modFaults` -/

@[simp] theorem modFaults_clk (f : Faults → Faults) (m : Mach) :
    (modFaults f m).clk = m.clk := rfl
@[simp] theorem modFaults_free (f : Faults → Faults) (m : Mach) :
    (modFaults f m).free = m.free := rfl
@[simp] theorem modFaults_bus (f : Faults → Faults) (m : Mach) :
    (modFaults f m).bus = m.bus := rfl
@[simp] theorem modFaults_outbox (f : Faults → Faults) (m : Mach) :
    (modFaults f m).outbox = m.outbox := rfl
@[simp] theorem modFaults_tick (f : Faults → Faults) (m : Mach) :
    (modFaults f m).tick = m.tick := rfl
@[simp] theorem modFaults_mode (f : Faults → Faults) (m : Mach) :
    (modFaults f m).mode = m.mode := rfl
@[simp] theorem modFaults_tiles (f : Faults → Faults) (m : Mach) :
    (modFaults f m).tiles = m.tiles := rfl
@[simp] theorem modFaults_engines (f : Faults → Faults) (m : Mach) :
    (modFaults f m).engines = m.engines := rfl
@[simp] theorem modFaults_ints (f : Faults → Faults) (m : Mach) :
    (modFaults f m).ints = m.ints := rfl
@[simp] theorem modFaults_supNotices (f : Faults → Faults) (m : Mach) :
    (modFaults f m).supNotices = m.supNotices := rfl
@[simp] theorem modFaults_supOverruns (f : Faults → Faults) (m : Mach) :
    (modFaults f m).supOverruns = m.supOverruns := rfl
@[simp] theorem modFaults_resv (f : Faults → Faults) (m : Mach) :
    (modFaults f m).resv = m.resv := rfl
@[simp] theorem modFaults_owner (f : Faults → Faults) (m : Mach) :
    (modFaults f m).owner = m.owner := rfl
@[simp] theorem modFaults_spans (f : Faults → Faults) (m : Mach) :
    (modFaults f m).spans = m.spans := rfl
@[simp] theorem modFaults_spanRuns (f : Faults → Faults) (m : Mach) :
    (modFaults f m).spanRuns = m.spanRuns := rfl
@[simp] theorem modFaults_marks (f : Faults → Faults) (m : Mach) :
    (modFaults f m).marks = m.marks := rfl
@[simp] theorem modFaults_mint (f : Faults → Faults) (m : Mach) :
    (modFaults f m).mint = m.mint := rfl
@[simp] theorem modFaults_mem (f : Faults → Faults) (m : Mach) :
    (modFaults f m).mem = m.mem := rfl
@[simp] theorem modFaults_mc (f : Faults → Faults) (m : Mach) :
    (modFaults f m).mc = m.mc := rfl
@[simp] theorem modFaults_dies (f : Faults → Faults) (m : Mach) :
    (modFaults f m).dies = m.dies := rfl
@[simp] theorem modFaults_chans (f : Faults → Faults) (m : Mach) :
    (modFaults f m).chans = m.chans := rfl
@[simp] theorem modFaults_host (f : Faults → Faults) (m : Mach) :
    (modFaults f m).host = m.host := rfl
@[simp] theorem modFaults_sec (f : Faults → Faults) (m : Mach) :
    (modFaults f m).sec = m.sec := rfl
@[simp] theorem modFaults_faults (f : Faults → Faults) (m : Mach) :
    (modFaults f m).faults = f m.faults := rfl
@[simp] theorem modFaults_watch (f : Faults → Faults) (m : Mach) :
    (modFaults f m).watch = m.watch := rfl
@[simp] theorem modFaults_dbg (f : Faults → Faults) (m : Mach) :
    (modFaults f m).dbg = m.dbg := rfl
@[simp] theorem modFaults_pwr (f : Faults → Faults) (m : Mach) :
    (modFaults f m).pwr = m.pwr := rfl
@[simp] theorem modFaults_bkp (f : Faults → Faults) (m : Mach) :
    (modFaults f m).bkp = m.bkp := rfl
@[simp] theorem modFaults_yl (f : Faults → Faults) (m : Mach) :
    (modFaults f m).yl = m.yl := rfl

end Sys2Proof.Machine
end

