-- ==== Sys2Proof/Laws/Lanes.lean ====
section
/-! SUPPORT. What a change of an engine's lanes does, and what one instruction does on an engine that stands ready. -/

namespace Sys2Proof.Machine

open Sys2Proof

/-! ### The lanes of an engine -/

theorem inLane_nodup (t : Tile) (l : BitVec 2) : (inLane t l).Nodup :=
  List.Nodup.sublist List.filter_sublist (by decide)

/-- No replica serves two lanes. -/
theorem lanesOf_nodup (m : Mach) (e : BitVec 7) : (lanesOf m e).Nodup := by
  unfold lanesOf
  simp only []
  split
  · split
    · simp only [List.nodup_append]
      refine ⟨⟨inLane_nodup _ _, inLane_nodup _ _, ?_⟩, inLane_nodup _ _, ?_⟩
      · intro a ha b hb hab; subst hab; simp [inLane] at ha hb; simp_all
      · intro a ha b hb hab; subst hab; simp [inLane] at ha hb; rcases ha with h | h <;> simp_all
    · simp
  · split
    · simp
    · split <;> simp

/-- Updating with what is there changes nothing. -/
theorem Tbl.upd_id {k : Nat} {α : Type} (t : Tbl k α) (i : BitVec k) (f : α → α) (h : f (t.get i) = t.get i) :
    t.upd i f = t := by
  unfold Tbl.upd
  rw [h]
  exact Vector.set_getElem_self ..

theorem Tbl.upd_congr {k : Nat} {α : Type} (t : Tbl k α) (i : BitVec k) (f g : α → α) (h : f (t.get i) = g (t.get i)) :
    t.upd i f = t.upd i g := by
  simp only [Tbl.upd, h]

theorem modRep_congr (t : BitVec 5) (r : BitVec 2) (f g : Replica → Replica) (m : Mach)
    (h : f (rep m t r) = g (rep m t r)) : modRep t r f m = modRep t r g m := by
  unfold modRep modTile
  congr 1
  exact Tbl.upd_congr _ _ _ _ (by simp only [Tbl.upd_congr _ _ _ _ h])

theorem modRep_id (t : BitVec 5) (r : BitVec 2) (f : Replica → Replica) (m : Mach) (h : f (rep m t r) = rep m t r) :
    modRep t r f m = m := by
  unfold modRep modTile
  rw [Tbl.upd_id _ _ _ (by simp only [Tbl.upd_id _ _ _ h])]

/-- A replica after a change of one replica. -/
theorem rep_modRep (t : BitVec 5) (r r' : BitVec 2) (f : Replica → Replica) (m : Mach) :
    rep (modRep t r f m) t r' = if r' = r then f (rep m t r) else rep m t r' := by
  simp only [rep, modRep_tiles, Tbl.get_upd_same, Tbl.get_upd]

/-- Changes of several replicas that agree on each of them are one change. -/
theorem foldl_modRep_congr (t : BitVec 5) (l : List (BitVec 2)) (f g : BitVec 2 → Replica → Replica) (m : Mach)
    (hn : l.Nodup) (h : ∀ r ∈ l, f r (rep m t r) = g r (rep m t r)) :
    l.foldl (fun m r => modRep t r (f r) m) m = l.foldl (fun m r => modRep t r (g r) m) m := by
  induction l generalizing m with
  | nil => rfl
  | cons r l ih =>
    simp only [List.foldl_cons]
    rw [modRep_congr t r (f r) (g r) m (h r (by simp))]
    refine ih _ (List.nodup_cons.mp hn).2 fun x hx => ?_
    have hne : x ≠ r := fun he => (List.nodup_cons.mp hn).1 (he ▸ hx)
    rw [rep_modRep, if_neg hne]
    exact h x (by simp [hx])

theorem foldl_modRep_id (t : BitVec 5) (l : List (BitVec 2)) (f : Replica → Replica) (m : Mach)
    (h : ∀ r ∈ l, f (rep m t r) = rep m t r) : l.foldl (fun m r => modRep t r f m) m = m := by
  induction l with
  | nil => rfl
  | cons r l ih =>
    simp only [List.foldl_cons]
    rw [modRep_id t r f m (h r (by simp))]
    exact ih fun x hx => h x (by simp [hx])

/-- A change that leaves every lane as it is changes nothing. -/
theorem mapLanes_id (e : BitVec 7) (f : Replica → Replica) (m : Mach)
    (h : ∀ r ∈ lanesOf m e, f (rep m (tileOf e) r) = rep m (tileOf e) r) : mapLanes e f m = m :=
  foldl_modRep_id _ _ _ _ h

/-! What a change of the lanes leaves. -/

theorem foldl_modRep_tiles_only (t : BitVec 5) (l : List (BitVec 2)) (f : BitVec 2 → Replica → Replica) (m : Mach) :
    l.foldl (fun m r => modRep t r (f r) m) m
      = { m with tiles := (l.foldl (fun m r => modRep t r (f r) m) m).tiles } := by
  induction l generalizing m with
  | nil => rfl
  | cons r l ih => simp only [List.foldl_cons]; rw [ih]; rfl

/-- A change of the lanes touches the tiles alone. -/
theorem mapLanes_eq (e : BitVec 7) (f : Replica → Replica) (m : Mach) :
    mapLanes e f m = { m with tiles := (mapLanes e f m).tiles } :=
  foldl_modRep_tiles_only _ _ (fun _ => f) m

@[simp] theorem mapLanes_clk (e : BitVec 7) (f : Replica → Replica) (m : Mach) :
    (mapLanes e f m).clk = m.clk := by rw [mapLanes_eq]
@[simp] theorem mapLanes_free (e : BitVec 7) (f : Replica → Replica) (m : Mach) :
    (mapLanes e f m).free = m.free := by rw [mapLanes_eq]
@[simp] theorem mapLanes_bus (e : BitVec 7) (f : Replica → Replica) (m : Mach) :
    (mapLanes e f m).bus = m.bus := by rw [mapLanes_eq]
@[simp] theorem mapLanes_outbox (e : BitVec 7) (f : Replica → Replica) (m : Mach) :
    (mapLanes e f m).outbox = m.outbox := by rw [mapLanes_eq]
@[simp] theorem mapLanes_tick (e : BitVec 7) (f : Replica → Replica) (m : Mach) :
    (mapLanes e f m).tick = m.tick := by rw [mapLanes_eq]
@[simp] theorem mapLanes_mode (e : BitVec 7) (f : Replica → Replica) (m : Mach) :
    (mapLanes e f m).mode = m.mode := by rw [mapLanes_eq]
@[simp] theorem mapLanes_engines (e : BitVec 7) (f : Replica → Replica) (m : Mach) :
    (mapLanes e f m).engines = m.engines := by rw [mapLanes_eq]
@[simp] theorem mapLanes_ints (e : BitVec 7) (f : Replica → Replica) (m : Mach) :
    (mapLanes e f m).ints = m.ints := by rw [mapLanes_eq]
@[simp] theorem mapLanes_supNotices (e : BitVec 7) (f : Replica → Replica) (m : Mach) :
    (mapLanes e f m).supNotices = m.supNotices := by rw [mapLanes_eq]
@[simp] theorem mapLanes_supOverruns (e : BitVec 7) (f : Replica → Replica) (m : Mach) :
    (mapLanes e f m).supOverruns = m.supOverruns := by rw [mapLanes_eq]
@[simp] theorem mapLanes_resv (e : BitVec 7) (f : Replica → Replica) (m : Mach) :
    (mapLanes e f m).resv = m.resv := by rw [mapLanes_eq]
@[simp] theorem mapLanes_owner (e : BitVec 7) (f : Replica → Replica) (m : Mach) :
    (mapLanes e f m).owner = m.owner := by rw [mapLanes_eq]
@[simp] theorem mapLanes_spans (e : BitVec 7) (f : Replica → Replica) (m : Mach) :
    (mapLanes e f m).spans = m.spans := by rw [mapLanes_eq]
@[simp] theorem mapLanes_spanRuns (e : BitVec 7) (f : Replica → Replica) (m : Mach) :
    (mapLanes e f m).spanRuns = m.spanRuns := by rw [mapLanes_eq]
@[simp] theorem mapLanes_marks (e : BitVec 7) (f : Replica → Replica) (m : Mach) :
    (mapLanes e f m).marks = m.marks := by rw [mapLanes_eq]
@[simp] theorem mapLanes_mint (e : BitVec 7) (f : Replica → Replica) (m : Mach) :
    (mapLanes e f m).mint = m.mint := by rw [mapLanes_eq]
@[simp] theorem mapLanes_mem (e : BitVec 7) (f : Replica → Replica) (m : Mach) :
    (mapLanes e f m).mem = m.mem := by rw [mapLanes_eq]
@[simp] theorem mapLanes_mc (e : BitVec 7) (f : Replica → Replica) (m : Mach) :
    (mapLanes e f m).mc = m.mc := by rw [mapLanes_eq]
@[simp] theorem mapLanes_dies (e : BitVec 7) (f : Replica → Replica) (m : Mach) :
    (mapLanes e f m).dies = m.dies := by rw [mapLanes_eq]
@[simp] theorem mapLanes_chans (e : BitVec 7) (f : Replica → Replica) (m : Mach) :
    (mapLanes e f m).chans = m.chans := by rw [mapLanes_eq]
@[simp] theorem mapLanes_host (e : BitVec 7) (f : Replica → Replica) (m : Mach) :
    (mapLanes e f m).host = m.host := by rw [mapLanes_eq]
@[simp] theorem mapLanes_sec (e : BitVec 7) (f : Replica → Replica) (m : Mach) :
    (mapLanes e f m).sec = m.sec := by rw [mapLanes_eq]
@[simp] theorem mapLanes_faults (e : BitVec 7) (f : Replica → Replica) (m : Mach) :
    (mapLanes e f m).faults = m.faults := by rw [mapLanes_eq]
@[simp] theorem mapLanes_watch (e : BitVec 7) (f : Replica → Replica) (m : Mach) :
    (mapLanes e f m).watch = m.watch := by rw [mapLanes_eq]
@[simp] theorem mapLanes_dbg (e : BitVec 7) (f : Replica → Replica) (m : Mach) :
    (mapLanes e f m).dbg = m.dbg := by rw [mapLanes_eq]
@[simp] theorem mapLanes_pwr (e : BitVec 7) (f : Replica → Replica) (m : Mach) :
    (mapLanes e f m).pwr = m.pwr := by rw [mapLanes_eq]
@[simp] theorem mapLanes_bkp (e : BitVec 7) (f : Replica → Replica) (m : Mach) :
    (mapLanes e f m).bkp = m.bkp := by rw [mapLanes_eq]
@[simp] theorem mapLanes_yl (e : BitVec 7) (f : Replica → Replica) (m : Mach) :
    (mapLanes e f m).yl = m.yl := by rw [mapLanes_eq]

/-- A replica of the engine's tile after a change of the lanes. -/
theorem rep_foldl_modRep (t : BitVec 5) (l : List (BitVec 2)) (f : Replica → Replica) (m : Mach) (r : BitVec 2)
    (hn : l.Nodup) :
    rep (l.foldl (fun m r => modRep t r f m) m) t r = if r ∈ l then f (rep m t r) else rep m t r := by
  induction l generalizing m with
  | nil => simp
  | cons x l ih =>
    simp only [List.foldl_cons]
    rw [ih _ (List.nodup_cons.mp hn).2, rep_modRep]
    by_cases h : r = x
    · subst h; simp [(List.nodup_cons.mp hn).1]
    · simp [h]

theorem rep_mapLanes (e : BitVec 7) (f : Replica → Replica) (m : Mach) (r : BitVec 2) :
    rep (mapLanes e f m) (tileOf e) r
      = if r ∈ lanesOf m e then f (rep m (tileOf e) r) else rep m (tileOf e) r :=
  rep_foldl_modRep _ _ _ _ _ (lanesOf_nodup m e)

/-- The lanes of an engine are the same after a change that keeps the replicas' states and lanes. -/
theorem lanesOf_congr (m m' : Mach) (e : BitVec 7)
    (h : (m'.tiles.get (tileOf e)).live = (m.tiles.get (tileOf e)).live)
    (hr : ∀ r, (rep m' (tileOf e) r).state = (rep m (tileOf e) r).state ∧
      (rep m' (tileOf e) r).lane = (rep m (tileOf e) r).lane) : lanesOf m' e = lanesOf m e := by
  have hin : ∀ l, inLane (m'.tiles.get (tileOf e)) l = inLane (m.tiles.get (tileOf e)) l := by
    intro l
    unfold inLane
    congr 1
    funext r
    have := hr r
    simp only [rep] at this
    rw [this.1, this.2]
  simp only [lanesOf, h, hin]

theorem live_foldl_modRep (t : BitVec 5) (l : List (BitVec 2)) (f : Replica → Replica) (m : Mach) (t' : BitVec 5) :
    ((l.foldl (fun m r => modRep t r f m) m).tiles.get t').live = (m.tiles.get t').live := by
  induction l generalizing m with
  | nil => rfl
  | cons r l ih =>
    simp only [List.foldl_cons, ih, modRep_tiles, Tbl.get_upd]
    split <;> simp_all

@[simp] theorem liveCode_mapLanes (e e' : BitVec 7) (f : Replica → Replica) (m : Mach) :
    liveCode (mapLanes e f m) e' = liveCode m e' :=
  live_foldl_modRep _ _ _ _ _

theorem lanesOf_mapLanes (e : BitVec 7) (f : Replica → Replica) (m : Mach)
    (hf : ∀ r, (f r).state = r.state ∧ (f r).lane = r.lane) : lanesOf (mapLanes e f m) e = lanesOf m e := by
  refine lanesOf_congr _ _ _ (live_foldl_modRep _ _ _ _ _) fun r => ?_
  rw [rep_mapLanes]
  split
  · exact hf _
  · exact ⟨rfl, rfl⟩

end Sys2Proof.Machine
end

