-- ==== Sys2Proof/Laws/Memory.lean ====
section
/-! SUPPORT. Reads after writes of memory, and its canonical form. -/

namespace Sys2Proof.Machine

open Sys2Proof

/-! ### Lists of pairs -/

section Lists
variable {β : Type}

theorem look_drop (d : β) (l : List (Nat × β)) (k j : Nat) :
    look d (drop l k) j = if j = k then d else look d l j := by
  induction l with
  | nil => simp [drop, look]
  | cons x r ih =>
    obtain ⟨a, v⟩ := x
    simp only [drop] at ih
    by_cases h : a = k
    · subst h; simp only [drop, List.filter_cons, bne_self_eq_false, Bool.false_eq_true, if_false, look, ih]
      by_cases hj : j = a
      · simp [hj]
      · simp [hj, Ne.symm hj]
    · simp only [drop, List.filter_cons, bne_iff_ne, ne_eq, h, not_false_eq_true, if_true, look, ih]
      by_cases hj : a = j
      · subst hj; simp [h]
      · simp [hj]

variable [DecidableEq β]

/-- A READ AFTER A WRITE, in any list. -/
@[simp] theorem look_store (d : β) (l : List (Nat × β)) (k j : Nat) (v : β) :
    look d (store d l k v) j = if j = k then v else look d l j := by
  induction l with
  | nil =>
    by_cases hv : v = d
    · simp [store, hv, look]
    · simp only [store, hv, if_false, look, eq_comm]
  | cons x r ih =>
    obtain ⟨a, w⟩ := x
    simp only [store]
    by_cases hv : v = d
    · subst hv; simp only [if_true]; exact look_drop _ _ _ _
    · simp only [hv, if_false]
      by_cases ha : a = k
      · subst ha; simp only [if_true, look]; by_cases hj : a = j <;> simp [hj, eq_comm]; intro h; exact absurd h.symm hj
      · simp only [ha, if_false]
        by_cases hlt : k < a
        · simp only [hlt, if_true, look]
          by_cases hj : k = j
          · subst hj; simp
          · simp [hj, Ne.symm hj]
        · simp only [hlt, if_false, look, ih]
          by_cases hj : a = j
          · subst hj; simp [ha]
          · simp [hj]

/-- A list with a rising key in front. -/
theorem canon_cons (d : β) (a : Nat) (v : β) (l : List (Nat × β)) :
    canon d ((a, v) :: l) = true ↔ v ≠ d ∧ (∀ x ∈ l, a < x.1) ∧ canon d l = true := by
  induction l generalizing a v with
  | nil => simp [canon]
  | cons x r ih =>
    obtain ⟨b, w⟩ := x
    have := ih b w
    simp only [canon, Bool.and_eq_true, decide_eq_true_eq, List.mem_cons, forall_eq_or_imp, this]
    constructor
    · rintro ⟨⟨h1, h2⟩, h3⟩
      exact ⟨h1, ⟨h2, fun x hx => Nat.lt_trans h2 (h3.2.1 x hx)⟩, h3⟩
    · rintro ⟨h1, ⟨h2, -⟩, h3⟩
      exact ⟨⟨h1, h2⟩, h3⟩

theorem canon_drop (d : β) (l : List (Nat × β)) (k : Nat) (h : canon d l = true) : canon d (drop l k) = true := by
  induction l with
  | nil => simpa [drop] using h
  | cons x r ih =>
    obtain ⟨a, v⟩ := x
    obtain ⟨h1, h2, h3⟩ := (canon_cons d a v r).mp h
    by_cases hk : a = k
    · simpa [drop, hk] using ih h3
    · have : drop ((a, v) :: r) k = (a, v) :: drop r k := by simp [drop, hk]
      rw [this, canon_cons]
      exact ⟨h1, fun x hx => h2 x ((List.mem_filter.mp hx).1), ih h3⟩

/-- Every key of a list after a write is the key written or was there. -/
theorem mem_store (d : β) (l : List (Nat × β)) (k : Nat) (v : β) (x : Nat × β) (h : x ∈ store d l k v) :
    x.1 = k ∨ x ∈ l := by
  induction l with
  | nil =>
    by_cases hv : v = d
    · simp [store, hv] at h
    · simp [store, hv] at h; simp [h]
  | cons y r ih =>
    obtain ⟨a, w⟩ := y
    simp only [store] at h
    by_cases hv : v = d
    · simp only [hv, if_true] at h; exact .inr ((List.mem_filter.mp h).1)
    · simp only [hv, if_false] at h
      by_cases ha : a = k
      · simp only [ha, if_true, List.mem_cons] at h
        rcases h with h | h
        · simp [h]
        · simp [h]
      · simp only [ha, if_false] at h
        by_cases hlt : k < a
        · simp only [hlt, if_true, List.mem_cons] at h
          rcases h with h | h | h
          · simp [h]
          · simp [h]
          · simp [h]
        · simp only [hlt, if_false, List.mem_cons] at h
          rcases h with h | h
          · simp [h]
          · rcases ih h with h' | h'
            · exact .inl h'
            · simp [h']

/-- A write keeps the canonical form. -/
theorem canon_store (d : β) (l : List (Nat × β)) (k : Nat) (v : β) (h : canon d l = true) :
    canon d (store d l k v) = true := by
  induction l with
  | nil => by_cases hv : v = d <;> simp [store, hv, canon]
  | cons x r ih =>
    obtain ⟨a, w⟩ := x
    obtain ⟨h1, h2, h3⟩ := (canon_cons d a w r).mp h
    simp only [store]
    by_cases hv : v = d
    · simp only [hv, if_true]; exact canon_drop d _ k h
    · simp only [hv, if_false]
      by_cases ha : a = k
      · subst ha; simp only [if_true]; exact (canon_cons d a v r).mpr ⟨hv, h2, h3⟩
      · simp only [ha, if_false]
        by_cases hlt : k < a
        · simp only [hlt, if_true]
          refine (canon_cons d k v _).mpr ⟨hv, ?_, h⟩
          intro x hx
          rcases List.mem_cons.mp hx with hx | hx
          · simpa [hx] using hlt
          · exact Nat.lt_trans hlt (h2 x hx)
        · simp only [hlt, if_false]
          refine (canon_cons d a w _).mpr ⟨h1, ?_, ih h3⟩
          intro x hx
          rcases mem_store d r k v x hx with hx | hx
          · omega
          · exact h2 x hx

end Lists

/-! ### Bytes and granules -/

/-- Bytes stored one after another. -/
theorem look_storeBytes (cs : List Host.Cell) (a : Nat) (l : List Byte) (j : Nat) :
    look 0#8 (storeBytes cs a l) j = if h : a ≤ j ∧ j < a + l.length then l[j - a] else look 0#8 cs j := by
  induction l generalizing cs a with
  | nil => simp [storeBytes]
  | cons b l ih =>
    simp only [storeBytes, ih, look_store, List.length_cons]
    by_cases h1 : a + 1 ≤ j ∧ j < a + 1 + l.length
    · have h2 : a ≤ j ∧ j < a + (l.length + 1) := by omega
      have h3 : j - a = (j - (a + 1)) + 1 := by omega
      simp only [h1, h2, and_self, dif_pos, h3, List.getElem_cons_succ]
    · by_cases h2 : j = a
      · subst h2; simp
      · have h3 : ¬(a ≤ j ∧ j < a + (l.length + 1)) := by omega
        simp only [h1, h2, h3, dif_neg, if_false, not_false_eq_true]

theorem canon_storeBytes (cs : List Host.Cell) (a : Nat) (l : List Byte) (h : canon 0#8 cs = true) :
    canon 0#8 (storeBytes cs a l) = true := by
  induction l generalizing cs a with
  | nil => exact h
  | cons b l ih => exact ih _ _ (canon_store _ _ _ _ h)

theorem length_bytesOf {n : Nat} (v : BitVec n) (lo k : Nat) : (bytesOf v lo k).length = k := by
  induction k generalizing lo with
  | zero => rfl
  | succ k ih => simp [bytesOf, ih]

theorem getElem_bytesOf {n : Nat} (v : BitVec n) (lo k i : Nat) (h : i < (bytesOf v lo k).length) :
    (bytesOf v lo k)[i] = byteOf v (lo + i) := by
  induction k generalizing lo i with
  | zero => simp [bytesOf] at h
  | succ k ih =>
    cases i with
    | zero => simp [bytesOf]
    | succ i => simp only [bytesOf, List.getElem_cons_succ]; rw [ih]; congr 1; omega

/-- The little-endian number of the bytes of a word is the word. -/
theorem leNat_bytesOf {n : Nat} (v : BitVec n) (lo k : Nat) :
    leNat (bytesOf v lo k) = (v.toNat / 2 ^ (8 * lo)) % 2 ^ (8 * k) := by
  induction k generalizing lo with
  | zero => simp [bytesOf, leNat, Nat.mod_one]
  | succ k ih =>
    have h8 : (2 : Nat) ^ (8 * (k + 1)) = 256 * 2 ^ (8 * k) := by
      rw [Nat.mul_succ, Nat.pow_add]; omega
    have hb : (byteOf v lo).toNat = (v.toNat / 2 ^ (8 * lo)) % 256 := by
      simp [byteOf, Nat.shiftRight_eq_div_pow]
    have hs : v.toNat / 2 ^ (8 * (lo + 1)) = v.toNat / 2 ^ (8 * lo) / 256 := by
      rw [Nat.mul_succ, Nat.pow_add, Nat.div_div_eq_div_mul]
    simp only [bytesOf, leNat, ih, hb, hs, h8, Nat.mod_mul]

@[simp] theorem ofNat_leNat_bytesOf (d : Gran) : BitVec.ofNat 128 (leNat (bytesOf d 0 16)) = d := by
  apply BitVec.eq_of_toNat_eq
  rw [BitVec.toNat_ofNat, leNat_bytesOf]
  have := d.isLt
  simp only [Nat.mul_zero, Nat.pow_zero, Nat.div_one]
  omega

theorem range_eq (lo n : Nat) : range lo n = (List.range n).map (lo + ·) := by
  induction n generalizing lo with
  | zero => rfl
  | succ n ih =>
    rw [range, ih, List.range_succ_eq_map, List.map_cons, List.map_map, Nat.add_zero]
    congr 1
    apply List.map_congr_left
    intro x _
    simp only [Function.comp_apply]
    omega

theorem mem_range (lo n k : Nat) : k ∈ range lo n ↔ lo ≤ k ∧ k < lo + n := by
  rw [range_eq, List.mem_map]
  constructor
  · rintro ⟨x, hx, rfl⟩; have := List.mem_range.mp hx; omega
  · rintro ⟨h1, h2⟩; exact ⟨k - lo, List.mem_range.mpr (by omega), by omega⟩

/-- A byte after a granule is written. -/
theorem byte_putGran (mem : Memory) (g : Nat) (d : Gran) (t p : Bool) (a : Nat) :
    (mem.putGran g d t p).byte a = if a / 16 = g then byteOf d (a % 16) else mem.byte a := by
  simp only [Memory.byte, Memory.putGran, look_storeBytes, length_bytesOf]
  by_cases h : a / 16 = g
  · have h1 : 16 * g ≤ a ∧ a < 16 * g + 16 := by omega
    simp only [h1, and_self, dif_pos, getElem_bytesOf, h, if_true]
    congr 1; omega
  · have h1 : ¬(16 * g ≤ a ∧ a < 16 * g + 16) := by omega
    simp only [h1, h, dif_neg, if_false, not_false_eq_true]

/-- The data of a granule after a granule is written. -/
theorem data_putGran (mem : Memory) (g : Nat) (d : Gran) (t p : Bool) (g' : Nat) :
    (mem.putGran g d t p).data g' = if g' = g then d else mem.data g' := by
  unfold Memory.data
  by_cases h : g' = g
  · subst h
    have : (range (16 * g') 16).map (mem.putGran g' d t p).byte = bytesOf d 0 16 := by
      apply List.ext_getElem
      · simp [range_eq, length_bytesOf]
      · intro i h1 h2
        have hi : i < 16 := by simpa [length_bytesOf] using h2
        have : (16 * g' + i) / 16 = g' := by omega
        simp only [List.getElem_map, range_eq, List.getElem_range, byte_putGran, getElem_bytesOf, this, if_true]
        congr 1; omega
    simp [this]
  · have : (range (16 * g') 16).map (mem.putGran g d t p).byte = (range (16 * g') 16).map mem.byte := by
      apply List.map_congr_left
      intro x hx
      have := (mem_range _ _ _).mp hx
      have hne : ¬ x / 16 = g := by omega
      simp [byte_putGran, hne]
    simp [this, h]

theorem tag_putGran (mem : Memory) (g : Nat) (d : Gran) (t p : Bool) (g' : Nat) :
    (mem.putGran g d t p).tag g' = if g' = g then t else mem.tag g' := by
  simp [Memory.tag, Memory.putGran]

theorem poison_putGran (mem : Memory) (g : Nat) (d : Gran) (t p : Bool) (g' : Nat) :
    (mem.putGran g d t p).poison g' = if g' = g then p else mem.poison g' := by
  simp [Memory.poison, Memory.putGran]

theorem err_putGran (mem : Memory) (g : Nat) (d : Gran) (t p : Bool) (g' : Nat) :
    (mem.putGran g d t p).err g' = if g' = g then 0#152 else mem.err g' := by
  simp [Memory.err, Memory.putGran]

/-- A granule written keeps memory canonical. -/
theorem wf_putGran (mem : Memory) (g : Nat) (d : Gran) (t p : Bool) (h : mem.wf = true) :
    (mem.putGran g d t p).wf = true := by
  simp only [Memory.wf, Bool.and_eq_true] at h ⊢
  exact ⟨⟨⟨canon_storeBytes _ _ _ h.1.1.1, canon_store _ _ _ _ h.1.1.2⟩, canon_store _ _ _ _ h.1.2⟩,
    canon_store _ _ _ _ h.2⟩

/-- Flipped bits keep memory canonical. -/
theorem wf_flip (mem : Memory) (g : Nat) (x : BitVec 152) (h : mem.wf = true) : (mem.flip g x).wf = true := by
  simp only [Memory.wf, Bool.and_eq_true] at h ⊢
  exact ⟨h.1, canon_store _ _ _ _ h.2⟩

end Sys2Proof.Machine
end

