-- ==== Sys2Proof/Laws/Ops.lean ====
section
/-! SUPPORT. What the shared operations of the module leave as it is, and what a write of a granule does. -/

namespace Sys2Proof.Machine

open Sys2Proof


/-! ### What `beginHardpan` leaves -/

/-- `beginHardpan` touches of the module only what is named here. -/
theorem beginHardpan_eq (code : BitVec 16) (m : Mach) :
    (beginHardpan code m) = { m with
      mode := (beginHardpan code m).mode
      watch := (beginHardpan code m).watch
      faults := (beginHardpan code m).faults } := by
  unfold beginHardpan; split <;> rfl
@[simp] theorem beginHardpan_clk (code : BitVec 16) (m : Mach) :
    (beginHardpan code m).clk = m.clk := by rw [beginHardpan_eq]
@[simp] theorem beginHardpan_free (code : BitVec 16) (m : Mach) :
    (beginHardpan code m).free = m.free := by rw [beginHardpan_eq]
@[simp] theorem beginHardpan_bus (code : BitVec 16) (m : Mach) :
    (beginHardpan code m).bus = m.bus := by rw [beginHardpan_eq]
@[simp] theorem beginHardpan_outbox (code : BitVec 16) (m : Mach) :
    (beginHardpan code m).outbox = m.outbox := by rw [beginHardpan_eq]
@[simp] theorem beginHardpan_tick (code : BitVec 16) (m : Mach) :
    (beginHardpan code m).tick = m.tick := by rw [beginHardpan_eq]
@[simp] theorem beginHardpan_tiles (code : BitVec 16) (m : Mach) :
    (beginHardpan code m).tiles = m.tiles := by rw [beginHardpan_eq]
@[simp] theorem beginHardpan_engines (code : BitVec 16) (m : Mach) :
    (beginHardpan code m).engines = m.engines := by rw [beginHardpan_eq]
@[simp] theorem beginHardpan_ints (code : BitVec 16) (m : Mach) :
    (beginHardpan code m).ints = m.ints := by rw [beginHardpan_eq]
@[simp] theorem beginHardpan_supNotices (code : BitVec 16) (m : Mach) :
    (beginHardpan code m).supNotices = m.supNotices := by rw [beginHardpan_eq]
@[simp] theorem beginHardpan_supOverruns (code : BitVec 16) (m : Mach) :
    (beginHardpan code m).supOverruns = m.supOverruns := by rw [beginHardpan_eq]
@[simp] theorem beginHardpan_resv (code : BitVec 16) (m : Mach) :
    (beginHardpan code m).resv = m.resv := by rw [beginHardpan_eq]
@[simp] theorem beginHardpan_owner (code : BitVec 16) (m : Mach) :
    (beginHardpan code m).owner = m.owner := by rw [beginHardpan_eq]
@[simp] theorem beginHardpan_spans (code : BitVec 16) (m : Mach) :
    (beginHardpan code m).spans = m.spans := by rw [beginHardpan_eq]
@[simp] theorem beginHardpan_spanRuns (code : BitVec 16) (m : Mach) :
    (beginHardpan code m).spanRuns = m.spanRuns := by rw [beginHardpan_eq]
@[simp] theorem beginHardpan_marks (code : BitVec 16) (m : Mach) :
    (beginHardpan code m).marks = m.marks := by rw [beginHardpan_eq]
@[simp] theorem beginHardpan_mint (code : BitVec 16) (m : Mach) :
    (beginHardpan code m).mint = m.mint := by rw [beginHardpan_eq]
@[simp] theorem beginHardpan_mem (code : BitVec 16) (m : Mach) :
    (beginHardpan code m).mem = m.mem := by rw [beginHardpan_eq]
@[simp] theorem beginHardpan_mc (code : BitVec 16) (m : Mach) :
    (beginHardpan code m).mc = m.mc := by rw [beginHardpan_eq]
@[simp] theorem beginHardpan_dies (code : BitVec 16) (m : Mach) :
    (beginHardpan code m).dies = m.dies := by rw [beginHardpan_eq]
@[simp] theorem beginHardpan_chans (code : BitVec 16) (m : Mach) :
    (beginHardpan code m).chans = m.chans := by rw [beginHardpan_eq]
@[simp] theorem beginHardpan_host (code : BitVec 16) (m : Mach) :
    (beginHardpan code m).host = m.host := by rw [beginHardpan_eq]
@[simp] theorem beginHardpan_sec (code : BitVec 16) (m : Mach) :
    (beginHardpan code m).sec = m.sec := by rw [beginHardpan_eq]
@[simp] theorem beginHardpan_dbg (code : BitVec 16) (m : Mach) :
    (beginHardpan code m).dbg = m.dbg := by rw [beginHardpan_eq]
@[simp] theorem beginHardpan_pwr (code : BitVec 16) (m : Mach) :
    (beginHardpan code m).pwr = m.pwr := by rw [beginHardpan_eq]
@[simp] theorem beginHardpan_bkp (code : BitVec 16) (m : Mach) :
    (beginHardpan code m).bkp = m.bkp := by rw [beginHardpan_eq]
@[simp] theorem beginHardpan_yl (code : BitVec 16) (m : Mach) :
    (beginHardpan code m).yl = m.yl := by rw [beginHardpan_eq]

/-! ### What `queueFault` leaves -/

/-- `queueFault` touches of the module only what is named here. -/
theorem queueFault_eq (code : BitVec 16) (arg : W64) (cont : List (BitVec 224)) (m : Mach) :
    (queueFault code arg cont m) = { m with
      faults := (queueFault code arg cont m).faults } := by
  unfold queueFault; split <;> rfl
@[simp] theorem queueFault_clk (code : BitVec 16) (arg : W64) (cont : List (BitVec 224)) (m : Mach) :
    (queueFault code arg cont m).clk = m.clk := by rw [queueFault_eq]
@[simp] theorem queueFault_free (code : BitVec 16) (arg : W64) (cont : List (BitVec 224)) (m : Mach) :
    (queueFault code arg cont m).free = m.free := by rw [queueFault_eq]
@[simp] theorem queueFault_bus (code : BitVec 16) (arg : W64) (cont : List (BitVec 224)) (m : Mach) :
    (queueFault code arg cont m).bus = m.bus := by rw [queueFault_eq]
@[simp] theorem queueFault_outbox (code : BitVec 16) (arg : W64) (cont : List (BitVec 224)) (m : Mach) :
    (queueFault code arg cont m).outbox = m.outbox := by rw [queueFault_eq]
@[simp] theorem queueFault_tick (code : BitVec 16) (arg : W64) (cont : List (BitVec 224)) (m : Mach) :
    (queueFault code arg cont m).tick = m.tick := by rw [queueFault_eq]
@[simp] theorem queueFault_mode (code : BitVec 16) (arg : W64) (cont : List (BitVec 224)) (m : Mach) :
    (queueFault code arg cont m).mode = m.mode := by rw [queueFault_eq]
@[simp] theorem queueFault_tiles (code : BitVec 16) (arg : W64) (cont : List (BitVec 224)) (m : Mach) :
    (queueFault code arg cont m).tiles = m.tiles := by rw [queueFault_eq]
@[simp] theorem queueFault_engines (code : BitVec 16) (arg : W64) (cont : List (BitVec 224)) (m : Mach) :
    (queueFault code arg cont m).engines = m.engines := by rw [queueFault_eq]
@[simp] theorem queueFault_ints (code : BitVec 16) (arg : W64) (cont : List (BitVec 224)) (m : Mach) :
    (queueFault code arg cont m).ints = m.ints := by rw [queueFault_eq]
@[simp] theorem queueFault_supNotices (code : BitVec 16) (arg : W64) (cont : List (BitVec 224)) (m : Mach) :
    (queueFault code arg cont m).supNotices = m.supNotices := by rw [queueFault_eq]
@[simp] theorem queueFault_supOverruns (code : BitVec 16) (arg : W64) (cont : List (BitVec 224)) (m : Mach) :
    (queueFault code arg cont m).supOverruns = m.supOverruns := by rw [queueFault_eq]
@[simp] theorem queueFault_resv (code : BitVec 16) (arg : W64) (cont : List (BitVec 224)) (m : Mach) :
    (queueFault code arg cont m).resv = m.resv := by rw [queueFault_eq]
@[simp] theorem queueFault_owner (code : BitVec 16) (arg : W64) (cont : List (BitVec 224)) (m : Mach) :
    (queueFault code arg cont m).owner = m.owner := by rw [queueFault_eq]
@[simp] theorem queueFault_spans (code : BitVec 16) (arg : W64) (cont : List (BitVec 224)) (m : Mach) :
    (queueFault code arg cont m).spans = m.spans := by rw [queueFault_eq]
@[simp] theorem queueFault_spanRuns (code : BitVec 16) (arg : W64) (cont : List (BitVec 224)) (m : Mach) :
    (queueFault code arg cont m).spanRuns = m.spanRuns := by rw [queueFault_eq]
@[simp] theorem queueFault_marks (code : BitVec 16) (arg : W64) (cont : List (BitVec 224)) (m : Mach) :
    (queueFault code arg cont m).marks = m.marks := by rw [queueFault_eq]
@[simp] theorem queueFault_mint (code : BitVec 16) (arg : W64) (cont : List (BitVec 224)) (m : Mach) :
    (queueFault code arg cont m).mint = m.mint := by rw [queueFault_eq]
@[simp] theorem queueFault_mem (code : BitVec 16) (arg : W64) (cont : List (BitVec 224)) (m : Mach) :
    (queueFault code arg cont m).mem = m.mem := by rw [queueFault_eq]
@[simp] theorem queueFault_mc (code : BitVec 16) (arg : W64) (cont : List (BitVec 224)) (m : Mach) :
    (queueFault code arg cont m).mc = m.mc := by rw [queueFault_eq]
@[simp] theorem queueFault_dies (code : BitVec 16) (arg : W64) (cont : List (BitVec 224)) (m : Mach) :
    (queueFault code arg cont m).dies = m.dies := by rw [queueFault_eq]
@[simp] theorem queueFault_chans (code : BitVec 16) (arg : W64) (cont : List (BitVec 224)) (m : Mach) :
    (queueFault code arg cont m).chans = m.chans := by rw [queueFault_eq]
@[simp] theorem queueFault_host (code : BitVec 16) (arg : W64) (cont : List (BitVec 224)) (m : Mach) :
    (queueFault code arg cont m).host = m.host := by rw [queueFault_eq]
@[simp] theorem queueFault_sec (code : BitVec 16) (arg : W64) (cont : List (BitVec 224)) (m : Mach) :
    (queueFault code arg cont m).sec = m.sec := by rw [queueFault_eq]
@[simp] theorem queueFault_watch (code : BitVec 16) (arg : W64) (cont : List (BitVec 224)) (m : Mach) :
    (queueFault code arg cont m).watch = m.watch := by rw [queueFault_eq]
@[simp] theorem queueFault_dbg (code : BitVec 16) (arg : W64) (cont : List (BitVec 224)) (m : Mach) :
    (queueFault code arg cont m).dbg = m.dbg := by rw [queueFault_eq]
@[simp] theorem queueFault_pwr (code : BitVec 16) (arg : W64) (cont : List (BitVec 224)) (m : Mach) :
    (queueFault code arg cont m).pwr = m.pwr := by rw [queueFault_eq]
@[simp] theorem queueFault_bkp (code : BitVec 16) (arg : W64) (cont : List (BitVec 224)) (m : Mach) :
    (queueFault code arg cont m).bkp = m.bkp := by rw [queueFault_eq]
@[simp] theorem queueFault_yl (code : BitVec 16) (arg : W64) (cont : List (BitVec 224)) (m : Mach) :
    (queueFault code arg cont m).yl = m.yl := by rw [queueFault_eq]

/-! ### What `reportC` leaves -/

/-- `reportC` touches of the module only what is named here. -/
theorem reportC_eq (code : BitVec 16) (arg : W64) (cont : List (BitVec 224)) (m : Mach) :
    (reportC code arg cont m) = { m with
      mode := (reportC code arg cont m).mode
      watch := (reportC code arg cont m).watch
      faults := (reportC code arg cont m).faults } := by
  unfold reportC
  split
  · simp only []
    rw [queueFault_eq, beginHardpan_eq]
  · rw [queueFault_eq]
@[simp] theorem reportC_clk (code : BitVec 16) (arg : W64) (cont : List (BitVec 224)) (m : Mach) :
    (reportC code arg cont m).clk = m.clk := by rw [reportC_eq]
@[simp] theorem reportC_free (code : BitVec 16) (arg : W64) (cont : List (BitVec 224)) (m : Mach) :
    (reportC code arg cont m).free = m.free := by rw [reportC_eq]
@[simp] theorem reportC_bus (code : BitVec 16) (arg : W64) (cont : List (BitVec 224)) (m : Mach) :
    (reportC code arg cont m).bus = m.bus := by rw [reportC_eq]
@[simp] theorem reportC_outbox (code : BitVec 16) (arg : W64) (cont : List (BitVec 224)) (m : Mach) :
    (reportC code arg cont m).outbox = m.outbox := by rw [reportC_eq]
@[simp] theorem reportC_tick (code : BitVec 16) (arg : W64) (cont : List (BitVec 224)) (m : Mach) :
    (reportC code arg cont m).tick = m.tick := by rw [reportC_eq]
@[simp] theorem reportC_tiles (code : BitVec 16) (arg : W64) (cont : List (BitVec 224)) (m : Mach) :
    (reportC code arg cont m).tiles = m.tiles := by rw [reportC_eq]
@[simp] theorem reportC_engines (code : BitVec 16) (arg : W64) (cont : List (BitVec 224)) (m : Mach) :
    (reportC code arg cont m).engines = m.engines := by rw [reportC_eq]
@[simp] theorem reportC_ints (code : BitVec 16) (arg : W64) (cont : List (BitVec 224)) (m : Mach) :
    (reportC code arg cont m).ints = m.ints := by rw [reportC_eq]
@[simp] theorem reportC_supNotices (code : BitVec 16) (arg : W64) (cont : List (BitVec 224)) (m : Mach) :
    (reportC code arg cont m).supNotices = m.supNotices := by rw [reportC_eq]
@[simp] theorem reportC_supOverruns (code : BitVec 16) (arg : W64) (cont : List (BitVec 224)) (m : Mach) :
    (reportC code arg cont m).supOverruns = m.supOverruns := by rw [reportC_eq]
@[simp] theorem reportC_resv (code : BitVec 16) (arg : W64) (cont : List (BitVec 224)) (m : Mach) :
    (reportC code arg cont m).resv = m.resv := by rw [reportC_eq]
@[simp] theorem reportC_owner (code : BitVec 16) (arg : W64) (cont : List (BitVec 224)) (m : Mach) :
    (reportC code arg cont m).owner = m.owner := by rw [reportC_eq]
@[simp] theorem reportC_spans (code : BitVec 16) (arg : W64) (cont : List (BitVec 224)) (m : Mach) :
    (reportC code arg cont m).spans = m.spans := by rw [reportC_eq]
@[simp] theorem reportC_spanRuns (code : BitVec 16) (arg : W64) (cont : List (BitVec 224)) (m : Mach) :
    (reportC code arg cont m).spanRuns = m.spanRuns := by rw [reportC_eq]
@[simp] theorem reportC_marks (code : BitVec 16) (arg : W64) (cont : List (BitVec 224)) (m : Mach) :
    (reportC code arg cont m).marks = m.marks := by rw [reportC_eq]
@[simp] theorem reportC_mint (code : BitVec 16) (arg : W64) (cont : List (BitVec 224)) (m : Mach) :
    (reportC code arg cont m).mint = m.mint := by rw [reportC_eq]
@[simp] theorem reportC_mem (code : BitVec 16) (arg : W64) (cont : List (BitVec 224)) (m : Mach) :
    (reportC code arg cont m).mem = m.mem := by rw [reportC_eq]
@[simp] theorem reportC_mc (code : BitVec 16) (arg : W64) (cont : List (BitVec 224)) (m : Mach) :
    (reportC code arg cont m).mc = m.mc := by rw [reportC_eq]
@[simp] theorem reportC_dies (code : BitVec 16) (arg : W64) (cont : List (BitVec 224)) (m : Mach) :
    (reportC code arg cont m).dies = m.dies := by rw [reportC_eq]
@[simp] theorem reportC_chans (code : BitVec 16) (arg : W64) (cont : List (BitVec 224)) (m : Mach) :
    (reportC code arg cont m).chans = m.chans := by rw [reportC_eq]
@[simp] theorem reportC_host (code : BitVec 16) (arg : W64) (cont : List (BitVec 224)) (m : Mach) :
    (reportC code arg cont m).host = m.host := by rw [reportC_eq]
@[simp] theorem reportC_sec (code : BitVec 16) (arg : W64) (cont : List (BitVec 224)) (m : Mach) :
    (reportC code arg cont m).sec = m.sec := by rw [reportC_eq]
@[simp] theorem reportC_dbg (code : BitVec 16) (arg : W64) (cont : List (BitVec 224)) (m : Mach) :
    (reportC code arg cont m).dbg = m.dbg := by rw [reportC_eq]
@[simp] theorem reportC_pwr (code : BitVec 16) (arg : W64) (cont : List (BitVec 224)) (m : Mach) :
    (reportC code arg cont m).pwr = m.pwr := by rw [reportC_eq]
@[simp] theorem reportC_bkp (code : BitVec 16) (arg : W64) (cont : List (BitVec 224)) (m : Mach) :
    (reportC code arg cont m).bkp = m.bkp := by rw [reportC_eq]
@[simp] theorem reportC_yl (code : BitVec 16) (arg : W64) (cont : List (BitVec 224)) (m : Mach) :
    (reportC code arg cont m).yl = m.yl := by rw [reportC_eq]

/-! ### What `report` leaves -/

/-- `report` touches of the module only what is named here. -/
theorem report_eq (code : BitVec 16) (arg : W64) (m : Mach) :
    (report code arg m) = { m with
      mode := (report code arg m).mode
      watch := (report code arg m).watch
      faults := (report code arg m).faults } := by
  exact reportC_eq code arg [] m
@[simp] theorem report_clk (code : BitVec 16) (arg : W64) (m : Mach) :
    (report code arg m).clk = m.clk := by rw [report_eq]
@[simp] theorem report_free (code : BitVec 16) (arg : W64) (m : Mach) :
    (report code arg m).free = m.free := by rw [report_eq]
@[simp] theorem report_bus (code : BitVec 16) (arg : W64) (m : Mach) :
    (report code arg m).bus = m.bus := by rw [report_eq]
@[simp] theorem report_outbox (code : BitVec 16) (arg : W64) (m : Mach) :
    (report code arg m).outbox = m.outbox := by rw [report_eq]
@[simp] theorem report_tick (code : BitVec 16) (arg : W64) (m : Mach) :
    (report code arg m).tick = m.tick := by rw [report_eq]
@[simp] theorem report_tiles (code : BitVec 16) (arg : W64) (m : Mach) :
    (report code arg m).tiles = m.tiles := by rw [report_eq]
@[simp] theorem report_engines (code : BitVec 16) (arg : W64) (m : Mach) :
    (report code arg m).engines = m.engines := by rw [report_eq]
@[simp] theorem report_ints (code : BitVec 16) (arg : W64) (m : Mach) :
    (report code arg m).ints = m.ints := by rw [report_eq]
@[simp] theorem report_supNotices (code : BitVec 16) (arg : W64) (m : Mach) :
    (report code arg m).supNotices = m.supNotices := by rw [report_eq]
@[simp] theorem report_supOverruns (code : BitVec 16) (arg : W64) (m : Mach) :
    (report code arg m).supOverruns = m.supOverruns := by rw [report_eq]
@[simp] theorem report_resv (code : BitVec 16) (arg : W64) (m : Mach) :
    (report code arg m).resv = m.resv := by rw [report_eq]
@[simp] theorem report_owner (code : BitVec 16) (arg : W64) (m : Mach) :
    (report code arg m).owner = m.owner := by rw [report_eq]
@[simp] theorem report_spans (code : BitVec 16) (arg : W64) (m : Mach) :
    (report code arg m).spans = m.spans := by rw [report_eq]
@[simp] theorem report_spanRuns (code : BitVec 16) (arg : W64) (m : Mach) :
    (report code arg m).spanRuns = m.spanRuns := by rw [report_eq]
@[simp] theorem report_marks (code : BitVec 16) (arg : W64) (m : Mach) :
    (report code arg m).marks = m.marks := by rw [report_eq]
@[simp] theorem report_mint (code : BitVec 16) (arg : W64) (m : Mach) :
    (report code arg m).mint = m.mint := by rw [report_eq]
@[simp] theorem report_mem (code : BitVec 16) (arg : W64) (m : Mach) :
    (report code arg m).mem = m.mem := by rw [report_eq]
@[simp] theorem report_mc (code : BitVec 16) (arg : W64) (m : Mach) :
    (report code arg m).mc = m.mc := by rw [report_eq]
@[simp] theorem report_dies (code : BitVec 16) (arg : W64) (m : Mach) :
    (report code arg m).dies = m.dies := by rw [report_eq]
@[simp] theorem report_chans (code : BitVec 16) (arg : W64) (m : Mach) :
    (report code arg m).chans = m.chans := by rw [report_eq]
@[simp] theorem report_host (code : BitVec 16) (arg : W64) (m : Mach) :
    (report code arg m).host = m.host := by rw [report_eq]
@[simp] theorem report_sec (code : BitVec 16) (arg : W64) (m : Mach) :
    (report code arg m).sec = m.sec := by rw [report_eq]
@[simp] theorem report_dbg (code : BitVec 16) (arg : W64) (m : Mach) :
    (report code arg m).dbg = m.dbg := by rw [report_eq]
@[simp] theorem report_pwr (code : BitVec 16) (arg : W64) (m : Mach) :
    (report code arg m).pwr = m.pwr := by rw [report_eq]
@[simp] theorem report_bkp (code : BitVec 16) (arg : W64) (m : Mach) :
    (report code arg m).bkp = m.bkp := by rw [report_eq]
@[simp] theorem report_yl (code : BitVec 16) (arg : W64) (m : Mach) :
    (report code arg m).yl = m.yl := by rw [report_eq]

/-- A fault whose reaction is not H is queued, and nothing else happens (R433, R439). -/
theorem report_soft (code : BitVec 16) (arg : W64) (m : Mach) (h : reactionOf m code arg ≠ .h) :
    report code arg m = queueFault code arg [] m := by
  simp [report, reportC, h]

/-! ### What `pend` leaves -/

/-- `pend` touches of the module only what is named here. -/
theorem pend_eq (c : BitVec 10) (b : Nat) (m : Mach) :
    (pend c b m) = { m with
      ints := (pend c b m).ints } := by
  rfl
@[simp] theorem pend_clk (c : BitVec 10) (b : Nat) (m : Mach) :
    (pend c b m).clk = m.clk := by rw [pend_eq]
@[simp] theorem pend_free (c : BitVec 10) (b : Nat) (m : Mach) :
    (pend c b m).free = m.free := by rw [pend_eq]
@[simp] theorem pend_bus (c : BitVec 10) (b : Nat) (m : Mach) :
    (pend c b m).bus = m.bus := by rw [pend_eq]
@[simp] theorem pend_outbox (c : BitVec 10) (b : Nat) (m : Mach) :
    (pend c b m).outbox = m.outbox := by rw [pend_eq]
@[simp] theorem pend_tick (c : BitVec 10) (b : Nat) (m : Mach) :
    (pend c b m).tick = m.tick := by rw [pend_eq]
@[simp] theorem pend_mode (c : BitVec 10) (b : Nat) (m : Mach) :
    (pend c b m).mode = m.mode := by rw [pend_eq]
@[simp] theorem pend_tiles (c : BitVec 10) (b : Nat) (m : Mach) :
    (pend c b m).tiles = m.tiles := by rw [pend_eq]
@[simp] theorem pend_engines (c : BitVec 10) (b : Nat) (m : Mach) :
    (pend c b m).engines = m.engines := by rw [pend_eq]
@[simp] theorem pend_supNotices (c : BitVec 10) (b : Nat) (m : Mach) :
    (pend c b m).supNotices = m.supNotices := by rw [pend_eq]
@[simp] theorem pend_supOverruns (c : BitVec 10) (b : Nat) (m : Mach) :
    (pend c b m).supOverruns = m.supOverruns := by rw [pend_eq]
@[simp] theorem pend_resv (c : BitVec 10) (b : Nat) (m : Mach) :
    (pend c b m).resv = m.resv := by rw [pend_eq]
@[simp] theorem pend_owner (c : BitVec 10) (b : Nat) (m : Mach) :
    (pend c b m).owner = m.owner := by rw [pend_eq]
@[simp] theorem pend_spans (c : BitVec 10) (b : Nat) (m : Mach) :
    (pend c b m).spans = m.spans := by rw [pend_eq]
@[simp] theorem pend_spanRuns (c : BitVec 10) (b : Nat) (m : Mach) :
    (pend c b m).spanRuns = m.spanRuns := by rw [pend_eq]
@[simp] theorem pend_marks (c : BitVec 10) (b : Nat) (m : Mach) :
    (pend c b m).marks = m.marks := by rw [pend_eq]
@[simp] theorem pend_mint (c : BitVec 10) (b : Nat) (m : Mach) :
    (pend c b m).mint = m.mint := by rw [pend_eq]
@[simp] theorem pend_mem (c : BitVec 10) (b : Nat) (m : Mach) :
    (pend c b m).mem = m.mem := by rw [pend_eq]
@[simp] theorem pend_mc (c : BitVec 10) (b : Nat) (m : Mach) :
    (pend c b m).mc = m.mc := by rw [pend_eq]
@[simp] theorem pend_dies (c : BitVec 10) (b : Nat) (m : Mach) :
    (pend c b m).dies = m.dies := by rw [pend_eq]
@[simp] theorem pend_chans (c : BitVec 10) (b : Nat) (m : Mach) :
    (pend c b m).chans = m.chans := by rw [pend_eq]
@[simp] theorem pend_host (c : BitVec 10) (b : Nat) (m : Mach) :
    (pend c b m).host = m.host := by rw [pend_eq]
@[simp] theorem pend_sec (c : BitVec 10) (b : Nat) (m : Mach) :
    (pend c b m).sec = m.sec := by rw [pend_eq]
@[simp] theorem pend_faults (c : BitVec 10) (b : Nat) (m : Mach) :
    (pend c b m).faults = m.faults := by rw [pend_eq]
@[simp] theorem pend_watch (c : BitVec 10) (b : Nat) (m : Mach) :
    (pend c b m).watch = m.watch := by rw [pend_eq]
@[simp] theorem pend_dbg (c : BitVec 10) (b : Nat) (m : Mach) :
    (pend c b m).dbg = m.dbg := by rw [pend_eq]
@[simp] theorem pend_pwr (c : BitVec 10) (b : Nat) (m : Mach) :
    (pend c b m).pwr = m.pwr := by rw [pend_eq]
@[simp] theorem pend_bkp (c : BitVec 10) (b : Nat) (m : Mach) :
    (pend c b m).bkp = m.bkp := by rw [pend_eq]
@[simp] theorem pend_yl (c : BitVec 10) (b : Nat) (m : Mach) :
    (pend c b m).yl = m.yl := by rw [pend_eq]

/-- The second module differs from the first in nothing that the memory path does not touch. -/
abbrev MemPath (m m1 : Mach) : Prop :=
  m1 = { m with
      mode := m1.mode,
      resv := m1.resv,
      mem := m1.mem,
      mc := m1.mc,
      faults := m1.faults,
      watch := m1.watch }

theorem MemPath.self (m : Mach) : MemPath m m := rfl

theorem MemPath.trans {a b c : Mach} (h : MemPath a b) (h1 : MemPath b c) : MemPath a c := by
  cases a; cases b; cases c
  simp only [MemPath, Mach.mk.injEq] at h h1 ⊢
  simp_all

theorem MemPath.ofMc (f : MemCtl → MemCtl) (m : Mach) : MemPath m (modMc f m) := rfl

theorem MemPath.ofMem (x : Memory) (m : Mach) : MemPath m { m with mem := x } := rfl

theorem MemPath.ofResv (x : List (BitVec 7 × Addr)) (m : Mach) : MemPath m { m with resv := x } := rfl

theorem MemPath.ofReport (code : BitVec 16) (arg : W64) (m : Mach) : MemPath m (report code arg m) := by
  simp only [MemPath, report_mc, report_mem, report_resv]
  exact report_eq code arg m

theorem MemPath.count (g : Nat) (dev : BitVec 5) (m : Mach) : MemPath m (countDevice g dev m) := by
  unfold countDevice
  dsimp only
  repeat' split
  all_goals repeat first
    | with_reducible exact MemPath.self _
    | with_reducible refine MemPath.trans ?_ (MemPath.ofReport _ _ _)
    | with_reducible refine MemPath.trans ?_ (MemPath.ofMc _ _)

theorem MemPath.corrected (g : Nat) (k : BitVec 5) (m : Mach) : MemPath m (countCorrected g k m) := by
  unfold countCorrected
  dsimp only
  repeat' split
  all_goals repeat first
    | with_reducible exact MemPath.self _
    | with_reducible refine MemPath.trans ?_ (MemPath.count _ _ _)
    | with_reducible refine MemPath.trans ?_ (MemPath.ofMc _ _)

theorem MemPath.read (w : Acc) (g : Nat) (m : Mach) : MemPath m (readGran w g m).2 := by
  unfold readGran
  repeat' split
  all_goals dsimp only
  all_goals repeat first
    | with_reducible exact MemPath.self _
    | exact MemPath.corrected _ _ _
    | exact MemPath.trans (MemPath.ofMem _ _) (MemPath.trans (MemPath.ofMc _ _) (MemPath.ofReport _ _ _))
    | exact MemPath.trans (MemPath.ofMc _ _) (MemPath.ofReport _ _ _)
    | with_reducible refine MemPath.trans (MemPath.corrected _ _ _) ?_

theorem MemPath.prep {r : List (BitVec 7 × Addr)} {c : MemCtl} {m b : Mach} (h : MemPath { m with resv := r, mc := c } b) :
    MemPath m b :=
  MemPath.trans (b := { m with resv := r, mc := c }) rfl h

theorem MemPath.putMem {a b : Mach} (x : Memory) (h : MemPath a b) : MemPath a { b with mem := x } :=
  MemPath.trans h (MemPath.ofMem x b)

theorem MemPath.write (w : Acc) (g : Nat) (d : Gran) (k : BitVec 16) (t : Bool) (m : Mach) :
    MemPath m (writeGran w g d k t m) := by
  unfold writeGran
  dsimp only
  repeat' split
  · rfl
  · exact MemPath.prep (MemPath.read _ _ _)
  · exact MemPath.prep (MemPath.putMem _ (MemPath.read _ _ _))

/-! ### What `countDevice` leaves -/

@[simp] theorem countDevice_clk (g : Nat) (dev : BitVec 5) (m : Mach) :
    (countDevice g dev m).clk = m.clk := by rw [MemPath.count g dev m]
@[simp] theorem countDevice_free (g : Nat) (dev : BitVec 5) (m : Mach) :
    (countDevice g dev m).free = m.free := by rw [MemPath.count g dev m]
@[simp] theorem countDevice_bus (g : Nat) (dev : BitVec 5) (m : Mach) :
    (countDevice g dev m).bus = m.bus := by rw [MemPath.count g dev m]
@[simp] theorem countDevice_outbox (g : Nat) (dev : BitVec 5) (m : Mach) :
    (countDevice g dev m).outbox = m.outbox := by rw [MemPath.count g dev m]
@[simp] theorem countDevice_tick (g : Nat) (dev : BitVec 5) (m : Mach) :
    (countDevice g dev m).tick = m.tick := by rw [MemPath.count g dev m]
@[simp] theorem countDevice_tiles (g : Nat) (dev : BitVec 5) (m : Mach) :
    (countDevice g dev m).tiles = m.tiles := by rw [MemPath.count g dev m]
@[simp] theorem countDevice_engines (g : Nat) (dev : BitVec 5) (m : Mach) :
    (countDevice g dev m).engines = m.engines := by rw [MemPath.count g dev m]
@[simp] theorem countDevice_ints (g : Nat) (dev : BitVec 5) (m : Mach) :
    (countDevice g dev m).ints = m.ints := by rw [MemPath.count g dev m]
@[simp] theorem countDevice_supNotices (g : Nat) (dev : BitVec 5) (m : Mach) :
    (countDevice g dev m).supNotices = m.supNotices := by rw [MemPath.count g dev m]
@[simp] theorem countDevice_supOverruns (g : Nat) (dev : BitVec 5) (m : Mach) :
    (countDevice g dev m).supOverruns = m.supOverruns := by rw [MemPath.count g dev m]
@[simp] theorem countDevice_owner (g : Nat) (dev : BitVec 5) (m : Mach) :
    (countDevice g dev m).owner = m.owner := by rw [MemPath.count g dev m]
@[simp] theorem countDevice_spans (g : Nat) (dev : BitVec 5) (m : Mach) :
    (countDevice g dev m).spans = m.spans := by rw [MemPath.count g dev m]
@[simp] theorem countDevice_spanRuns (g : Nat) (dev : BitVec 5) (m : Mach) :
    (countDevice g dev m).spanRuns = m.spanRuns := by rw [MemPath.count g dev m]
@[simp] theorem countDevice_marks (g : Nat) (dev : BitVec 5) (m : Mach) :
    (countDevice g dev m).marks = m.marks := by rw [MemPath.count g dev m]
@[simp] theorem countDevice_mint (g : Nat) (dev : BitVec 5) (m : Mach) :
    (countDevice g dev m).mint = m.mint := by rw [MemPath.count g dev m]
@[simp] theorem countDevice_dies (g : Nat) (dev : BitVec 5) (m : Mach) :
    (countDevice g dev m).dies = m.dies := by rw [MemPath.count g dev m]
@[simp] theorem countDevice_chans (g : Nat) (dev : BitVec 5) (m : Mach) :
    (countDevice g dev m).chans = m.chans := by rw [MemPath.count g dev m]
@[simp] theorem countDevice_host (g : Nat) (dev : BitVec 5) (m : Mach) :
    (countDevice g dev m).host = m.host := by rw [MemPath.count g dev m]
@[simp] theorem countDevice_sec (g : Nat) (dev : BitVec 5) (m : Mach) :
    (countDevice g dev m).sec = m.sec := by rw [MemPath.count g dev m]
@[simp] theorem countDevice_dbg (g : Nat) (dev : BitVec 5) (m : Mach) :
    (countDevice g dev m).dbg = m.dbg := by rw [MemPath.count g dev m]
@[simp] theorem countDevice_pwr (g : Nat) (dev : BitVec 5) (m : Mach) :
    (countDevice g dev m).pwr = m.pwr := by rw [MemPath.count g dev m]
@[simp] theorem countDevice_bkp (g : Nat) (dev : BitVec 5) (m : Mach) :
    (countDevice g dev m).bkp = m.bkp := by rw [MemPath.count g dev m]
@[simp] theorem countDevice_yl (g : Nat) (dev : BitVec 5) (m : Mach) :
    (countDevice g dev m).yl = m.yl := by rw [MemPath.count g dev m]
@[simp] theorem countDevice_mem (g : Nat) (dev : BitVec 5) (m : Mach) :
    (countDevice g dev m).mem = m.mem := by
  unfold countDevice
  dsimp only
  repeat' split
  all_goals simp
@[simp] theorem countDevice_resv (g : Nat) (dev : BitVec 5) (m : Mach) :
    (countDevice g dev m).resv = m.resv := by
  unfold countDevice
  dsimp only
  repeat' split
  all_goals simp

/-! ### What `countCorrected` leaves -/

@[simp] theorem countCorrected_clk (g : Nat) (k : BitVec 5) (m : Mach) :
    (countCorrected g k m).clk = m.clk := by rw [MemPath.corrected g k m]
@[simp] theorem countCorrected_free (g : Nat) (k : BitVec 5) (m : Mach) :
    (countCorrected g k m).free = m.free := by rw [MemPath.corrected g k m]
@[simp] theorem countCorrected_bus (g : Nat) (k : BitVec 5) (m : Mach) :
    (countCorrected g k m).bus = m.bus := by rw [MemPath.corrected g k m]
@[simp] theorem countCorrected_outbox (g : Nat) (k : BitVec 5) (m : Mach) :
    (countCorrected g k m).outbox = m.outbox := by rw [MemPath.corrected g k m]
@[simp] theorem countCorrected_tick (g : Nat) (k : BitVec 5) (m : Mach) :
    (countCorrected g k m).tick = m.tick := by rw [MemPath.corrected g k m]
@[simp] theorem countCorrected_tiles (g : Nat) (k : BitVec 5) (m : Mach) :
    (countCorrected g k m).tiles = m.tiles := by rw [MemPath.corrected g k m]
@[simp] theorem countCorrected_engines (g : Nat) (k : BitVec 5) (m : Mach) :
    (countCorrected g k m).engines = m.engines := by rw [MemPath.corrected g k m]
@[simp] theorem countCorrected_ints (g : Nat) (k : BitVec 5) (m : Mach) :
    (countCorrected g k m).ints = m.ints := by rw [MemPath.corrected g k m]
@[simp] theorem countCorrected_supNotices (g : Nat) (k : BitVec 5) (m : Mach) :
    (countCorrected g k m).supNotices = m.supNotices := by rw [MemPath.corrected g k m]
@[simp] theorem countCorrected_supOverruns (g : Nat) (k : BitVec 5) (m : Mach) :
    (countCorrected g k m).supOverruns = m.supOverruns := by rw [MemPath.corrected g k m]
@[simp] theorem countCorrected_owner (g : Nat) (k : BitVec 5) (m : Mach) :
    (countCorrected g k m).owner = m.owner := by rw [MemPath.corrected g k m]
@[simp] theorem countCorrected_spans (g : Nat) (k : BitVec 5) (m : Mach) :
    (countCorrected g k m).spans = m.spans := by rw [MemPath.corrected g k m]
@[simp] theorem countCorrected_spanRuns (g : Nat) (k : BitVec 5) (m : Mach) :
    (countCorrected g k m).spanRuns = m.spanRuns := by rw [MemPath.corrected g k m]
@[simp] theorem countCorrected_marks (g : Nat) (k : BitVec 5) (m : Mach) :
    (countCorrected g k m).marks = m.marks := by rw [MemPath.corrected g k m]
@[simp] theorem countCorrected_mint (g : Nat) (k : BitVec 5) (m : Mach) :
    (countCorrected g k m).mint = m.mint := by rw [MemPath.corrected g k m]
@[simp] theorem countCorrected_dies (g : Nat) (k : BitVec 5) (m : Mach) :
    (countCorrected g k m).dies = m.dies := by rw [MemPath.corrected g k m]
@[simp] theorem countCorrected_chans (g : Nat) (k : BitVec 5) (m : Mach) :
    (countCorrected g k m).chans = m.chans := by rw [MemPath.corrected g k m]
@[simp] theorem countCorrected_host (g : Nat) (k : BitVec 5) (m : Mach) :
    (countCorrected g k m).host = m.host := by rw [MemPath.corrected g k m]
@[simp] theorem countCorrected_sec (g : Nat) (k : BitVec 5) (m : Mach) :
    (countCorrected g k m).sec = m.sec := by rw [MemPath.corrected g k m]
@[simp] theorem countCorrected_dbg (g : Nat) (k : BitVec 5) (m : Mach) :
    (countCorrected g k m).dbg = m.dbg := by rw [MemPath.corrected g k m]
@[simp] theorem countCorrected_pwr (g : Nat) (k : BitVec 5) (m : Mach) :
    (countCorrected g k m).pwr = m.pwr := by rw [MemPath.corrected g k m]
@[simp] theorem countCorrected_bkp (g : Nat) (k : BitVec 5) (m : Mach) :
    (countCorrected g k m).bkp = m.bkp := by rw [MemPath.corrected g k m]
@[simp] theorem countCorrected_yl (g : Nat) (k : BitVec 5) (m : Mach) :
    (countCorrected g k m).yl = m.yl := by rw [MemPath.corrected g k m]
@[simp] theorem countCorrected_mem (g : Nat) (k : BitVec 5) (m : Mach) :
    (countCorrected g k m).mem = m.mem := by
  unfold countCorrected
  dsimp only
  repeat' split
  all_goals simp
@[simp] theorem countCorrected_resv (g : Nat) (k : BitVec 5) (m : Mach) :
    (countCorrected g k m).resv = m.resv := by
  unfold countCorrected
  dsimp only
  repeat' split
  all_goals simp

/-! ### What `readGran` leaves -/

@[simp] theorem readGran_clk (w : Acc) (g : Nat) (m : Mach) :
    (readGran w g m).2.clk = m.clk := by rw [MemPath.read w g m]
@[simp] theorem readGran_free (w : Acc) (g : Nat) (m : Mach) :
    (readGran w g m).2.free = m.free := by rw [MemPath.read w g m]
@[simp] theorem readGran_bus (w : Acc) (g : Nat) (m : Mach) :
    (readGran w g m).2.bus = m.bus := by rw [MemPath.read w g m]
@[simp] theorem readGran_outbox (w : Acc) (g : Nat) (m : Mach) :
    (readGran w g m).2.outbox = m.outbox := by rw [MemPath.read w g m]
@[simp] theorem readGran_tick (w : Acc) (g : Nat) (m : Mach) :
    (readGran w g m).2.tick = m.tick := by rw [MemPath.read w g m]
@[simp] theorem readGran_tiles (w : Acc) (g : Nat) (m : Mach) :
    (readGran w g m).2.tiles = m.tiles := by rw [MemPath.read w g m]
@[simp] theorem readGran_engines (w : Acc) (g : Nat) (m : Mach) :
    (readGran w g m).2.engines = m.engines := by rw [MemPath.read w g m]
@[simp] theorem readGran_ints (w : Acc) (g : Nat) (m : Mach) :
    (readGran w g m).2.ints = m.ints := by rw [MemPath.read w g m]
@[simp] theorem readGran_supNotices (w : Acc) (g : Nat) (m : Mach) :
    (readGran w g m).2.supNotices = m.supNotices := by rw [MemPath.read w g m]
@[simp] theorem readGran_supOverruns (w : Acc) (g : Nat) (m : Mach) :
    (readGran w g m).2.supOverruns = m.supOverruns := by rw [MemPath.read w g m]
@[simp] theorem readGran_owner (w : Acc) (g : Nat) (m : Mach) :
    (readGran w g m).2.owner = m.owner := by rw [MemPath.read w g m]
@[simp] theorem readGran_spans (w : Acc) (g : Nat) (m : Mach) :
    (readGran w g m).2.spans = m.spans := by rw [MemPath.read w g m]
@[simp] theorem readGran_spanRuns (w : Acc) (g : Nat) (m : Mach) :
    (readGran w g m).2.spanRuns = m.spanRuns := by rw [MemPath.read w g m]
@[simp] theorem readGran_marks (w : Acc) (g : Nat) (m : Mach) :
    (readGran w g m).2.marks = m.marks := by rw [MemPath.read w g m]
@[simp] theorem readGran_mint (w : Acc) (g : Nat) (m : Mach) :
    (readGran w g m).2.mint = m.mint := by rw [MemPath.read w g m]
@[simp] theorem readGran_dies (w : Acc) (g : Nat) (m : Mach) :
    (readGran w g m).2.dies = m.dies := by rw [MemPath.read w g m]
@[simp] theorem readGran_chans (w : Acc) (g : Nat) (m : Mach) :
    (readGran w g m).2.chans = m.chans := by rw [MemPath.read w g m]
@[simp] theorem readGran_host (w : Acc) (g : Nat) (m : Mach) :
    (readGran w g m).2.host = m.host := by rw [MemPath.read w g m]
@[simp] theorem readGran_sec (w : Acc) (g : Nat) (m : Mach) :
    (readGran w g m).2.sec = m.sec := by rw [MemPath.read w g m]
@[simp] theorem readGran_dbg (w : Acc) (g : Nat) (m : Mach) :
    (readGran w g m).2.dbg = m.dbg := by rw [MemPath.read w g m]
@[simp] theorem readGran_pwr (w : Acc) (g : Nat) (m : Mach) :
    (readGran w g m).2.pwr = m.pwr := by rw [MemPath.read w g m]
@[simp] theorem readGran_bkp (w : Acc) (g : Nat) (m : Mach) :
    (readGran w g m).2.bkp = m.bkp := by rw [MemPath.read w g m]
@[simp] theorem readGran_yl (w : Acc) (g : Nat) (m : Mach) :
    (readGran w g m).2.yl = m.yl := by rw [MemPath.read w g m]
@[simp] theorem readGran_resv (w : Acc) (g : Nat) (m : Mach) :
    (readGran w g m).2.resv = m.resv := by
  unfold readGran
  dsimp only
  repeat' split
  all_goals simp

/-! ### What `writeGran` leaves -/

@[simp] theorem writeGran_clk (w : Acc) (g : Nat) (d : Gran) (k : BitVec 16) (t : Bool) (m : Mach) :
    (writeGran w g d k t m).clk = m.clk := by rw [MemPath.write w g d k t m]
@[simp] theorem writeGran_free (w : Acc) (g : Nat) (d : Gran) (k : BitVec 16) (t : Bool) (m : Mach) :
    (writeGran w g d k t m).free = m.free := by rw [MemPath.write w g d k t m]
@[simp] theorem writeGran_bus (w : Acc) (g : Nat) (d : Gran) (k : BitVec 16) (t : Bool) (m : Mach) :
    (writeGran w g d k t m).bus = m.bus := by rw [MemPath.write w g d k t m]
@[simp] theorem writeGran_outbox (w : Acc) (g : Nat) (d : Gran) (k : BitVec 16) (t : Bool) (m : Mach) :
    (writeGran w g d k t m).outbox = m.outbox := by rw [MemPath.write w g d k t m]
@[simp] theorem writeGran_tick (w : Acc) (g : Nat) (d : Gran) (k : BitVec 16) (t : Bool) (m : Mach) :
    (writeGran w g d k t m).tick = m.tick := by rw [MemPath.write w g d k t m]
@[simp] theorem writeGran_tiles (w : Acc) (g : Nat) (d : Gran) (k : BitVec 16) (t : Bool) (m : Mach) :
    (writeGran w g d k t m).tiles = m.tiles := by rw [MemPath.write w g d k t m]
@[simp] theorem writeGran_engines (w : Acc) (g : Nat) (d : Gran) (k : BitVec 16) (t : Bool) (m : Mach) :
    (writeGran w g d k t m).engines = m.engines := by rw [MemPath.write w g d k t m]
@[simp] theorem writeGran_ints (w : Acc) (g : Nat) (d : Gran) (k : BitVec 16) (t : Bool) (m : Mach) :
    (writeGran w g d k t m).ints = m.ints := by rw [MemPath.write w g d k t m]
@[simp] theorem writeGran_supNotices (w : Acc) (g : Nat) (d : Gran) (k : BitVec 16) (t : Bool) (m : Mach) :
    (writeGran w g d k t m).supNotices = m.supNotices := by rw [MemPath.write w g d k t m]
@[simp] theorem writeGran_supOverruns (w : Acc) (g : Nat) (d : Gran) (k : BitVec 16) (t : Bool) (m : Mach) :
    (writeGran w g d k t m).supOverruns = m.supOverruns := by rw [MemPath.write w g d k t m]
@[simp] theorem writeGran_owner (w : Acc) (g : Nat) (d : Gran) (k : BitVec 16) (t : Bool) (m : Mach) :
    (writeGran w g d k t m).owner = m.owner := by rw [MemPath.write w g d k t m]
@[simp] theorem writeGran_spans (w : Acc) (g : Nat) (d : Gran) (k : BitVec 16) (t : Bool) (m : Mach) :
    (writeGran w g d k t m).spans = m.spans := by rw [MemPath.write w g d k t m]
@[simp] theorem writeGran_spanRuns (w : Acc) (g : Nat) (d : Gran) (k : BitVec 16) (t : Bool) (m : Mach) :
    (writeGran w g d k t m).spanRuns = m.spanRuns := by rw [MemPath.write w g d k t m]
@[simp] theorem writeGran_marks (w : Acc) (g : Nat) (d : Gran) (k : BitVec 16) (t : Bool) (m : Mach) :
    (writeGran w g d k t m).marks = m.marks := by rw [MemPath.write w g d k t m]
@[simp] theorem writeGran_mint (w : Acc) (g : Nat) (d : Gran) (k : BitVec 16) (t : Bool) (m : Mach) :
    (writeGran w g d k t m).mint = m.mint := by rw [MemPath.write w g d k t m]
@[simp] theorem writeGran_dies (w : Acc) (g : Nat) (d : Gran) (k : BitVec 16) (t : Bool) (m : Mach) :
    (writeGran w g d k t m).dies = m.dies := by rw [MemPath.write w g d k t m]
@[simp] theorem writeGran_chans (w : Acc) (g : Nat) (d : Gran) (k : BitVec 16) (t : Bool) (m : Mach) :
    (writeGran w g d k t m).chans = m.chans := by rw [MemPath.write w g d k t m]
@[simp] theorem writeGran_host (w : Acc) (g : Nat) (d : Gran) (k : BitVec 16) (t : Bool) (m : Mach) :
    (writeGran w g d k t m).host = m.host := by rw [MemPath.write w g d k t m]
@[simp] theorem writeGran_sec (w : Acc) (g : Nat) (d : Gran) (k : BitVec 16) (t : Bool) (m : Mach) :
    (writeGran w g d k t m).sec = m.sec := by rw [MemPath.write w g d k t m]
@[simp] theorem writeGran_dbg (w : Acc) (g : Nat) (d : Gran) (k : BitVec 16) (t : Bool) (m : Mach) :
    (writeGran w g d k t m).dbg = m.dbg := by rw [MemPath.write w g d k t m]
@[simp] theorem writeGran_pwr (w : Acc) (g : Nat) (d : Gran) (k : BitVec 16) (t : Bool) (m : Mach) :
    (writeGran w g d k t m).pwr = m.pwr := by rw [MemPath.write w g d k t m]
@[simp] theorem writeGran_bkp (w : Acc) (g : Nat) (d : Gran) (k : BitVec 16) (t : Bool) (m : Mach) :
    (writeGran w g d k t m).bkp = m.bkp := by rw [MemPath.write w g d k t m]
@[simp] theorem writeGran_yl (w : Acc) (g : Nat) (d : Gran) (k : BitVec 16) (t : Bool) (m : Mach) :
    (writeGran w g d k t m).yl = m.yl := by rw [MemPath.write w g d k t m]

/-! ### What `logUndo` leaves -/

/-- `logUndo` touches of the module only what is named here. -/
theorem logUndo_eq (e : BitVec 7) (a : Addr) (pre : Mach) (m : Mach) :
    (logUndo e a pre m) = { m with
      engines := (logUndo e a pre m).engines } := by
  unfold logUndo; dsimp only; split <;> rfl
@[simp] theorem logUndo_clk (e : BitVec 7) (a : Addr) (pre : Mach) (m : Mach) :
    (logUndo e a pre m).clk = m.clk := by rw [logUndo_eq]
@[simp] theorem logUndo_free (e : BitVec 7) (a : Addr) (pre : Mach) (m : Mach) :
    (logUndo e a pre m).free = m.free := by rw [logUndo_eq]
@[simp] theorem logUndo_bus (e : BitVec 7) (a : Addr) (pre : Mach) (m : Mach) :
    (logUndo e a pre m).bus = m.bus := by rw [logUndo_eq]
@[simp] theorem logUndo_outbox (e : BitVec 7) (a : Addr) (pre : Mach) (m : Mach) :
    (logUndo e a pre m).outbox = m.outbox := by rw [logUndo_eq]
@[simp] theorem logUndo_tick (e : BitVec 7) (a : Addr) (pre : Mach) (m : Mach) :
    (logUndo e a pre m).tick = m.tick := by rw [logUndo_eq]
@[simp] theorem logUndo_mode (e : BitVec 7) (a : Addr) (pre : Mach) (m : Mach) :
    (logUndo e a pre m).mode = m.mode := by rw [logUndo_eq]
@[simp] theorem logUndo_tiles (e : BitVec 7) (a : Addr) (pre : Mach) (m : Mach) :
    (logUndo e a pre m).tiles = m.tiles := by rw [logUndo_eq]
@[simp] theorem logUndo_ints (e : BitVec 7) (a : Addr) (pre : Mach) (m : Mach) :
    (logUndo e a pre m).ints = m.ints := by rw [logUndo_eq]
@[simp] theorem logUndo_supNotices (e : BitVec 7) (a : Addr) (pre : Mach) (m : Mach) :
    (logUndo e a pre m).supNotices = m.supNotices := by rw [logUndo_eq]
@[simp] theorem logUndo_supOverruns (e : BitVec 7) (a : Addr) (pre : Mach) (m : Mach) :
    (logUndo e a pre m).supOverruns = m.supOverruns := by rw [logUndo_eq]
@[simp] theorem logUndo_resv (e : BitVec 7) (a : Addr) (pre : Mach) (m : Mach) :
    (logUndo e a pre m).resv = m.resv := by rw [logUndo_eq]
@[simp] theorem logUndo_owner (e : BitVec 7) (a : Addr) (pre : Mach) (m : Mach) :
    (logUndo e a pre m).owner = m.owner := by rw [logUndo_eq]
@[simp] theorem logUndo_spans (e : BitVec 7) (a : Addr) (pre : Mach) (m : Mach) :
    (logUndo e a pre m).spans = m.spans := by rw [logUndo_eq]
@[simp] theorem logUndo_spanRuns (e : BitVec 7) (a : Addr) (pre : Mach) (m : Mach) :
    (logUndo e a pre m).spanRuns = m.spanRuns := by rw [logUndo_eq]
@[simp] theorem logUndo_marks (e : BitVec 7) (a : Addr) (pre : Mach) (m : Mach) :
    (logUndo e a pre m).marks = m.marks := by rw [logUndo_eq]
@[simp] theorem logUndo_mint (e : BitVec 7) (a : Addr) (pre : Mach) (m : Mach) :
    (logUndo e a pre m).mint = m.mint := by rw [logUndo_eq]
@[simp] theorem logUndo_mem (e : BitVec 7) (a : Addr) (pre : Mach) (m : Mach) :
    (logUndo e a pre m).mem = m.mem := by rw [logUndo_eq]
@[simp] theorem logUndo_mc (e : BitVec 7) (a : Addr) (pre : Mach) (m : Mach) :
    (logUndo e a pre m).mc = m.mc := by rw [logUndo_eq]
@[simp] theorem logUndo_dies (e : BitVec 7) (a : Addr) (pre : Mach) (m : Mach) :
    (logUndo e a pre m).dies = m.dies := by rw [logUndo_eq]
@[simp] theorem logUndo_chans (e : BitVec 7) (a : Addr) (pre : Mach) (m : Mach) :
    (logUndo e a pre m).chans = m.chans := by rw [logUndo_eq]
@[simp] theorem logUndo_host (e : BitVec 7) (a : Addr) (pre : Mach) (m : Mach) :
    (logUndo e a pre m).host = m.host := by rw [logUndo_eq]
@[simp] theorem logUndo_sec (e : BitVec 7) (a : Addr) (pre : Mach) (m : Mach) :
    (logUndo e a pre m).sec = m.sec := by rw [logUndo_eq]
@[simp] theorem logUndo_faults (e : BitVec 7) (a : Addr) (pre : Mach) (m : Mach) :
    (logUndo e a pre m).faults = m.faults := by rw [logUndo_eq]
@[simp] theorem logUndo_watch (e : BitVec 7) (a : Addr) (pre : Mach) (m : Mach) :
    (logUndo e a pre m).watch = m.watch := by rw [logUndo_eq]
@[simp] theorem logUndo_dbg (e : BitVec 7) (a : Addr) (pre : Mach) (m : Mach) :
    (logUndo e a pre m).dbg = m.dbg := by rw [logUndo_eq]
@[simp] theorem logUndo_pwr (e : BitVec 7) (a : Addr) (pre : Mach) (m : Mach) :
    (logUndo e a pre m).pwr = m.pwr := by rw [logUndo_eq]
@[simp] theorem logUndo_bkp (e : BitVec 7) (a : Addr) (pre : Mach) (m : Mach) :
    (logUndo e a pre m).bkp = m.bkp := by rw [logUndo_eq]
@[simp] theorem logUndo_yl (e : BitVec 7) (a : Addr) (pre : Mach) (m : Mach) :
    (logUndo e a pre m).yl = m.yl := by rw [logUndo_eq]

/-! ### Writes of granules -/

/-- A WRITE OF A WHOLE GRANULE (R114, R239): the granule holds the data and the tag, with no error and no poison; a queued
write-back of it is dropped and reservations of other engines on it are cleared. -/
theorem writeGran_whole (w : Acc) (g : Nat) (d : Gran) (t : Bool) (m : Mach) :
    writeGran w g d 0xFFFF#16 t m = { m with
      mem := m.mem.putGran g d t false
      mc := { m.mc with writeBack := m.mc.writeBack.filter (· ≠ g) }
      resv := m.resv.filter fun x => !(granOf x.2 == g && (!w.replica || x.1 != w.eng)) } := by
  simp [writeGran]

/-- Reads keep memory canonical. -/
theorem wf_readGran (w : Acc) (g : Nat) (m : Mach) (h : m.mem.wf = true) : (readGran w g m).2.mem.wf = true := by
  unfold readGran
  repeat' split
  all_goals simp [h, wf_putGran]

/-- Writes keep memory canonical. -/
theorem wf_writeGran (w : Acc) (g : Nat) (d : Gran) (k : BitVec 16) (t : Bool) (m : Mach) (h : m.mem.wf = true) :
    (writeGran w g d k t m).mem.wf = true := by
  unfold writeGran
  simp only []
  split
  · exact wf_putGran _ _ _ _ _ h
  · split
    · exact wf_readGran _ _ _ h
    · exact wf_putGran _ _ _ _ _ (wf_readGran _ _ _ h)

/-- A granule that is read clean: its data and tag, and nothing changes (R238, R243). -/
theorem readGran_clean (w : Acc) (g : Nat) (m : Mach) (h : m.mem.err g = 0#152) :
    readGran w g m = (⟨m.mem.data g, m.mem.tag g, if m.mem.poison g then some 4#8 else none⟩, m) := by
  simp [readGran, decodeGran, h]

/-- A partial read changes no granule but, where it is poisoned anew, the one read. -/
theorem data_readGran_ne (w : Acc) (g g' : Nat) (m : Mach) (h : g' ≠ g) :
    (readGran w g m).2.mem.data g' = m.mem.data g' := by
  unfold readGran
  repeat' split
  all_goals simp [data_putGran, h]

/-- A write changes no other granule (R115). -/
theorem data_writeGran_ne (w : Acc) (g g' : Nat) (d : Gran) (k : BitVec 16) (t : Bool) (m : Mach) (h : g' ≠ g) :
    (writeGran w g d k t m).mem.data g' = m.mem.data g' := by
  unfold writeGran
  simp only []
  repeat' split
  all_goals simp [data_putGran, h, data_readGran_ne]

theorem tag_readGran_ne (w : Acc) (g g' : Nat) (m : Mach) (h : g' ≠ g) :
    (readGran w g m).2.mem.tag g' = m.mem.tag g' := by
  unfold readGran
  repeat' split
  all_goals simp [tag_putGran, h]

theorem tag_writeGran_ne (w : Acc) (g g' : Nat) (d : Gran) (k : BitVec 16) (t : Bool) (m : Mach) (h : g' ≠ g) :
    (writeGran w g d k t m).mem.tag g' = m.mem.tag g' := by
  unfold writeGran
  simp only []
  repeat' split
  all_goals simp [tag_putGran, h, tag_readGran_ne]

/-- Memory of reset is canonical. -/
theorem wf_reset : State.reset.m.mem.wf = true := rfl

end Sys2Proof.Machine
end

