-- ==== Sys2Proof/Laws/Fetch.lean ====
section
/-! SUPPORT. What filling the prefetch queues changes, and what issuing and accepting stores does to empty buffers. -/

namespace Sys2Proof.Machine

open Sys2Proof

/-! ### Filling the prefetch queues (R58, R61) -/

/-- The second module differs from the first in nothing but the prefetch queues, the line buffer of engine `e` and the order
of the lines in the instruction caches. -/
structure Refilled (e : BitVec 7) (m n : Mach) : Prop where
  rest : n = { m with tiles := n.tiles, engines := n.engines }
  engines : n.engines = m.engines.upd e fun g => { g with lineBuf := (n.engines.get e).lineBuf }
  tiles : ∀ t, n.tiles.get t = { m.tiles.get t with reps := (n.tiles.get t).reps, icache := (n.tiles.get t).icache }
  reps : ∀ t r, rep n t r = { rep m t r with prefetch := (rep n t r).prefetch }

theorem Refilled.self (e : BitVec 7) (m : Mach) : Refilled e m m :=
  ⟨rfl, (Tbl.upd_id _ _ _ rfl).symm, fun _ => rfl, fun _ _ => rfl⟩

theorem Tbl.upd_upd {k : Nat} {α : Type} (t : Tbl k α) (i : BitVec k) (f g : α → α) :
    (t.upd i f).upd i g = t.upd i fun x => g (f x) := by
  simp [Tbl.upd, Tbl.set, Tbl.get]

theorem Refilled.trans {e : BitVec 7} {m n p : Mach} (h : Refilled e m n) (h1 : Refilled e n p) : Refilled e m p := by
  refine ⟨?_, ?_, fun t => ?_, fun t r => ?_⟩
  · have hr := h.rest
    have h1r := h1.rest
    rw [h1r]; rw [hr]
  · have h1e := h1.engines
    rw [h1e]
    conv_lhs => rw [h.engines]
    rw [Tbl.upd_upd]
    refine Tbl.upd_congr _ _ _ _ ?_
    simp
  · have h1t := h1.tiles t
    rw [h1t]
    conv_lhs => rw [h.tiles t]
  · have h1t := h1.reps t r
    rw [h1t]
    conv_lhs => rw [h.reps t r]

theorem Refilled.lanesOf {e : BitVec 7} {m n : Mach} (h : Refilled e m n) (e' : BitVec 7) :
    Machine.lanesOf n e' = Machine.lanesOf m e' :=
  lanesOf_congr _ _ _ (by rw [h.tiles]) fun r => by rw [h.reps]; exact ⟨rfl, rfl⟩

theorem Refilled.liveCode {e : BitVec 7} {m n : Mach} (h : Refilled e m n) (e' : BitVec 7) :
    Machine.liveCode n e' = Machine.liveCode m e' := by
  unfold Machine.liveCode; rw [h.tiles]

/-- A replica of another tile, or of another engine, after a change of the lanes of one engine. -/
theorem rep_mapLanes_any (e : BitVec 7) (f : Replica → Replica) (m : Mach) (t : BitVec 5) (r : BitVec 2) :
    rep (mapLanes e f m) t r = if t = tileOf e ∧ r ∈ lanesOf m e then f (rep m t r) else rep m t r := by
  by_cases ht : t = tileOf e
  · subst ht; simp only [true_and]; exact rep_mapLanes e f m r
  · simp only [ht, false_and, if_false]
    unfold mapLanes
    generalize lanesOf m e = l
    induction l generalizing m with
    | nil => rfl
    | cons x l ih =>
      simp only [List.foldl_cons]
      rw [ih]
      simp [rep, Tbl.get_upd, ht]

/-- A change of the lanes leaves of each tile all but its replicas. -/
theorem tile_mapLanes (e : BitVec 7) (f : Replica → Replica) (m : Mach) (t : BitVec 5) :
    (mapLanes e f m).tiles.get t = { m.tiles.get t with reps := ((mapLanes e f m).tiles.get t).reps } := by
  unfold mapLanes
  generalize lanesOf m e = l
  induction l generalizing m with
  | nil => rfl
  | cons x l ih =>
    simp only [List.foldl_cons]
    have h1 := ih (modRep (tileOf e) x f m)
    rw [h1]
    by_cases ht : t = tileOf e
    · subst ht; simp
    · simp [Tbl.get_upd, ht]

theorem refilled_takeWords (e : BitVec 7) (b : List ICLine) (m : Mach) : Refilled e m (mapLanes e (takeWords b) m) := by
  have hw : ∀ r : Replica, takeWords b r = { r with prefetch := (takeWords b r).prefetch } := by
    intro r; unfold takeWords; split <;> rfl
  refine ⟨?_, ?_, fun t => ?_, fun t r => ?_⟩
  · rw [mapLanes_engines]; exact mapLanes_eq _ _ _
  · rw [mapLanes_engines]; exact (Tbl.upd_id _ _ _ rfl).symm
  · have := tile_mapLanes e (takeWords b) m t
    rw [this]
  · rw [rep_mapLanes_any]
    split
    · exact hw _
    · rfl

theorem refilled_bufferNext (e : BitVec 7) (m : Mach) : Refilled e m (bufferNext e m) := by
  unfold bufferNext
  dsimp only
  split
  · exact Refilled.self e m
  · split
    · exact Refilled.self e m
    · split
      · next x _ =>
        refine ⟨rfl, ?_, fun t => ?_, fun t r => ?_⟩
        · simp only [modEng_engines, modTile_engines]
          refine Tbl.upd_congr _ _ _ _ ?_
          simp
        · simp only [modEng_tiles, modTile_tiles, Tbl.get_upd]
          split
          · next h => subst h; rfl
          · rfl
        · simp only [rep, modEng_tiles, modTile_tiles, Tbl.get_upd]
          split
          · next h => subst h; rfl
          · rfl
      · exact Refilled.self e m

/-- FILLING THE PREFETCH QUEUES touches nothing else. -/
theorem refilled_fill (e : BitVec 7) (m : Mach) : Refilled e m (prefetchFill e m) := by
  unfold prefetchFill
  exact (((refilled_bufferNext e m).trans (refilled_takeWords e _ _)).trans (refilled_bufferNext e _)).trans
    (refilled_takeWords e _ _)

/-! ### Empty buffers -/

/-- Nothing is issued from empty buffers. -/
theorem issueAt_empty {m : Mach} {e : BitVec 7} (h : ∀ r ∈ lanesOf m e, (rep m (tileOf e) r).sb = []) (k : Nat) :
    issueAt e m k = (true, m) := by
  have : (((lanesOf m e).map fun r => (r, (rep m (tileOf e) r).sb[k]?)).all
      fun x => x.2.all fun y => y.issued.isSome) = true := by
    simp only [List.all_map, List.all_eq_true, Function.comp_apply]
    intro r hr; simp [h r hr]
  simp only [issueAt, this, if_true]

theorem issueSb_empty {m : Mach} {e : BitVec 7} (h : ∀ r ∈ lanesOf m e, (rep m (tileOf e) r).sb = []) :
    issueSb e m = (true, m) := by
  simp [issueSb, issueAt_empty h]

theorem oldest_empty {m : Mach} {e : BitVec 7} (h : ∀ r ∈ lanesOf m e, (rep m (tileOf e) r).sb = []) :
    oldest m e = none := by
  unfold oldest
  rw [List.findSome?_eq_none_iff]
  intro r hr; simp [h r hr]

/-- Buffers that are empty stay so. -/
theorem acceptOne_empty {m : Mach} {e : BitVec 7} (h : ∀ r ∈ lanesOf m e, (rep m (tileOf e) r).sb = []) :
    acceptOne e m = (true, m) := by
  simp [acceptOne, issueSb_empty h, acceptHead, oldest_empty h]

theorem acceptN_empty {m : Mach} {e : BitVec 7} (h : ∀ r ∈ lanesOf m e, (rep m (tileOf e) r).sb = []) (n : Nat) :
    acceptN e n m = (true, m) := by
  induction n with
  | zero => rfl
  | succ n ih => simp [acceptN, acceptOne_empty h, ih]

theorem drain_empty {m : Mach} {e : BitVec 7} (h : ∀ r ∈ lanesOf m e, (rep m (tileOf e) r).sb = []) :
    drain e m = (true, m) := acceptN_empty h 8

/-! ### The fence map's answer -/

/-- A check of the fence map touches the region caches alone (R263). -/
theorem fenceCheck_eq (p : Port) (i : FenceId) (a : Addr) (w : Bool) (m : Mach) :
    (fenceCheck p i a w m).2 = { m with tiles := (fenceCheck p i a w m).2.tiles, mc := (fenceCheck p i a w m).2.mc } ∧
    (∀ t, (fenceCheck p i a w m).2.tiles.get t
      = { m.tiles.get t with rcache := ((fenceCheck p i a w m).2.tiles.get t).rcache }) := by
  have hp : ∀ c, setPortCache p c m = { m with tiles := (setPortCache p c m).tiles, mc := (setPortCache p c m).mc } ∧
      ∀ t, (setPortCache p c m).tiles.get t = { m.tiles.get t with rcache := ((setPortCache p c m).tiles.get t).rcache } := by
    intro c
    cases p
    · refine ⟨rfl, fun t => ?_⟩
      simp only [setPortCache, modTile_tiles, Tbl.get_upd]
      split
      · next h => subst h; rfl
      · rfl
    all_goals exact ⟨rfl, fun _ => rfl⟩
  unfold fenceCheck
  dsimp only
  repeat' split
  all_goals first
    | exact hp _
    | exact ⟨rfl, fun _ => rfl⟩

theorem storePermitted_eq (t : BitVec 5) (y : SbEntry) (m : Mach) :
    (storePermitted t y m).2 = { m with
      tiles := (storePermitted t y m).2.tiles, mc := (storePermitted t y m).2.mc } ∧
    (∀ t', (storePermitted t y m).2.tiles.get t'
      = { m.tiles.get t' with rcache := ((storePermitted t y m).2.tiles.get t').rcache }) := by
  unfold storePermitted
  split
  · exact ⟨rfl, fun _ => rfl⟩
  · exact fenceCheck_eq _ _ _ _ _

end Sys2Proof.Machine
end

