-- ==== Sys2Proof/Laws/Instr.lean ====
section
/-! SUPPORT. What one instruction does on an engine that stands ready: the shared steps around its own effect fall away. -/

namespace Sys2Proof.Machine

open Sys2Proof

/-! ### The vote -/

/-- Copies that are all alike agree (R188). -/
theorem vote_const {κ : Type} [DecidableEq κ] (l : List (BitVec 2 × κ)) (k : κ) (h : ∀ x ∈ l, x.2 = k) :
    vote l = .agree := by
  match l with
  | [] => rfl
  | [_] => rfl
  | [(_, x), (_, y)] =>
    have hx : x = k := h (_, x) (.head _)
    have hy : y = k := h (_, y) (.tail _ (.head _))
    simp [vote, hx, hy]
  | (_, x) :: (_, y) :: (_, z) :: _ =>
    have hx : x = k := h (_, x) (.head _)
    have hy : y = k := h (_, y) (.tail _ (.head _))
    have hz : z = k := h (_, z) (.tail _ (.tail _ (.head _)))
    simp [vote, hx, hy, hz]

/-! ### An engine that stands ready -/

theorem Ready.canRun {m : Mach} {e : BitVec 7} {a : Arch} (h : Ready m e a) : canRun m e = true := by
  have := h.boundary
  simp only [atBoundary, Bool.and_eq_true] at this
  exact this.1

theorem Ready.act {m : Mach} {e : BitVec 7} {a : Arch} (h : Ready m e a) : (m.engines.get e).act = .run := by
  have := h.boundary
  simp only [atBoundary, Bool.and_eq_true, decide_eq_true_eq] at this
  exact this.2

theorem Ready.not_stopping {m : Mach} {e : BitVec 7} {a : Arch} (h : Ready m e a) : stopping m e = false := by
  simp [stopping, h.undebugged.1]

/-- The leading lane holds the engine's registers. -/
theorem Ready.leader {m : Mach} {e : BitVec 7} {a : Arch} (h : Ready m e a) :
    ∃ l, leader m e = some l ∧ l.arch = a := by
  unfold Machine.leader
  cases hl : lanesOf m e with
  | nil => exact absurd hl h.lanes
  | cons r l => exact ⟨_, rfl, (h.quiet r (by simp [hl])).1⟩

theorem settleLane_quiet {x : Replica} {a : Arch} (hq : x.quiet a) (hd : a.lop = 0#8 ∨ 1 < a.ldist.toNat) :
    settleLane x = x := by
  obtain ⟨ha, -, hl, hr⟩ := hq
  have hd' : ¬(x.arch.lop ≠ 0#8 ∧ x.arch.ldist.toNat ≤ 1) := by
    rw [ha]; rintro ⟨h1, h2⟩; rcases hd with h | h
    · exact h1 h
    · omega
  simp [settleLane, loadDue, hl, longDue, hd', hr]

/-- Nothing is due on an engine that stands ready. -/
theorem settle_ready {m : Mach} {e : BitVec 7} {a : Arch} (h : Ready m e a) : settle e m = m := by
  obtain ⟨l, hl, -⟩ := h.leader
  have hm : mapLanes e settleLane m = m :=
    mapLanes_id _ _ _ fun r hr => settleLane_quiet (h.quiet r hr) h.notDue
  have hr : (leader m e).any Replica.repEnd = false := by
    unfold Machine.leader at hl ⊢
    cases hL : lanesOf m e with
    | nil => rfl
    | cons r rest => simp [(h.quiet r (by simp [hL])).2.2.2]
  have hf : forcedOwed m e = false := by
    have := h.notForced
    simp only [forcedOwed, this.1, Bool.false_or, Bool.and_eq_false_iff, decide_eq_false_iff_not]
    right; omega
  simp [settle, settleLanes, h.act, hm, hr, hf]

theorem undebugged_overlaps {m : Mach} {e : BitVec 7} (h : undebugged m e) (k : BitVec 3) (a : Addr) (n : Nat) :
    ((m.dbg.engs.get e).ranges.get k).overlaps a n = false := by
  simp [DRange.overlaps, h.2.2.2 k]

theorem insHits_undebugged {m : Mach} {e : BitVec 7} (h : undebugged m e) : insHits e m = (false, m) := by
  unfold insHits
  split
  · rfl
  · simp only [h.2.2.1, Bool.false_eq_true, if_false]
    have hh : ∀ l : Arch, (range 0 4).filter (insRange m e l) = [] := by
      intro l; rw [List.filter_eq_nil_iff]; intro k _; simp [insRange, undebugged_overlaps h]
    simp [hh]

theorem dataHits_undebugged {m : Mach} {e : BitVec 7} (h : undebugged m e) (a : Arch) (l : List DAcc) :
    dataHits e a l m = m := by
  have hh : ∀ k, dataRange m e a l k = none := by
    intro k; simp [dataRange, undebugged_overlaps h]
  have hn : ∀ l' : List Nat, l'.filterMap (fun _ => (none : Option (Nat × Addr))) = [] := by
    intro l'; induction l' <;> simp_all
  simp [dataHits, hh, hn]

theorem Ready.empty {m : Mach} {e : BitVec 7} {a : Arch} (h : Ready m e a) :
    ∀ r ∈ lanesOf m e, (rep m (tileOf e) r).sb = [] := fun r hr => (h.quiet r hr).2.1

theorem Ready.ctx {m : Mach} {e : BitVec 7} {a : Arch} (h : Ready m e a) :
    ∀ r ∈ lanesOf m e, Ctx.of m e r = ⟨m, e, []⟩ := fun r hr => by simp [Ctx.of, h.empty r hr]

theorem sbLookup_nil (t : BitVec 5) (a : Addr) (n : Nat) (c : Bool) : sbLookup t a n c [] = .none := by
  simp [sbLookup, sbYoungest]

/-- Nothing that an instruction could wait for stands in an empty buffer. -/
theorem wait_ready {m : Mach} {e : BitVec 7} {a : Arch} (h : Ready m e a) (b : Before) : b.wait e m = (true, m) := by
  cases b with
  | nothing => rfl
  | empty => exact drain_empty h.empty
  | reads f =>
    cases hL : lanesOf m e with
    | nil => exact absurd hL h.lanes
    | cons r rest =>
      have hsb : (rep m (tileOf e) r).sb = [] := h.empty r (by simp [hL])
      have hw : ∀ x, waitCount m e x 16 true = 0 := by
        intro x; simp [waitCount, hL, laneHit, hsb, sbLookup_nil]
      have hk : ∀ l : List Addr, l.foldl (fun k a => max k (waitCount m e a 16 true)) 0 = 0 := by
        intro l; induction l with
        | nil => rfl
        | cons x l ih => simpa only [List.foldl_cons, hw, Nat.max_self] using ih
      simp [Before.wait, acceptOverlaps, hL, hk]

/-- The word at PCC was read without error. -/
theorem takeWordFault_ready {m : Mach} {e : BitVec 7} {a : Arch} (h : Ready m e a) : takeWordFault e m = (none, m) := by
  obtain ⟨l, hl, ha⟩ := h.leader
  simp [takeWordFault, hl, ha, h.word]

/-- The outcomes of lanes that are alike are resolved alike. -/
theorem resolve_ready {m : Mach} {e : BitVec 7} {a : Arch} (h : Ready m e a) (o : LaneOut) :
    resolve e ((lanesOf m e).map fun r => (r, o)) m
      = (some ((lanesOf m e).map fun r => (r, o.fx ⟨m, e, []⟩ a)), m) := by
  have hd := drain_empty h.empty
  have key : ((((lanesOf m e).map fun r => (r, o)).filter fun x => x.1 ∈ lanesOf m e).map fun x =>
      (x.1, x.2.fx (Ctx.of m e x.1) (rep m (tileOf e) x.1).arch)) = (lanesOf m e).map fun r => (r, o.fx ⟨m, e, []⟩ a) := by
    rw [List.filter_eq_self.mpr (by simp), List.map_map]
    refine List.map_congr_left fun r hr => ?_
    simp [(h.quiet r hr).1, h.ctx r hr]
  unfold resolve
  simp only [hd, ite_self, Bool.not_true, Bool.false_eq_true, if_false, key]

/-- Outcomes that are alike agree, when no lane's buffer answers a load otherwise than another's. -/
theorem voteFx_const {m : Mach} {e : BitVec 7} (hsb : ∀ r ∈ lanesOf m e, (rep m (tileOf e) r).sb = []) (f : Fx) :
    voteFx e ((lanesOf m e).map fun r => (r, f)) m = (some ((lanesOf m e).map fun r => (r, f)), m) := by
  cases hL : lanesOf m e with
  | nil => simp [voteFx, vote, react, hL]
  | cons r0 rest =>
    have hk : ∀ r ∈ lanesOf m e, fxKey m e r f = fxKey m e r0 f := by
      intro r hr
      have h0 := hsb r0 (by simp [hL])
      simp only [fxKey, hsb r hr, h0]
    rw [← hL]
    have hv : vote (((lanesOf m e).map fun r => (r, f)).map fun x => (x.1, fxKey m e x.1 x.2)) = .agree := by
      apply vote_const _ (fxKey m e r0 f)
      simp only [List.map_map, List.mem_map, Function.comp_apply]
      rintro x ⟨r, hr, rfl⟩
      exact hk r hr
    unfold voteFx
    simp only [hv, react, if_true]
    rw [List.filter_eq_self.mpr (by simp)]

theorem makeRoom_ready {m : Mach} {e : BitVec 7} {a : Arch} (h : Ready m e a) (f : Fx) :
    makeRoom e ((lanesOf m e).map fun r => (r, f)) m = (true, m) := by
  have : (((lanesOf m e).map fun r => (r, f)).any fun x =>
      decide (8 ≤ (rep m (tileOf e) x.1).sb.length) && x.2.stores.any fun q =>
        !merges (rep m (tileOf e) x.1).sb (alignG q.addr)) = false := by
    simp only [List.any_map, List.any_eq_false, Function.comp_apply]
    intro r hr; simp [h.empty r hr]
  simp only [makeRoom, this, Bool.false_eq_true, if_false]

/-- What one lane of a ready engine makes of an instruction. -/
theorem laneOut_ready {m : Mach} {e : BitVec 7} {a : Arch} (h : Ready m e a) (s : InstrSpec) (mode : BitVec 4)
    (opnd : BitVec 20) (sem : Ctx → Arch → Bool → LaneOut) (c : Ctx) (hd : decodeCheck s mode opnd a = none) :
    laneOut s mode opnd none sem c a = sem c (beginArch a) a.lpend := by
  simp [laneOut, instrCheck, h.fetch, hd]

/-- ONE INSTRUCTION on a ready engine: its outcome is alike on every lane, the vote agrees, and it is carried out. -/
theorem instr_out {m : Mach} {e : BitVec 7} {a : Arch} (h : Ready m e a) (s : InstrSpec) (mode : BitVec 4)
    (opnd : BitVec 20) (b : Before) (sem : Ctx → Arch → Bool → LaneOut) :
    instr s e mode opnd b sem m
      = pumped e (takeEffect e mode opnd
          ((lanesOf m e).map fun r => (r, (laneOut s mode opnd none sem ⟨m, e, []⟩ a).fx ⟨m, e, []⟩ a)) m) := by
  have hiter : stepIteration e m = false := by simp [stepIteration, h.undebugged.2.1]
  have houts : ((lanesOf m e).map fun r =>
        (r, laneOut s mode opnd none sem (Ctx.of m e r) (rep m (tileOf e) r).arch))
      = (lanesOf m e).map fun r => (r, laneOut s mode opnd none sem ⟨m, e, []⟩ a) :=
    List.map_congr_left fun r hr => by rw [h.ctx r hr, (h.quiet r hr).1]
  obtain ⟨l, hl, -⟩ := h.leader
  unfold instr
  simp only [h.canRun, h.not_stopping, hiter, settle_ready h, h.boundary, insHits_undebugged h.undebugged, Bool.not_true,
    Bool.or_self, Bool.false_eq_true, if_false, wait_ready h, takeWordFault_ready h, houts, resolve_ready h, makeRoom_ready h]
  rw [List.filter_eq_self.mpr (by simp), voteFx_const h.empty]
  cases hL : lanesOf m e with
  | nil => exact absurd hL h.lanes
  | cons r rest => simp [hl, dataHits_undebugged h.undebugged]

/-- One instruction that passes its decode checks, on a ready engine: every lane has the outcome of its meaning. -/
theorem instr_ready {m : Mach} {e : BitVec 7} {a : Arch} (h : Ready m e a) (s : InstrSpec) (mode : BitVec 4)
    (opnd : BitVec 20) (b : Before) (sem : Ctx → Arch → Bool → LaneOut) (hd : decodeCheck s mode opnd a = none) :
    instr s e mode opnd b sem m
      = pumped e (takeEffect e mode opnd
          ((lanesOf m e).map fun r => (r, (sem ⟨m, e, []⟩ (beginArch a) a.lpend).fx ⟨m, e, []⟩ a)) m) := by
  rw [instr_out h, laneOut_ready h _ _ _ _ _ hd]

/-- An instruction that fails a decode check ends in that exception on every lane (R87, R120). -/
theorem laneOut_bad {m : Mach} {e : BitVec 7} {a : Arch} (h : Ready m e a) (s : InstrSpec) (mode : BitVec 4)
    (opnd : BitVec 20) (sem : Ctx → Arch → Bool → LaneOut) (c : Ctx) (k : Exc) (hd : decodeCheck s mode opnd a = some k) :
    laneOut s mode opnd none sem c a = .exc k := by
  simp [laneOut, instrCheck, h.fetch, hd]

/-! ### The effects that leave the engine running -/

/-- An engine that goes on running has no slot to start. -/
theorem pumped_run {m : Mach} {e : BitVec 7} (h : (m.engines.get e).act ≠ .bisque) : pumped e m = m := by
  unfold pumped pumpFuel
  simp [pump, h]

/-- A lane that holds `a` outside a repeat body after an effect of a whole instruction. -/
theorem laneDone_quiet {x : Replica} {a : Arch} (hq : x.quiet a) (ho : inBody a = false) (tick : BitVec 64)
    (pos : BitVec 6) (f : Fx) (hp : f.part = false) :
    laneDone tick pos x f = { x with
      arch := if f.jump then f.arch else f.arch.advance
      ldue := if a.lpend && !f.settled then some a.lval else none
      prefetch := if f.jump then [] else x.prefetch.drop 1
      sb := f.stores.foldl (fun b q => sbPut b (q.entry a tick pos)) [] } := by
  obtain ⟨ha, hs, hl, hr⟩ := hq
  simp [laneDone, ha, ho, hs, hr, hp]

/-- The registers with which an effect leaves a lane. -/
def Fx.last (f : Fx) : Arch := if f.jump then f.arch else f.arch.advance

/-- What an effect makes due to A. -/
def Fx.due (f : Fx) (a : Arch) : Option W64 := if f.settled then none else a.due

/-- What an effect puts into empty buffers. -/
def Fx.buffer (f : Fx) (m : Mach) (e : BitVec 7) (a : Arch) : List SbEntry :=
  f.stores.foldl (fun b q => sbPut b (q.entry a m.tick.count (runPos m e))) []

theorem fx_last (b : Arch) : (fx b).last = b.advance := rfl
theorem fx_due (b a : Arch) : (fx b).due a = a.due := rfl
theorem fx_buffer (b : Arch) (m : Mach) (e : BitVec 7) (a : Arch) : (fx b).buffer m e a = [] := rfl
theorem fxJump_last (b : Arch) : (fxJump b).last = b := rfl
theorem fxJump_due (b a : Arch) : (fxJump b).due a = a.due := rfl
theorem fxJump_buffer (b : Arch) (m : Mach) (e : BitVec 7) (a : Arch) : (fxJump b).buffer m e a = [] := rfl

/-- The lanes of a ready engine after an effect. -/
theorem lanes_done {m : Mach} {e : BitVec 7} {a : Arch} (h : Ready m e a) (f : Fx) (hp : f.part = false) :
    ((lanesOf m e).map fun r => (r, f)).foldl
      (fun m' x => modRep (tileOf e) x.1 (fun r => laneDone m.tick.count (runPos m e) r x.2) m') m
      = m.lanesAfter e f.last (f.due a) f.jump (f.buffer m e a) := by
  rw [List.foldl_map]
  refine foldl_modRep_congr _ _ (fun _ r => laneDone m.tick.count (runPos m e) r f) (fun _ r => { r with
      arch := f.last
      ldue := f.due a
      prefetch := if f.jump then [] else r.prefetch.drop 1
      sb := f.buffer m e a })
    _ (lanesOf_nodup m e) fun r hr => ?_
  simp only [laneDone_quiet (h.quiet r hr) h.outside _ _ _ hp, Fx.last, Fx.due, Fx.buffer, Arch.due]
  cases f.settled <;> cases a.lpend <;> simp

@[simp] theorem lanesAfter_engines (m : Mach) (e : BitVec 7) (b : Arch) (d : Option W64) (j : Bool) (sb : List SbEntry) :
    (m.lanesAfter e b d j sb).engines = m.engines := by simp [Mach.lanesAfter]
@[simp] theorem lanesAfter_dbg (m : Mach) (e : BitVec 7) (b : Arch) (d : Option W64) (j : Bool) (sb : List SbEntry) :
    (m.lanesAfter e b d j sb).dbg = m.dbg := by simp [Mach.lanesAfter]

theorem lanesOf_lanesAfter (m : Mach) (e : BitVec 7) (b : Arch) (d : Option W64) (j : Bool) (sb : List SbEntry) :
    lanesOf (m.lanesAfter e b d j sb) e = lanesOf m e := lanesOf_mapLanes _ _ _ fun _ => ⟨rfl, rfl⟩

/-- A lane of the engine after an instruction. -/
theorem lanesAfter_lane (m : Mach) (e : BitVec 7) (b : Arch) (d : Option W64) (j : Bool) (sb : List SbEntry) (r : BitVec 2)
    (hr : r ∈ lanesOf m e) :
    rep (m.lanesAfter e b d j sb) (tileOf e) r = { rep m (tileOf e) r with
      arch := b, ldue := d, sb := sb
      prefetch := if j then [] else (rep m (tileOf e) r).prefetch.drop 1 } := by
  unfold Mach.lanesAfter
  rw [rep_mapLanes, if_pos hr]

/-- The module before the prefetch queues are filled. -/
def Mach.counted (m : Mach) (e : BitVec 7) (b : Arch) (due : Option W64) (jump : Bool) (sb : List SbEntry) : Mach :=
  modEng e (fun g => { g with
    fed := false, reread := false, cur := g.cur.map fun r => { r with count := r.count + 1 } })
    (m.lanesAfter e b due jump sb)

theorem retired_refilled (m : Mach) (e : BitVec 7) (b : Arch) (d : Option W64) (j : Bool) (sb : List SbEntry) :
    Refilled e (m.counted e b d j sb) (m.retired e b d j sb) := refilled_fill _ _

theorem lanesOf_retired (m : Mach) (e : BitVec 7) (b : Arch) (d : Option W64) (j : Bool) (sb : List SbEntry) :
    lanesOf (m.retired e b d j sb) e = lanesOf m e := by
  rw [(retired_refilled m e b d j sb).lanesOf]
  exact lanesOf_lanesAfter m e b d j sb

/-- A lane of the engine after an instruction. -/
theorem retired_lane (m : Mach) (e : BitVec 7) (b : Arch) (d : Option W64) (j : Bool) (sb : List SbEntry) (r : BitVec 2)
    (hr : r ∈ lanesOf m e) :
    rep (m.retired e b d j sb) (tileOf e) r = { rep m (tileOf e) r with
      arch := b, ldue := d, sb := sb
      prefetch := (rep (m.retired e b d j sb) (tileOf e) r).prefetch } := by
  conv_lhs => rw [(retired_refilled m e b d j sb).reps]
  have : rep (m.counted e b d j sb) (tileOf e) r = rep (m.lanesAfter e b d j sb) (tileOf e) r := rfl
  rw [this, lanesAfter_lane m e b d j sb r hr]

theorem act_retired {m : Mach} {e : BitVec 7} {a : Arch} (h : Ready m e a) (b : Arch) (d : Option W64) (j : Bool)
    (sb : List SbEntry) : ((m.retired e b d j sb).engines.get e).act = .run := by
  rw [(retired_refilled m e b d j sb).engines]
  simp [Mach.counted, h.act]

theorem countOne_counted (m : Mach) (e : BitVec 7) (b : Arch) (d : Option W64) (j : Bool) (sb : List SbEntry) :
    countOne e (modEng e (fun g => { g with fed := false, reread := false }) (m.lanesAfter e b d j sb))
      = m.counted e b d j sb := by
  simp only [Mach.counted, countOne, modEng, Tbl.upd_upd]

/-- An effect without transactions leaves the engine's lanes alike, and issues its stores. -/
theorem applyFx_ready {m : Mach} {e : BitVec 7} {a : Arch} (h : Ready m e a) (f : Fx) (ht : f.trans = [])
    (hp : f.part = false) (htrap : f.trap = false) :
    applyFx e ((lanesOf m e).map fun r => (r, f)) m
      = issueSb e (m.retired e f.last (f.due a) f.jump (f.buffer m e a)) := by
  have hfold := lanes_done h f hp
  cases hL : lanesOf m e with
  | nil => exact absurd hL h.lanes
  | cons r0 rest =>
    rw [hL] at hfold
    simp only [List.map_cons] at hfold
    have hstep : ∀ m' : Mach, m'.dbg = m.dbg → stepDone e m' = m' := by
      intro m' hd; simp [stepDone, hd, h.undebugged.2.1]
    simp only [applyFx, List.map_cons, ht, List.foldl_nil, htrap, Bool.false_eq_true, if_false, hfold]
    rw [hstep _ (by simp [countOne]), countOne_counted]
    rfl

/-- Nothing is issued after an instruction that stores nothing. -/
theorem issue_retired {m : Mach} {e : BitVec 7} (b : Arch) (d : Option W64) (j : Bool) :
    issueSb e (m.retired e b d j []) = (true, m.retired e b d j []) := by
  refine issueSb_empty fun r hr => ?_
  rw [lanesOf_retired] at hr
  rw [retired_lane _ _ _ _ _ _ _ hr]

/-- Entries that are alike on every lane are issued, which asks the fence map for them and changes nothing else (R125, R188). -/
theorem issueAt_alike {m : Mach} {e : BitVec 7} (l : List SbEntry)
    (h : ∀ r ∈ lanesOf m e, (rep m (tileOf e) r).sb = l) (k : Nat) :
    (issueAt e m k).1 = true ∧ (issueAt e m k).2.engines = m.engines ∧
    lanesOf (issueAt e m k).2 e = lanesOf m e ∧
    ∃ l', ∀ r ∈ lanesOf m e, (rep (issueAt e m k).2 (tileOf e) r).sb = l' := by
  have hself : ∃ l', ∀ r ∈ lanesOf m e, (rep m (tileOf e) r).sb = l' := ⟨l, h⟩
  have hmap : ((lanesOf m e).map fun r => (r, (rep m (tileOf e) r).sb[k]?)) = (lanesOf m e).map fun r => (r, l[k]?) :=
    List.map_congr_left fun r hr => by rw [h r hr]
  have hv : vote (((lanesOf m e).map fun r => (r, l[k]?)).map fun x => (x.1, x.2.map SbEntry.key)) = .agree := by
    apply vote_const _ (l[k]?.map SbEntry.key)
    simp only [List.map_map, List.mem_map, Function.comp_apply]
    rintro x ⟨r, -, rfl⟩; rfl
  unfold issueAt
  simp only [hmap, hv, react]
  split
  · exact ⟨rfl, rfl, rfl, hself⟩
  · simp only [Bool.not_true, Bool.false_eq_true, if_false]
    split
    · exact ⟨rfl, rfl, rfl, hself⟩
    · next y hy =>
      obtain ⟨h1, h2⟩ := storePermitted_eq (tileOf e) y m
      have hrep : ∀ r, rep (storePermitted (tileOf e) y m).2 (tileOf e) r = rep m (tileOf e) r := by
        intro r; simp only [rep]; rw [h2]
      have hl : lanesOf (storePermitted (tileOf e) y m).2 e = lanesOf m e :=
        lanesOf_congr _ _ _ (by rw [h2]) fun r => by rw [hrep]; exact ⟨rfl, rfl⟩
      generalize (storePermitted (tileOf e) y m).1 = ok at *
      generalize (storePermitted (tileOf e) y m).2 = n at *
      have hm : ∀ f : Replica → Replica, (∀ x, (f x).state = x.state ∧ (f x).lane = x.lane) →
          lanesOf (mapLanes e f n) e = lanesOf m e := fun f hf => (lanesOf_mapLanes e f n hf).trans hl
      have hn : n.engines = m.engines := by rw [h1]
      clear h1 h2
      dsimp only
      refine ⟨rfl, ?_, hm _ fun _ => ⟨rfl, rfl⟩, ?_⟩
      · rw [mapLanes_engines, hn]
      · refine ⟨l.modify k fun y' => { y' with issued := some ok }, fun r hr => ?_⟩
        rw [rep_mapLanes, hl, if_pos hr, hrep]
        simp only [h r hr]

theorem issueSb_alike {m : Mach} {e : BitVec 7} (l : List SbEntry)
    (h : ∀ r ∈ lanesOf m e, (rep m (tileOf e) r).sb = l) :
    (issueSb e m).1 = true ∧ (issueSb e m).2.engines = m.engines := by
  have key : ∀ (ks : List Nat) (m' : Mach), (∃ l', ∀ r ∈ lanesOf m' e, (rep m' (tileOf e) r).sb = l') →
      (ks.foldl (fun (p : Bool × Mach) k => if p.1 then issueAt e p.2 k else p) (true, m')).1 = true ∧
      (ks.foldl (fun (p : Bool × Mach) k => if p.1 then issueAt e p.2 k else p) (true, m')).2.engines = m'.engines := by
    intro ks
    induction ks with
    | nil => intro m' _; exact ⟨rfl, rfl⟩
    | cons k ks ih =>
      rintro m' ⟨l', h'⟩
      obtain ⟨h1, h2, h3, l2, h4⟩ := issueAt_alike l' h' k
      have hp : issueAt e m' k = (true, (issueAt e m' k).2) := by rw [← h1]
      simp only [List.foldl_cons, if_true]
      rw [hp]
      have := ih (issueAt e m' k).2 ⟨l2, by rw [h3]; exact h4⟩
      exact ⟨this.1, this.2.trans h2⟩
  exact key _ m ⟨l, h⟩

/-- AN INSTRUCTION WITHOUT TRANSACTIONS: every lane takes its new registers and stores; then the engine does what the
instruction asks of it. -/
theorem instr_event {m : Mach} {e : BitVec 7} {a : Arch} (h : Ready m e a) (s : InstrSpec) (mode : BitVec 4)
    (opnd : BitVec 20) (b : Before) (sem : Ctx → Arch → Bool → LaneOut) (f : Fx) (hd : decodeCheck s mode opnd a = none)
    (hs : sem ⟨m, e, []⟩ (beginArch a) a.lpend = .ok f) (ht : f.trans = []) (hp : f.part = false) (htrap : f.trap = false)
    (hev : (∀ op x, f.ev ≠ .load op x) ∧ (∀ k, f.ev ≠ .string k) ∧ (∀ x v, f.ev ≠ .sc x v) ∧ ∀ v, f.ev ≠ .chain v) :
    instr s e mode opnd b sem m
      = pumped e (engineEvent e f.ev
          (issueSb e (m.retired e f.last (f.due a) f.jump (f.buffer m e a))).2) := by
  have hal := issueSb_alike (m := m.retired e f.last (f.due a) f.jump (f.buffer m e a)) (e := e) (f.buffer m e a)
    (fun r hr => by rw [lanesOf_retired] at hr; rw [retired_lane _ _ _ _ _ _ _ hr])
  rw [instr_ready h s mode opnd b sem hd, hs]
  congr 1
  have hap := applyFx_ready h f ht hp htrap
  cases hL : lanesOf m e with
  | nil => exact absurd hL h.lanes
  | cons r0 rest =>
    rw [hL] at hap
    simp only [List.map_cons] at hap
    simp only [takeEffect, List.map_cons, LaneOut.fx]
    split
    · next hx => exact absurd hx (hev.1 _ _)
    · next hx => exact absurd hx (hev.2.1 _)
    · next hx => exact absurd hx (hev.2.2.1 _ _)
    · simp only [carryOutFx, hap, hal.1, Bool.not_true, Bool.false_eq_true, if_false]
      split
      · next hx => exact absurd hx (hev.2.2.2 _)
      · rfl

/-- AN INSTRUCTION ON REGISTERS AND THE STORE BUFFER. -/
theorem instr_plain {m : Mach} {e : BitVec 7} {a : Arch} (h : Ready m e a) (s : InstrSpec) (mode : BitVec 4)
    (opnd : BitVec 20) (b : Before) (sem : Ctx → Arch → Bool → LaneOut) (f : Fx) (hd : decodeCheck s mode opnd a = none)
    (hs : sem ⟨m, e, []⟩ (beginArch a) a.lpend = .ok f) (ht : f.trans = []) (hp : f.part = false) (htrap : f.trap = false)
    (hev : f.ev = .none) :
    instr s e mode opnd b sem m = (issueSb e (m.retired e f.last (f.due a) f.jump (f.buffer m e a))).2 := by
  have hal := issueSb_alike (m := m.retired e f.last (f.due a) f.jump (f.buffer m e a)) (e := e) (f.buffer m e a)
    (fun r hr => by rw [lanesOf_retired] at hr; rw [retired_lane _ _ _ _ _ _ _ hr])
  rw [instr_event h s mode opnd b sem f hd hs ht hp htrap (by simp [hev]), hev]
  simp only [engineEvent]
  rw [pumped_run]
  rw [hal.2, act_retired h]
  simp

/-- AN INSTRUCTION ON REGISTERS ALONE. -/
theorem instr_regs {m : Mach} {e : BitVec 7} {a b : Arch} (h : Ready m e a) (s : InstrSpec) (mode : BitVec 4)
    (opnd : BitVec 20) (w : Before) (sem : Ctx → Arch → Bool → LaneOut) (hd : decodeCheck s mode opnd a = none)
    (hs : sem ⟨m, e, []⟩ (beginArch a) a.lpend = .ok (fx b)) :
    instr s e mode opnd w sem m = m.retired e b.advance a.due false [] := by
  rw [instr_plain h s mode opnd w sem (fx b) hd hs rfl rfl rfl rfl]
  simp only [fx_buffer, fx_last, fx_due, issue_retired]
  simp only [fx]

/-- AN INSTRUCTION THAT MOVES PCC, on registers alone. -/
theorem instr_jump {m : Mach} {e : BitVec 7} {a b : Arch} (h : Ready m e a) (s : InstrSpec) (mode : BitVec 4)
    (opnd : BitVec 20) (w : Before) (sem : Ctx → Arch → Bool → LaneOut) (hd : decodeCheck s mode opnd a = none)
    (hs : sem ⟨m, e, []⟩ (beginArch a) a.lpend = .ok (fxJump b)) :
    instr s e mode opnd w sem m = m.retired e b a.due true [] := by
  rw [instr_plain h s mode opnd w sem (fxJump b) hd hs rfl rfl rfl rfl]
  simp only [fxJump_buffer, fxJump_last, fxJump_due, issue_retired]
  simp only [fxJump]

/-- AN INSTRUCTION THAT STORES: the store stands in every lane's buffer, and is issued. -/
theorem instr_store {m : Mach} {e : BitVec 7} {a b : Arch} (h : Ready m e a) (s : InstrSpec) (mode : BitVec 4)
    (opnd : BitVec 20) (w : Before) (sem : Ctx → Arch → Bool → LaneOut) (q : StReq) (hd : decodeCheck s mode opnd a = none)
    (hs : sem ⟨m, e, []⟩ (beginArch a) a.lpend = .ok { fx b with stores := [q] }) :
    instr s e mode opnd w sem m
      = (issueSb e (m.retired e b.advance a.due false [q.entry a m.tick.count (runPos m e)])).2 :=
  instr_plain h s mode opnd w sem { fx b with stores := [q] } hd hs rfl rfl rfl rfl

/-! ### Loads from the tile's own SRAM -/

/-- An engine that runs is told to run. -/
theorem Ready.modEng_run {m : Mach} {e : BitVec 7} {a : Arch} (h : Ready m e a) :
    modEng e (fun g => { g with act := .run }) m = m := by
  have hg : ∀ g : Engine, g.act = .run → { g with act := .run } = g := by
    intro g hg; cases g; simp_all
  unfold modEng
  rw [Tbl.upd_id _ _ _ (hg _ h.act)]

/-- The latest instruction of an engine that goes on running took its data from within the tile. -/
theorem feed_run {m : Mach} {e : BitVec 7} (h : (m.engines.get e).act = .run) : feed e m = m.fed e := by
  unfold feed Mach.fed modEng
  rw [Tbl.upd_congr]
  simp [h]

/-- A LOAD FROM THE TILE-LOCAL ALIAS whose granule is clean: the instruction completes with its data at once. -/
theorem instr_load {m : Mach} {e : BitVec 7} {a b : Arch} (h : Ready m e a) (s : InstrSpec) (mode : BitVec 4)
    (opnd : BitVec 20) (w : Before) (sem : Ctx → Arch → Bool → LaneOut) (op : LdOp) (x : Addr)
    (hd : decodeCheck s mode opnd a = none)
    (hs : sem ⟨m, e, []⟩ (beginArch a) a.lpend = .ok { fx (beginArch a) with ev := .load op x }) (hx : region x = .tileAlias)
    (hop : op ≠ .lr)
    (herr : m.mem.err (granOf (phys (tileOf e) x)) = 0#152) (hpois : m.mem.poison (granOf (phys (tileOf e) x)) = false)
    (hf : loadFinish op mode opnd x (m.mem.data (granOf (phys (tileOf e) x)))
        (m.mem.tag (granOf (phys (tileOf e) x)) && op.isCap) ⟨m, e, []⟩ (beginArch a) = .ok (fx b)) :
    instr s e mode opnd w sem m = (m.retired e b.advance a.due false []).fed e := by
  rw [instr_ready h s mode opnd w sem hd, hs]
  have hm := h.modEng_run
  have ha : loadAccess (engineWho m e) op.size op.isCap x 0#128 m
      = (.data (m.mem.data (granOf (phys (tileOf e) x))) (m.mem.tag (granOf (phys (tileOf e) x)) && op.isCap), m) := by
    obtain ⟨l, hl, -⟩ := h.leader
    simp [loadAccess, hx, engineWho, hl, readGran_clean _ _ _ herr, hpois]
  have hfin : finishLoad e op mode opnd x (fun _ => .data (m.mem.data (granOf (phys (tileOf e) x)))
      (m.mem.tag (granOf (phys (tileOf e) x)) && op.isCap)) m = m.retired e b.advance a.due false [] := by
    unfold finishLoad
    simp only [hm, hop, if_false]
    have houts : ((lanesOf m e).map fun r => (r, loadOut op mode opnd x (.data (m.mem.data (granOf (phys (tileOf e) x)))
          (m.mem.tag (granOf (phys (tileOf e) x)) && op.isCap)) (Ctx.of m e r) (rep m (tileOf e) r).arch))
        = (lanesOf m e).map fun r => (r, LaneOut.ok (fx b)) :=
      List.map_congr_left fun r hr => by rw [(h.quiet r hr).1, h.ctx r hr]; simp only [loadOut, hf]
    rw [houts, runOuts, resolve_ready h]
    simp only [LaneOut.fx, commitFx, voteFx_const h.empty]
    have hap := applyFx_ready h (fx b) rfl rfl rfl
    simp only [fx_buffer, fx_last, fx_due, issue_retired] at hap
    cases hL : lanesOf m e with
    | nil => exact absurd hL h.lanes
    | cons r0 rest =>
      rw [hL] at hap
      simp only [List.map_cons] at hap
      simp only [List.map_cons, carryOutFx, hap]
      rfl
  have hte : takeEffect e mode opnd ((lanesOf m e).map fun r =>
      (r, (LaneOut.ok { fx (beginArch a) with ev := .load op x }).fx ⟨m, e, []⟩ a)) m
      = (m.retired e b.advance a.due false []).fed e := by
    cases hL : lanesOf m e with
    | nil => exact absurd hL h.lanes
    | cons r0 rest =>
      have hsb : (rep m (tileOf e) r0).sb = [] := h.empty r0 (by simp [hL])
      have hw : waitCount m e x op.size op.isCap = 0 := by simp [waitCount, hL, laneHit, hsb, sbLookup_nil]
      have hfw : forwards m e x op.size op.isCap = false := by simp [forwards, hL, laneHit, hsb, sbLookup_nil]
      simp only [List.map_cons, takeEffect, LaneOut.fx, startLoad, hw, acceptN, h.boundary, Bool.not_true, Bool.or_self,
        Bool.false_eq_true, if_false, hfw, hx, if_true, ha, hfin]
      exact feed_run (act_retired h _ _ _ _)
  rw [hte, pumped_run]
  simp [Mach.fed, act_retired h]

end Sys2Proof.Machine
end

