-- ==== Sys2Proof/Laws/Values.lean ====
section
/-! SUPPORT. What an instruction with a value operand does on an engine that stands ready, once for every operation. -/

namespace Sys2Proof.Machine

open Sys2Proof

/-! ### The state in which an instruction runs -/

/-- The registers that an operand reads stand as the instruction finds them. -/
theorem immediate_beginArch (a : Arch) (mode : BitVec 4) (opnd : BitVec 20) :
    immediate (beginArch a) mode opnd = immediate a mode opnd := by
  unfold beginArch countDist
  split <;> rfl

theorem memOp_beginArch (a : Arch) (mode : BitVec 4) (opnd : BitVec 20) :
    memOp (beginArch a) mode opnd = memOp a mode opnd := by
  unfold beginArch countDist
  split <;> rfl

theorem comp_beginArch (a : Arch) : (beginArch a).comp = a.comp := by
  unfold beginArch countDist; split <;> rfl

theorem ring_beginArch (a : Arch) : (beginArch a).ring = a.ring := by
  unfold beginArch countDist; split <;> rfl

theorem checkOp_beginArch (c : Ctx) (a : Arch) (o : MemOp) (k : AccKind) :
    checkOp c (beginArch a) o k = checkOp c a o k := by
  simp only [checkOp, comp_beginArch, ring_beginArch]

/-- Operations whose effect on the registers is `valueEffect`. -/
def LdOp.plainValue : LdOp → Bool
  | .lr | .ldc _ | .pop | .popc _ | .ret => false
  | _ => true

/-- The decode checks of an instruction outside a repeat body that any ring may run. -/
theorem decodeCheck_outside (k : Cls) (n : Bool) (mode : BitVec 4) (opnd : BitVec 20) (a : Arch)
    (hc : classCheck k mode opnd = none) (ho : inBody a = false) :
    decodeCheck ⟨k, n, fun _ => none, 3⟩ mode opnd a = none := by
  have : ¬ 3 < a.ring.toNat := by have := a.ring.isLt; omega
  simp [decodeCheck, hc, ho, this]

/-- AN INSTRUCTION WITH A VALUE OPERAND on a ready engine: each lane takes the operation's result. -/
theorem instrV_ready {s : State} {e : BitVec 7} {a : Arch} (h : Ready s.m e a) (k : LdOp) (mode : BitVec 4) (opnd : BitVec 20)
    (n : Bool) (v : W64) (step : Arch → Arch) (hk : k.plainValue = true) (hc : classCheck .v mode opnd = none)
    (hv : valueIs s.m e a k mode opnd v step) :
    .next { s with m := instrV k e mode opnd n s.m }
      = takesOn s e a mode opnd (step (valueEffect k v (beginArch a))) := by
  have hd : decodeCheck ⟨.v, n, fun _ => none, 3⟩ mode opnd a = none := decodeCheck_outside _ _ _ _ _ hc h.outside
  unfold instrV instrE takesOn
  rcases hv with ⟨hi, rfl⟩ | ⟨hi, ⟨hck, hsh, hreg, herr, hpois⟩, rfl, rfl⟩
  · rw [instr_regs h _ _ _ _ _ hd (b := valueEffect k v (beginArch a)) (by simp [valueSem, immediate_beginArch, hi, toOut])]
    simp [hi, goesOn]
  · have hlr : k ≠ .lr := by rintro rfl; simp [LdOp.plainValue] at hk
    rw [instr_load h _ _ _ _ _ k (memOp a mode opnd).addr hd ?_ hreg hlr herr hpois
      (b := (memOp a mode opnd).applyStep (valueEffect k (fld (localData s.m e (memOp a mode opnd).addr) 0 64) (beginArch a))) ?_]
    · simp [hi, loadsOn]
    · simp [valueSem, immediate_beginArch, hi, loadSem, memOp_beginArch, checkOp_beginArch, hck, hsh, guardE, toOut, hlr]
    · cases k <;> first
        | (simp [LdOp.plainValue] at hk; done)
        | simp [loadFinish, memOp_beginArch, localData]

/-- An instruction on registers alone, on a ready engine. -/
theorem instrA_ready {m : Mach} {e : BitVec 7} {a : Arch} (h : Ready m e a) (s : InstrSpec) (mode : BitVec 4)
    (opnd : BitVec 20) (f : Arch → Arch) (hd : decodeCheck s mode opnd a = none) :
    instrA s e mode opnd f m = m.retired e (f (beginArch a)).advance a.due false [] :=
  instr_regs h s mode opnd _ _ hd rfl

end Sys2Proof.Machine
end

