-- ==== Sys2Proof/Laws/Trans.lean ====
section
/-! SUPPORT. Instructions that read and write granules of memory themselves: calls, gates, exceptions (R148, R156, R163,
R188). -/

namespace Sys2Proof.Machine

open Sys2Proof

/-- One write of the hardware of an instruction within its tile. -/
theorem doTrans_write (e : BitVec 7) (m : Mach) (x : Trans) (hk : x.kind.isLoad = false) (hr : region x.addr = .tileAlias)
    (hx : x.mask = 0xFFFF#16) :
    doTrans e m x = { m with
      mem := m.mem.putGran (granOf (phys (tileOf e) x.addr)) x.data x.tag false
      engines := (doTrans e m x).engines
      mc := (doTrans e m x).mc
      resv := (doTrans e m x).resv } := by
  simp only [doTrans, hk, hr, hx, writeGran_whole, if_true, Bool.false_eq_true, if_false]
  simp only [logUndo]
  split <;> rfl

/-- A read of the hardware of an instruction within its tile changes nothing when the granule is clean. -/
theorem doTrans_read (e : BitVec 7) (m : Mach) (x : Trans) (hk : x.kind.isLoad = true) (hr : region x.addr = .tileAlias)
    (hc : m.mem.err (granOf (phys (tileOf e) x.addr)) = 0#152) : doTrans e m x = m := by
  simp only [doTrans, hk, hr, if_true, readGran_clean _ _ _ hc]

theorem foldl_doTrans_read (e : BitVec 7) (l : List Trans) (m : Mach)
    (hl : ∀ x ∈ l, x.kind.isLoad = true ∧ region x.addr = .tileAlias ∧
      m.mem.err (granOf (phys (tileOf e) x.addr)) = 0#152) : l.foldl (doTrans e) m = m := by
  induction l with
  | nil => rfl
  | cons x l ih =>
    obtain ⟨h1, h2, h3⟩ := hl x (by simp)
    simp only [List.foldl_cons, doTrans_read e m x h1 h2 h3]
    exact ih fun y hy => hl y (by simp [hy])

/-- A write of an instruction's hardware within its tile. -/
def Trans.localWrite (x : Trans) : Prop := x.kind.isLoad = false ∧ region x.addr = .tileAlias ∧ x.mask = 0xFFFF#16

/-- The writes of an instruction, one after another. -/
theorem foldl_doTrans (e : BitVec 7) (l : List Trans) (m : Mach) (hl : ∀ x ∈ l, x.localWrite) :
    l.foldl (doTrans e) m = { m with
      mem := l.foldl (fun mem x => mem.putGran (granOf (phys (tileOf e) x.addr)) x.data x.tag false) m.mem
      engines := (l.foldl (doTrans e) m).engines
      mc := (l.foldl (doTrans e) m).mc
      resv := (l.foldl (doTrans e) m).resv } := by
  induction l generalizing m with
  | nil => rfl
  | cons x l ih =>
    obtain ⟨h1, h2, h3⟩ := hl x (by simp)
    simp only [List.foldl_cons]
    rw [ih _ fun y hy => hl y (by simp [hy])]
    rw [doTrans_write e m x h1 h2 h3]

/-- The writes of an instruction touch of its engine the undo log alone. -/
theorem foldl_doTrans_engine (e : BitVec 7) (l : List Trans) (m : Mach) (hl : ∀ x ∈ l, x.localWrite) :
    ((l.foldl (doTrans e) m).engines.get e)
      = { m.engines.get e with undo := ((l.foldl (doTrans e) m).engines.get e).undo } ∧
    ((l.foldl (doTrans e) m).engines.get e).undo.length ≤ (m.engines.get e).undo.length + l.length := by
  induction l generalizing m with
  | nil => exact ⟨rfl, by simp⟩
  | cons x l ih =>
    simp only [List.foldl_cons, List.length_cons]
    obtain ⟨g1, g2, g3⟩ := hl x (by simp)
    obtain ⟨h1, h2⟩ := ih (doTrans e m x) fun y hy => hl y (by simp [hy])
    have hx : (doTrans e m x).engines.get e
        = { m.engines.get e with undo := ((doTrans e m x).engines.get e).undo } ∧
        ((doTrans e m x).engines.get e).undo.length ≤ (m.engines.get e).undo.length + 1 := by
      simp only [doTrans, g1, g2, if_true, Bool.false_eq_true, if_false, logUndo]
      split
      · simp
      · simp
    constructor
    · rw [h1, hx.1]
    · omega

/-- Memory after writes of whole granules. -/
def afterWrites (t : BitVec 5) (l : List Trans) (mem : Memory) : Memory :=
  l.foldl (fun mem x => mem.putGran (granOf (phys t x.addr)) x.data x.tag false) mem

/-- The module before the prefetch queues are filled, after an instruction that traps: its lanes changed, its hardware's
writes done. -/
def Mach.trapped (m : Mach) (e : BitVec 7) (f : Fx) (a : Arch) (l : List Trans) : Mach :=
  let n := l.foldl (doTrans e) (modEng e (fun g => { g with fed := false, reread := false })
    (m.lanesAfter e f.last (f.due a) f.jump []))
  { n with free := n.free + 1 }

theorem trapped_eq (m : Mach) (e : BitVec 7) (f : Fx) (a : Arch) (l : List Trans) (hl : ∀ x ∈ l, x.localWrite) :
    m.trapped e f a l = { m with
      tiles := (m.trapped e f a l).tiles, engines := (m.trapped e f a l).engines, mc := (m.trapped e f a l).mc
      resv := (m.trapped e f a l).resv, mem := afterWrites (tileOf e) l m.mem, free := m.free + 1 } ∧
    (m.trapped e f a l).tiles = (m.lanesAfter e f.last (f.due a) f.jump []).tiles ∧
    (m.trapped e f a l).engines.get e = { m.engines.get e with
      undo := ((m.trapped e f a l).engines.get e).undo, fed := false, reread := false } ∧
    ((m.trapped e f a l).engines.get e).undo.length ≤ (m.engines.get e).undo.length + l.length := by
  have hla : m.lanesAfter e f.last (f.due a) f.jump [] = { m with tiles := (m.lanesAfter e f.last (f.due a) f.jump []).tiles } :=
    mapLanes_eq _ _ _
  unfold Mach.trapped
  dsimp only
  generalize m.lanesAfter e f.last (f.due a) f.jump [] = y at *
  have hfd := foldl_doTrans e l (modEng e (fun g => { g with fed := false, reread := false }) y) hl
  obtain ⟨h1, h2⟩ := foldl_doTrans_engine e l (modEng e (fun g => { g with fed := false, reread := false }) y) hl
  have he : y.engines = m.engines := by rw [hla]
  refine ⟨?_, ?_, ?_, ?_⟩
  · clear h1 h2 he
    generalize List.foldl (doTrans e) _ l = n at *
    cases n; cases y; cases m
    simp only [Mach.mk.injEq, modEng] at hfd hla
    simp only [Mach.mk.injEq, afterWrites]
    simp_all
  · rw [hfd]; rfl
  · rw [h1]; simp [he]
  · simpa [he] using h2

/-- A TRAP THAT READS AND WRITES GRANULES OF ITS TILE, its outcome alike on every lane: the lanes take its registers, memory
takes its writes, and only the engine's record, the caches and queues of the fetch, the queue of write-backs, the reservations
and the count of free values change besides. -/
theorem instr_trap {m : Mach} {e : BitVec 7} {a : Arch} (h : Ready m e a) (s : InstrSpec) (mode : BitVec 4)
    (opnd : BitVec 20) (b : Before) (sem : Ctx → Arch → Bool → LaneOut) (f : Fx) (reads writes : List Trans)
    (hs : (laneOut s mode opnd none sem ⟨m, e, []⟩ a).fx ⟨m, e, []⟩ a = f) (hev : f.ev = .none) (hst : f.stores = [])
    (hp : f.part = false) (htrap : f.trap = true) (ht : f.trans = reads ++ writes)
    (hr : ∀ x ∈ reads, x.kind.isLoad = true ∧ region x.addr = .tileAlias ∧
      m.mem.err (granOf (phys (tileOf e) x.addr)) = 0#152)
    (hw : ∀ x ∈ writes, x.localWrite) :
    instr s e mode opnd b sem m = prefetchFill e (m.trapped e f a writes) := by
  have hb : f.buffer m e a = [] := by simp [Fx.buffer, hst]
  have hfold := lanes_done h f hp
  rw [hb] at hfold
  have hlanes : ∀ n, Refilled e (m.trapped e f a writes) n → lanesOf n e = lanesOf m e ∧
      (∀ r ∈ lanesOf m e, (rep n (tileOf e) r).sb = []) ∧ (n.engines.get e).act = .run := by
    intro n hn
    have hwr := foldl_doTrans e writes (modEng e (fun g => { g with fed := false, reread := false })
      (m.lanesAfter e f.last (f.due a) f.jump [])) hw
    have htl : (m.trapped e f a writes).tiles = (m.lanesAfter e f.last (f.due a) f.jump []).tiles := by
      unfold Mach.trapped; dsimp only; rw [hwr]; rfl
    have hln : lanesOf (m.trapped e f a writes) e = lanesOf m e := by
      rw [← lanesOf_lanesAfter m e f.last (f.due a) f.jump []]
      simp only [lanesOf, htl]
    refine ⟨by rw [hn.lanesOf, hln], fun r hr => ?_, ?_⟩
    · rw [hn.reps]
      have : rep (m.trapped e f a writes) (tileOf e) r = rep (m.lanesAfter e f.last (f.due a) f.jump []) (tileOf e) r := by
        simp only [rep, htl]
      simp only [this, lanesAfter_lane m e _ _ _ _ r hr]
    · rw [hn.engines]
      have := (foldl_doTrans_engine e writes (modEng e (fun g => { g with fed := false, reread := false })
        (m.lanesAfter e f.last (f.due a) f.jump [])) hw).1
      simp only [Tbl.get_upd_same, Mach.trapped]
      rw [this]
      simp [h.act]
  have hfill := refilled_fill e (m.trapped e f a writes)
  obtain ⟨g1, g2, g3⟩ := hlanes _ hfill
  have happ : applyFx e ((lanesOf m e).map fun r => (r, f)) m = (true, prefetchFill e (m.trapped e f a writes)) := by
    cases hL : lanesOf m e with
    | nil => exact absurd hL h.lanes
    | cons r0 rest =>
      rw [hL] at hfold
      simp only [List.map_cons] at hfold
      have hread : reads.foldl (doTrans e) (modEng e (fun g => { g with fed := false, reread := false })
          (m.lanesAfter e f.last (f.due a) f.jump [])) = modEng e (fun g => { g with fed := false, reread := false })
          (m.lanesAfter e f.last (f.due a) f.jump []) := by
        refine foldl_doTrans_read _ _ _ fun x hx => ?_
        simpa [Mach.lanesAfter] using hr x hx
      simp only [applyFx, List.map_cons, ht, List.foldl_append, htrap, if_true, hfold, hread]
      show issueSb e (prefetchFill e (m.trapped e f a writes)) = _
      exact issueSb_empty fun r hr => g2 r (by rw [g1] at hr; exact hr)
  rw [instr_out h, hs]
  have hte : takeEffect e mode opnd ((lanesOf m e).map fun r => (r, f)) m = prefetchFill e (m.trapped e f a writes) := by
    cases hL : lanesOf m e with
    | nil => exact absurd hL h.lanes
    | cons r0 rest =>
      rw [hL] at happ
      simp only [List.map_cons] at happ
      simp only [List.map_cons, takeEffect, hev, carryOutFx, happ, Bool.not_true, Bool.false_eq_true, if_false, engineEvent]
  rw [hte, pumped_run]
  rw [g3]; simp

/-! ### The task-state block (R162, R163) -/

/-- The tile's SRAM stands at its global window (R235). -/
theorem phys_alias (t : BitVec 5) (x : Addr) (h : region x = .tileAlias) :
    (phys t x).toNat = 0x2000_0000 + t.toNat * 2 ^ 18 + x.toNat % 2 ^ 18 := by
  have ht := t.isLt
  have hand : (x &&& 0x3_FFFF#36).toNat = x.toNat % 2 ^ 18 := by
    rw [BitVec.toNat_and]; exact Nat.and_two_pow_sub_one_eq_mod x.toNat 18
  have hput : (put 36 t 18).toNat = t.toNat * 2 ^ 18 := by
    simp only [put, BitVec.toNat_shiftLeft, BitVec.toNat_setWidth, Nat.shiftLeft_eq]
    omega
  simp only [phys, h, BitVec.toNat_add, hand, hput, BitVec.toNat_ofNat]
  omega

theorem region_alias (x : Addr) : region x = .tileAlias ↔ 0x1000_0000 ≤ x.toNat ∧ x.toNat < 0x1004_0000 := by
  unfold region
  simp only []
  constructor
  · intro h; revert h; repeat' split
    all_goals simp
    all_goals omega
  · rintro ⟨h1, h2⟩
    have h3 : ¬ x.toNat < 65536 := by omega
    simp [h1, h2, h3]

/-- The granules of a block stand one after another in the tile's SRAM. -/
theorem tsb_granule (t : BitVec 5) (x : Addr) (h : tsbrOk x = true) (i : Nat) (hi : i < 16) :
    granOf (phys t (x + BitVec.ofNat 36 (16 * i))) = granOf (phys t x) + i := by
  have hx : x.toNat % 256 = 0 ∧ 0x1000_0000 ≤ x.toNat ∧ x.toNat + 256 ≤ 0x1004_0000 := by
    simp only [tsbrOk, Bool.and_eq_true, decide_eq_true_eq, Bool.or_eq_true] at h
    omega
  have hn : (x + BitVec.ofNat 36 (16 * i)).toNat = x.toNat + 16 * i := by
    simp only [BitVec.toNat_add, BitVec.toNat_ofNat]; omega
  have h1 : region x = .tileAlias := (region_alias x).mpr (by omega)
  have h2 : region (x + BitVec.ofNat 36 (16 * i)) = .tileAlias := (region_alias _).mpr (by omega)
  simp only [granOf, phys_alias _ _ h1, phys_alias _ _ h2, hn]
  omega

/-- What consecutive 16-byte writes leave in a granule. -/
theorem granWrites_at (k : TransKind) (a : Arch) (t : BitVec 5) (l : List (Gran × Bool)) (x : Addr) (g : Nat) (mem : Memory)
    (hg : ∀ i < l.length, granOf (phys t (x + BitVec.ofNat 36 (16 * i))) = g + i) (j : Nat) :
    (afterWrites t (granWrites k a x l) mem).data j
        = (if g ≤ j ∧ j < g + l.length then (l.getD (j - g) (0, false)).1 else mem.data j) ∧
    (afterWrites t (granWrites k a x l) mem).tag j
        = (if g ≤ j ∧ j < g + l.length then (l.getD (j - g) (0, false)).2 else mem.tag j) := by
  induction l generalizing x g mem with
  | nil =>
    have h : ¬(g ≤ j ∧ j < g + 0) := by omega
    simp only [granWrites, afterWrites, List.foldl_nil, List.length_nil, h, if_false, and_self]
  | cons p l ih =>
    obtain ⟨d, b⟩ := p
    have h0 : granOf (phys t x) = g := by simpa using hg 0 (by simp)
    have hg' : ∀ i < l.length, granOf (phys t (x + 16#36 + BitVec.ofNat 36 (16 * i))) = (g + 1) + i := by
      intro i hi
      have := hg (i + 1) (by simpa using hi)
      rw [show x + 16#36 + BitVec.ofNat 36 (16 * i) = x + BitVec.ofNat 36 (16 * (i + 1)) by
        rw [BitVec.add_assoc, Nat.mul_succ, Nat.add_comm, BitVec.ofNat_add], this]
      omega
    have := ih (x + 16#36) (g + 1) (mem.putGran g d b false) hg'
    simp only [granWrites, afterWrites, List.foldl_cons, trans16, h0] at this ⊢
    rw [this.1, this.2]
    simp only [data_putGran, tag_putGran, List.length_cons]
    by_cases h1 : g + 1 ≤ j ∧ j < g + 1 + l.length
    · have h2 : g ≤ j ∧ j < g + (l.length + 1) := by omega
      have h3 : j - g = (j - (g + 1)) + 1 := by omega
      simp [h1, h2, h3]
    · by_cases h2 : j = g
      · subst h2
        have h3 : j ≤ j ∧ j < j + (l.length + 1) := by omega
        simp only [h1, h3, if_true, if_false, Nat.sub_self]
        simp
      · have h3 : ¬(g ≤ j ∧ j < g + (l.length + 1)) := by omega
        simp only [h1, h2, h3, if_false, and_self]

/-- Granules written whole read clean, the others as before. -/
theorem granWrites_clean (k : TransKind) (a : Arch) (t : BitVec 5) (l : List (Gran × Bool)) (x : Addr) (g : Nat)
    (mem : Memory) (hg : ∀ i < l.length, granOf (phys t (x + BitVec.ofNat 36 (16 * i))) = g + i) (j : Nat) :
    (afterWrites t (granWrites k a x l) mem).err j = (if g ≤ j ∧ j < g + l.length then 0#152 else mem.err j) ∧
    (afterWrites t (granWrites k a x l) mem).poison j = (if g ≤ j ∧ j < g + l.length then false else mem.poison j) := by
  induction l generalizing x g mem with
  | nil =>
    have h : ¬(g ≤ j ∧ j < g + 0) := by omega
    simp only [granWrites, afterWrites, List.foldl_nil, List.length_nil, h, if_false, and_self]
  | cons p l ih =>
    obtain ⟨d, b⟩ := p
    have h0 : granOf (phys t x) = g := by simpa using hg 0 (by simp)
    have hg' : ∀ i < l.length, granOf (phys t (x + 16#36 + BitVec.ofNat 36 (16 * i))) = (g + 1) + i := by
      intro i hi
      have := hg (i + 1) (by simpa using hi)
      rw [show x + 16#36 + BitVec.ofNat 36 (16 * i) = x + BitVec.ofNat 36 (16 * (i + 1)) by
        rw [BitVec.add_assoc, Nat.mul_succ, Nat.add_comm, BitVec.ofNat_add], this]
      omega
    have := ih (x + 16#36) (g + 1) (mem.putGran g d b false) hg'
    simp only [granWrites, afterWrites, List.foldl_cons, trans16, h0] at this ⊢
    rw [this.1, this.2]
    simp only [err_putGran, poison_putGran, List.length_cons]
    by_cases h1 : g + 1 ≤ j ∧ j < g + 1 + l.length
    · have h2 : g ≤ j ∧ j < g + (l.length + 1) := by omega
      simp [h1, h2]
    · by_cases h2 : j = g
      · subst h2
        have h3 : j ≤ j ∧ j < j + (l.length + 1) := by omega
        simp only [h1, h3, if_true, if_false, and_self]
      · have h3 : ¬(g ≤ j ∧ j < g + (l.length + 1)) := by omega
        simp only [h1, h2, h3, if_false, and_self]

/-! ### Taking an exception (R166, R167) -/

theorem region_tsb (x : Addr) (h : tsbrOk x = true) (i : Nat) (hi : i < 16) :
    region (x + BitVec.ofNat 36 (16 * i)) = .tileAlias := by
  have hx : x.toNat % 256 = 0 ∧ 0x1000_0000 ≤ x.toNat ∧ x.toNat + 256 ≤ 0x1004_0000 := by
    simp only [tsbrOk, Bool.and_eq_true, decide_eq_true_eq, Bool.or_eq_true] at h
    omega
  have hn : (x + BitVec.ofNat 36 (16 * i)).toNat = x.toNat + 16 * i := by
    simp only [BitVec.toNat_add, BitVec.toNat_ofNat]; omega
  exact (region_alias _).mpr (by omega)

/-- An entry through a block whose ESTACK holds a capability that reads clean. -/
theorem enterThrough_ok {m : Mach} {e : BitVec 7} (a : Arch) (i : EntryInfo) (tsb : Addr) (htsb : tsbrOk tsb = true)
    (hclean : readsClean m (granOf (phys (tileOf e) tsb) + 15))
    (htag : m.mem.tag (granOf (phys (tileOf e) tsb) + 15) = true) :
    enterThrough ⟨m, e, []⟩ a i tsb false = some { fxJump (handlerState a i tsb
        (Cap.norm ⟨m.mem.data (granOf (phys (tileOf e) tsb) + 15), true⟩) false) with
      settled := true, trap := true
      trans := [load16 (tsb + 0xF0#36) a] ++
        granWrites .taskState a tsb (tsbGranules (idleLatches m.free a) i m.tick.count) } := by
  have hg := tsb_granule (tileOf e) tsb htsb 15 (by omega)
  have hg' : granOf (phys (tileOf e) (tsb + 0xF0#36)) = granOf (phys (tileOf e) tsb) + 15 := hg
  simp [enterThrough, Ctx.read, Ctx.readMem, sbLookup_nil, Ctx.tile, hg', readGran_clean _ _ _ hclean.1, hclean.2, htag,
    htsb, GranRead.toCap]

/-- The writes of an entry are whole granules of the block. -/
theorem granWrites_local (a : Arch) (x : Addr) (l : List (Gran × Bool))
    (hx : ∀ i < l.length, region (x + BitVec.ofNat 36 (16 * i)) = .tileAlias) :
    ∀ y ∈ granWrites .taskState a x l, y.localWrite := by
  induction l generalizing x with
  | nil => simp [granWrites]
  | cons p l ih =>
    intro y hy
    rcases List.mem_cons.mp hy with rfl | hy
    · exact ⟨rfl, by simpa [trans16] using hx 0 (by simp), rfl⟩
    · refine ih (x + 16#36) (fun i hi => ?_) y hy
      have := hx (i + 1) (by simpa using hi)
      rw [show x + 16#36 + BitVec.ofNat 36 (16 * i) = x + BitVec.ofNat 36 (16 * (i + 1)) by
        rw [BitVec.add_assoc, Nat.mul_succ, Nat.add_comm, BitVec.ofNat_add]]
      exact this

theorem granWrites_length (k : TransKind) (a : Arch) (x : Addr) (l : List (Gran × Bool)) :
    (granWrites k a x l).length = l.length := by
  induction l generalizing x with
  | nil => rfl
  | cons p l ih => simp [granWrites, ih]

/-- TAKING AN EXCEPTION on a ready engine: every lane stands at the vector with the handler's registers, the block holds
the state before the instruction, and nothing else of memory changes. -/
theorem instr_exception {m : Mach} {e : BitVec 7} {a : Arch} (h : Ready m e a) (s : InstrSpec) (mode : BitVec 4)
    (opnd : BitVec 20) (b : Before) (sem : Ctx → Arch → Bool → LaneOut) (k : Exc)
    (ho : laneOut s mode opnd none sem ⟨m, e, []⟩ a = .exc k)
    (hx : a.exl = false ∧ a.dfl = false) (htsb : tsbrOk a.tsbr = true)
    (hclean : readsClean m (granOf (phys (tileOf e) a.tsbr) + 15))
    (htag : m.mem.tag (granOf (phys (tileOf e) a.tsbr) + 15) = true) :
    let t := instr s e mode opnd b sem m
    let g := granOf (phys (tileOf e) a.tsbr)
    let l := tsbGranules (idleLatches m.free a) k.info m.tick.count
    t = { m with
      tiles := t.tiles, engines := t.engines, mc := t.mc, resv := t.resv, mem := t.mem, free := m.free + 1 } ∧
    (lanesOf t e = lanesOf m e ∧ liveCode t e = liveCode m e ∧ ∀ r ∈ lanesOf m e, rep t (tileOf e) r = { rep m (tileOf e) r with
      arch := handlerState a k.info a.tsbr (Cap.norm ⟨m.mem.data (g + 15), true⟩) false
      ldue := none, prefetch := (rep t (tileOf e) r).prefetch, sb := [] }) ∧
    t.engines.get e = { m.engines.get e with
      undo := (t.engines.get e).undo, lineBuf := (t.engines.get e).lineBuf, fed := false, reread := false } ∧
    (t.engines.get e).undo.length ≤ (m.engines.get e).undo.length + 15 ∧
    (∀ j, t.mem.data j = (if g ≤ j ∧ j < g + l.length then (l.getD (j - g) (0, false)).1 else m.mem.data j) ∧
      t.mem.tag j = if g ≤ j ∧ j < g + l.length then (l.getD (j - g) (0, false)).2 else m.mem.tag j) ∧
    (∀ i, i < 15 → readsClean t (g + i)) := by
  intro t g l
  have hent := enterThrough_ok (m := m) (e := e) a k.info a.tsbr htsb hclean htag
  let f : Fx := { fxJump (handlerState a k.info a.tsbr (Cap.norm ⟨m.mem.data (g + 15), true⟩) false) with
      settled := true, trap := true
      trans := [load16 (a.tsbr + 0xF0#36) a] ++ granWrites .taskState a a.tsbr l }
  have hfx : (LaneOut.exc k).fx ⟨m, e, []⟩ a = f := by
    simp [LaneOut.fx, enterException, hx.1, hx.2, hent, f, g, l]
  have hl : l.length = 15 := rfl
  have hw : ∀ x ∈ granWrites .taskState a a.tsbr l, x.localWrite :=
    granWrites_local a a.tsbr l fun i hi => region_tsb _ htsb i (by omega)
  have hg15 : granOf (phys (tileOf e) (a.tsbr + 0xF0#36)) = g + 15 := tsb_granule (tileOf e) a.tsbr htsb 15 (by omega)
  have ht : t = prefetchFill e (m.trapped e f a (granWrites .taskState a a.tsbr l)) := by
    refine instr_trap h s mode opnd b sem f [load16 (a.tsbr + 0xF0#36) a] _ (by rw [ho]; exact hfx) rfl rfl rfl rfl rfl ?_ hw
    intro x hx
    rw [List.mem_singleton] at hx
    subst hx
    exact ⟨rfl, region_tsb _ htsb 15 (by omega), by rw [show (load16 (a.tsbr + 0xF0#36) a).addr = a.tsbr + 0xF0#36 from rfl, hg15]; exact hclean.1⟩
  have hlen : (granWrites .taskState a a.tsbr l).length = 15 := by rw [granWrites_length, hl]
  obtain ⟨n1, n2, n3, n4⟩ := trapped_eq m e f a _ hw
  rw [hlen] at n4
  have hfill := refilled_fill e (m.trapped e f a (granWrites .taskState a a.tsbr l))
  rw [← ht] at hfill
  clear ht
  generalize m.trapped e f a (granWrites .taskState a a.tsbr l) = n at *
  clear_value t
  have hlast : f.last = handlerState a k.info a.tsbr (Cap.norm ⟨m.mem.data (g + 15), true⟩) false := rfl
  have hdue : f.due a = none := rfl
  clear hfx hent
  clear_value f
  have htm : t.mem = afterWrites (tileOf e) (granWrites .taskState a a.tsbr l) m.mem := by
    rw [hfill.rest]
    show n.mem = _
    rw [n1]
  have hte : t.engines.get e = { n.engines.get e with lineBuf := (t.engines.get e).lineBuf } := by
    conv_lhs => rw [hfill.engines]
    simp
  refine ⟨?_, ⟨?_, ?_, fun r hr => ?_⟩, ?_, ?_, fun j => ?_, fun i hi => ?_⟩
  · have hr := hfill.rest
    have h1 : t.mc = n.mc := by rw [hr]
    have h2 : t.resv = n.resv := by rw [hr]
    have h3 : t.mem = n.mem := by rw [hr]
    rw [h1, h2, h3, hr, n1]
  · rw [hfill.lanesOf, ← lanesOf_lanesAfter m e f.last (f.due a) f.jump []]
    simp only [lanesOf, n2]
  · rw [hfill.liveCode]
    have := liveCode_mapLanes e e (fun r => { r with
      arch := f.last, ldue := f.due a, prefetch := if f.jump then [] else r.prefetch.drop 1, sb := [] }) m
    simp only [liveCode, n2] at this ⊢
    exact this
  · conv_lhs => rw [hfill.reps]
    have : rep n (tileOf e) r = rep (m.lanesAfter e f.last (f.due a) f.jump []) (tileOf e) r := by simp only [rep, n2]
    rw [this, lanesAfter_lane m e _ _ _ _ r hr, hlast, hdue]
  · rw [hte, n3]
  · rw [hte]; exact n4
  · rw [htm]
    exact granWrites_at _ _ _ _ _ _ _ (fun i hi => tsb_granule _ _ htsb i (by omega)) j
  · unfold readsClean
    rw [htm]
    have := granWrites_clean .taskState a (tileOf e) l a.tsbr g m.mem
      (fun i hi => tsb_granule _ _ htsb i (by omega)) (g + i)
    have hc : g ≤ g + i ∧ g + i < g + 15 := by omega
    simp only [hl, hc, and_self, if_true] at this
    exact this

end Sys2Proof.Machine
end

