-- ==== Sys2Proof/Laws/Exceptions.lean ====
section
/-! SUPPORT. Taking an exception, in the terms in which claims speak of it. -/

namespace Sys2Proof.Machine

open Sys2Proof

/-- The high and low words of a granule made of two. -/
theorem fld_append_hi (x y : W64) : fld (x ++ y) 64 64 = x := by
  apply BitVec.eq_of_getLsbD_eq
  intro i hi
  simp only [fld, BitVec.getLsbD_extractLsb', BitVec.getLsbD_append, hi, decide_true, Bool.true_and]
  have h : ¬ 64 + i < 64 := by omega
  simp [h]

theorem fld_append_lo (x y : W64) : fld (x ++ y) 0 64 = y := by
  apply BitVec.eq_of_getLsbD_eq
  intro i hi
  simp only [fld, BitVec.getLsbD_extractLsb', BitVec.getLsbD_append, hi, Nat.zero_add, decide_true, Bool.true_and, if_true]

/-- TAKING AN EXCEPTION (R163 to R168): an outcome that is the same exception on every lane of a ready engine is entered. -/
theorem entered_of {s : State} {e : BitVec 7} {a : Arch} (h : Ready s.m e a) (hc : canEnter s.m e a) (sp : InstrSpec)
    (mode : BitVec 4) (opnd : BitVec 20) (b : Before) (sem : Ctx → Arch → Bool → LaneOut) (k : Exc)
    (ho : laneOut sp mode opnd none sem ⟨s.m, e, []⟩ a = .exc k) :
    Entered s e a k { s with m := instr sp e mode opnd b sem s.m } := by
  obtain ⟨hx1, hx2, htsb, hclean, htag⟩ := hc
  obtain ⟨h1, ⟨-, -, hrep⟩, h2, h3, h4, h5⟩ := instr_exception h sp mode opnd b sem k ho ⟨hx1, hx2⟩ htsb hclean htag
  have hl : (tsbGranules (idleLatches s.m.free a) k.info s.m.tick.count).length = 15 := rfl
  have hat : ∀ i x, (tsbGranules (idleLatches s.m.free a) k.info s.m.tick.count)[i]? = some x →
      (instr sp e mode opnd b sem s.m).mem.data (granOf (phys (tileOf e) a.tsbr) + i) = x.1 ∧
      (instr sp e mode opnd b sem s.m).mem.tag (granOf (phys (tileOf e) a.tsbr) + i) = x.2 := by
    intro i x hx
    have hi : i < 15 := by rw [← hl]; exact (List.getElem?_eq_some_iff.mp hx).1
    have := h4 (granOf (phys (tileOf e) a.tsbr) + i)
    have hc : granOf (phys (tileOf e) a.tsbr) ≤ granOf (phys (tileOf e) a.tsbr) + i ∧
      granOf (phys (tileOf e) a.tsbr) + i < granOf (phys (tileOf e) a.tsbr) + 15 := by omega
    simp only [hl, hc, and_self, if_true, Nat.add_sub_cancel_left, List.getD_eq_getElem?_getD, hx, Option.getD_some] at this
    exact this
  constructor
  · intro r hr
    show rep (instr sp e mode opnd b sem s.m) (tileOf e) r = _
    rw [hrep r hr]
    simp [handlerState, vectorPcc, EntryInfo.word, Exc.info, put]
  · intro i c hc
    rcases i with _ | _ | _ | _ | _ | _ | _ | i <;> simp at hc <;> subst hc
    · exact hat 0 _ rfl
    · exact hat 1 _ rfl
    · exact hat 2 _ rfl
    · exact hat 3 _ rfl
    · exact hat 4 _ rfl
    · exact hat 5 _ rfl
    · exact hat 6 _ rfl
  · intro i dd hc
    rcases i with _ | _ | _ | i <;> simp at hc <;> subst hc
    · exact (hat 7 _ rfl).1
    · exact (hat 8 _ rfl).1
    · exact (hat 9 _ rfl).1
  · have h10 := (hat 10 _ rfl).1
    have h11 := (hat 11 _ rfl).1
    simp only [h10, h11]
    refine ⟨fun hl => ?_, fun hl => ?_, ?_⟩
    · rw [fld_append_lo]; simp [idleLatches, hl]
    · rw [fld_append_hi, fld_append_lo]
      exact ⟨if_neg hl, if_neg hl⟩
    · rw [fld_append_hi]; rfl
  · refine ⟨?_, ?_, ?_⟩
    · rw [(hat 12 _ rfl).1]
      have hw : k.info.word = put 64 k.vec 0 ||| put 64 k.cause 8 ||| put 64 k.reg 16 := by
        have h0 : put 64 (0#8) 24 = 0#64 := by decide
        show _ ||| put 64 (0#8) 24 = _
        rw [h0, BitVec.or_zero]
        rfl
      show (k.info.faddr.setWidth 64 ++ k.info.word : Gran) = _
      rw [hw]
      rfl
    · rw [(hat 13 _ rfl).1]; rfl
    · rw [(hat 14 _ rfl).1]
      show (0#64 ++ 0#64 : BitVec 128) = 0
      decide
  · intro j hj
    have := h4 j
    have hn : ¬(granOf (phys (tileOf e) a.tsbr) ≤ j ∧ j < granOf (phys (tileOf e) a.tsbr) + 15) := by omega
    simp only [hl, hn, if_false] at this
    exact this
  · exact congrArg (fun m => { s with m := m }) h1

/-- After an exception the engine stands ready at its handler, whose first word was read without error. -/
theorem ready_handler {m : Mach} {e : BitVec 7} {a : Arch} (h : Ready m e a) (s : InstrSpec) (mode : BitVec 4)
    (opnd : BitVec 20) (b : Before) (sem : Ctx → Arch → Bool → LaneOut) (k : Exc)
    (ho : laneOut s mode opnd none sem ⟨m, e, []⟩ a = .exc k)
    (hc : canEnter m e a) (hu : (m.engines.get e).undo.length < 200)
    (hw : wordFault (instr s e mode opnd b sem m) e (vectorPcc k.vec).cursor = none) :
    Ready (instr s e mode opnd b sem m) e
      (handlerState a k.info a.tsbr (Cap.norm ⟨m.mem.data (granOf (phys (tileOf e) a.tsbr) + 15), true⟩) false) := by
  obtain ⟨hx1, hx2, htsb, hclean, htag⟩ := hc
  obtain ⟨h1, ⟨hlanes, hcode, hrep⟩, h2, h3, h4, h5⟩ := instr_exception h s mode opnd b sem k ho ⟨hx1, hx2⟩ htsb hclean htag
  clear ho
  generalize instr s e mode opnd b sem m = t at *
  have hdbg : t.dbg = m.dbg := by rw [h1]
  have hpwr : t.pwr = m.pwr := by rw [h1]
  have hwatch : t.watch = m.watch := by rw [h1]
  constructor
  · have hb := h.boundary
    have e1 : (t.engines.get e).act = (m.engines.get e).act := by rw [h2]
    have e2 : (t.engines.get e).halted = (m.engines.get e).halted := by rw [h2]
    have e3 : (t.engines.get e).cur = (m.engines.get e).cur := by rw [h2]
    have e4 : (t.engines.get e).keeper = (m.engines.get e).keeper := by rw [h2]
    unfold atBoundary canRun validEngine at hb ⊢
    simp only [] at hb ⊢
    rw [e1, e2, e3, e4, hcode, hpwr, hwatch]
    exact hb
  · rw [hlanes]; exact h.lanes
  · intro r hr
    rw [hlanes] at hr
    rw [hrep r hr]
    exact ⟨rfl, rfl, rfl, (h.quiet r hr).2.2.2⟩
  · have hf : (t.engines.get e).forcedDue = false := by rw [h2]; exact h.notForced.1
    exact ⟨hf, by omega⟩
  · simpa only [undebugged, hdbg] using h.undebugged
  · left; rfl
  · simp [inBody, handlerState, bit]
  · have hv : ∀ v : BitVec 6, checkFetch 0 0 (vectorPcc v) 7#4 (vectorPcc v).cursor = none := by decide
    have ho : (vectorPcc k.info.vec).owner = 0 := by generalize k.info.vec = v; revert v; decide
    show checkFetch (vectorPcc k.info.vec).owner 0 (vectorPcc k.info.vec) 7#4 (vectorPcc k.info.vec).cursor = none
    rw [ho]; exact hv _
  · exact hw

end Sys2Proof.Machine
end

