-- ==== Sys2Proof/Tests/Witness.lean ====
section
/-! SUPPORT. For the hypotheses of every statement: a state and operands that meet them. -/

namespace Sys2Proof.Tests

set_option Elab.async false

open Sys2Proof Sys2Proof.Machine

/-! ### States -/

/-- A capability to all of memory, with every right, at `x`. -/
def reg (x : Addr) : Cap := Cap.root.setCursor x

/-- Registers of a replica in the boot program, with capabilities into the tile's own SRAM. -/
def regs : Arch := { bootArch with
  x := reg 0x1000_2000, y := reg 0x1000_3000, d := reg 0x1000_2100, s := reg 0x1000_4000, ssp := 0x1003_8FC0, a := 1, e := 2 }

/-- A state whose engine 0 holds registers `a`. -/
def st (a : Arch) : State := { State.reset with m := mapLanes 0 (fun r => { r with arch := a }) State.reset.m }

/-- The module at reset, changed. -/
def mach (f : Mach → Mach) : State := { State.reset with m := f State.reset.m }

/-- With granule `g` of memory as `c`. -/
def gran (s : State) (g : Nat) (c : Cap) : State := { s with m := { s.m with mem := s.m.mem.putGran g c.bits c.tag false } }

/-- A state in which engine 0 can enter an exception. -/
def stx (a : Arch) : State := gran (st a) 0x200_008F (reg 0x1000_5000)

/-- In `k` mode. -/
def inMode (s : State) (k : Mode) : State := { s with m := { s.m with mode := { s.m.mode with mode := k } } }

/-- With engine 0 changed. -/
def eng (s : State) (f : Engine → Engine) : State := { s with m := modEng 0 f s.m }

/-- A slot of compartment 2, and its run. -/
def slot : Slot := ⟨3, 2, 0, 100, false, false, 7⟩
def run : Run := ⟨slot, true, 0, 0, false, false, false, false, 0, [], [], []⟩

/-- The keeper as the master of an access. -/
def keeper : Who := ⟨.replica, 0, 0, 0, 0x100, 0, 0⟩

theorem two {α : Type} {p : α → Prop} {a b : α} (ha : p a) (hb : p b) : ∀ x ∈ [a, b], p x :=
  List.forall_mem_cons.2 ⟨ha, List.forall_mem_cons.2 ⟨hb, List.forall_mem_nil _⟩⟩

theorem three {α : Type} {p : α → Prop} {a b c : α} (ha : p a) (hb : p b) (hc : p c) : ∀ x ∈ [a, b, c], p x :=
  List.forall_mem_cons.2 ⟨ha, two hb hc⟩

theorem ready {m : Mach} {e : BitVec 7} {a : Arch}
    (h : (atBoundary m e = true ∧ lanesOf m e ≠ [] ∧
      (∀ r ∈ lanesOf m e, let x := rep m (tileOf e) r;
        x.arch = a ∧ x.sb = [] ∧ x.ldue = none ∧ x.repEnd = false)) ∧
      ((m.engines.get e).forcedDue = false ∧ (m.engines.get e).undo.length < 216) ∧
      (let x := m.dbg.engs.get e;
        x.want = false ∧ x.step = false ∧ x.pass = false ∧ ∀ k, (x.ranges.get k).en = false) ∧
      (a.lop = 0#8 ∨ 1 < a.ldist.toNat) ∧ inBody a = false ∧ checkFetch a.comp a.ring a.pcc 7#4 a.pcc.cursor = none ∧
      wordFault m e a.pcc.cursor = none) :
    Ready m e a := by
  obtain ⟨⟨atB, some', still⟩, free', calm', pace, out, word, line⟩ := h
  exact { boundary := atB, lanes := some', quiet := still, notForced := free', undebugged := calm', notDue := pace,
          outside := out, fetch := word, word := line }

/-! ### Instructions -/

theorem value_immediate (k : LdOp) : valueIs (st regs).m 0 regs k 1 5 5 id := .inl ⟨by decide, rfl⟩

theorem value_memory : ∀ k ∈ [LdOp.lda, .ldab, .add, .and_, .shl, .mul, .fcmp],
    valueIs (st regs).m 0 regs k 8 8 0 (memOp regs 8 8).applyStep := by
  have h : ∀ k ∈ [LdOp.lda, .ldab, .add, .and_, .shl, .mul, .fcmp], immediate regs 8 8 = none ∧
      localOperand (st regs).m 0 regs (memOp regs 8 8) k ∧
      (0 : W64) = fld (localData (st regs).m 0 (memOp regs 8 8).addr) 0 64 := by
    delta localOperand readsClean
    decide +kernel
  intro k hk
  exact .inr ⟨(h k hk).1, (h k hk).2.1, (h k hk).2.2, rfl⟩

/-- ValueLoads, ArithmeticAndLogic, ShiftsAndSingleOperands, LongOperationsAndLoadDelay, FloatingPointAtOnce. -/
theorem witness_values : Ready (st regs).m 0 regs ∧ classCheck .v 1 5 = none ∧ classCheck .v 8 8 = none :=
  ⟨ready (by decide +kernel), by decide, by decide⟩

/-- StoresEnterTheBuffer. -/
theorem witness_stores : Ready (st regs).m 0 regs ∧ classCheck .m 5 0x10 = none ∧
    (∀ z ∈ [(8, false), (4, false), (2, false), (1, false), (16, true)],
      storeAllowed (st regs).m 0 regs (memOp regs 5 0x10) z.1 z.2) ∧
    storeAllowed (st regs).m 0 regs ⟨3, regs.s, regs.s.cursor - 8, none⟩ 8 false ∧
    storeAllowed (st regs).m 0 regs ⟨3, regs.s, regs.s.cursor - 16, none⟩ 16 true := by
  refine ⟨ready (by decide +kernel), ?_⟩
  delta storeAllowed
  decide +kernel

/-- CapabilityLoadsAndPops. -/
theorem witness_capability_loads : Ready (st regs).m 0 regs ∧ classCheck .m 5 0x10 = none ∧
    (∀ d : BitVec 2, localOperand (st regs).m 0 regs (memOp regs 5 0x10) (.ldc d) ∧
      localOperand (st regs).m 0 regs ⟨3, regs.s, regs.s.cursor, none⟩ (.popc d)) ∧
    localOperand (st regs).m 0 regs ⟨3, regs.s, regs.s.cursor, none⟩ .pop ∧
    localOperand (st regs).m 0 regs (memOp regs 5 0x10) .lr := by
  refine ⟨ready (by decide +kernel), ?_⟩
  delta localOperand readsClean
  decide +kernel

/-- A state in which engine 0 holds a reservation of its operand's granule. -/
def reserved : State :=
  let s := st { regs with resv := some 0x2000_2010 };
  { s with m := { s.m with resv := [(0, 0x2000_2010)] } }

/-- StoreConditional, with the reservation and without it. -/
theorem witness_conditional : ∀ z ∈ [(reserved, { regs with resv := some 0x2000_2010 }), (st regs, regs)],
    let s := z.1;
    let a := z.2;
    let o := memOp a 5 0x10;
    Ready s.m 0 a ∧ classCheck .m 5 0x10 = none ∧ checkOp ⟨s.m, 0, []⟩ a o ⟨8, 8, true, false⟩ = none ∧
      region o.addr = .tileAlias ∧ shadowArea ⟨s.m, 0, []⟩ o.addr = false ∧ readsClean s.m (granOf (phys (tileOf 0) o.addr)) ∧
      isPair (liveCode s.m 0) (posOf 0) = false := by
  refine two ?_ ?_
  all_goals
    refine ⟨ready (by decide +kernel), ?_⟩
    delta readsClean
    decide +kernel

theorem witness_conditional_holds : alignG (phys (tileOf 0) (memOp regs 5 0x10).addr) = 0x2000_2010 ∧
    (0, 0x2000_2010) ∈ reserved.m.resv := by decide +kernel

/-- CapabilityResults: X as it stands and X sealed, under the authority of Y. -/
theorem witness_capabilities : Ready (st regs).m 0 regs ∧
    regs.x.tag = true ∧ regs.x.kind = 0 ∧ regs.x.has rDRV = true ∧ regs.x.base.toNat ≤ regs.a.toNat ∧
    regs.a.toNat ≤ regs.e.toNat ∧ regs.e.toNat ≤ regs.x.limit ∧
    regs.y.tag = true ∧ regs.y.kind = 0 ∧ keeperCtx regs.comp regs.ring = true ∧ regs.y.has rSEAL = true ∧
    regs.y.base.toNat ≤ regs.x.base.toNat ∧ regs.x.limit ≤ regs.y.limit ∧
    (let b : Arch := { regs with x := regs.x.setKind 2 };
      Ready (st b).m 0 b ∧ b.x.tag = true ∧ b.x.kind = 2 ∧ b.y.base.toNat ≤ b.x.base.toNat ∧ b.x.limit ≤ b.y.limit) := by
  have hx : Ready (st regs).m 0 regs := ready (by decide +kernel)
  have hy : Ready (st { regs with x := regs.x.setKind 2 }).m 0 { regs with x := regs.x.setKind 2 } := ready (by decide +kernel)
  refine ⟨hx, ?_⟩
  and_intros
  all_goals first | exact hy | decide +kernel

/-- NoAuthorityIsMade. -/
theorem witness_authority : (∃ f, ptrim 0x0_0000 regs = .ok f) ∧ (∃ f, pmask 0x0_0000 regs = .ok f) ∧
    (∃ f, moveCursor 0x0_0000 5 regs = .ok f) ∧ (∃ f, pwrap 0x0_0000 regs = .ok f) ∧
    (∃ f, punwrap 0x0_0000 { regs with x := regs.x.setKind 2 } = .ok f) :=
  ⟨⟨_, rfl⟩, ⟨_, rfl⟩, ⟨_, rfl⟩, ⟨_, rfl⟩, ⟨_, rfl⟩⟩

/-- Registers in ring 1 and in ring 2. -/
def ring1 : Arch := { regs with ring := 1, ent0 := Cap.boot }
def ring2 : Arch := { regs with ring := 2, ent1 := Cap.boot }

/-- JumpsAndFastCalls: a branch not taken and taken, JMPX, REP with a count and without, SYSC to ring 0 and ring 1, SYSR. -/
theorem witness_jumps : Ready (st regs).m 0 regs ∧
    (∃ c, Machine.cond c regs.f = false) ∧ (∃ c, Machine.cond c regs.f = true) ∧
    checkFetch regs.comp regs.ring regs.pcc 4 (regs.pcc.cursor + 4 * (3 : BitVec 20).signExtend 36) = none ∧
    (let b : Arch := { regs with x := reg 0x200 };
      Ready (st b).m 0 b ∧ checkFetch b.comp b.ring b.x 0 b.x.cursor = none) ∧
    (let b : Arch := { regs with a := 0 };
      Ready (st b).m 0 b) ∧
    Ready (st ring1).m 0 ring1 ∧ ring1.ent0.tag = true ∧ ring1.fast = false ∧
    Ready (st ring2).m 0 ring2 ∧ ring2.ent1.tag = true ∧ ring2.ent1.owner = ring2.comp ∧
    (let b : Arch := { regs with fast := true, link := Cap.boot };
      Ready (st b).m 0 b ∧ b.link.tag = true ∧ b.link.kind = 0) := by
  refine ⟨ready (by decide +kernel), ⟨1, by decide +kernel⟩, ⟨0, by decide +kernel⟩, by decide +kernel, ⟨ready (by decide +kernel), by decide +kernel⟩,
    ready (by decide +kernel), ready (by decide +kernel), by decide +kernel, by decide +kernel, ready (by decide +kernel),
    by decide +kernel, by decide +kernel, ready (by decide +kernel), by decide +kernel⟩

/-- SystemRegisters: legal values of TSBR, and the ends of the range of SSP. -/
theorem witness_system_registers : Ready (st regs).m 0 regs ∧ regs.ring = 0 ∧
    (∀ v ∈ [(0x1000_0800 : Addr), 0x1003_FB00], tsbrOk v = true) ∧
    (∀ v ∈ [(0x1003_8000 : Addr), 0x1003_9000], v.toNat % 16 = 0 ∧
      0x1003_8000 + 0x1000 * (posOf 0).toNat ≤ v.toNat ∧ v.toNat ≤ 0x1003_9000 + 0x1000 * (posOf 0).toNat) :=
  ⟨ready (by decide +kernel), by decide +kernel, two (by decide +kernel) (by decide +kernel),
    two (by decide +kernel) (by decide +kernel)⟩

/-- CallAndReturn, with SSP at the end of its area and before it. -/
theorem witness_call : ∀ a ∈ [{ regs with x := reg 0x200 }, { regs with x := reg 0x200, ssp := 0x1003_8010 }],
    Ready (st a).m 0 a ∧ storeAllowed (st a).m 0 a ⟨3, a.s, a.s.cursor - 16, none⟩ 16 true ∧
      checkFetch a.comp a.ring a.pcc 4 (a.pcc.cursor + 4 * (3 : BitVec 20).signExtend 36) = none ∧
      checkFetch a.comp a.ring a.x 0 a.x.cursor = none ∧
      0x1003_8010 + 0x1000 * (posOf 0).toNat ≤ a.ssp.toNat := by
  refine two ?_ ?_
  all_goals
    refine ⟨ready (by decide +kernel), ?_⟩
    delta storeAllowed
    decide +kernel

theorem witness_return :
    0x1000_0000 ≤ regs.ssp.toNat ∧
    let s := st regs;
    let top := granOf (phys (tileOf 0) regs.ssp);
    let on := granOf (phys (tileOf 0) regs.s.cursor);
    localOperand s.m 0 regs ⟨3, regs.s, regs.s.cursor, none⟩ .ret ∧ readsClean s.m top ∧
      regs.ssp.toNat + 16 ≤ 0x1003_9000 + 0x1000 * (posOf 0).toNat ∧ s.m.mem.data top = s.m.mem.data on ∧
      s.m.mem.tag top = s.m.mem.tag on ∧ ¬(s.m.mem.tag top = false ∧ s.m.mem.data top >>> 120 = 0xF1) := by
  delta localOperand readsClean
  decide +kernel

/-- A fence map that is empty is open to the hardware of slot entry, GCALL and GRET. -/
theorem open_empty {m : Mach} {e : BitVec 7} {comp : BitVec 10}
    (h : (m.tiles.get (tileOf e)).rcache = [] ∧ ∀ i, (m.mc.fence.get i).valid = false) : sharedOpen m e comp := by
  refine ⟨?_, fun i a write _ hm => ?_⟩
  · rw [h.1]
    nofun
  · simp [FenceEntry.matches, h.2 i] at hm

/-- Registers with a gate of compartment 2 in X, and a state with the stack of that compartment. -/
def caller : Arch := { regs with x := Cap.make 0x200 0 0x1_0000 0x0D 2 1 true }
def called : State := gran (st caller) (granOf (stkGran 2 1)) (Cap.make 0x1000_5000 0 0x8000_0000 0x03 2 0 true)

/-- GateCallAndReturn: a call, a return from a slot frame and one from a gate frame. -/
theorem witness_gates :
    (let s := called;
      let a := caller;
      let into := granOf (phys (tileOf 0) (stkGran a.x.owner (gateRing a.x)));
      let stack := Cap.norm ⟨s.m.mem.data into, s.m.mem.tag into⟩;
      Ready s.m 0 a ∧ gateCheck a.x = none ∧ ¬(a.x.owner = a.comp ∧ gateRing a.x = a.ring) ∧
        0x1003_8020 + 0x1000 * (posOf 0).toNat ≤ a.ssp.toNat ∧ readsClean s.m into ∧ stack.tag = true ∧ stack.kind = 0 ∧
        stack.owner = a.x.owner) ∧
    sharedOpen called.m 0 caller.comp ∧
    (∀ f ∈ [slotFrame, gateFrame regs],
      let s := gran (st regs) (granOf (phys (tileOf 0) regs.ssp)) ⟨f, false⟩;
      let top := granOf (phys (tileOf 0) regs.ssp);
      let below := granOf (phys (tileOf 0) (regs.ssp + 16));
      let back : Cap := Cap.norm ⟨s.m.mem.data below, s.m.mem.tag below⟩;
      Ready s.m 0 regs ∧ readsClean s.m top ∧ s.m.mem.tag top = false ∧ s.m.mem.data top >>> 120 = 0xF1 ∧
        regs.ssp.toNat + 32 ≤ 0x1003_9000 + 0x1000 * (posOf 0).toNat ∧ readsClean s.m below ∧
        readsClean s.m (granOf (phys (tileOf 0) (stkGran back.owner (f.setWidth 2)))) ∧ 0x1000_0000 ≤ regs.ssp.toNat ∧
        (s.m.tiles.get (tileOf 0)).rcache = [] ∧ ∀ i, (s.m.mc.fence.get i).valid = false) ∧
    slotFrame.getLsbD 6 = true ∧ (gateFrame regs).getLsbD 6 = false := by
  refine ⟨⟨ready (by decide +kernel), ?_⟩, open_empty (by decide +kernel), ?_, by decide +kernel, by decide +kernel⟩
  · delta readsClean
    decide +kernel
  · refine two ?_ ?_
    all_goals
      refine ⟨ready (by decide +kernel), ?_⟩
      delta readsClean
      decide +kernel

theorem can_enter {a : Arch} (h : ∀ m, m = (stx a).m →
    let g := granOf (phys (tileOf 0) a.tsbr);
    a.exl = false ∧ a.dfl = false ∧ tsbrOk a.tsbr = true ∧ (m.mem.err (g + 15) = 0#152 ∧ m.mem.poison (g + 15) = false) ∧
      m.mem.tag (g + 15) = true) : canEnter (stx a).m 0 a := h _ rfl

/-- ExceptionsAreTaken, in each ring that a clause names, and InterruptsAreTaken. -/
theorem witness_exceptions : ∀ a ∈ [regs, ring1, ring2],
    Ready (stx a).m 0 a ∧ canEnter (stx a).m 0 a ∧ bkptClaimed (stx a).m a.comp = false := by
  refine three ?_ ?_ ?_
  all_goals
    refine ⟨ready (by decide +kernel), can_enter ?_, by decide +kernel⟩
    rintro _ rfl
    decide +kernel

/-- ExceptionThenReturn. -/
theorem witness_exception_return :
    let s := inMode (stx regs) .commission;
    Ready s.m 0 regs ∧ canEnter s.m 0 regs ∧ s.m.mode.mode ≠ .wake ∧ s.m.mode.mode ≠ .hardpan ∧
      (s.m.engines.get 0).undo.length < 200 ∧ (s.m.engines.get 0).lineBuf = [] ∧ (s.m.tiles.get (tileOf 0)).icache = [] ∧
      regs.pcc.kind = 0 ∧
      (∀ c ∈ [regs.s, regs.x, regs.y, regs.d, regs.link, regs.slink], c.norm = c) ∧ regs.f &&& fMask = regs.f ∧
      regs.rstate &&& rstateMask = regs.rstate := by
  refine ⟨ready (by decide +kernel), ?_⟩
  delta canEnter readsClean
  decide +kernel

/-- What lanes exchange where none is late and nothing strikes the path. -/
def agreed : Exchange := ⟨0, 0, false⟩

/-- ReadsOfTheModule: BUDG in a slot. -/
theorem witness_reads :
    let s := eng (st regs) fun g => { g with cur := some run };
    Ready s.m 0 regs ∧ agreed.parity = false ∧ (liveCode s.m 0 = 4 → agreed.late = 0 ∧ agreed.agr = 0) ∧
      (s.m.engines.get 0).cur = some run :=
  ⟨ready (by decide +kernel), by decide +kernel⟩

/-- A state in which a CONTROL session with the vendor key is open. -/
def session : State :=
  let s := inMode (st regs) .commission;
  { s with m := { s.m with dbg := { s.m.dbg with level := 3, comp := 0, ring := 0 } } }

/-- WaitsAndInvalidations. -/
theorem witness_waits : Ready (st regs).m 0 regs ∧ regs.ring = 0 ∧
    Ready session.m 0 regs ∧ bkptClaimed session.m regs.comp = true :=
  ⟨ready (by decide +kernel), by decide, ready (by decide +kernel), by decide +kernel⟩

/-- Registers of a string instruction that has `n` bytes to go. -/
def string (n : W64) : Arch := { regs with rcnt := n }

/-- StringInstructions: the start, and one step of FILLS and SCANS, the last and not. -/
theorem witness_strings : (∀ n ∈ [(0 : W64), 16, 32], Ready (st (string n)).m 0 (string n)) ∧
    (∀ n ∈ [(16 : W64), 17], let a := string n
      ∀ z ∈ [((0x81 : Byte), MemOp.mk 0 a.x a.x.cursor none, true), (0x83, ⟨1, a.y, a.y.cursor, none⟩, false)],
        let s := eng (st a) fun g => { g with act := .string z.1 };
        Ready (modEng 0 (fun g => { g with act := .run }) s.m) 0 a ∧ 0 < a.rcnt.toNat ∧
        checkOp ⟨s.m, 0, []⟩ a z.2.1 ⟨16, 1, z.2.2, false⟩ = none ∧ (Ctx.span ⟨s.m, 0, []⟩ && inOutputRecord a.x.cursor) = false ∧
          shadowArea ⟨s.m, 0, []⟩ a.y.cursor = false ∧ region a.y.cursor = .tileAlias ∧
          readsClean s.m (granOf (phys (tileOf 0) a.y.cursor))) := by
  refine ⟨three ?_ ?_ ?_, ?_⟩
  iterate 3 exact ready (by decide +kernel)
  · delta readsClean
    refine two (two ?_ ?_) (two ?_ ?_)
    all_goals exact ⟨ready (by decide +kernel), by decide +kernel⟩

/-- RepeatIterations: the last iteration and one before. -/
theorem witness_repeat : ∀ n ∈ [(1 : W64), 2],
    let s := { st (string n) with m := mapLanes 0 (fun r => { r with repEnd := true }) (st (string n)).m };
    canRun s.m 0 = true ∧ undebugged s.m 0 ∧ lanesOf s.m 0 ≠ [] ∧
      ∀ r ∈ lanesOf s.m 0, let x := rep s.m (tileOf 0) r; x.arch = string n ∧ x.ldue = none ∧ x.repEnd = true := by
  delta undebugged
  refine two ?_ ?_ <;> decide +kernel

/-! ### Engines between instructions -/

/-- An entry of a store buffer. -/
def entry (x : Addr) : SbEntry := ⟨x, 0x1234, 0x0003, false, false, false, false, none, 0, 0, 0x100, 0, 0, false⟩

/-- MemoryTransactions: a store to the tile's own SRAM, one at each end of the shadow stacks and one just below them. -/
theorem witness_store_accept : ∀ z ∈ [(0x1000_2000, false), (0x1003_7FF0, false), (0x1003_8000, true), (0x1003_BFF0, true)],
    let s : State := { st regs with m := mapLanes 0 (fun r => { r with sb := [entry z.1] }) (st regs).m };
    lanesOf s.m 0 ≠ [] ∧ (s.m.engines.get 0).act ≠ .bisque ∧ (∀ r ∈ lanesOf s.m 0, (rep s.m (tileOf 0) r).sb = [entry z.1]) ∧
      s.m.watch.resetWanted = none ∧ (entry z.1).issued ≠ some false ∧ (s.m.watch.wd.get 0).due = false ∧
      region (entry z.1).gran = .tileAlias ∧ (entry z.1).mask ≠ 0 ∧
      (z.2 = true ↔ 0x3_8000 ≤ (entry z.1).gran.toNat % 2 ^ 18 ∧ (entry z.1).gran.toNat % 2 ^ 18 < 0x3_C000) ∧
      s.m.faults.queue.length < 64 ∧ readsClean s.m (granOf (phys (tileOf 0) (entry z.1).gran)) := by
  delta readsClean
  refine List.forall_mem_cons.2 ⟨?_, List.forall_mem_cons.2 ⟨?_, List.forall_mem_cons.2 ⟨?_, List.forall_mem_cons.2 ⟨?_, nofun⟩⟩⟩⟩
  all_goals decide +kernel

/-- MemoryTransactions: a load of shared SRAM under a fence entry, and one of a host window. -/
def loads (x : Addr) : State := eng (stx { regs with y := reg x }) fun g => { g with act := .load ⟨.lda, 6, 0, x⟩ }

theorem witness_load :
    (let s := loads 0x4000_0008;
      let a := { regs with y := reg 0x4000_0008 };
      Ready (modEng 0 (fun g => { g with act := .run }) s.m) 0 a ∧ (memOp a 6 0).addr = 0x4000_0008 ∧
        region 0x4000_0008 = .shared ∧ readsClean s.m (granOf 0x4000_0008) ∧
        (fenceCheck (.tile (tileOf 0)) (.ring a.comp a.ring) 0x4000_0008 false s.m).1 = true) ∧
    (let s := loads 0xC000_0008;
      let a := { regs with y := reg 0xC000_0008 };
      Ready (modEng 0 (fun g => { g with act := .run }) s.m) 0 a ∧ region 0xC000_0008 = .hostWin ∧ canEnter s.m 0 a) := by
  refine ⟨⟨ready (by decide +kernel), ?_⟩, ready (by decide +kernel), ?_⟩
  all_goals
    delta canEnter readsClean
    decide +kernel

/-- LineFillsAndLapses. -/
theorem witness_fill : ∀ x ∈ [0x1000_0000, 0x1003_FFFC],
    let g := granOf (phys (tileOf 0) (x &&& ~~~63));
    State.reset.m.mode.mode ≠ .dormant ∧ validEngine State.reset.m 0 = true ∧ region x = .tileAlias ∧
      ∀ k, k < 4 → readsClean State.reset.m (g + k) := by
  delta readsClean
  refine two ?_ ?_ <;> decide +kernel

/-- InterruptsAreTaken: the interrupt `b` of compartment 0 alone, with IB as it stands, to a running and a waiting engine. -/
theorem witness_interrupts : ∀ b < 4, ∀ ib : Bool, ∀ w : Bool,
    let a := { regs with ib := ib };
    let s0 := eng (stx a) fun g => { g with act := if w then .wfi else .run };
    let s : State := { s0 with m := pend 0 b s0.m };
    (s.m.ints.get a.comp).getLsbD b = true ∧ (∀ k, k < b → (s.m.ints.get a.comp).getLsbD k = false) ∧ a.ib = ib ∧
      (s.m.engines.get 0).act = (if w then .wfi else .run) ∧ (s.m.engines.get 0).notices = [] ∧
      (s.m.engines.get 0).budgetPend = false ∧ (s.m.engines.get 0).cur = none ∧ canRun s.m 0 = true ∧
      agreed.parity = false ∧ (liveCode s.m 0 = 4 → agreed.agr = 0) ∧ s.m.mode.mode = .wake ∧ s.m.mem = (stx regs).m.mem := by
  decide +kernel

theorem witness_interrupt_taken :
    let s := eng (stx regs) fun g => { g with act := .wfi };
    Ready (modEng 0 (fun g => { g with act := .run }) (pend 0 3 s.m)) 0 regs ∧ canEnter (pend 0 3 s.m) 0 regs := by
  refine ⟨ready (by decide +kernel), ?_⟩
  delta canEnter readsClean
  decide +kernel

/-- A state in which engine 0 runs a slot of compartment 2. -/
def inSlot (f : Engine → Engine) : State :=
  let s := eng (inMode (st regs) .commission) fun g => f { g with keeper := false, cur := some run, act := .run };
  { s with m := { s.m with tick := { s.m.tick with phase := .p1, copied := 128 } } }

/-- BisquesAreTaken. -/
theorem witness_bisques :
    (let s := inSlot fun g => { g with act := .bisque };
      lanesOf s.m 0 ≠ [] ∧ (∀ r ∈ lanesOf s.m 0, (rep s.m (tileOf 0) r).quiet regs) ∧ regs.lop = 0 ∧
        (s.m.engines.get 0).act = .bisque ∧ (s.m.engines.get 0).cur = some run ∧ (s.m.engines.get 0).todo = []) ∧
    (let s := inSlot fun g => { g with forcedDue := true };
      lanesOf s.m 0 ≠ [] ∧ (∀ r ∈ lanesOf s.m 0, (rep s.m (tileOf 0) r).quiet regs) ∧
        (s.m.engines.get 0).forcedDue = true ∧ canRun s.m 0 = true ∧ (s.m.engines.get 0).act = .run ∧
        (s.m.engines.get 0).cur = some run) := by
  delta Replica.quiet
  decide +kernel

/-- SlotsAndBudgets: the gate table of compartment 2 at 0x4000_1000, with a gate into ring 1 of it, and its stack. -/
def gated : State :=
  let s := inSlot fun g => { g with act := .bisque };
  let e := granOf 0x40F6_0100;
  gran (gran (gran s e (Cap.make 0 0x4000_1000 0x4000_1010 0x09 2 0 true)) (e + 2) (Cap.make 0 0x1000_5000 0x1000_6000 0x03 2 0 true))
    0x400_0100 (Cap.make 0x1000_0200 0x1000_0000 0x1001_0000 0x0D 2 1 true)

theorem witness_slot_entry :
    let s := gated;
    let r := run;
    let held (x : Addr) : Cap := Cap.norm ⟨s.m.mem.data (granOf x), s.m.mem.tag (granOf x)⟩;
    let entry (k : Nat) : Addr := 0x40F6_0000 + BitVec.ofNat 36 (128 * r.slot.comp.toNat + 16 * k);
    let table := held (entry 0);
    let x := table.base + BitVec.ofNat 36 (16 * r.slot.gate.toNat);
    let gate := held x;
    (lanesOf s.m 0 ≠ [] ∧ ∀ k ∈ lanesOf s.m 0, (rep s.m (tileOf 0) k).quiet regs) ∧
      (s.m.engines.get 0).act = .bisque ∧ (s.m.engines.get 0).cur = some r ∧ r.slot.span = false ∧
      (∀ k, k < 7 → readsClean s.m (granOf (entry k))) ∧ readsClean s.m (granOf x) ∧ region x = .shared ∧
      table.tag = true ∧ table.has rRD = true ∧ table.has rLDC = true ∧
      table.base.toNat + 16 * r.slot.gate.toNat + 16 ≤ table.limit ∧ gateCheck gate = none ∧ gate.owner = r.slot.comp ∧
      (held (entry (1 + (gate.cursor.setWidth 2 + 1 : BitVec 2).toNat))).tag = true := by
  delta readsClean Replica.quiet
  decide +kernel

theorem witness_slot_fence : sharedOpen gated.m 0 run.slot.comp := open_empty (by decide +kernel)

/-- SlotsAndBudgets and RecoveryDecides: a slot that runs, and one in recovery, its first and a second. -/
theorem witness_budget :
    (let s := inSlot id;
      (s.m.engines.get 0).cur = some run ∧ run.begun = true ∧ s.m.tick.copied = 128 ∧ s.m.hasRoom ∧
        (s.m.engines.get 0).halted = false ∧ tickRuns s.m = true ∧
        (s.m.engines.get 0).todo = [] ∧ (∀ k, k < 8 → readsClean s.m (0x40F4_0000 / 16 + k)) ∧
        20 < run.slot.budget.toNat ∧ run.warned = false) ∧
    (let g := ((inSlot fun g => { g with act := .recovery 9, copy0 := { g.copy0 with forced := true } }).m.engines.get 0);
      g.act = .recovery 9 ∧ g.cur = some run ∧ run.recovered = false ∧
        9 - run.bisqueAt ≤ run.start + run.slot.budget.toNat * 512 / 5 - 0 ∧ g.copy0.bad = false ∧ g.copy0.forced = true) ∧
    (let r := { run with recovered := true };
      let g := ((inSlot fun g => { g with act := .recovery 9, cur := some r }).m.engines.get 0);
      g.act = .recovery 9 ∧ g.cur = some r ∧ g.todo = []) := by
  delta readsClean Mach.hasRoom
  decide +kernel

/-! ### The tick, the modes, power and faults -/

/-- TickAndModeRegisters. -/
theorem witness_tick_registers :
    State.reset.m.live ∧ keeper.master ≠ .debug ∧ byKeeper keeper ∧ State.reset.m.mode.mode = .wake ∧
    (∀ n ∈ [250, 100000], 250 ≤ n % 2 ^ 17 ∧ n % 2 ^ 17 ≤ 100000) ∧ (∀ n ∈ [249, 100001], n % 2 ^ 17 < 250 ∨ 100000 < n % 2 ^ 17) ∧
    (let s := inMode State.reset .commission;
      s.m.live ∧ s.m.mode.pend = none ∧ s.m.dbg.level.toNat < 2 ∧ s.m.dbg.bscan = false ∧
        ∀ c, (s.m.chans.get c).live = false) ∧
    (let s := inMode State.reset .operate;
      s.m.live ∧ s.m.mode.pend = none) ∧
    session.m.live ∧ 2 ≤ session.m.dbg.level.toNat ∧ State.reset.m.hasRoom := by
  delta Mach.live byKeeper Mach.hasRoom
  decide +kernel

/-- A state in which the phase of the tick is `p`. -/
def inPhase (p : TickPhase) (f : TickSt → TickSt) : State :=
  mach fun m => { m with tick := f { m.tick with phase := p } }

/-- TicksAndTheirSource, and the second clause of TickAndModeRegisters. -/
theorem witness_ticks :
    (∀ p ∈ [TickPhase.p0, .applied, .p1, .closed], let s := inPhase p id
      s.m.mode.mode ≠ .dormant ∧ s.m.watch.mainLost = false ∧ s.m.pwr.pfw = false ∧ s.m.dbg.bscan = false ∧
        s.m.tick.src = false ∧ nextEdgeAt s.m.tick = some 102400) ∧
    (inPhase .closed id).m.emptied ∧
    (let s := eng (inPhase .applied fun t => { t with copied := 1 }) fun g => { g with keeper := false, todo := [slot] };
      let g := s.m.engines.get 0;
      g.todo = [slot] ∧ (0 : BitVec 7).toNat < s.m.tick.copied ∧ (∀ e, (s.m.dbg.engs.get e).defer = false) ∧ g.cur = none ∧ g.halted = false ∧ g.keeper = false ∧ validEngine s.m 0 = true ∧
        s.m.pwr.tiles.get 0 = .on) ∧
    (let t := (inPhase .p1 fun t => { t with src := true, extLock := true }).m.tick;
      t.src = true ∧ t.extLock = true ∧ t.nextEdge = none ∧
        (∀ d ∈ [102196, 102604], 512 * t.period.toNat ≤ 5 * d + 1024 ∧ 5 * d ≤ 512 * t.period.toNat + 1024) ∧
        ∀ d ∈ [102195, 102605], ¬(512 * t.period.toNat ≤ 5 * d + 1024 ∧ 5 * d ≤ 512 * t.period.toNat + 1024)) ∧
    (let t := (inPhase .p1 fun t => { t with holdover := true, holdTicks := 1000 }).m.tick;
      t.holdover = true ∧ t.expDone = false ∧ t.limit.toNat ≤ t.holdTicks) := by
  delta Mach.emptied
  decide +kernel

/-- A provisioned module before its flash is written. -/
def provisioned : Sec := { State.reset.m.sec with fuse := State.reset.m.sec.fuse.program 0 1 0 }

/-- A spare record that names the first spare of channel 0, and its MAC. -/
def spareBody : List Byte := [1, 0, 0, 0, 0, 0, 0, 0, 0, 0, 0, 0x80] ++ List.replicate 252 0

def spareMac : List Byte := gmac (kRec provisioned) (spareBody.take 4 ++ List.replicate 8 0#8) spareBody

/-- A provisioned module with that record in both flash devices. -/
def sparing : Sec :=
  { provisioned with
    flashA := (range 0x1000 280).zip (spareBody ++ spareMac), flashB := (range 0x1000 280).zip (spareBody ++ spareMac) }

theorem spareBody_length : spareBody.length = 264 := by decide +kernel

theorem spareMac_length : spareMac.length = 16 := by decide +kernel

theorem kRec_flash (x : Sec) (a b : List Host.Cell) : kRec { x with flashA := a, flashB := b } = kRec x := rfl

theorem flashOf_both (x : Sec) (a : List Host.Cell) (d : Bool) : flashOf { x with flashA := a, flashB := a } d = a := by
  cases d <;> rfl

theorem look_zip (m : List Byte) : ∀ a, (range a m.length).map (look 0xFF#8 ((range a m.length).zip m)) = m := by
  induction m with
  | nil => intro a; rfl
  | cons b m ih =>
    intro a
    have h : (range (a + 1) m.length).map (look 0xFF#8 ((a, b) :: (range (a + 1) m.length).zip m)) = m := by
      refine Eq.trans (List.map_congr_left fun k hk => ?_) (ih (a + 1))
      have : a ≠ k := by have := (mem_range _ _ _).1 hk; omega
      simp [look, this]
    simpa [range, look] using h

theorem sparing_bytes (d : Bool) : flashBytes sparing d 0x1000 280 = spareBody ++ spareMac := by
  have h := look_zip (spareBody ++ spareMac) 0x1000
  have hl : (spareBody ++ spareMac).length = 280 := by rw [List.length_append, spareMac_length, spareBody_length]
  rw [hl] at h
  rw [flashBytes, sparing, flashOf_both]
  exact h

theorem spareRecord_of (x : Sec) (d : Bool) (b : List Byte) (hp : x.fuse.provisioned = true) (hb : flashBytes x d 0x1000 280 = b)
    (hm : (b.drop 264).take 16 = gmac (kRec x) (b.take 4 ++ List.replicate 8 0#8) (b.take 264)) :
    ∃ q l, spareRecord x d = some (leNat (b.take 4), q, l) := by
  unfold spareRecord
  rw [hb]
  simp [hp, hm]

theorem sparing_mac (k : List Byte → List Byte → List Byte) (m : List Byte) (h : m = k (spareBody.take 4 ++ List.replicate 8 0#8) spareBody)
    (hl : m.length = 16) :
    ((spareBody ++ m).drop 264).take 16 = k ((spareBody ++ m).take 4 ++ List.replicate 8 0#8) ((spareBody ++ m).take 264) := by
  rw [List.drop_left' spareBody_length, List.take_of_length_le (by omega), List.take_left' spareBody_length,
    List.take_append_of_le_length (by rw [spareBody_length]; omega)]
  exact h

theorem sparing_record (d : Bool) : ∃ q l, spareRecord sparing d = some (1, q, l) := by
  have h1 : leNat (spareBody.take 4) = 1 := by decide +kernel
  have h4 : (spareBody ++ spareMac).take 4 = spareBody.take 4 :=
    List.take_append_of_le_length (by rw [spareBody_length]; omega)
  obtain ⟨q, l, h⟩ := spareRecord_of sparing d _ (by decide +kernel) (sparing_bytes d)
    (sparing_mac (gmac (kRec sparing)) spareMac (by rw [sparing, kRec_flash, ← spareMac]) spareMac_length)
  exact ⟨q, l, by rw [h, h4, h1]⟩

theorem bootSpare_of (x : Sec) (a b : Nat × W32 × List W32) (ha : spareRecord x false = some a) (hb : spareRecord x true = some b)
    (h : ¬ a.1 < b.1) : bootSpare x = some a := by
  simp [bootSpare, ha, hb, h]

theorem witness_spares : ∃ q l, bootSpare sparing = some (1, q, l) := by
  obtain ⟨q, l, ha⟩ := sparing_record false
  obtain ⟨r, n, hb⟩ := sparing_record true
  exact ⟨q, l, bootSpare_of sparing (1, q, l) (1, r, n) ha hb (Nat.lt_irrefl 1)⟩

/-- WakeBeginsAndEnds. -/
theorem witness_wake : State.reset.m.calm ∧ State.reset.m.faults.hpDue = false ∧ State.reset.m.mode.mode = .wake ∧
    State.reset.m.pwr.pfw = false ∧ State.reset.m.mode.marchDone = false ∧ State.reset.m.mode.checksPassed = false ∧
    State.reset.m.sec.fuse.provisioned = false ∧ (inMode State.reset .dormant).m.calm ∧ bootSpare State.reset.m.sec = none ∧
    State.reset.fuses.bootFault = none ∧
    (let s := inPhase .closed id;
      let t : State := { s with m := { s.m with mode := { s.m.mode with checksPassed := true, marchDone := true } } };
      t.m.calm ∧ t.m.mode.mode = .wake ∧ t.m.watch.mainLost = false ∧ t.m.mode.pend = none ∧ t.m.faults.esc = 0 ∧
        nextEdgeAt t.m.tick = some 102400 ∧ (t.m.engines.get 0).act = .run ∧ (t.m.engines.get 0).forcedDue = false ∧
        (t.m.engines.get 0).undo = [] ∧ (∀ k, (t.m.watch.wd.get k).run = false) ∧
        ∀ k, (t.m.tiles.get k).degraded = false ∧ (t.m.tiles.get k).pend = false) := by
  delta Mach.calm
  decide +kernel

/-- A state of the supply. -/
def supplied (f : Power → Power) : State := mach fun m => { m with pwr := f m.pwr }

/-- MainIsLost. -/
theorem witness_main_lost : State.reset.m.pwr.supply = .on ∧
    (let s := supplied fun p => { p with supply := .ride };
      s.m.pwr.supply = .ride ∧ s.m.sec.burn = none) ∧
    (let s := supplied fun p => { p with supply := .fail, drainOpen := true };
      s.m.pwr.drainOpen = true ∧ s.m.faults.queue.length < 64 ∧
        ∀ e : BitVec 7, ∀ r ∈ lanesOf s.m e, (rep s.m (tileOf e) r).sb.head? = none) ∧
    (let s := supplied fun p => { p with supply := .fail };
      s.m.pwr.drainOpen = false ∧ s.m.bkp.cell = true) := by
  decide +kernel

/-- HardpanAndWatchdogs: each clause of the registers, the service in and out of its window, and the clock monitor. -/
theorem witness_hardpan : State.reset.m.live ∧ State.reset.m.hasRoom ∧ State.reset.m.emptied ∧
    State.reset.m.sec.fuse.bootFault = none ∧ byKeeper keeper ∧ keeper.master = .replica ∧
    State.reset.m.mode.mode ≠ .hardpan ∧ State.reset.m.faults.queue = [] ∧ State.reset.m.pwr.pfw = false ∧
    (0x5A3C_0001 : W32).toNat / 2 ^ 16 = 0x5A3C ∧ (0x5A3C_0001 : W32).getLsbD 1 = false ∧
    (0x5A3C_0002 : W32).getLsbD 0 = false ∧
    (let s := inMode State.reset .hardpan;
      s.m.watch.resetWanted = none ∧ s.m.live ∧ s.m.hasRoom) ∧
    (let s : State := { inMode State.reset .hardpan with m := { (inMode State.reset .hardpan).m with
        watch := { State.reset.m.watch with resetWanted := some 3 } } };
      s.m.mode.mode = .hardpan ∧ s.m.watch.resetWanted = some 3 ∧ s.m.pwr.pfw = false ∧ s.m.faults.queue = []) ∧
    (keeper.tick.setWidth 16 ^^^ State.reset.m.watch.mSalt = (0 : BitVec 16) ∧
      State.reset.m.watch.mAt + 1024000 * State.reset.m.watch.mMin.toNat ≤ State.reset.m.clk) ∧
    (∀ e : BitVec 7, (State.reset.m.engines.get e).halted = false) ∧ State.reset.m.calm ∧
    State.reset.m.watch.mainLost = false ∧ State.reset.m.watch.bkpLost = false ∧
    (∀ n ∈ [2999, 3251], n < 3000 ∨ 3250 < n) := by
  delta Mach.live Mach.hasRoom byKeeper Mach.calm Mach.emptied
  decide +kernel

/-- A state in which the watchdog of engine 0 is `x`. -/
def watched (x : Watchdog) : State := mach fun m => { m with watch := { m.watch with wd := m.watch.wd.set 0 x } }

theorem witness_watchdog :
    (∀ z ∈ [(false, (0 : Nat)), (true, 0), (true, 1)],
      let x : Watchdog := { Watchdog.reset with en := true, run := z.1, age := z.2 };
      let y := (watched x).m.watch.wd.get keeper.eng;
      (watched x).m.live ∧ (watched x).m.hasRoom ∧ y.en = true ∧ keeper.comp = y.owner ∧ y.bitten = false ∧
        (0 : BitVec 16) = keeper.tick.setWidth 16 ^^^ y.salt ∧ y.run = z.1 ∧ y.age = z.2 ∧ y.wmin = 1 ∧ y.due = false) ∧
    (∀ c : Bool, let s := watched { Watchdog.reset with en := true, crit := c };
      (s.m.watch.wd.get keeper.eng).crit = c ∧ s.m.mode.mode ≠ .hardpan ∧ s.m.pwr.pfw = false ∧ s.m.emptied ∧
        (inMode s .hardpan).m.live ∧ (inMode s .hardpan).m.hasRoom) ∧
    (let y := (watched { Watchdog.reset with en := true, owner := 5 }).m.watch.wd.get keeper.eng;
      ({ keeper with ring := 1 } : Who).comp ≠ y.owner ∧ ¬(({ keeper with ring := 1 } : Who).comp = 0 ∧
        ({ keeper with ring := 1 } : Who).ring = 0)) ∧
    (State.reset.m.watch.wd.get keeper.eng).en = false := by
  delta Mach.live Mach.hasRoom Mach.emptied
  decide +kernel

/-- FaultLog: an entry with and without a reaction, software codes, and calls of the owner. -/
theorem witness_faults :
    (∀ code ∈ [(0x0102 : BitVec 16).toNat, 0x0701],
      let ev : FaultEvent := ⟨BitVec.ofNat 16 code, 5, 0, 0, []⟩;
      let s := mach fun m => { m with faults := { m.faults with queue := [ev], headerOk := true } };
      s.m.faults.queue = [ev] ∧ s.m.faults.headerOk = true ∧ s.m.faults.newest = none ∧ ev.cont = [] ∧ ev.code.toNat = code ∧
        s.m.mode.mode ≠ .dormant ∧ s.m.mode.mode ≠ .hardpan ∧ s.m.pwr.pfw = false ∧
        s.m.faults.hpDue = false ∧ s.m.emptied) ∧
    (∀ code ∈ [0x0E01, 0x0E04, 0x0F00, 0x0FFF], (0x0E01 ≤ code ∧ code ≤ 0x0E04) ∨ (0x0F00 ≤ code ∧ code ≤ 0x0FFF)) ∧
    (∀ code ∈ [0x0E00, 0x0E05, 0x0EFF, 0x1000], ¬((0x0E01 ≤ code ∧ code ≤ 0x0E04) ∨ (0x0F00 ≤ code ∧ code ≤ 0x0FFF))) ∧
    (let s := inMode State.reset .commission;
      s.m.faults.wr = s.m.faults.mirwr ∧ s.m.watch.mainLost = false ∧ s.m.sec.flJob = none) ∧
    (let s := mach fun m => { m with faults := { m.faults with wr := 1 } };
      s.m.faults.wr ≠ s.m.faults.mirwr ∧ s.m.faults.mirrorAt = 0 ∧ s.m.faults.fresh = false ∧ s.m.sec.flJob = none) := by
  delta Mach.emptied
  decide +kernel

/-- A keeper in a fast call of ring `r` of compartment `c`, with `x` in E. -/
def calling (c : BitVec 10) (r : BitVec 2) (x : W64) : Arch :=
  { regs with fast := true, fring := r, e := x, link := Cap.make 0x200 0 0x1_0000 0x0D c 0 true }

theorem witness_calls : ∀ z ∈ [(0x102, 1), (0x102, 0), (0x103, 1), (0x103, 2), (0x100, 1), (0x101, 1)],
    let a := calling 1 z.2 z.1;
    let s := inMode (st a) .commission;
    (Ready s.m 0 a ↔ True) ∧ a.ring = 0 ∧ a.fast = true ∧ a.e = z.1 ∧ a.link.owner = 1 ∧ s.m.mode.mode = .commission ∧
      look 0 s.m.faults.ownerEvents a.link.owner.toNat < 16 ∧ s.m.hasRoom ∧ s.m.sec.busy = false ∧ s.m.sec.flJob = none := by
  delta Mach.hasRoom
  refine List.forall_mem_cons.2 ⟨?_, List.forall_mem_cons.2 ⟨?_, List.forall_mem_cons.2 ⟨?_, three ?_ ?_ ?_⟩⟩⟩
  all_goals exact ⟨iff_true_intro (ready (by decide +kernel)), by decide +kernel⟩

theorem witness_calls_clean (a : Arch) (g : Nat) : readsClean (inMode (st a) .commission).m g := ⟨rfl, rfl⟩

/-! ### Tiles and memory -/

/-- A state in which replica 3 of tile 0 is `x` after its bits of history are set. -/
def replica (k : RepState) (pass fail : BitVec 2) : State :=
  mach (modRep 0 3 fun x => { x with state := k, pass := pass, fail := fail, bist := true })

/-- TilesAndReplicas. -/
theorem witness_tiles :
    (∀ z ∈ [(RepState.fenced, (1 : BitVec 2), (1 : BitVec 2)), (.fenced, 2, 2), (.grog, 0, 1), (.grog, 0, 2)],
      (replica z.1 z.2.1 z.2.2).m.hasRoom ∧ (rep (replica z.1 z.2.1 z.2.2).m 0 3).bist = true ∧
        (replica z.1 z.2.1 z.2.2).m.live ∧ ((replica z.1 z.2.1 z.2.2).m.tiles.get 0).degraded = false ∧
        (rep (replica z.1 z.2.1 z.2.2).m 0 3).state = z.1 ∧ (rep (replica z.1 z.2.1 z.2.2).m 0 3).pass = z.2.1 ∧
        (rep (replica z.1 z.2.1 z.2.2).m 0 3).fail = z.2.2) ∧
    (let s := mach fun m => { m with clk := 51200 };
      atBoundary s.m 0 = true ∧ forcedOwed s.m 0 = false ∧
        (∀ r ∈ lanesOf s.m 0, let x := rep s.m (tileOf 0) r;
          x.sb = [] ∧ x.ldue = none ∧ x.repEnd = false ∧ x.arch.lop = 0 ∧ x.arch = bootArch) ∧
        s.m.tick.count.toNat % (s.m.tiles.get (tileOf 0)).sweep.toNat = 0 ∧
        s.m.tick.edgeAt + s.m.tick.period.toNat * 512 / 10 ≤ s.m.clk) ∧
    (let s := mach fun m => modRep 0 2 (fun x => { x with arch := { x.arch with a := 9 } }) { m with clk := 51200 };
      atBoundary s.m 0 = true ∧ lanesOf s.m 0 = [0, 1, 2] ∧ (rep s.m 0 0).arch = (rep s.m 0 1).arch ∧
        (rep s.m 0 2).arch.compared ≠ (rep s.m 0 0).arch.compared ∧ s.m.hasRoom ∧ liveCode s.m 0 ≠ 4 ∧
        forcedOwed s.m 0 = false) ∧
    (let w : Who := { keeper with ring := 1 };
      w.master = .replica ∧ ¬(w.comp = 0 ∧ w.ring = 0)) := by
  delta Mach.hasRoom Mach.live
  decide +kernel

/-- A state in which a span of rule `n` (two of two, three) waits to be compared with these results. -/
def spanned (n : Nat) (r : SpanRun) : State := mach fun m => { m with
  clk := 1000, spans := m.spans.set 5 ⟨BitVec.ofNat 128 (2 + n * 2 ^ 16 + 0x080400 * 2 ^ 32), Cap.null, Cap.null, Cap.null⟩
  spanRuns := m.spanRuns.set 5 r }

/-- SpansAreCompared: each line of the table. -/
theorem witness_spans :
    let e (x : BitVec 128) : MemberResult := .ended x [] 100 0;
    ∀ z ∈ [(2, SpanRun.mk (e 1) (e 1) .waiting false), (2, ⟨e 1, e 2, .waiting, false⟩), (2, ⟨.absent, e 1, .waiting, false⟩),
        (3, ⟨e 1, e 1, e 1, false⟩), (3, ⟨e 1, e 1, e 2, false⟩), (3, ⟨e 1, e 2, e 1, false⟩), (3, ⟨e 2, e 1, e 1, false⟩),
        (3, ⟨e 1, e 2, e 3, false⟩), (3, ⟨e 1, .absent, e 1, false⟩), (3, ⟨.absent, e 1, e 1, false⟩), (3, ⟨e 1, e 1, .absent, false⟩),
        (3, ⟨.absent, .absent, e 1, false⟩), (3, ⟨.absent, .absent, .absent, false⟩)],
      let s := spanned z.1 z.2;
      spanValid s.m.spans 5 = true ∧ (s.m.spans.get 5).members = z.1 ∧ (s.m.spanRuns.get 5).compared = false ∧
        (∀ k, k < z.1 → z.2.get k ≠ .waiting ∧ endTime (z.2.get k) + 103 ≤ s.m.clk ∧
          endTime (z.2.get k) + 103 < closeAt s.m.tick) ∧ s.m.hasRoom := by
  delta Mach.hasRoom
  decide +kernel

/-- A state of the mint with `addr` and the first and last words of a capability. -/
def minted (addr : W32) (w0 w1 w2 w3 : W32) (busy : Bool) : State :=
  mach fun m => { m with mint := { m.mint with addrLo := addr, w0 := w0, w1 := w1, w2 := w2, w3 := w3, busy := busy } }

/-- MintAndFence: the mint's refusals in their order, a store, and one in progress. -/
theorem witness_mint :
    (∀ z ∈ [((0x4000_0000 : W32), (0xC000_0000 : W32), (2 : Nat)), (0x4000_0008, 0, 3), (0x1000_0000, 0, 4), (0x40F5_0000, 0, 6),
        (0x40F5_0400, 0, 0), (0x2003_8000, 0, 6), (0x2003_7FF0, 0, 0), (0x40FF_FFF0, 0, 6), (0x2080_0000, 0, 4)],
      let s := minted z.1 0 0 0 z.2.1 false;
      let x := s.m.mint;
      let a : Addr := x.addrHi ++ x.addrLo;
      let c : Cap := ⟨x.w3 ++ x.w2 ++ x.w1 ++ x.w0, true⟩;
      let n := a.toNat;
      let memory : Bool := decide ((0x20000000 ≤ n ∧ n < 0x20800000) ∨ (0x40000000 ≤ n ∧ n < 0x41000000) ∨ 0x800000000 ≤ n);
      let area : Bool := decide ((0x20000000 ≤ n ∧ n < 0x20800000 ∧ 0x38000 ≤ n % 0x40000 ∧ n % 0x40000 < 0x3C000) ∨
        (0x40F40000 ≤ n ∧ n < 0x40F44000) ∨ (0x40F48000 ≤ n ∧ n < 0x40F49400) ∨ (0x40F50000 ≤ n ∧ n < 0x40F50400) ∨
        (0x40F80000 ≤ n ∧ n < 0x41000000));
      s.m.live ∧ x.busy = false ∧
        (if c.kind = 3 ∨ c.limit < c.base.toNat then 2
          else if n % 16 ≠ 0 then 3 else if memory = false then 4 else if area = true then 6 else 0) = z.2.2) ∧
    (minted 0x4000_0000 0 0 0 0 true).m.live ∧ (minted 0x4000_0000 0 0 0 0 true).m.mint.busy = true := by
  delta Mach.live
  decide +kernel

/-- A state with `f` in the words of the fence registers, and entry 1 of the store as `g`. -/
def fenced (f g old : FenceEntry) (busy : Nat) : State :=
  mach fun m => { m with mc := { m.mc with fw := f, fbusyUntil := busy, fence := (m.mc.fence.set 1 g).set 0 old } }

theorem witness_fence :
    let on (b t : W32) : FenceEntry := ⟨b, t, 0x400, 0⟩;
    ∀ z ∈ [(fenced FenceEntry.reset FenceEntry.reset FenceEntry.reset 5, (1 : Nat)),
        (fenced FenceEntry.reset FenceEntry.reset ⟨0, 0, 0x200, 0⟩ 0, 2), (fenced (on 5 5) FenceEntry.reset FenceEntry.reset 0, 3),
        (fenced (on 5 6) (on 5 6) FenceEntry.reset 0, 4), (fenced (on 5 6) (on 6 7) FenceEntry.reset 0, 0),
        (fenced FenceEntry.reset (on 5 6) FenceEntry.reset 0, 0)],
      let c := z.1.m.mc;
      let f := c.fw;
      let on (f : FenceEntry) : Bool := f.w2.getLsbD 10;
      let base (f : FenceEntry) : Nat := f.w0.toNat % 2 ^ 24;
      let top (f : FenceEntry) : Nat := if f.w1.toNat % 2 ^ 24 = 0 then 2 ^ 24 else f.w1.toNat % 2 ^ 24;
      z.1.m.live ∧
        (if z.1.m.clk < c.fbusyUntil then 1 else if (c.fence.get c.sel).w2.getLsbD 9 = true then 2
          else if on f = true ∧ top f ≤ base f then 3
          else if on f = true ∧ ∃ j, j ≠ c.sel ∧ on (c.fence.get j) = true ∧ base f < top (c.fence.get j) ∧
            base (c.fence.get j) < top f then 4 else 0) = z.2 := by
  delta Mach.live
  decide +kernel

/-- MemoryIsScrubbed: a state with these errors, and scrubbing. -/
def scrubbed (line : BitVec 29) (l : List Nat) : State :=
  let s := inMode State.reset .commission
  { s with m := { s.m with mc := { s.m.mc with scrubOn := true, scrubLine := line, writeBack := l } } }

/-- What a word with these wrong bits decodes to. -/
def decoded (g : Nat) (x : BitVec 152) : Nat :=
  match decodeGran (scrubbed 0 []).m.mc ((scrubbed 0 []).m.mem.flip g x) g with
  | .clean .. => 0
  | .corrected .. => 1
  | .bad .. => 2

theorem witness_scrub :
    (∀ z ∈ [(0x8000_0000, 1), (0x400_0000, 1), (0x400_0000, 2 ^ 145)], decoded z.1 (BitVec.ofNat 152 z.2) = 1) ∧
    decoded 0x400_0000 3 = 2 ∧
    (∀ z ∈ [(scrubbed 0 []), (scrubbed (BitVec.allOnes 29) [])],
      z.m.mc.scrubOn = true ∧ z.m.mode.mode = .commission ∧ z.m.hasRoom ∧ z.m.mem.errs = [] ∧
        ∀ j, j < 4 → z.m.mem.err (0x80000000 + 4 * z.m.mc.scrubLine.toNat + j) = 0) ∧
    (let s := scrubbed 0 [0x400_0000];
      s.m.mc.writeBack = 0x400_0000 :: []) := by
  delta Mach.hasRoom
  decide +kernel

/-! ### Channels -/

/-- A die with a history, and a channel with a mode and a field. -/
def judged (x : Die) : State := mach fun m => { m with dies := m.dies.set 1 x }
def chan (k : W32) (f : Chan → Chan) : State :=
  let s := inMode State.reset .commission
  { s with m := modChan 0x40 (fun x => f { x with term := k, cfg := { x.cfg with mode := k } }) s.m }

/-- AnalogueChecks: each outcome of a check of the references. -/
theorem witness_references :
    let d := Die.reset;
    ∀ z ∈ [(d, false, false, false, (1 : Nat)), ({ d with same := 2 }, false, false, false, 2),
        ({ d with same := 2, pattern := 5 }, true, false, true, 3),
        ({ d with same := 2, judged := true, verdict := 1, allIn := 28 }, false, false, false, 1),
        ({ d with same := 2, judged := true, verdict := 1, allIn := 29 }, false, false, false, 2)],
      let x := z.1;
      let p : BitVec 3 := BitVec.ofBool z.2.2.2.1 ++ BitVec.ofBool z.2.2.1 ++ BitVec.ofBool z.2.1;
      let v : BitVec 3 := if p = 0 then 0 else if p = 5 then 1 else 4;
      let n := if x.pattern = p then x.same + 1 else 1;
      let k := if v = 0 then x.allIn + 1 else 0;
      (judged x).m.hasRoom ∧ (judged x).m.live ∧ (judged x).m.dies.get 1 = x ∧
        (if n < 3 ∨ (x.judged = true ∧ x.verdict = v) ∨ (x.judged = true ∧ v = 0 ∧ k < 30) then 1
          else if 3 ≤ n ∧ v = 0 ∧ (x.judged = false ∨ (x.verdict ≠ 0 ∧ 30 ≤ k)) then 2
          else if 3 ≤ n ∧ v ≠ 0 ∧ (x.judged = false ∨ x.verdict ≠ v) then 3 else 0) = z.2.2.2.2 := by
  delta Mach.hasRoom Mach.live
  decide +kernel

/-- The results of both paths' calibrations, at the end of their last points. -/
theorem witness_result : ∀ isMain : Bool,
    let s0 := chan 1 fun x => { x with calOn := some isMain, calPoint := 3 };
    let s : State := { s0 with m := { s0.m with clk := 409603 } };
    let x := s.m.chans.get 0x40;
    x.calOn = some isMain ∧ x.calPoint + 409600 ≤ s.m.clk ∧ readsClean s.m (granOf (parAddr 0x40 0x10)) ∧ s.m.hasRoom ∧
      (List.replicate 20480 (7 : BitVec 4)).length = 20480 := by
  delta Mach.hasRoom readsClean
  refine fun isMain => ⟨?_, ?_, ?_, ?_, List.length_replicate ..⟩
  all_goals
    revert isMain
    decide +kernel

theorem witness_calibration :
    (let s := chan 1 id;
      let x := s.m.chans.get 0x40;
      x.mode ≠ 0 ∧ x.calOn = none ∧ (dieOf s.m 0x40).verdict = 0 ∧ x.calNextMain ≤ s.m.clk ∧ x.calNextShadow ≤ s.m.clk) ∧
    (∀ k ∈ [(7 : Nat), 9], let s := chan (BitVec.ofNat 32 k) fun x => { x with drive := 1 };
      let x := s.m.chans.get 0x40;
      (x.mode = 7 ∨ x.mode = 9) ∧ isOn x.drive = true ∧ x.shortOff = none) ∧
    (let s := chan 7 fun x => { x with drive := 1, shortOff := some 0 };
      let t : State := { s with m := { s.m with clk := 10240000 } };
      (t.m.chans.get 0x40).shortOff = some 0 ∧ isOn (t.m.chans.get 0x40).drive = true ∧ 0 + 10240000 ≤ t.m.clk) ∧
    State.reset.m.hasRoom := by
  delta Mach.hasRoom
  decide +kernel

/-- HartTransactions: a request with a legal length and with those around it, and each state of the transaction. -/
def talking (len : Nat) (f : Hart → Hart) : State :=
  let s := chan 10 fun x => { x with hart := f x.hart }
  { s with m := { s.m with
    clk := 40000000, mem := s.m.mem.putGran (granOf (parAddr 0x40 0x200)) (BitVec.ofNat 128 (1 + 256 * len)) false false } }

theorem witness_hart :
    (∀ n ∈ [0, 1, 240, 241], let s := talking n id;
      let ctl := par s.m 0x40 0x200;
      let x := s.m.chans.get 0x40;
      x.mode = 10 ∧ (∀ k, k < 32 → readsClean s.m (granOf (parAddr 0x40 0x200) + k)) ∧ ctl.getLsbD 0 = true ∧
        ctl.toNat / 2 ^ 8 % 2 ^ 8 = n ∧ x.hart.state = 0) ∧
    (∀ z ∈ [(1, false, false), (3, false, false), (0, true, true), (0, true, false)],
      let s := talking 5 fun h => { h with
        state := BitVec.ofNat _ z.1, idValid := true, idRun := z.2.1, idWait := z.2.2 };
      let h := (s.m.chans.get 0x40).hart;
      h.state.toNat = z.1 ∧ h.idValid = true ∧ h.idRun = z.2.1 ∧ h.idWait = z.2.2 ∧ h.quiet + 2048000 ≤ s.m.clk ∧
        h.txEnd + 31232000 ≤ s.m.clk ∧ h.idNext ≤ s.m.clk) := by
  delta readsClean
  decide +kernel

/-- An owner's access, and another's. -/
def owner : Who := { keeper with comp := 4, ring := 1 }

/-- ChannelRegisters. -/
theorem witness_channel :
    (∀ z ∈ [(false, false), (true, false), (false, true)],
      let s := chan 1 fun x => { x with cpend := z.1, ramping := z.2 };
      let x := s.m.chans.get 0x40;
      s.m.live ∧ byKeeper keeper ∧ x.cpend = z.1 ∧ x.ramping = z.2 ∧ x.rampDue = false ∧ x.live = (1 : W32).getLsbD 2 ∧
        s.m.mode.mode = .commission ∧ s.m.hasRoom) ∧
    (let s := { State.reset with m := { State.reset.m with owner := State.reset.m.owner.set 0x40 4, clk := 204 } };
      s.m.live ∧ owner.master = .replica ∧ s.m.owner.get 0x40 = owner.comp ∧ s.m.owner.get 0x41 ≠ owner.comp ∧
        ¬ byKeeper owner ∧ s.m.tick.edgeAt + 204 ≤ s.m.clk) ∧
    (let s := chan 1 fun x => { x with live := true };
      (s.m.chans.get 0x40).live = true ∧ (4 : W32).getLsbD 2 = true ∧ (4 : W32).getLsbD 0 = false) := by
  delta Mach.live Mach.hasRoom byKeeper
  decide +kernel

/-- SamplesAndRamps: a channel that samples, its paths settled and not, and one that ramps. -/
theorem witness_samples :
    (∀ z ∈ [(0, 0), (1, 1)],
      let s0 := chan 1 fun x => { x with
        main := { x.main with settle := z.1 }, shadow := { x.shadow with settle := z.2 }, openSet := false
        cfg := { x.cfg with lim := 0x20 } };
      let s : State := { s0 with m := { s0.m with
        pwr := { s0.m.pwr with railLow := false }, dies := s0.m.dies.set 1 { Die.reset with judged := true, refOk := 7 } } };
      let x := s.m.chans.get 0x40;
      x.live = false ∧ x.mode = 1 ∧ x.frozen = false ∧ s.m.mode.mode = .commission ∧
        (List.replicate x.cfg.ratio (0 : BitVec 4)).length = x.cfg.ratio ∧ x.calOn = none ∧ x.altBack = false ∧
        x.cfg.strm = false ∧ x.main.settle = z.1 ∧ x.shadow.settle = z.2 ∧ refsGood s.m 0x40 = true ∧
        x.openSet = false ∧ x.shortSet = false ∧ x.cfg.lim.getLsbD 5 = true ∧ s.m.pwr.railLow = false) ∧
    (let s := chan 5 fun x => { x with ramping := true, rampAt := 0, rampLen := 1 };
      let x := s.m.chans.get 0x40;
      x.ramping = true ∧ s.m.clk < x.rampAt + x.rampLen) := by
  decide +kernel

/-- Timers: the registers, the ends of the range of TOP, and each use. -/
theorem witness_timers :
    (∀ k ∈ [(0 : Nat), 9], let s := chan (BitVec.ofNat 32 k) id;
      s.m.live ∧ byKeeper keeper ∧ (s.m.chans.get 0x40).mode.toNat = k) ∧
    (2 : W32).toNat = 2 ∧ (1 : W32).toNat < 2 ∧
    (∀ u ∈ [(1 : Nat), 2, 3, 4],
      let s := chan 8 fun x => { x with timer := { x.timer with
        run := true, use := BitVec.ofNat 3 u, cmp := 1, latest := some 0 } };
      let x := s.m.chans.get 0x40;
      let t := x.timer;
      t.run = true ∧ t.stopped = false ∧ t.use.toNat = u ∧ x.ramping = false ∧ t.up = true ∧ t.count.toNat < t.top.toNat ∧
        t.ud = false ∧ t.count.toNat < t.cmp.toNat ∧ t.cmp.toNat ≤ t.top.toNat ∧ x.mode = 8 ∧ t.timedOut = false ∧
        s.m.clk < t.latest.getD t.since + t.top.toNat + 1) := by
  delta Mach.live byKeeper
  decide +kernel

/-! ### The hosts -/

/-- A port whose link is up. -/
def linked : HPort := { HPort.reset with perst := false, up := true, busMaster := true, msixEn := true }

/-- A state in which both ports are up, the keeper is ready, ring 0 is active on port A, and the host block is changed. -/
def hosted (k : Mode) (f : HostIf → HostIf) : State :=
  let s := inMode State.reset k
  let r : Ring := { Ring.reset with st := .active, sqLog := 4, cqLog := 4, phase := true, owner := 1 }
  { s with m := { s.m with clk := 20, host := f { s.m.host with
    portA := linked, portB := linked, kready := true, rings := s.m.host.rings.set 0 r } } }

/-- PortsAndTheirRings: host windows, the resets, the admin rings, the links and the status page. -/
theorem witness_ports :
    (let s := hosted .commission fun h => { h with busyUntil := 21 };
      s.m.live ∧ byKeeper keeper ∧ s.m.clk < s.m.host.busyUntil) ∧
    (let s := hosted .commission fun h => { h with busyUntil := 20 };
      s.m.host.busyUntil ≤ s.m.clk ∧ s.m.mode.mode ≠ .operate ∧ s.m.mode.mode ≠ .hardpan ∧ s.m.pwr.pfw = false ∧
        s.m.watch.resetWanted = none ∧ s.m.faults.queue = [] ∧ (portOf s.m.host true).up = true ∧
        s.m.sec.fuse.bootFault = none ∧
        (ringOf s.m 1).st = .free ∧ (ringOf s.m 0).st = .active ∧ s.m.hasRoom ∧ s.m.watch.mainLost = false) ∧
    (∀ z ∈ [(false, false), (false, true), (true, false)],
      let s0 := hosted .hardpan id;
      let s : State := { s0 with m := { s0.m with
        faults := { s0.m.faults with hpSafe := z.1 }, pwr := { s0.m.pwr with pfw := z.2 } } };
      s.m.mode.mode = .hardpan ∧ s.m.faults.hpSafe = z.1 ∧ s.m.pwr.pfw = z.2 ∧ s.m.faults.queue = [] ∧
        s.m.sec.fuse.bootFault = none ∧ (portOf s.m.host false).up = true) ∧
    (hosted .operate id).m.mode.mode = .operate ∧
    (∀ z ∈ [(0x44, true), (0xCC, true), (0x33, false), (0xDD, false)],
      let x : HPort := { linked with admCfg := BitVec.ofNat _ z.1 };
      (x.asq.toNat % 4096 = 0 ∧ x.acq.toNat % 4096 = 0 ∧ 4 ≤ x.admCfg.toNat % 16 ∧ x.admCfg.toNat % 16 ≤ 12 ∧
        4 ≤ x.admCfg.toNat / 16 ∧ x.admCfg.toNat / 16 ≤ 12) ↔ z.2 = true) ∧
    (let s := hosted .commission fun h => { h with portB := { HPort.reset with perst := false } };
      let x := portOf s.m.host true;
      let other := portOf s.m.host false;
      x.perst = false ∧ x.up = false ∧ s.m.watch.mainLost = false ∧ other.up = true ∧ other.msixEn = true ∧
        other.oneShot.getLsbD 5 = false ∧ ∀ r : Byte, (ringOf s.m r).port = true → (ringOf s.m r).st = .free) := by
  delta Mach.live byKeeper Mach.hasRoom
  decide +kernel

theorem answers {s : State} {r : Byte} (h : let x := ringOf s.m r;
    (x.st = .active ∨ x.st = .deleting) ∧ x.waiting = [] ∧ (x.cqTail.toNat + 1) % x.nc ≠ x.cqHead.toNat ∧
      (portOf s.m.host x.port).up = true ∧ (portOf s.m.host x.port).busMaster = true) : canAnswer s.m r := h

/-- An abort of a message and of a service. -/
theorem witness_abort :
    (let y : Msg := ⟨7, 0, 5, false, false, 0, 0, 0⟩;
      let s := hosted .hardpan fun h => { h with rings := h.rings.upd 0 fun x => { x with msgs := [y] } };
      s.m.mode.mode = .hardpan ∧ s.m.host.removal = false ∧ s.m.host.irqs = [] ∧ canAnswer s.m 0 ∧
        (ringOf s.m 0).msgs = [y] ∧ (ringOf s.m 0).svcs = [] ∧ y.irq = false ∧
        ∀ q : Byte, q ≠ 0 → (ringOf s.m q).msgs = [] ∧ (ringOf s.m q).svcs = []) ∧
    (let s := hosted .hardpan fun h => { h with rings := h.rings.upd 0 fun x => { x with svcs := [(5, false)] } };
      canAnswer s.m 0 ∧ (ringOf s.m 0).msgs = [] ∧ (ringOf s.m 0).svcs = [(5, false)] ∧
        ∀ q : Byte, q ≠ 0 → (ringOf s.m q).msgs = [] ∧ (ringOf s.m q).svcs = []) := by
  delta canAnswer
  decide +kernel

/-- A descriptor: its opcode, DMA_IN or not, its length, and fields of its parameters at byte offsets. -/
def desc (opc : Nat) (dmaIn : Bool) (len : Nat) (l : List (Nat × Nat)) : BitVec 512 :=
  BitVec.ofNat 512 (l.foldl (fun n x => n + x.2 * 2 ^ (8 * x.1)) (opc + (if dmaIn then 256 else 0) + len * 2 ^ 32))

/-- A state in which the descriptor `d` of ring 0 waits for the keeper. -/
def asking (k : Mode) (d : BitVec 512) : State := hosted k fun h => { h with svc := [⟨0, d⟩] }

/-- A state whose fence store lets port A reach the area of ring 0, at 0x4000_2000, its entry in the port's cache. -/
def opened (f : Ring → Ring) (g : HostIf → HostIf) : State :=
  let s := hosted .commission fun h => g { h with rings := h.rings.upd 0 fun x => f { x with area := 0x4000_2000 } }
  let e := areaEntry (ringOf s.m 0) 0x4000_2000 1
  { s with m := { s.m with mc := { s.m.mc with fence := s.m.mc.fence.set 0 e, portCaches := s.m.mc.portCaches.set 0 [(0, e)] } } }

/-- RingsAndDescriptors: doorbells at the ends of a ring, and each kind of descriptor. -/
theorem witness_rings :
    (let s := hosted .commission id;
      let x := ringOf s.m 0;
      s.m.mode.mode ≠ .dormant ∧ (portOf s.m.host false).up = true ∧ s.m.host.kready = true ∧ x.waiting = [] ∧
        x.st = .active ∧ x.owner = 1 ∧ x.port = false ∧ x.ns = 16 ∧ x.nc = 16) ∧
    (let s := hosted .commission fun h => { h with kready := false };
      s.m.host.kready = false ∧ s.m.mode.mode ≠ .sleep ∧ (portOf s.m.host false).up = true) ∧
    (hosted .hardpan id).m.mode.mode = .hardpan ∧
    (let s := opened (fun x => { x with t := 1 }) fun h => { h with
        quota := h.quota.set 1 { Quota.reset with limit := Quota.reset.limit.set 0 10 } };
      let x := ringOf s.m 0;
      let slot : Addr := x.area + BitVec.ofNat 36 (0x40 + 64 * (x.inWr.toNat % x.ns));
      mayFetch s.m 0 = true ∧ x.fmt = false ∧ canAnswer s.m 0 ∧
        (desc 0x40 false 0 [(1, 8)]).toNat / 2 ^ 11 % 2 ^ 5 ≠ 0 ∧
        (∀ n ∈ [0, 0x100001], n = 0 ∨ 0x100000 < n) ∧ (∀ n ∈ [1, 0x100000], ¬(n = 0 ∨ 0x100000 < n)) ∧
        quotaLimit s.m.host x.owner 1 < 1 ∧ x.area.toNat % 16 = 0 ∧
        slot.toNat = x.area.toNat + 0x40 + 64 * (x.inWr.toNat % x.ns) ∧
        (portWrite x slot (bytesOf (desc 0x40 false 0 []) 0 64) s.m).1 = true) := by
  delta canAnswer
  and_intros <;> decide +kernel

/-- A state in which firmware has posted the answer to the one message of ring 0. -/
def message : Msg := ⟨7, 0, 5, false, false, 0, 0, 0⟩
def posted : State :=
  let s0 := opened (fun x => { x with msgs := [message] }) id
  { s0 with m := { s0.m with
      mem := (s0.m.mem.putGran 0x400_0201 (1 <<< 32) false false).putGran 0x400_0245 (7 <<< 64) false false } }

theorem witness_posted :
    let x := ringOf posted.m 0;
    canAnswer posted.m 0 ∧ x.st = .active ∧ x.area ≠ 0 ∧
      (∀ q : Byte, q ≠ 0 → (ringOf posted.m q).st = .free ∧ (ringOf posted.m q).waiting = []) ∧
      posted.m.host.attnHeld = false ∧ posted.m.host.removal = false ∧ posted.m.host.irqs = [] ∧ x.msgs = [message] ∧
      message.dmaOut = false ∧ message.irq = false ∧ message.k = 7 := by
  delta canAnswer
  decide +kernel

theorem witness_posted_index : areaRead (ringOf posted.m 0) 0x14 posted.m = ((ringOf posted.m 0).outRd + 1, posted.m) :=
  Prod.ext (by decide +kernel) rfl

theorem witness_posted_record :
    let x := ringOf posted.m 0;
    let l : List Byte := List.replicate 24 0 ++ [7] ++ List.replicate 7 0;
    portRead x (x.area + BitVec.ofNat 36 (0x40 + 64 * x.ns + 32 * (x.outRd.toNat % x.nc))) 32 posted.m = (some l, posted.m) ∧
      l.length = 32 ∧ leNat ((l.drop 24).take 2) = message.k.toNat :=
  ⟨Prod.ext (by decide +kernel) rfl, by decide +kernel, by decide +kernel⟩

/-- Services: every service in a mode that permits it, and each clause on its parameters. -/
theorem witness_services :
    (∀ z ∈ [(Mode.wake, 0), (.commission, 1), (.wake, 0xE), (.commission, 0xF), (.commission, 0x10), (.operate, 0xA), (.commission, 0xA),
        (.operate, 0xB), (.commission, 0x11), (.operate, 0x12), (.commission, 2), (.operate, 3), (.commission, 4), (.commission, 5),
        (.commission, 6), (.commission, 7), (.commission, 8), (.commission, 9), (.commission, 0xC), (.commission, 0xD)],
      asked (asking z.1 (desc z.2 false 0 [])).m z.2 0 (desc z.2 false 0 [])) := by
  delta asked canAnswer
  decide +kernel

theorem witness_set_tick :
    (∀ z ∈ [(250, 1, 1, true), (100000, 0xFFFF, 15, true), (249, 1, 1, false), (100001, 1, 1, false), (250, 0, 1, false),
        (250, 1, 0, false)],
      let d := desc 0x10 false 0 [(0x1C, z.1), (0x20, z.2.1 + 2 ^ 16 * z.2.2.1)];
      let par32 (o : Nat) : W32 := BitVec.ofNat 32 (d.toNat / 2 ^ (8 * o) % 2 ^ 32);
      let period := (par32 0x1C).toNat % 2 ^ 17;
      asked (asking .commission d).m 0x10 0 d ∧
        ((250 ≤ period ∧ period ≤ 100000 ∧ (par32 0x20).toNat % 2 ^ 16 ≠ 0 ∧ (par32 0x20).toNat / 2 ^ 16 % 2 ^ 4 ≠ 0) ↔
          z.2.2.2 = true)) := by
  delta asked canAnswer
  decide +kernel

theorem witness_mode_services :
    (let d := desc 0xA false 0 [(0x18, 4)];
      asked (asking .operate d).m 0xA 0 d ∧ (asking .operate d).m.mode.pend = none ∧ asked (asking .commission d).m 0xA 0 d) ∧
    (let s0 := asking .operate (desc 0xB false 0 []);
      let s : State := { s0 with m := { s0.m with yl := { s0.m.yl with pres := true, pflags := 1 } } };
      s0.m.yl.pres = false ∧ asked s.m 0xB 0 (desc 0xB false 0 []) ∧ mayRelease s.m = false) ∧
    (let d := desc 0x11 false 0 [(0x18, 0x5A3C)];
      asked (asking .commission d).m 0x11 0 d ∧ (asking .commission d).m.pwr.pfw = false ∧ (asking .commission d).m.faults.queue = [] ∧
        (asking .commission d).m.sec.fuse.bootFault = none) ∧
    (State.reset.m.sec.fuse.provisioned = false ∧
      (let s0 := asking .commission (desc 0xF false 0 []);
        let s : State := { s0 with m := { s0.m with sec := { s0.m.sec with fuse := s0.m.sec.fuse.program 0 1 0 } } };
        s.m.sec.fuse.provisioned = true ∧ asked s.m 0xF 0 (desc 0xF false 0 []))) ∧
    (let d := desc 0x13 false 0 [];
      canAnswer (asking .operate d).m 0 ∧ keeperUp (asking .operate d).m = true ∧ (asking .operate d).m.host.svc = [⟨0, d⟩] ∧ d.toNat % 2 ^ 8 = 0x13) := by
  delta asked canAnswer
  and_intros <;> decide +kernel

/-- ResourceServices: rings, windows, quotas, pages. -/
theorem witness_resources :
    (let d := desc 2 false 0 [(0x18, 2), (0x1A, 0x44)];
      let s := asking .commission d;
      asked s.m 2 0 d ∧ (ringArgs d).isSome = true ∧ freeRingId s.m = some 2 ∧ freeFence s.m = some 0 ∧
        (let t : State := { s with m := { s.m with host := { s.m.host with
            quota := s.m.host.quota.set 2 { Quota.reset with limit := Quota.reset.limit.set 3 1 } } } };
          asked t.m 2 0 d ∧ quotaLimit t.m.host 2 3 = 1 ∧ areaPages 16 16 = 1 ∧ pagesOf t.m.host 2 = 0 ∧
            pagesFree t.m 0x4000_0000 1 = true) ∧ quotaLimit s.m.host 2 3 = 0) ∧
    (∀ z ∈ [(1, 0x44), (2, 0x43)], let d := desc 2 false 0 [(0x18, z.1), (0x1A, z.2)];
      asked (asking .commission d).m 2 0 d ∧ (z.1 < 2 ∨ z.2 % 16 < 4)) ∧
    (let d := desc 3 false 0 [(0x18, 2)];
      let s := hosted .operate fun h => { h with
        svc := [⟨0, d⟩], rings := h.rings.set 2 { Ring.reset with st := .active, area := 0x4000_2000 } };
      asked s.m 3 0 d ∧ (ringOf s.m 2).st = .active ∧ (region ((ringOf s.m 2).area + 8)).isMem = true) ∧
    (let s := hosted .operate fun h => { h with
        rings := h.rings.set 2 { Ring.reset with st := .deleting, area := 0x4000_2000, delBy := some (0, 0, false) } };
      (ringOf s.m 2).st = .deleting ∧ (ringOf s.m 2).delBy = some (0, descCid (desc 3 false 0 []), descIrq (desc 3 false 0 [])) ∧
        canAnswer s.m 0 ∧ (region ((ringOf s.m 2).area + 8)).isMem = true) := by
  delta asked canAnswer
  and_intros <;> decide +kernel

theorem witness_windows :
    (∀ z ∈ [(1, true), (1024, true), (0, false), (1025, false)],
      let d := desc 4 false 0 [(0x18, 2), (0x1C, z.1), (0x20, 0x1000)];
      let s := hosted .commission fun h => { h with
        svc := [⟨0, d⟩], quota := h.quota.set 2 { Quota.reset with limit := Quota.reset.limit.set 2 1 } };
      asked s.m 4 0 d ∧ freeWindow s.m = some 0 ∧ windowsOf s.m.host 2 < quotaLimit s.m.host 2 2 ∧
        ((1 ≤ d.toNat / 2 ^ (8 * 0x1C) % 2 ^ 16 ∧ d.toNat / 2 ^ (8 * 0x1C) % 2 ^ 16 ≤ 1024) ↔ z.2 = true)) ∧
    (∀ z ∈ [(0, 10, true), (4, 10, true), (5, 10, false), (0, 11, false)],
      let d := desc 6 false 0 [(0x18, 2), (0x1A, z.1), (0x1C, z.2.1)];
      let s := hosted .commission fun h => { h with
        svc := [⟨0, d⟩], quota := h.quota.set 2 { Quota.reset with ceil := Vector.replicate _ 10 } };
      let item := d.toNat / 2 ^ (8 * 0x1A) % 2 ^ 8;
      asked s.m 6 0 d ∧ engineUse (bankBudgets s.m) 2 = 0 ∧
        ((item < 5 ∧ d.toNat / 2 ^ (8 * 0x1C) % 2 ^ 32 ≤ ((s.m.host.quota.get 2).ceil.get (BitVec.ofNat 3 item)).toNat) ↔
          z.2.2 = true)) := by
  delta asked canAnswer
  decide +kernel

theorem witness_pages :
    (let d := desc 8 false 0 [(0x18, 2), (0x1C, 1)];
      let s := hosted .commission fun h => { h with
        svc := [⟨0, d⟩], quota := h.quota.set 2 { Quota.reset with limit := Quota.reset.limit.set 3 1 } };
      asked s.m 8 0 d ∧ pagesOf s.m.host 2 + 1 ≤ quotaLimit s.m.host 2 3 ∧ pagesFree s.m 0x4000_0000 1 = true ∧
        asked (asking .commission d).m 8 0 d ∧ quotaLimit (asking .commission d).m.host 2 3 < 1) ∧
    (let d := desc 9 false 0 [(0x18, 2), (0x20, 0x4000_0000)];
      let s := hosted .commission fun h => { h with svc := [⟨0, d⟩], allocs := [⟨2, 0x4000_0000, 1⟩] };
      asked s.m 9 0 d ∧ (∀ q : Byte, (ringOf s.m q).st = .free ∨ (ringOf s.m q).area ≠ 0x4000_0000) ∧
        ∃ x ∈ s.m.host.allocs, x.comp = 2 ∧ x.addr = 0x4000_0000) := by
  delta asked canAnswer
  decide +kernel

/-- An image of compartment 2: its header in good form, and 16 bytes. -/
def image : List Byte := bytesOf (0x9A5E_0C31 : W32) 0 4 ++ [2, 0, 2, 0] ++ List.replicate 8 0 ++ [16, 0, 0, 0] ++ List.replicate 316 0

/-- LOAD_COMPARTMENT, with an image in good form and with one that is too short. -/
theorem witness_load_compartment :
    let d := desc 0xC true 0x150 [(0x18, 2)];
    let s := asking .commission d;
    let hd : Header := ⟨image.take 0x140⟩;
    asked s.m 0xC 0 d ∧ d.getLsbD 8 = true ∧ d.toNat / 2 ^ 32 % 2 ^ 32 = 0x150 ∧ image.length = 0x150 ∧ s.m.sec.busy = false ∧
      hd.kind = 2 ∧ hd.comp = 2 ∧ hd.formOk = true ∧ hd.len = 16 ∧ freeFence s.m = some 0 ∧
      pagesFree s.m 0x4000_0000 ((0x150 + 4095) / 4096) = true ∧ pagesFree s.m 0x4000_1000 ((16 + 4095) / 4096) = true ∧
      (image.take 0x13F).length < 0x140 := by
  delta asked canAnswer
  and_intros <;> decide +kernel

theorem witness_update :
    let d := desc 0xD true 0x20000 [];
    asked (asking .commission d).m 0xD 0 d ∧ d.getLsbD 8 = true ∧ d.toNat / 2 ^ 32 % 2 ^ 32 = 0x20000 := by
  delta asked canAnswer
  decide +kernel

theorem zeros_value (n : Nat) : leNat (List.replicate n 0#8) = 0 := by
  induction n with
  | zero => rfl
  | succ n ih => rw [List.replicate_succ, leNat, ih]; rfl

/-- An empty bank of the tilth table, and one with a malformed entry. -/
theorem bank_zero (n : Nat) (m : Mach) : bankOk (List.replicate n 0#8) m = true := by
  have h : imageList (List.replicate n 0#8) = fun _ => [] := funext fun e => by
    have hr : range 0 64 = 0 :: range 1 63 := rfl
    rw [imageList, hr, List.map_cons, List.drop_replicate, List.take_replicate, zeros_value, List.takeWhile_cons,
      if_neg (by decide)]
  rw [bankOk, h]
  rfl

def badBank (n : Nat) : List Byte := [1, 0, 0, 0, 0, 0, 0, 0, 1, 0, 0, 0, 0, 0, 0, 0] ++ List.replicate n 0#8

theorem bank_bad (n : Nat) (m : Mach) : bankOk (badBank n) m = false := by
  have h : 0x1_0000_0000_0000_0001#128 ∈ (range 0 128).flatMap (imageList (badBank n)) := by
    refine List.mem_flatMap.2 ⟨0, by decide, ?_⟩
    have h0 : ((badBank n).drop (1024 * 0 + 16 * 0)).take 16 = [1, 0, 0, 0, 0, 0, 0, 0, 1, 0, 0, 0, 0, 0, 0, 0] := rfl
    have hr : range 0 64 = 0 :: range 1 63 := rfl
    rw [imageList, hr, List.map_cons, h0, List.takeWhile_cons, if_pos (by decide)]
    exact List.mem_cons.2 (.inl (by decide))
  have hm : slotMalformed m.tick 0x1_0000_0000_0000_0001#128 = true := by
    simp [slotMalformed, fld]
  rw [bankOk, Bool.and_eq_false_iff]
  exact .inl (List.all_eq_false.2 ⟨_, h, by rw [hm]; decide⟩)
theorem bad_len (n : Nat) : (badBank n).length = 16 + n := by
  rw [badBank, List.length_append, List.length_replicate]; rfl

/-- TILTH_UPDATE. -/
theorem witness_banks : bankOk (List.replicate 0x20000 0#8) (asking .commission 0).m = true ∧
    bankOk (badBank 0x1FFF0) (asking .commission 0).m = false ∧
    (List.replicate 0x20000 0#8).length = 0x20000 ∧ (badBank 0x1FFF0).length = 0x20000 :=
  ⟨bank_zero _ _, bank_bad _ _, List.length_replicate .., bad_len _⟩

/-! ### Security -/

/-- The security block changed, in `k` mode. -/
def secured (k : Mode) (f : Sec → Sec) : State :=
  let s := inMode State.reset k
  { s with m := { s.m with sec := f s.m.sec } }

theorem clean (k : Mode) (f : Sec → Sec) (g : Nat) : readsClean (secured k f).m g := ⟨rfl, rfl⟩

/-- FusesAreBurned: each refusal, and burns that are accepted. -/
theorem witness_fuses :
    (∀ z ∈ [(0, (2 : W32), (5 : Nat)), (0, 1, 0), (148, 1, 0), (150, 1, 0), (162, 1, 0), (192, 1, 4), (255, 1, 4), (34, 1, 0), (8, 1, 0)],
      let s := secured .commission fun x => { x with fSel := BitVec.ofNat 8 z.1, fMask := z.2.1 };
      let x := s.m.sec;
      let i := x.fSel.toNat;
      let life : W32 := x.fuse.m0.get 0 ||| x.fuse.m0.get 1;
      s.m.live ∧ byKeeper keeper ∧ x.burn = none ∧ (0x5A3C_0000 : W32).toNat / 2 ^ 16 = 0x5A3C ∧
        (if ¬(i < 2 ∨ (148 ≤ i ∧ i < 162) ∨ ((i < 34 ∨ (60 ≤ i ∧ i < 86) ∨ (112 ≤ i ∧ i < 192)) ∧ life.getLsbD 0 = false) ∨
            (((34 ≤ i ∧ i < 60) ∨ (86 ≤ i ∧ i < 112)) ∧ life.getLsbD 1 = false)) then 4
          else if i < 2 ∧ (((List.range 32).filter fun j => x.fMask.getLsbD j).all fun j => (List.range j).all fun k => life.getLsbD k) = false
            then 5 else 0) = z.2.2) ∧
    (let s := secured .commission fun x => { x with burn := some (3, 5) };
      s.m.sec.burn = some (3, 5)) ∧
    (secured .sleep id).m.live ∧ (secured .sleep id).m.sec.burn = none ∧
    (let s := secured .commission fun x => { x with floorDue := true };
      s.m.sec.floorDue = true ∧ s.m.sec.burn = none ∧ s.m.pwr.pfw = false ∧ s.m.sec.fuse = s.fuses) := by
  delta Mach.live byKeeper
  decide +kernel

/-- An image of compartment `c` under the owner's slot: its header with this digest, at `a`. -/
def stored (a : Nat) (c : Nat) (gen : Nat) (digest : List Byte) (f : Sec → Sec) : State :=
  let s := secured .commission fun x => f { x with arg0 := BitVec.ofNat 32 a, arg2 := 0x4000_8000 }
  let h : List Byte := bytesOf (0x9A5E_0C31 : W32) 0 4 ++ [2, 0] ++ bytesOf (BitVec.ofNat 16 c) 0 2 ++ [0, 0, 0, 0]
    ++ bytesOf (BitVec.ofNat 32 gen) 0 4 ++ [16, 0, 0, 0] ++ List.replicate 44 0 ++ digest
  { s with m := { s.m with mem := (range 0 7).foldl (fun m k =>
      m.putGran (a / 16 + k) (BitVec.ofNat 128 (leNat ((h.drop (16 * k)).take 16))) false false) s.m.mem } }

def owned (x : Sec) : Sec := { x with bootStat := 2, slotA := some ⟨7, List.replicate 96 0, List.replicate 32 0⟩ }
def digest : List Byte := sha384 (List.replicate 16 0)

/-- SecurityCommands, VERIFY: an address that may not be read, a header in bad form, a body that may not be read, no slot, no
key, an old generation, a wrong digest and a wrong signature. -/
theorem witness_verify :
    (∀ z ∈ [(stored 0x3000_0000 2 7 [] id, (1 : Nat)), (stored 0x4000_0000 1024 7 [] id, 2), (stored 0x40FF_FEC0 2 7 [] id, 3),
        (stored 0x4000_0000 2 7 [] id, 4), (stored 0x4000_0000 1 7 [] owned, 5), (stored 0x4000_0000 2 6 [] owned, 6),
        (stored 0x4000_0000 2 7 [] owned, 7), (stored 0x4000_0000 2 7 digest owned, 8)],
      let s := z.1;
      let x := s.m.sec;
      let a : Addr := (x.arg1.setWidth 4 : BitVec 4) ++ x.arg0;
      let h : Header := ⟨memBytes s.m a 0x140⟩;
      let ct := memBytes s.m (a + 0x140) h.len;
      let pub := h.part 0x70 96;
      let slot := x.slotInForce;
      let owners : Bool := decide (h.kind = 1 ∨ (h.kind = 2 ∧ h.comp ≠ 1));
      x.busy = false ∧
        (if granted false s.m a 0x140 = false then 1 else if h.formOk = false then 2
          else if granted false s.m (a + 0x140) h.len = false then 3
          else if owners = true ∧ slot = none then 4
          else if (if owners = true then slot.all fun k => decide (pub ≠ k.pub) else !x.fuse.provisioned) = true then 5
          else if slot.any (fun k => decide (h.keyGen ≠ k.gen.toNat)) = true then 6
          else if sha384 ct ≠ h.part 0x40 48 then 7
          else if ecdsaVerify pub (h.part 0 0xD0) (h.part 0xD0 96) = false then 8 else 9) = z.2) := by
  decide +kernel

/-- SecurityCommands: the other commands. -/
theorem witness_security :
    (secured .commission id).m.live ∧ byKeeper keeper ∧ (secured .commission fun x => { x with busy := true }).m.sec.busy = true ∧
    (∀ z ∈ [(0x3000_0000, false), (0x4000_0000, true)],
      let s := secured .commission fun x => { x with arg0 := BitVec.ofNat 32 z.1 };
      let a : Addr := (s.m.sec.arg1.setWidth 4 : BitVec 4) ++ s.m.sec.arg0;
      s.m.sec.busy = false ∧ s.m.sec.fuse.provisioned = false ∧ granted false s.m a 0x1C0 = z.2 ∧
        granted false s.m (a + 0x10) 32 = z.2 ∧ granted false s.m a 264 = z.2 ∧ granted true s.m (a + 264) 16 = z.2 ∧
        granted true s.m a 176 = z.2) ∧
    (match packageSlot State.reset.m.sec (List.replicate 0x1C0 0) with
      | .error k => k
      | .ok _ => 0) = 2 ∧
    (secured .commission fun x => { x with fuse := x.fuse.program 0 1 0 }).m.sec.fuse.provisioned = true := by
  delta Mach.live byKeeper
  decide +kernel

/-- FlashIsWritten: operations that fit and do not, and one in progress of each kind. -/
theorem witness_flash :
    (∀ z ∈ [(0x3FFFFF0, 16, true), (0, 0x100000, true), (0x3FFFFF0, 32, false), (8, 16, false), (0, 0x100010, false)],
      let s := secured .commission fun x => { x with flAddr := BitVec.ofNat _ z.1, flLen := BitVec.ofNat _ z.2.1 };
      let x := s.m.sec;
      s.m.live ∧ x.flJob = none ∧ ((x.flAddr.toNat % 16 = 0 ∧ x.flLen.toNat % 16 = 0 ∧ x.flLen.toNat ≤ 0x100000 ∧
        x.flAddr.toNat + x.flLen.toNat ≤ 0x4000000) ↔ z.2.2 = true)) ∧
    (∀ op ∈ [(1 : Nat), 2, 3],
      let s := secured .commission fun x => { x with flJob := some ⟨BitVec.ofNat 2 op, true, 0x5000, 0x4000_0000, 32⟩ };
      s.m.sec.flJob = some ⟨BitVec.ofNat 2 op, true, 0x5000, 0x4000_0000, 32⟩ ∧ granted true s.m 0x4000_0000 32 = true ∧
        granted false s.m 0x4000_0000 32 = true) ∧
    (let a := { calling 1 1 0x101 with x := reg 0x4000_0000 };
      a.x.tag = true ∧ a.x.kind = 0 ∧ a.x.has rRD = true ∧ a.x.inBounds a.x.cursor 0x1C0 = true ∧
        (region a.x.cursor).isMem = true) ∧
    imageOffset ⟨image⟩ 0x31_0000 = some 0x31_0000 ∧ imageOffset ⟨image⟩ 0x30_F000 = none := by
  delta Mach.live
  decide +kernel

/-- Samples that pass the health tests. -/
def samples : BitVec 1024 := BitVec.ofNat 1024 (0x5555 * ((2 ^ 1024 - 1) / 0xFFFF))

/-- RandomNumbers: each state of the DRBG, a full queue, and the ends of CALLS. -/
theorem witness_random :
    (∀ n ∈ [7, 8], let s := secured .commission fun x => { x with reqs := List.replicate n ⟨0, none⟩ };
      s.m.live ∧ s.m.sec.reqs.length = n) ∧
    (∀ z ∈ [(Drbg.startup, 0), (.ready, 4095), (.ready, 4096), (.degraded, 65534), (.degraded, 65535), (.exhausted, 65536)],
      let s := secured .wake fun x => { x with
        drbg := z.1, calls := BitVec.ofNat _ z.2, reqs := [⟨0, none⟩] };
      s.m.mode.mode ≠ .dormant ∧ s.m.sec.reqs = ⟨0, none⟩ :: [] ∧ s.m.sec.drbg = z.1 ∧ s.m.sec.calls.toNat = z.2 ∧
        s.m.hasRoom) ∧
    (let s := secured .wake fun x => { x with reqs := [⟨0, some (some 9)⟩] };
      s.m.sec.reqs = ⟨0, some (some 9)⟩ :: []) ∧
    healthy samples = true ∧ healthy 0 = false ∧
    (∀ n ∈ [1, 2], let s := secured .wake fun x => { x with startFails := n };
      s.m.sec.startFails = n ∧ s.m.sec.drbg = .startup ∧ s.m.mode.mode = .wake ∧ s.m.calm ∧ s.m.pwr.pfw = false) := by
  delta Mach.live Mach.hasRoom Mach.calm
  decide +kernel

/-! ### Debug -/

/-- The debug block changed, in `k` mode; the vendor's key is burned where `v`. -/
def debugged (k : Mode) (v : Bool) (f : Debug → Debug) : State :=
  let s := inMode (st regs) k
  { s with m := { s.m with
    dbg := f s.m.dbg
    sec := { s.m.sec with drbg := .ready, fuse := if v then s.m.sec.fuse.program 0 3 0 else s.m.sec.fuse } } }

/-- PortAndSessions: the answers to a request in their order. -/
theorem witness_sessions :
    (∀ z ∈ [(debugged .commission true fun d => { d with lockout := some 5 }, (1 : Byte).toNat, (4 : Nat)),
        (debugged .commission true fun d => { d with check := some (true, 1) }, 1, 1),
        (debugged .commission true fun d => { d with level := 1 }, 1, 6), (debugged .commission true id, 8, 7),
        (debugged .commission true id, 4, 7), (debugged .operate true id, 2, 2), (debugged .wake true id, 1, 2),
        (debugged .commission true id, 7, 3), (debugged .commission false id, 2, 3), (debugged .commission false id, 3, 9),
        (debugged .commission true id, 3, 0), (debugged .hardpan true id, 1, 0), (debugged .commission true id, 6, 0)],
      let s := z.1;
      let req := BitVec.ofNat 8 z.2.1;
      let d := s.m.dbg;
      let f := s.m.sec.fuse;
      let life : W32 := f.m0.get 0 ||| f.m0.get 1;
      let cfg : W32 := f.m0.get 148 ||| f.m0.get 149;
      let level : BitVec 2 := req.setWidth 2;
      let owner : Bool := req.getLsbD 2;
      let key : Bool := if owner then life.getLsbD 1 && !cfg.getLsbD 1 && decide (level ≠ 3) else life.getLsbD 0 && !cfg.getLsbD 0;
      s.m.mode.mode ≠ .dormant ∧
        (if d.lockout ≠ none then 4 else if d.check ≠ none then 1 else if d.level ≠ 0 then 6
          else if ¬(req.toNat / 8 = 0 ∧ level ≠ 0) then 7
          else if ¬(s.m.mode.mode = .commission ∨ (level.toNat ≤ 1 ∧
            (s.m.mode.mode = .operate ∨ s.m.mode.mode = .sleep ∨ s.m.mode.mode = .hardpan))) then 2
          else if life.getLsbD 0 = false ∧ req = 3 then 9 else if key = false then 3 else if s.m.sec.drbg ≠ .ready then 5 else 0)
          = z.2.2) := by
  decide +kernel

theorem witness_tap :
    (∀ ir ∈ [(0x03 : Nat), 0x0F, 0x13, 0xFF], ir ∉ [0x00, 0x01, 0x02, 0x10, 0x11, 0x12]) ∧
    (debugged .commission true fun d => { d with bscan := true }).m.dbg.bscan = true ∧
    (debugged .commission true id).m.dbg.bscan = false ∧ (debugged .commission true id).m.dbg.nonce = none ∧
    (debugged .commission true fun d => { d with nonce := some (9, 0, 1) }).m.dbg.nonce = some (9, 0, 1) ∧
    (debugged .operate true fun d => { d with check := some (true, 2) }).m.dbg.check = some (true, 2) ∧
    (debugged .operate true fun d => { d with check := some (false, 2) }).m.dbg.check = some (false, 2) := by
  decide +kernel

/-- DebugAccesses: what each level may reach, at the ends of the ranges. -/
theorem witness_debug :
    (∀ l ∈ [(0 : Nat), 1, 2, 3], let s := debugged .commission true fun d => { d with level := BitVec.ofNat 2 l };
      s.m.mode.mode ≠ .dormant ∧ s.m.dbg.level.toNat = l ∧ validEngine s.m s.m.dbg.eng = true ∧
        lanesOf s.m s.m.dbg.eng = [0, 1, 2]) ∧
    region 0xC000_0000 = .hostWin ∧ region 0x4000_0000 = .shared ∧ region 0x8000_0680 = .regs ∧
    (∀ z ∈ [((0 : Nat), (0 : Nat), true), (2, 1, false)],
      let s := debugged .commission true fun d => { d with level := 3, comp := BitVec.ofNat _ z.1, ring := BitVec.ofNat _ z.2.1 };
      dbgAllowed 0x4000_0000 false s.m = z.2.2 ∧ dbgAllowed 0x4000_0000 true s.m = z.2.2 ∧
        readsClean s.m (granOf 0x4000_0000)) ∧
    (∀ z ∈ [(false, (3 : Nat), (0 : Nat), (0 : Nat), true), (false, 2, 0, 0, false), (true, 2, 2, 1, true), (true, 2, 1, 1, false),
        (true, 2, 2, 0, false)],
      let s := debugged .commission true fun d => { d with level := BitVec.ofNat _ z.2.1, owner := z.1 };
      ((s.m.dbg.owner = true ∧ 2 ≤ z.2.2.1 ∧ z.2.2.2.1 ≠ 0) ∨
        (s.m.dbg.owner = false ∧ (z.2.2.2.1 ≠ 0 ∨ (z.2.2.1 = 0 ∧ s.m.dbg.level = 3)))) ↔ z.2.2.2.2 = true) ∧
    (State.reset.m.sec.fuse.m0.get 148 ||| State.reset.m.sec.fuse.m0.get 149).getLsbD 2 = false ∧
    (∀ i ∈ [(2 : Nat), 0x1C, 0x1D, 0xC3, 0x808],
      let s := eng (debugged .commission true fun d => { d with level := 2, idx := BitVec.ofNat _ i })
        fun g => { g with halted := true };
      s.m.dbg.idx.toNat = i ∧ (s.m.engines.get s.m.dbg.eng).halted = true) ∧
    validEngine (debugged .commission true fun d => { d with eng := 1 }).m 1 = false := by
  delta readsClean
  decide +kernel

/-- A state with a CONTROL session and its engine 0 as `f` has it. -/
def controlled (p : TickPhase) (f : Engine → Engine) (g : DEng → DEng) : State :=
  let s := eng (debugged .commission true fun d => { d with level := 2, engs := d.engs.upd 0 g }) f
  { s with m := { s.m with tick := { s.m.tick with phase := p } } }

/-- EnginesAreHalted. -/
theorem witness_halts :
    (let s := controlled .p1 id id;
      let g := s.m.engines.get 0;
      let x := s.m.dbg.engs.get 0;
      2 ≤ s.m.dbg.level.toNat ∧ validEngine s.m 0 = true ∧ g.halted = false ∧ x.want = false ∧ g.keeper = true ∧
        s.m.tick.edgeAt + (s.m.tick.period.toNat - 25) * 512 / 5 > s.m.clk + 1024) ∧
    (let s := controlled .p1 (fun g => { g with keeper := false }) id;
      (s.m.engines.get 0).cur = none ∧ (s.m.engines.get 0).keeper = false ∧
        ∀ r ∈ lanesOf s.m 0, (rep s.m (tileOf 0) r).sb = []) ∧
    (∀ w : Bool, let s := controlled .p1 id fun x => { x with want := true, waitSc := w };
      let y := s.m.dbg.engs.get 0;
      y.want = true ∧ y.waitSc = w ∧ s.m.dbg.owner = false ∧ (s.m.engines.get 0).act = .run ∧
        ∀ r ∈ lanesOf s.m 0, let z := rep s.m (tileOf 0) r;
          z.sb = [] ∧ z.ldue = none ∧ z.repEnd = false ∧ z.arch.lop = 0) ∧
    (∀ p ∈ [TickPhase.p1, .closed], let s := controlled p (fun g => { g with halted := true }) id;
      (s.m.engines.get 0).halted = true ∧ (s.m.engines.get 0).keeper = true ∧ s.m.tick.phase = p) ∧
    (2 : W32).toNat / 2 % 4 = 1 ∧ (1 : W32).toNat / 2 % 4 = 0 ∧ (1 : W32).getLsbD 6 = false ∧ (4 : W32).getLsbD 0 = false := by
  decide +kernel

/-! ### Power, heat, the backup domain and the Yunal link -/

/-- PowerAndHeat, with the readings at the thresholds. -/
theorem witness_heat :
    State.reset.m.calm ∧ State.reset.m.faults.hpDue = false ∧ State.reset.m.pwr.supply ≠ .fail ∧ State.reset.m.live ∧
    (∀ b : Bool, (supplied fun p => { p with flim := b }).m.pwr.flim = b) ∧ 8000 < (8001 : BitVec 16).toNat ∧
    (7999 : BitVec 16).toNat < 8000 ∧
    (9599 : BitVec 16).toInt < 150 * 64 ∧ 150 * 64 ≤ (9600 : BitVec 16).toInt ∧ 147 * 64 < (9409 : BitVec 16).toInt ∧
    (6719 : BitVec 16).toInt < 105 * 64 ∧ 105 * 64 ≤ (6720 : BitVec 16).toInt ∧ (8000 : BitVec 16).toInt ≤ 125 * 64 ∧
    (State.reset.m.pwr.warned.get 4).getLsbD 3 = false ∧ State.reset.m.pwr.dramHot.getLsbD 0 = false ∧
    (∀ k, State.reset.m.pwr.warned.get k = 0) := by
  delta Mach.calm Mach.live
  decide +kernel

/-- The backup domain changed. -/
def backed (k : Mode) (f : Backup → Backup) : State :=
  let s := inMode State.reset k
  { s with m := { s.m with bkp := f s.m.bkp } }

/-- BackupDomain. -/
theorem witness_backup :
    (∀ n ∈ [(0 : Nat), 2], let s := backed .commission fun b => { b with
        baseline := true, sentCfg := 0x0000_000D, runs := b.runs.set 0 n };
      let b := s.m.bkp;
      s.m.hasRoom ∧ s.m.faults.queue.length < 63 ∧ s.m.dbg.bscan = false ∧ b.baseline = true ∧ b.pend = 0 ∧ b.runs.get 0 = n ∧
        (∀ j : Fin 8, j ≠ 0 → b.sentCfg.getLsbD (4 * j.val) = false) ∧ b.sentCfg.getLsbD 0 = true ∧
        b.sentIn.getLsbD 0 ≠ true) ∧
    (let s := backed .commission id;
      s.m.live ∧ s.m.hasRoom ∧ s.m.bkp.baseline = false ∧ s.m.bkp.pend = 0 ∧ s.m.bkp.rly.getLsbD 0 = false ∧ s.m.bkp.guard = false) ∧
    (∀ g : Bool, (backed .commission fun b => { b with guard := g, rly := 1 }).m.bkp.guard = g) ∧
    (∀ n ∈ [(0 : Nat), 3], (0x5A3C_0000 + BitVec.ofNat 32 n : W32).toNat / 2 ^ 16 = 0x5A3C ∧
      (0x5A3C_0000 + BitVec.ofNat 32 n : W32).toNat % 16 < 4) ∧
    (∀ r : Fin 2, (0x5A3C_0000 + BitVec.ofNat 32 (4 * 2 ^ r.val) : W32).toNat % 16 = 4 * 2 ^ r.val) ∧
    (let s := backed .commission fun b => { b with rtcRem := 3124 };
      s.pending = [] ∧ s.m.watch.bkpLost = false ∧ s.m.bkp.rtcRem = 3124 ∧ s.m.bkp.rtcLoad = none) ∧
    (∀ k ∈ [Mode.commission, .dormant, .sleep], let s := backed k fun b => { b with almEn := true };
      let b := s.m.bkp;
      b.almEn = true ∧ (b.rtc >>> 16).setWidth 32 = b.alm ∧ b.almLast ≠ some ((b.rtc >>> 16).setWidth 48) ∧ b.cell = true ∧
        s.m.watch.bkpLost = false) ∧
    (∀ b : Bool, let s := mach fun m => { m with host := { m.host with kready := b } };
      s.m.mode.mode ≠ .dormant ∧ s.m.mode.mode ≠ .hardpan ∧ s.m.pwr.pfw = false ∧ s.m.dbg.bscan = false ∧
        s.m.host.attnHeld = false ∧ s.m.host.attnSeen = false ∧ s.m.host.kready = b) := by
  delta Mach.hasRoom Mach.live
  and_intros <;> decide +kernel

/-- A state of the link in `k` mode. -/
def yunal (k : Mode) (f : Yunal → Yunal) : State :=
  let s := inMode State.reset k
  { s with m := { s.m with yl := f s.m.yl, tick := { s.m.tick with phase := .p1 } } }

/-- A heartbeat with these flags. -/
def heartbeat (f : Byte) : List Byte :=
  let l : List Byte := [0x60, 0x0C, 0x5E, 0x9A, 3, f] ++ List.replicate 22 0
  l ++ bytesOf (crc32c l) 0 4

/-- YunalLink: heartbeats, presence, and the states of the link. -/
theorem witness_link :
    (∀ f ∈ [(0 : Byte).toNat, 1, 8], let l := heartbeat (BitVec.ofNat 8 f);
      l.length = 32 ∧ l.take 4 = [0x60, 0x0C, 0x5E, 0x9A] ∧ l.drop 0x1C = bytesOf (crc32c (l.take 0x1C)) 0 4) ∧
    (let s := yunal .operate fun y => { y with fullEn := true, take := true, pfull := true, takeover := true };
      let y := s.m.yl;
      s.m.mode.mode ≠ .dormant ∧ s.m.pwr.pfw = false ∧ y.fullEn = true ∧ y.take = true ∧ y.pfull = true ∧ y.st = .silt ∧
        y.lane1Down = none ∧ y.pres = false ∧ y.takeover = true ∧ s.m.live ∧ s.m.hasRoom) ∧
    (∀ n ∈ [(16 : Nat), 17], let s := yunal .commission fun y => { y with st := .full, idleTicks := n, pres := true };
      s.m.yl.st = .full ∧ s.m.yl.idleTicks = n ∧ s.m.yl.pres = true) ∧
    (yunal .commission fun y => { y with st := .train, lane1Down := some false }).m.yl.st = .train ∧
    (yunal .commission fun y => { y with lane1Down := some true }).m.yl.lane1Down = some true := by
  delta Mach.live Mach.hasRoom
  and_intros <;> decide +kernel

/-- The mirror: no entry, one entry with the link up and down, and frames at the ends of their range. -/
theorem witness_mirror :
    (∀ k : BitVec 4, ¬ ((yunal .operate id).m.yl.mir.get k).getLsbD 15 = true) ∧
    (∀ b : Bool, let s := yunal .operate fun y => { y with mir := y.mir.set 3 0x8802, st := if b then .full else .silt };
      s.m.mode.mode ≠ .dormant ∧ s.m.watch.mainLost = false ∧ s.m.pwr.pfw = false ∧ s.m.tick.phase = .p1 ∧
        (s.m.yl.mir.get 3).getLsbD 15 = true ∧ (∀ j : BitVec 4, (s.m.yl.mir.get j).getLsbD 15 = true → j = 3) ∧
        s.m.yl.mirSent = false ∧ (s.m.yl.st = .full ↔ b = true) ∧ s.m.mem.errs = [] ∧ s.m.mem.pois = [] ∧
        (pagesRead 2 0x4000_0000 1 s.m).1 = false ∧
        (pagesRead 2 0x4000_0000 1 { s.m with mc := { s.m.mc with
          fence := s.m.mc.fence.set 0 (pagesEntry 0x4000_0000 2 2 0 false 0xC0) } }).1 = true) ∧
    (∀ z ∈ [(2, (0 : Nat)), (16, 0xEF)], 2 ≤ z.1 ∧ z.1 ≤ 16 ∧ 0x10000 * z.2 + 4096 * z.1 ≤ 0xF00000) := by
  decide +kernel

/-! ### The block as a whole -/

/-- StepRunsFront, EveryCommandIsAnswered, FusesNeverClear. -/
theorem witness_step : (∃ t, Machine.step State.reset = .next t) ∧ State.reset.pending = [] ∧
    (∀ i : Byte, State.reset.fuses.m1.get i = 0) :=
  ⟨⟨_, rfl⟩, rfl, by decide +kernel⟩

theorem witness_burned :
    let s := secured .commission fun x => { x with floorDue := true, keyGen := 1 };
    (match exec (.floorBurn 0 0) s with
      | .next t => decide (t.fuses.m1.get 150 = 1 ∧ s.fuses.m1.get 150 = 0)
      | _ => false) = true := by
  decide +kernel

end Sys2Proof.Tests
end

