-- ==== Sys2Proof/Tests/Slice0.lean ====
section
/-! SUPPORT. Ill-formed commands that the check refuses, and single steps whose results the spec or a published standard
gives. -/

namespace Sys2Proof.Tests

set_option Elab.async false

open Sys2Proof Sys2Proof.Machine

/-! ### Well-formed commands -/

theorem test_wf_length : (Instr.registerWrite keeper 0x8000_0048 3 0).wf = false := by decide
theorem test_wf_alignment : (Instr.registerWrite keeper 0x8000_0049 4 0).wf = false := by decide
theorem test_wf_register_write : (Instr.registerWrite keeper 0x8000_0048 4 0).wf = true := by decide
theorem test_wf_hart_frame : (Instr.hartResponse 0 (List.replicate 268 0) true true 0).wf = false := by decide +kernel
theorem test_wf_hart_answer : (Instr.hartResponse 0 [] false true 0).wf = false := by decide
theorem test_wf_samples : (Instr.outputSample 0 [] [0] [] 0).wf = false := by decide
theorem test_wf_scrub_order : (Instr.sramScrubPass [(2, 1), (1, 1)]).wf = false := by decide
theorem test_wf_scrub_error : (Instr.sramScrubPass [(2, 0)]).wf = false := by decide
theorem test_wf_march : (Instr.marchTestEnd true 5 [] 0 0).wf = false := by decide
theorem test_wf_scan : (Instr.extest [true] []).wf = false := by decide
theorem test_wf_preload : (Instr.samplePreload [] [true]).wf = false := by decide
theorem test_wf_heartbeat : (Instr.heartbeatReceived []).wf = false := by decide
theorem test_wf_mirror_size : (Instr.mirrorFrameReceived 0 2 1 0 0 [] []).wf = false := by decide
theorem test_wf_mirror_pages : (Instr.mirrorFrameReceived 0 2 2 0 0 [] []).wf = false := by decide
theorem test_wf_mirror_bisques :
    (Instr.mirrorFrameReceived 0 2 2 0 0 (List.replicate 4096 0) (List.replicate 16 0)).wf = false := by decide +kernel
theorem test_wf_warning_length : (Instr.powerFailWarning 0 0 0x10_0001 []).wf = false := by decide
theorem test_wf_warning_sector : (Instr.powerFailWarning 0 0 0 (List.replicate 4097 0)).wf = false := by decide +kernel

/-- The table of commands gives no bits. -/
theorem test_no_words : decodeTableWord 32 0 = none ∧ State.reset.withFetchWord 32 0 = State.reset := ⟨rfl, rfl⟩

/-! ### Instructions -/

/-- What lane 0 of engine 0 holds after a command. -/
def after {α : Type} (i : Instr) (s : State) (f : Arch → α) : Option α :=
  match exec i s with
  | .next t => some (f (rep t.m 0 0).arch)
  | _ => none

/-- R90: a sum that wraps sets Z and C. -/
theorem test_add_wraps :
    after (.add 0 1 1) (st { regs with a := 0xFFFF_FFFF_FFFF_FFFF }) (fun a => (a.a, a.f)) = some (0, 0b00101) := by
  decide +kernel

/-- R90: the difference of unequal signs that 64 bits cannot hold sets V. -/
theorem test_sub_overflows :
    after (.sub 0 1 1) (st { regs with a := 0x8000_0000_0000_0000 }) (fun a => (a.a, a.f)) = some (0x7FFF_FFFF_FFFF_FFFF, 0b01000) := by
  decide +kernel

/-- R91: a count of 0 leaves C. -/
theorem test_shift_zero : after (.shl 0 1 64) (st { regs with a := 3, f := 4 }) (fun a => (a.a, a.f)) = some (3, 4) := by
  decide +kernel

/-- R83: mode 0 extends the sign, mode 1 zeroes. -/
theorem test_immediates :
    after (.lde 0 0 0xFFFFF) (st regs) (fun a => a.e) = some 0xFFFF_FFFF_FFFF_FFFF ∧
      after (.lde 0 1 0xFFFFF) (st regs) (fun a => a.e) = some 0xFFFFF := by
  decide +kernel

/-- R72: a load leaves its value pending. -/
theorem test_load_pending : after (.lda 0 1 7) (st regs) (fun a => (a.a, a.lpend, a.lval)) = some (1, true, 7) := by
  decide +kernel

/-- R93: a signed product is 128 bits wide in E:M. -/
theorem test_product :
    (match exec (.longOpResult 0) (st { regs with lop := 0x40, lopa := 0xFFFF_FFFF_FFFF_FFFF, lopb := 5, ldist := 1 }) with
      | .next t => some ((rep t.m 0 0).arch.e, (rep t.m 0 0).arch.m)
      | _ => none) = some (0xFFFF_FFFF_FFFF_FFFF, 0xFFFF_FFFF_FFFF_FFFB) := by
  decide +kernel

/-- R163, R164: TRAP enters vector 0x09 with its code as the cause. -/
theorem test_trap : 
    after (.trap 0 0 0x55) (stx { regs with lpend := true, lop := 0x40, ldist := 4 }) (fun a => (a.pcc.cursor, a.a, a.exl))
      = some (0x1000_0120, 0x5509, true) := by
  decide +kernel

/-- R153: SYSC 0 enters ring 0 and leaves the return in LINK. -/
theorem test_fast_call :
    after (.sysc 0 0 (4 * 9)) (st ring1) (fun a => (a.ring, a.e, a.link.cursor, a.fast)) = some (0, 9, 0x104, true) := by
  decide +kernel

/-- R105: the count, the length and the start of a repeat block stand in RCNT and RSTATE. -/
theorem test_repeat : after (.rep 0 0 0x32) (st regs) (fun a => (a.rcnt, a.rstate)) = some (3, 0x0000_0000_1040_0586) := by
  decide +kernel

/-! ### The module -/

/-- The module after a command. -/
def module {α : Type} (i : Instr) (s : State) (f : Mach → α) : Option α :=
  match exec i s with
  | .next t => some (f t.m)
  | _ => none

/-- R45: MODE is asked for with its key; without it the request is refused with code 2. -/
theorem test_mode_key :
    module (.modeReqWrite keeper 0x1234_0003) (inMode State.reset .commission) (fun m => (m.mode.pend, m.mode.refuse)) = some (none, 2) ∧
    module (.modeReqWrite keeper 0x5A3C_0003) (inMode State.reset .commission) (fun m => m.mode.pend) = some (some .operate) := by
  decide +kernel

/-- R11: a period below 250 µs is ignored and sets WERR. -/
theorem test_period :
    module (.tickPeriodWrite keeper 249) State.reset (fun m => (m.tick.periodNext, m.tick.werr)) = some (none, true) ∧
    module (.tickPeriodWrite keeper 250) State.reset (fun m => (m.tick.periodNext, m.tick.werr)) = some (some 250, false) := by
  decide +kernel

/-- R456: IDCODE shifts out 0x1912_8A3B. -/
theorem test_idcode : module .idcode State.reset (fun m => m.outbox) = some [.tdo [0x3B, 0x8A, 0x12, 0x19]] := by
  decide +kernel

/-- R424: a ninth request is ignored and sets OVF. -/
theorem test_requests :
    module (.rngRequest keeper 1) (secured .commission fun x => { x with reqs := List.replicate 8 ⟨0, none⟩ })
      (fun m => (m.sec.reqs.length, m.sec.ovf)) = some (8, true) := by
  decide +kernel

/-! ### Published standards -/

/-- The check value of CRC-32C. -/
theorem test_crc : crc32c [0x31, 0x32, 0x33, 0x34, 0x35, 0x36, 0x37, 0x38, 0x39] = 0xE306_9283 := by decide +kernel

/-- FIPS 180, SHA-384 of "abc": the first eight octets. -/
theorem test_sha : (sha384 [0x61, 0x62, 0x63]).take 8 = [0xCB, 0x00, 0x75, 0x3F, 0x45, 0xA3, 0x5E, 0x8B] := by decide +kernel

end Sys2Proof.Tests
end

section
/-! PROOFS. The module after reset (R11, R18, R41, R134, R184, R413). -/

namespace Sys2Proof.Machine

open Sys2Proof

set_option Elab.async false -- one proof at a time: the threads of many at once exceed the memory of a check

/-- Engine 0 stands ready at the first instruction of the boot ROM, without a session or a breakpoint. -/
theorem ready_reset : Ready State.reset.m 0 bootArch where
  boundary := by decide +kernel
  lanes := by decide +kernel
  quiet := by delta Replica.quiet; decide +kernel
  notForced := by decide +kernel
  undebugged := by delta Machine.undebugged; decide +kernel
  notDue := .inl rfl
  outside := by decide +kernel
  fetch := by decide +kernel
  word := by decide +kernel

/-- Every tile starts as a voted triple, so its one engine stands at position 0 (R10, R184). -/
theorem validEngine_reset (e : BitVec 7) : validEngine State.reset.m e = decide (posOf e = 0) := by
  revert e; decide +kernel

/-- In every tile replicas 0 to 2 are the lanes and replica 3 is the grog (R184). -/
theorem lanes_reset (t : BitVec 5) :
    lanesOf State.reset.m (t ++ 0#2) = [0, 1, 2] ∧ (rep State.reset.m t 3).state = .grog := by
  revert t; decide +kernel

theorem fuses_reset (i) : State.reset.fuses.m0.get i = 0 ∧ State.reset.fuses.m1.get i = 0 := by
  revert i; decide +kernel

/-- Settles O37: the module at edge 0 of its first WAKE, field by field. -/
theorem resetState : Obligations.ResetState := by
  unfold Obligations.ResetState
  exact ⟨rfl, rfl, rfl, rfl, rfl, ready_reset, by decide +kernel, rfl, rfl, validEngine_reset, lanes_reset, rfl, rfl,
    fun _ => rfl, fuses_reset⟩

end Sys2Proof.Machine
end

section
/-! PROOFS. Why O26 fails: a HART transmission that ends within the time that the budget warning lets pass. -/

namespace Sys2Proof.Machine

open Sys2Proof

set_option Elab.async false -- one proof at a time: the threads of many at once exceed the memory of a check

/-- A fold of which no step changes anything. -/
theorem foldl_fixed {α σ : Type} (f : σ → α → σ) (s : σ) (l : List α) (h : ∀ x ∈ l, f s x = s) : l.foldl f s = s := by
  induction l with
  | nil => rfl
  | cons x l ih =>
    rw [List.foldl_cons, h x (by simp)]
    exact ih fun y hy => h y (by simp [hy])

/-- A modem that is not sending waits for nothing (R293). -/
theorem hartWaits_of_not_sending {c : BitVec 8} {m : Mach} (h : (m.chans.get c).hart.state ≠ 2) : hartWaits c m = m :=
  if_neg fun h' => h h'.1

/-- A channel that neither ramps nor counts stands still as time passes. -/
theorem advanceChan_of_still {a b : Nat} {c : BitVec 8} {m : Mach} (hr : (m.chans.get c).ramping = false)
    (ht : (m.chans.get c).timer.run = false) : advanceChan a b c m = m := by
  simp [advanceChan, hr, ht]

/-- Time moves on: the copier carries on, then halted engines, the backup domain, the channels and the modems. -/
theorem advanceTo_of_lt {t : Nat} {m : Mach} (h : m.clk < t) :
    advanceTo t m = allChans.foldl (fun m c => hartWaits c m) { allChans.foldl (fun n c => advanceChan m.clk t c n)
      (haltedTime (t - m.clk) (if backupFed (copier t m) then { copier t m with
        bkp := rtcAdvance (copier t m).watch.bkpLost (t - m.clk) (copier t m).bkp } else copier t m)) with clk := t } :=
  if_pos h

/-- The copier is done once the lists of all engines stand copied (R27). -/
theorem copier_done {t : Nat} {m : Mach} (h : m.tick.copied = 128) : copier t m = m := if_neg (by omega)

theorem haltedTime_none {n : Nat} {m : Mach} (h : m.engines.toList.any Engine.halted = false) : haltedTime n m = m :=
  if_neg (by simp [h])

/-- The warning of a slot that has begun, with a budget above 20 µs (R176). -/
theorem budgetWarning_due {m : Mach} {e : BitVec 7} {r : Run} (hcur : (m.engines.get e).cur = some r)
    (hh : (m.engines.get e).halted = false) (hw : r.warned = false) (hb : r.begun = true) (hlong : 20 < r.slot.budget.toNat)
    (hrun : tickRuns m = true) :
    budgetWarning e m = modEng e (fun g => { g with budgetPend := true, cur := g.cur.map fun r => { r with warned := true } })
      (advanceTo (r.start + usClk (r.slot.budget.toNat - 5)) m) := by
  have : ¬ r.slot.budget.toNat ≤ 20 := by omega
  simp [budgetWarning, hcur, hh, hw, hb, hrun, this]

/-- A slot with a budget of 100 µs that began at clock 0 and has not been warned. -/
def warnedLater : Run :=
  ⟨⟨3, 2, 0, 100, false, false, 7⟩, true, 0, 0, false, false, false, false, 0, [], [], []⟩

/-- Engine 0 runs that slot, its list copied, while the modem of channel 0 still sends at clock 0. -/
def sendingHart : State :=
  let m := modEng 0 (fun g => { g with keeper := false, cur := some warnedLater, act := .run }) State.reset.m
  let m := modTick (fun t => { t with phase := .p1, copied := 128 }) m
  { State.reset with m := modChan 0 (fun x => { x with hart := { x.hart with state := 2, txEnd := 100 } }) m }

/-- That module with its backup domain 95 µs into the slot. -/
def sendingBackup : Mach := { sendingHart.m with bkp := rtcAdvance sendingHart.m.watch.bkpLost 9728 sendingHart.m.bkp }

/-- That module 95 µs into the slot, before the modems are looked at. -/
def sendingLater : Mach := { sendingBackup with clk := 9728 }

theorem chan_sendingHart (c : BitVec 8) : sendingHart.m.chans.get c
    = if c = 0 then { Chan.reset with hart := { Hart.reset with state := 2, txEnd := 100 } } else Chan.reset := by
  have hreset : ∀ c : BitVec 8, State.reset.m.chans.get c = Chan.reset := fun c => Vector.getElem_replicate ..
  show (modChan 0 _ _).chans.get c = _
  rw [modChan_chans, Tbl.get_upd]
  split
  · exact congrArg (fun x : Chan => { x with hart := { x.hart with state := 2, txEnd := 100 } }) (hreset 0)
  · exact hreset c

/-- No channel ramps or counts. -/
theorem chan_sendingHart_still (c : BitVec 8) :
    (sendingHart.m.chans.get c).ramping = false ∧ (sendingHart.m.chans.get c).timer.run = false := by
  rw [chan_sendingHart]
  split <;> exact ⟨rfl, rfl⟩

/-- Once the frame of channel 0 is sent, no modem sends. -/
theorem hart_sent (c : BitVec 8) : ((hartWaits 0 sendingLater).chans.get c).hart.state ≠ 2 := by
  have h0 : (sendingLater.chans.get 0).hart.state = 2#3 ∧ (sendingLater.chans.get 0).hart.txEnd ≤ sendingLater.clk := by
    show (sendingHart.m.chans.get 0).hart.state = 2 ∧ (sendingHart.m.chans.get 0).hart.txEnd ≤ 9728
    rw [chan_sendingHart, if_pos rfl]
    decide
  rw [hartWaits, if_pos h0, modHart, putHstat, hwWrite32, writeGran_chans, modChan_chans, Tbl.get_upd]
  split
  · exact (by decide : (3#3 : BitVec 3) ≠ 2)
  · show (sendingHart.m.chans.get c).hart.state ≠ 2
    rw [chan_sendingHart, if_neg ‹_›]
    decide

/-- The frame has been sent by then, and HSTAT of channel 0, a word of parameter RAM, turns from zero to state 3. -/
theorem hstat_changes : (hartWaits 0 sendingLater).mem.byte 0x40FC_0204 = 3 ∧ sendingHart.m.mem.byte 0x40FC_0204 = 0 := by
  decide +kernel

theorem allChans_eq_cons : allChans = 0 :: allChans.tail := by decide +kernel

/-- Nothing but the modem of channel 0 acts within the 95 µs. -/
theorem advanceTo_sendingHart : advanceTo 9728 sendingHart.m = hartWaits 0 sendingLater := by
  have hchans : allChans.foldl (fun n c => advanceChan 0 9728 c n) sendingBackup = sendingBackup :=
    foldl_fixed _ _ _ fun c _ => advanceChan_of_still (chan_sendingHart_still c).1 (chan_sendingHart_still c).2
  have hrest : (allChans.tail).foldl (fun m c => hartWaits c m) (hartWaits 0 sendingLater) = hartWaits 0 sendingLater :=
    foldl_fixed _ _ _ fun c _ => hartWaits_of_not_sending (hart_sent c)
  have hfed : backupFed sendingHart.m = true := by decide +kernel
  have hclk : sendingHart.m.clk = 0 := rfl
  rw [advanceTo_of_lt (by decide +kernel), copier_done (by decide +kernel), if_pos hfed, haltedTime_none (by decide +kernel), hclk]
  change allChans.foldl (fun m c => hartWaits c m) { allChans.foldl (fun n c => advanceChan 0 9728 c n) sendingBackup with clk := 9728 } = _
  rw [hchans]
  change allChans.foldl (fun m c => hartWaits c m) sendingLater = _
  rw [allChans_eq_cons, List.foldl_cons, hrest]

/-- Refutes O26: its last clause has memory unchanged at a budget warning once every slot list is copied, but the warning
lets time pass, and a HART frame that has been sent by then moves HSTAT, which the module keeps in memory (R292). -/
theorem not_slotsAndBudgets : ¬ Obligations.SlotsAndBudgets := by
  unfold Obligations.SlotsAndBudgets
  rintro ⟨-, h⟩
  obtain ⟨-, h⟩ := h sendingHart 0 warnedLater rfl rfl rfl rfl
  obtain ⟨t, ht, -, -, -, hmem⟩ := h (by decide) rfl
  have hwarned : t.m.mem = (budgetWarning 0 sendingHart.m).mem := by
    have : Host.Outcome.next t = Host.Outcome.next { sendingHart with m := budgetWarning 0 sendingHart.m } := ht.symm
    injection this with this
    rw [this]
  have hsame : (hartWaits 0 sendingLater).mem = sendingHart.m.mem := by
    rw [← hmem rfl, hwarned, ← advanceTo_sendingHart, budgetWarning_due rfl rfl rfl rfl (by decide) (by decide +kernel), modEng_mem]
    rfl
  obtain ⟨hsent, hbefore⟩ := hstat_changes
  rw [hsame, hbefore] at hsent
  exact absurd hsent (by decide)

end Sys2Proof.Machine
end

section
/-! PROOFS. The tick is steady: what the state must keep while the work of an edge is done. Stores wait in no buffer, the
clock does not go back, and of the tick only its counters and the copier's place move. -/

namespace Sys2Proof.Machine

open Sys2Proof

set_option Elab.async false -- one proof at a time: the threads of many at once exceed the memory of a check

/-! ### Buffers that stay empty -/

/-- A replica's store buffer is empty, or the replica serves its lane as before and its buffer is empty if it was. -/
def Replica.Hushed (x y : Replica) : Prop :=
  y.sb = [] ∨ (y.state = x.state ∧ y.lane = x.lane ∧ (x.sb = [] → y.sb = []))

theorem Replica.Hushed.refl (x : Replica) : x.Hushed x := .inr ⟨rfl, rfl, id⟩

/-- A tile none of whose lanes can have come by a store. -/
def Tile.Hushed (x y : Tile) : Prop :=
  ∀ r, (y.reps.get r).sb = [] ∨ (y.live = x.live ∧ (x.reps.get r).Hushed (y.reps.get r))

theorem Tile.Hushed.refl (x : Tile) : x.Hushed x := fun _ => .inr ⟨rfl, .refl _⟩

/-- A change that keeps a tile's replicas and its grouping. -/
theorem Tile.Hushed.of_reps {x y : Tile} (hl : y.live = x.live) (hr : y.reps = x.reps) : x.Hushed y := fun r =>
  .inr ⟨hl, by rw [hr]; exact .refl _⟩

/-- Whether a replica is a lane of an engine depends on its own state and lane and on the grouping in force (R10, R183). -/
theorem mem_lanesOf_congr {m n : Mach} {e : BitVec 7} {r : BitVec 2}
    (hl : (n.tiles.get (tileOf e)).live = (m.tiles.get (tileOf e)).live)
    (hs : (rep n (tileOf e) r).state = (rep m (tileOf e) r).state)
    (hn : (rep n (tileOf e) r).lane = (rep m (tileOf e) r).lane) : r ∈ lanesOf n e ↔ r ∈ lanesOf m e := by
  have hin : ∀ l, r ∈ inLane (n.tiles.get (tileOf e)) l ↔ r ∈ inLane (m.tiles.get (tileOf e)) l := fun l => by
    simp only [rep] at hs hn
    simp only [inLane, List.mem_filter, hs, hn]
  unfold lanesOf
  simp only [hl]
  split
  · split
    · simp only [List.mem_append, hin]
    · rfl
  · rfl

theorem emptied_of_hushed {m n : Mach} (h : m.emptied) (ht : ∀ t, (m.tiles.get t).Hushed (n.tiles.get t)) : n.emptied := by
  intro e r hr
  rcases ht (tileOf e) r with hsb | ⟨hl, hsb | ⟨hs, hn, hsb⟩⟩
  · exact hsb
  · exact hsb
  · exact hsb (h e r ((mem_lanesOf_congr hl hs hn).mp hr))

/-! ### The invariant -/

/-- The tick without the counters that a read or a skipped slot moves and without the copier's place. -/
def TickSt.core (t : TickSt) : TickSt :=
  { t with countHi := 0, spurious := 0, malformed := false, skip := false, copied := 0, window := none }

/-- No store waits in a buffer, the clock has reached `k`, and the tick is `c` but for what `core` leaves out. -/
structure Steady (c : TickSt) (k : Nat) (m : Mach) : Prop where
  idle : m.emptied
  clk : k ≤ m.clk
  tick : m.tick.core = c

section
variable {c : TickSt} {k : Nat} {m n : Mach}

/-- What touches neither the clock nor the tick nor the tiles. -/
theorem Steady.aside (h : Steady c k m) (hc : n.clk = m.clk := by rfl) (ht : n.tick = m.tick := by rfl)
    (hl : n.tiles = m.tiles := by rfl) : Steady c k n where
  idle := emptied_of_hushed h.idle fun t => by rw [hl]; exact .refl _
  clk := hc ▸ h.clk
  tick := ht ▸ h.tick

/-- What touches the tiles alone, and hushes each. -/
theorem Steady.tiles (h : Steady c k m) (hc : n.clk = m.clk) (ht : n.tick = m.tick)
    (hl : ∀ t, (m.tiles.get t).Hushed (n.tiles.get t)) : Steady c k n where
  idle := emptied_of_hushed h.idle hl
  clk := hc ▸ h.clk
  tick := ht ▸ h.tick

theorem Steady.modTick (h : Steady c k m) {f : TickSt → TickSt} (hf : (f m.tick).core = m.tick.core) :
    Steady c k (modTick f m) where
  idle := h.idle
  clk := h.clk
  tick := hf.trans h.tick

theorem Steady.modTile (h : Steady c k m) {t : BitVec 5} {f : Tile → Tile} (hf : ∀ x : Tile, x.Hushed (f x)) :
    Steady c k (modTile t f m) :=
  h.tiles rfl rfl fun t' => by
    rw [modTile_tiles, Tbl.get_upd]
    split
    · next he => exact he ▸ hf _
    · exact .refl _

theorem Steady.modRep (h : Steady c k m) {t : BitVec 5} {r : BitVec 2} {f : Replica → Replica} (hf : ∀ x : Replica, x.Hushed (f x)) :
    Steady c k (modRep t r f m) :=
  h.modTile fun x r' => .inr ⟨rfl, by
    show (x.reps.get r').Hushed ((x.reps.upd r f).get r')
    rw [Tbl.get_upd]
    split
    · next he => exact he ▸ hf _
    · exact .refl _⟩

theorem Steady.mapLanes (h : Steady c k m) {e : BitVec 7} {f : Replica → Replica} (hf : ∀ x : Replica, x.Hushed (f x)) :
    Steady c k (mapLanes e f m) :=
  h.tiles (mapLanes_clk ..) (mapLanes_tick ..) fun t r => .inr ⟨by rw [tile_mapLanes], by
    have := rep_mapLanes_any e f m t r
    simp only [rep] at this
    rw [this]
    split
    · exact hf _
    · exact .refl _⟩

/-- A fold whose every step keeps the invariant. -/
theorem Steady.foldl {α : Type} {f : Mach → α → Mach} {l : List α} (h : Steady c k m)
    (hf : ∀ n x, Steady c k n → Steady c k (f n x)) : Steady c k (l.foldl f m) := by
  induction l generalizing m with
  | nil => exact h
  | cons x l ih => exact ih (hf m x h)

/-- The second part of an answer that is known. -/
theorem Steady.snd {α : Type} {p : α × Mach} {x : α} (h : Steady c k p.2) (hp : p = (x, n)) : Steady c k n := by
  subst hp; exact h

theorem Steady.ite {p : Prop} {_ : Decidable p} (hm : Steady c k m) (hn : Steady c k n) : Steady c k (if p then m else n) := by
  split
  · exact hm
  · exact hn

/-! With empty buffers nothing is issued, accepted or drained. -/

theorem Steady.oldest (h : Steady c k m) (e : BitVec 7) : oldest m e = none := oldest_empty (h.idle e)

theorem Steady.issueSb (h : Steady c k m) (e : BitVec 7) : issueSb e m = (true, m) := issueSb_empty (h.idle e)

theorem Steady.drain (h : Steady c k m) (e : BitVec 7) : drain e m = (true, m) := drain_empty (h.idle e)

theorem Steady.acceptForwarded (h : Steady c k m) (e : BitVec 7) (n : Nat) : acceptForwarded e n m = (true, m) := by
  cases n with
  | zero => rfl
  | succ n => simp [Machine.acceptForwarded, h.oldest]

theorem Steady.drained (h : Steady c k m) (e : BitVec 7) : drained m e = true := by
  simp only [Machine.drained, List.all_eq_true]
  exact fun r hr => by simp [h.idle e r hr]

end

end Sys2Proof.Machine
end

section
/-! PROOFS. The tick is steady under the shared operations: faults, memory, engines and their slots. -/

namespace Sys2Proof.Machine

open Sys2Proof

set_option Elab.async false -- one proof at a time: the threads of many at once exceed the memory of a check

section
variable {c : TickSt} {k : Nat} {m : Mach} (h : Steady c k m)
include h

/-! ### Parts of the module beside the tick and the tiles -/

theorem Steady.modEng {e} {f : Engine → Engine} : Steady c k (modEng e f m) := h.aside
theorem Steady.modHost {f : HostIf → HostIf} : Steady c k (modHost f m) := h.aside
theorem Steady.modPort {p} {f : HPort → HPort} : Steady c k (modPort p f m) := h.aside
theorem Steady.modMc {f : MemCtl → MemCtl} : Steady c k (modMc f m) := h.aside
theorem Steady.modWatch {f : Watch → Watch} : Steady c k (modWatch f m) := h.aside
theorem Steady.modWd {e} {f : Watchdog → Watchdog} : Steady c k (modWd e f m) := h.aside
theorem Steady.modFaults {f : Faults → Faults} : Steady c k (modFaults f m) := h.aside
theorem Steady.modMode {f : ModeSt → ModeSt} : Steady c k (modMode f m) := h.aside
theorem Steady.modDbg {f : Debug → Debug} : Steady c k (modDbg f m) := h.aside
theorem Steady.modDEng {e} {f : DEng → DEng} : Steady c k (modDEng e f m) := h.aside
theorem Steady.modDie {d} {f : Die → Die} : Steady c k (modDie d f m) := h.aside
theorem Steady.modPwr {f : Power → Power} : Steady c k (modPwr f m) := h.aside
theorem Steady.modBkp {f : Backup → Backup} : Steady c k (modBkp f m) := h.aside
theorem Steady.modYl {f : Yunal → Yunal} : Steady c k (modYl f m) := h.aside
theorem Steady.modChan {d} {f : Chan → Chan} : Steady c k (modChan d f m) := h.aside

theorem Steady.resv {l} : Steady c k { m with resv := l } := h.aside

/-! ### Faults, interrupts, memory -/

theorem Steady.report {code arg} : Steady c k (report code arg m) := h.aside (by simp) (by simp) (by simp)
theorem Steady.reportC {code arg l} : Steady c k (reportC code arg l m) := h.aside (by simp) (by simp) (by simp)
theorem Steady.pend {d b} : Steady c k (pend d b m) := h.aside
theorem Steady.readGran {w g} : Steady c k (readGran w g m).2 := h.aside (by simp) (by simp) (by simp)
theorem Steady.writeGran {w g d l t} : Steady c k (writeGran w g d l t m) := h.aside (by simp) (by simp) (by simp)
theorem Steady.hwWrite8 {a v} : Steady c k (hwWrite8 a v m) := h.writeGran
theorem Steady.hwWrite32 {a v} : Steady c k (hwWrite32 a v m) := h.writeGran
theorem Steady.hwWriteGran {a v} : Steady c k (hwWriteGran a v m) := h.writeGran
theorem Steady.bump32 {a} : Steady c k (bump32 a m) := h.hwWrite32
theorem Steady.hwTouch {l} : Steady c k (hwTouch l m) := h.foldl fun _ _ hn => hn.readGran

theorem Steady.fenceCheck {p i a w} : Steady c k (fenceCheck p i a w m).2 := by
  obtain ⟨heq, ht⟩ := fenceCheck_eq p i a w m
  exact h.tiles (by rw [heq]) (by rw [heq]) fun t => .of_reps (by rw [ht]) (by rw [ht])

/-! ### What leaves for the hosts -/

theorem Steady.emit {x} : Steady c k (emit x m) := h.aside

theorem Steady.sendMsix {p v} : Steady c k (sendMsix p v m) := by
  unfold Machine.sendMsix
  exact (h.modPort.ite h.emit).ite h

theorem Steady.deviceVectorOn {p l} : Steady c k (deviceVectorOn p l m) := by
  unfold Machine.deviceVectorOn
  exact h.modPort.sendMsix.ite h

theorem Steady.deviceVector {l} : Steady c k (deviceVector l m) := h.deviceVectorOn.deviceVectorOn

theorem Steady.moduleEvent : Steady c k (moduleEvent m) := h.pend

/-! ### Engines and their slots -/

theorem Steady.countOne {e} : Steady c k (countOne e m) := h.modEng

theorem Steady.notice {e y l} : Steady c k (notice e y l m) := by
  unfold Machine.notice
  dsimp only
  exact (h.report.modEng.ite h.report.modEng).ite h.report.aside

theorem Steady.logUndo {e a p} : Steady c k (logUndo e a p m) := h.aside (by simp) (by simp) (by simp)

theorem Steady.deviceAccess {e a} : Steady c k (deviceAccess e a m) := by
  unfold Machine.deviceAccess
  exact h.modEng.ite h

theorem Steady.spanResult {e s x} : Steady c k (spanResult e s x m) := by
  unfold Machine.spanResult
  split
  · split
    · exact h.aside
    · exact h
  · exact h

theorem Steady.withhold {e p} : Steady c k (withhold e p m) := h.aside

theorem Steady.clearRun {e} : Steady c k (clearRun e m) := h.aside

theorem Steady.raiseConsec {e s} : Steady c k (raiseConsec e s m) := by
  unfold Machine.raiseConsec
  exact h.hwWrite8.report.ite h.hwWrite8

theorem Steady.countSkip {e s} : Steady c k (countSkip e s m) :=
  (Steady.modTick h (f := fun t => { t with skip := true }) rfl).bump32.raiseConsec

theorem Steady.startNext {e} : Steady c k (startNext e m) := by
  unfold Machine.startNext
  dsimp only
  split
  · exact h
  · split
    · exact (h.foldl fun _ _ hn => hn.spanResult.countSkip).modEng
    · exact h.modEng

theorem Steady.abandonRun {e} : Steady c k (abandonRun e m) := by
  unfold Machine.abandonRun
  dsimp only
  split
  · exact h
  · exact (h.withhold.spanResult.mapLanes (by exact fun _ => .inr ⟨rfl, rfl, fun hx => by simp [hx]⟩)).clearRun

theorem Steady.failSlot {e} : Steady c k (failSlot e m) := h.abandonRun.startNext

theorem Steady.engineReset {e l v} : Steady c k (engineReset e l v m) := by
  unfold Machine.engineReset
  dsimp only
  split
  · exact (h.mapLanes (by exact fun _ => .inl rfl)).resv.modEng.ite
      (h.mapLanes (by exact fun _ => .inl rfl)).resv.modEng.report
  · exact ((h.mapLanes (by exact fun _ => .inl rfl)).resv.ite
      (h.mapLanes (by exact fun _ => .inl rfl)).resv.report).failSlot

theorem Steady.bite {e l a} : Steady c k (bite e l a m) := h.modWd.report

theorem Steady.carryBite {e} : Steady c k (carryBite e m).2 := by
  unfold Machine.carryBite
  split
  · exact h.modWd.engineReset
  · exact h

end

end Sys2Proof.Machine
end

section
/-! PROOFS. The tick is steady under the voter's actions (R196 to R202) and under bisques, recovery and slot entry. -/

namespace Sys2Proof.Machine

open Sys2Proof

set_option Elab.async false -- one proof at a time: the threads of many at once exceed the memory of a check

section
variable {c : TickSt} {k : Nat} {m : Mach} (h : Steady c k m)
include h

/-! ### What the voter does -/

theorem Steady.noteMismatch {e l d} : Steady c k (noteMismatch e l d m) :=
  h.modTile (by exact fun _ => .of_reps rfl rfl)

theorem Steady.noGrogReport {e} : Steady c k (noGrogReport e m) := by
  unfold Machine.noGrogReport
  exact (h.modTile (by exact fun _ => .of_reps rfl rfl)).report.ite h

theorem Steady.dropAtGate {t r y e} : Steady c k (dropAtGate t r y e m) := by
  unfold Machine.dropAtGate
  dsimp only
  have hd := (h.modRep (t := t) (r := r) (f := fun x => { x with drops := x.drops + 1 }) fun _ => .inr ⟨rfl, rfl, id⟩).modTile
    (t := t) (f := fun x => { x with drop := satInc x.drop }) fun _ => .of_reps rfl rfl
  exact hd.report.ite hd

theorem Steady.fenceLane {e r w d l s x} : Steady c k (fenceLane e r w d l s x m) := by
  unfold Machine.fenceLane
  dsimp only
  exact Steady.noGrogReport (Steady.reportC
    ((h.noteMismatch.modRep (by exact fun _ => .inl rfl)).foldl fun _ _ hn => hn.dropAtGate))

theorem Steady.rependTaken {e} : Steady c k (rependTaken e m) := by
  refine h.modEng.foldl fun n x hn => ?_
  split
  · exact hn.modEng
  · exact hn.pend
  · exact hn.pend

theorem Steady.reload {e} : Steady c k (reload e m).2 := by
  unfold Machine.reload
  split
  · exact h.engineReset
  · exact (h.mapLanes (by exact fun _ => .inl rfl)).resv.rependTaken

theorem Steady.promote {e} : Steady c k (promote e m) := by
  unfold Machine.promote
  dsimp only
  split
  · exact (h.modRep (by exact fun _ => .inl rfl)).modTile (by exact fun _ => .of_reps rfl rfl)
  · exact h

theorem Steady.countReset {e} : Steady c k (countReset e m) := by
  unfold Machine.countReset
  exact h.modEng.report.ite h.modEng

theorem Steady.setMark {d b v} : Steady c k (setMark d b v m) := h.aside

theorem Steady.undoOne {e u} : Steady c k (undoOne e m u) := by
  have hu : Steady c k { m with
      mem := m.mem.putGran u.gaddr.toNat u.old u.otag u.opois
      mc := { m.mc with writeBack := m.mc.writeBack.filter (· ≠ u.gaddr.toNat) }
      resv := m.resv.filter fun x => !(granOf x.2 == u.gaddr.toNat && x.1 != e) } := h.aside
  unfold Machine.undoOne
  dsimp only
  split
  · exact hu.setMark.ite hu
  · exact hu

theorem Steady.unwind {e} : Steady c k (unwind e m) := h.foldl fun _ _ hn => hn.undoOne

omit h in
theorem Steady.endReloaded {e} {p : Bool × Mach} (hp : Steady c k p.2) : Steady c k (endReloaded e p) := by
  unfold Machine.endReloaded
  exact hp.ite (hp.promote.modEng.ite (hp.promote.failSlot.ite hp.promote)).modEng

theorem Steady.restartFromBisque {e w x} : Steady c k (restartFromBisque e w x m) := by
  have hr := h.reload (e := e)
  unfold Machine.restartFromBisque
  rw [h.acceptForwarded]
  cases x with
  | idle => exact hr
  | slotBisque =>
    dsimp only
    simp only [Bool.not_true, Bool.false_eq_true, if_false]
    split
    · exact hr.failSlot.ite hr.modEng
    · exact hr
  | running =>
    dsimp only
    simp only [Bool.not_true, Bool.false_eq_true, if_false]
    exact (h.unwind.modEng.reload.modEng.ite h.unwind.modEng.reload).ite hr.endReloaded

theorem Steady.leaderOdd {e r x} : Steady c k (leaderOdd e r x m) := by
  have hf := h.fenceLane (e := e) (r := r) (w := 2#4) (d := 2#4) (l := replBits (lanesOf m e)) (s := x.copies) (x := x.entry)
  unfold Machine.leaderOdd
  dsimp only
  rw [hf.acceptForwarded]
  exact hf.reload.endReloaded

theorem Steady.splitReaction {e x} : Steady c k (splitReaction e x m) := by
  unfold Machine.splitReaction Machine.resetFromBisque
  dsimp only
  exact h.noteMismatch.reportC.countReset.restartFromBisque

/-- The voter's verdict is acted on (R196). -/
theorem Steady.react {e v x} : Steady c k (react e v x m).2 := by
  cases v with
  | agree => exact h
  | split => simpa only [Machine.react] using h.splitReaction
  | minority r lead =>
    simp only [Machine.react]
    split
    · simpa only using h.leaderOdd
    · simpa only using h.fenceLane

/-! ### Bisques and slot entry -/

theorem Steady.keepForMirror {e b} : Steady c k (keepForMirror e b m) := by
  unfold Machine.keepForMirror
  split
  · exact h.modYl.ite h
  · exact h

theorem Steady.takeBisque {e f u} : Steady c k (takeBisque e f u m).2 := by
  have hr := h.react (e := e) (v := vote (laneStates m e)) (x := ⟨false, true, if f then .running else .slotBisque, [], none⟩)
  unfold Machine.takeBisque
  split
  next go n hn =>
    have hn := hr.snd hn
    split
    · exact hn
    · split
      · exact hn
      · dsimp only
        exact hn.modEng.keepForMirror.ite hn.modEng.keepForMirror.promote

theorem Steady.forcedBisque {e} : Steady c k (forcedBisque e m) := by
  unfold Machine.forcedBisque
  rw [h.drain]
  exact h.takeBisque

theorem Steady.beginRun {e} : Steady c k (beginRun e m) := h.modEng

/-- The hardware's own access passes the fence map, unless it stays in the tile (R125). -/
theorem Steady.ownAccess {e i a w} :
    Steady c k (if region a = .tileAlias then (true, m) else Machine.fenceCheck (.tile (tileOf e)) i a w m).2 := by
  split
  · exact h
  · exact h.fenceCheck

theorem Steady.entryLoad {e d a} : Steady c k (entryLoad e d a m).2 := by
  have hp := h.ownAccess (e := e) (i := .ring d 0#2) (a := a) (w := false)
  unfold Machine.entryLoad
  dsimp only
  generalize (if region a = .tileAlias then (true, m) else _) = p at *
  split
  · exact hp.readGran
  · exact hp

theorem Steady.entryFailed {e s l} : Steady c k (entryFailed e s l m) := h.report.failSlot

theorem Steady.deliver {e d} : Steady c k (deliver e d m) := by
  unfold Machine.deliver
  exact Steady.modEng h.aside

theorem Steady.doTrans {e x} : Steady c k (doTrans e m x) := by
  have hp := h.ownAccess (e := e) (i := .ring x.comp 0#2) (a := x.addr) (w := !x.kind.isLoad)
  unfold Machine.doTrans
  dsimp only
  generalize (if region x.addr = .tileAlias then (true, m) else _) = p at *
  exact hp.readGran.ite (hp.writeGran.logUndo.ite hp.notice)

/-- The last steps of R151: the registers, the frame of the shadow stack, what waits for the compartment. -/
theorem Steady.entered {e d x y t} {g : Replica → Replica} {f : Engine → Engine} (hg : ∀ r : Replica, r.Hushed (g r)) :
    Steady c k (Machine.deliver e d (Machine.modEng e f (Machine.doTrans e
      (Machine.mapLanes e g (Machine.entryLoad e d y (Machine.entryLoad e d x m).2).2) t))) :=
  (((h.entryLoad.entryLoad.mapLanes hg).doTrans).modEng).deliver

/-- A slot is entered, or its entry fails at one of the steps of R151. -/
theorem Steady.slotEntry {e} : Steady c k (slotEntry e m) := by
  unfold Machine.slotEntry
  split
  next r l _ _ =>
    dsimp only
    have h1 := h.entryLoad (e := e) (d := r.slot.comp) (a := compGran r.slot.comp 0)
    generalize Machine.entryLoad e r.slot.comp (compGran r.slot.comp 0) m = gtab at *
    refine h1.entryFailed.ite (h1.entryFailed.ite ?_)
    have h2 := h1.entryLoad (e := e) (d := r.slot.comp) (a := gtab.1.base + 16#36 * r.slot.gate.setWidth 36)
    generalize Machine.entryLoad e r.slot.comp (gtab.1.base + 16#36 * r.slot.gate.setWidth 36) gtab.2 = gate at *
    refine h2.entryFailed.ite (h2.report.failSlot.ite ?_)
    have hushed : ∀ (a : Arch) (x : Replica), x.Hushed { x with
        arch := { a with tsbr := x.arch.tsbr, ent0 := x.arch.ent0 }, prefetch := [], ldue := none, repEnd := false } :=
      fun _ _ => .inr ⟨rfl, rfl, id⟩
    generalize (if r.slot.span = true then spanFind gate.2 r.slot.comp e else none) = span
    rcases span with _ | ⟨i, j⟩
    · exact h2.entryLoad.entryFailed.ite (h2.entryLoad.entered (hushed _))
    · exact h2.entryFailed.ite (h2.entered (hushed _))
  · exact h

end

end Sys2Proof.Machine
end

section
/-! PROOFS. The tick is steady while an engine comes to a boundary: a load that is still to be answered is answered, and what
an exception or a slot's start does follows. None of it puts a store into a buffer. -/

namespace Sys2Proof.Machine

open Sys2Proof

set_option Elab.async false -- one proof at a time: the threads of many at once exceed the memory of a check

section
variable {c : TickSt} {k : Nat} {m : Mach} (h : Steady c k m)
include h

/-! ### Slots that start one after another -/

theorem Steady.pump {e u n} : Steady c k (pump e u n m) := by
  induction n generalizing m with
  | zero => exact h
  | succ n ih =>
    unfold Machine.pump
    dsimp only
    have hb := (h.beginRun (e := e)).takeBisque (e := e) (f := false) (u := u)
    generalize Machine.takeBisque e false u (Machine.beginRun e m) = p at *
    exact Steady.ite (ih (hb.slotEntry.ite hb)) h

theorem Steady.pumped {e} : Steady c k (pumped e m) := h.pump

/-! ### Reads of registers -/

theorem Steady.tickRegReadFx {o} : Steady c k (tickRegReadFx o m) := by
  unfold Machine.tickRegReadFx
  split
  · exact h.modTick rfl
  · exact h.modTick rfl
  · exact h

theorem Steady.memRegReadFx {o} : Steady c k (memRegReadFx o m) := by
  unfold Machine.memRegReadFx
  split
  · exact h.modMc
  · exact h.modMc
  · exact h

theorem Steady.watchRegReadFx {o} : Steady c k (watchRegReadFx o m) := by
  unfold Machine.watchRegReadFx
  split
  · exact h.modWd
  · exact h

theorem Steady.powerRegReadFx {o} : Steady c k (powerRegReadFx o m) := by
  unfold Machine.powerRegReadFx
  split
  · exact h.modPwr
  · exact h.modBkp
  · exact h.modYl
  · exact h

theorem Steady.sysReadFx {o} : Steady c k (sysReadFx o m) := by
  unfold Machine.sysReadFx
  exact h.ite (h.tickRegReadFx.ite (h.ite (h.memRegReadFx.ite (h.modDie.ite (h.ite
    (h.watchRegReadFx.ite (h.powerRegReadFx.ite h)))))))

theorem Steady.tileReadFx {t o} : Steady c k (tileReadFx t o m) :=
  Steady.ite (h.modTile (f := fun x => { x with mism := 0#8, drop := 0#8 }) fun _ => .of_reps rfl rfl) h

theorem Steady.chanBusRead {w d o} : Steady c k (chanBusRead w d o m).2 := by
  unfold Machine.chanBusRead
  split
  · exact h.modChan
  · exact h

theorem Steady.regRead {w a} : Steady c k (regRead w a m).2 := by
  unfold Machine.regRead
  split
  · exact h
  · split
    · exact h.sysReadFx
    · exact h
  · exact h.tileReadFx
  · exact h.chanBusRead

/-! ### Loads -/

theorem Steady.loadAccess {w n b a d} : Steady c k (loadAccess w n b a d m).2 := by
  have hmem : ∀ {n : Mach} {x : Nat}, Steady c k n →
      Steady c k (match (Machine.readGran (whoAcc w) x n).1.bad with
        | some k => (LoadResult.fails (excUncorr k a), (Machine.readGran (whoAcc w) x n).2)
        | none => (.data (Machine.readGran (whoAcc w) x n).1.data ((Machine.readGran (whoAcc w) x n).1.tag && b),
            (Machine.readGran (whoAcc w) x n).2)).2 := by
    intro n x hn
    split <;> exact hn.readGran
  have hf := h.fenceCheck (p := .tile (tileOf w.eng)) (i := .ring w.comp w.ring) (a := a) (w := false)
  unfold Machine.loadAccess
  dsimp only
  generalize Machine.fenceCheck (.tile (tileOf w.eng)) (.ring w.comp w.ring) a false m = p at *
  split
  · exact hmem h
  · split
    · exact hf
    · split
      · exact hf
      · split
        · exact hf
        · split <;> exact hf.regRead
      · split <;> exact hf
      · exact hmem hf

/-! ### Instructions that end -/

theorem Steady.prefetchFill {e} : Steady c k (prefetchFill e m) := by
  have hr := refilled_fill e m
  refine h.tiles (by rw [hr.rest]) (by rw [hr.rest]) fun t r => .inr ⟨by rw [hr.tiles], ?_⟩
  have hx := hr.reps t r
  simp only [rep] at hx
  rw [hx]
  exact .inr ⟨rfl, rfl, id⟩

theorem Steady.chans {v} : Steady c k { m with chans := v } := h.aside

theorem Steady.syncTimers : Steady c k (syncTimers m) := by
  unfold Machine.syncTimers
  exact h.chans

theorem Steady.haltNow {e} : Steady c k (haltNow e m) :=
  Steady.syncTimers (Steady.modEng (Steady.modDEng (h.resv.mapLanes (by exact fun _ => .inr ⟨rfl, rfl, id⟩))))

theorem Steady.askHalt {e l s} : Steady c k (askHalt e l s m) := by
  unfold Machine.askHalt
  dsimp only
  exact h.ite (h.modDEng.haltNow.ite h.modDEng)

theorem Steady.requestHalt {e l} : Steady c k (requestHalt e l m) := h.askHalt.foldl fun _ _ hn => hn.askHalt

theorem Steady.stepDone {e} : Steady c k (stepDone e m) := by
  unfold Machine.stepDone
  exact h.modDEng.requestHalt.ite h

end

/-- An outcome that puts nothing into the store buffer and asks of the engine at most its reset. -/
def Fx.Quiet (f : Fx) : Prop := f.stores = [] ∧ (f.ev = .none ∨ ∃ v, f.ev = .reset v)

theorem quiet_enterThrough {x : Ctx} {a : Arch} {i : EntryInfo} {t : Addr} {d : Bool} {f : Fx}
    (hf : enterThrough x a i t d = some f) : f.Quiet := by
  unfold enterThrough at hf
  dsimp only at hf
  split at hf
  · exact absurd hf (by simp)
  · rw [← Option.some.inj hf]
    exact ⟨rfl, .inl rfl⟩

theorem quiet_enterDouble (x : Ctx) (a : Arch) (v : BitVec 6) (fa : Addr) : (enterDouble x a v fa).Quiet := by
  unfold enterDouble
  split
  next f hf => exact quiet_enterThrough hf
  · exact ⟨rfl, .inr ⟨v, rfl⟩⟩

theorem quiet_enterException (x : Ctx) (a : Arch) (i : EntryInfo) : (enterException x a i).Quiet := by
  unfold enterException
  split
  · exact ⟨rfl, .inr ⟨i.vec, rfl⟩⟩
  · split
    · exact quiet_enterDouble ..
    · split
      next f hf => exact quiet_enterThrough hf
      · exact quiet_enterDouble ..

theorem quiet_retSem {x : Ctx} {d : Gran} {t : Bool} {a : Arch} {f : Fx} (hf : retSem x d t a = .ok f) : f.Quiet := by
  unfold retSem at hf
  dsimp only at hf
  split at hf
  · exact absurd hf (by simp)
  · split at hf
    · exact absurd hf (by simp)
    · split at hf
      · exact absurd hf (by simp)
      · rw [← Except.ok.inj hf]
        exact ⟨rfl, .inl rfl⟩

theorem quiet_fx (a : Arch) : (fx a).Quiet := ⟨rfl, .inl rfl⟩

theorem quiet_loadFinish {l : LdOp} {mode : BitVec 4} {o : BitVec 20} {x : Addr} {d : Gran} {t : Bool} {cx : Ctx} {a : Arch}
    {f : Fx} (hf : loadFinish l mode o x d t cx a = .ok f) : f.Quiet := by
  cases l with
  | ret =>
    simp only [loadFinish] at hf
    exact quiet_retSem hf
  | _ =>
    simp only [loadFinish, Except.ok.injEq] at hf
    subst hf
    exact quiet_fx _

/-- A load that is answered, and the exception that its answer can be, store nothing. -/
theorem quiet_loadOut (l : LdOp) (mode : BitVec 4) (o : BitVec 20) (x : Addr) (r : LoadResult) (cx cx' : Ctx) (a a' : Arch) :
    ((loadOut l mode o x r cx a).fx cx' a').Quiet := by
  unfold loadOut
  split
  · exact quiet_enterException ..
  · split
    · exact quiet_enterException ..
    next f hf => exact quiet_loadFinish hf

section
variable {c : TickSt} {k : Nat} {m : Mach} (h : Steady c k m)
include h

theorem Steady.laneDone {t : BitVec 5} {now pos} {outs : List (BitVec 2 × Fx)} (hq : ∀ x ∈ outs, x.2.Quiet) :
    Steady c k (outs.foldl (fun m x => Machine.modRep t x.1 (fun r => Machine.laneDone now pos r x.2) m) m) := by
  induction outs generalizing m with
  | nil => exact h
  | cons x outs ih =>
    refine ih (h.modRep fun r => .inr ⟨rfl, rfl, fun hr => ?_⟩) fun y hy => hq y (by simp [hy])
    simp [Machine.laneDone, (hq x (by simp)).1, hr]

theorem Steady.applyFx {e} {outs : List (BitVec 2 × Fx)} (hq : ∀ x ∈ outs, x.2.Quiet) : Steady c k (applyFx e outs m).2 := by
  cases outs with
  | nil => exact h
  | cons x outs =>
    have hl := (h.laneDone (t := tileOf e) (now := m.tick.count) (pos := runPos m e) hq).modEng (e := e)
      (f := fun g => { g with fed := false, reread := false })
    have ht := hl.foldl (l := x.2.trans) (f := Machine.doTrans e) fun _ _ hn => hn.doTrans
    unfold Machine.applyFx
    dsimp only
    generalize x.2.trans.foldl (Machine.doTrans e) _ = n at *
    have hn : Steady c k (if x.2.trap then { n with free := n.free + 1 } else Machine.stepDone e (Machine.countOne e n)) :=
      Steady.ite ht.aside ht.countOne.stepDone
    rw [hn.prefetchFill.issueSb]
    dsimp only
    exact hn.prefetchFill

/-- What follows an instruction that is done, by the event it asks for. -/
def eventDone (e : BitVec 7) (c : BitVec 10) (ev : Ev) (m : Mach) : Mach :=
  match ev with
  | .chain v => takePending e c v m
  | ev => engineEvent e ev m

omit h in
theorem carryOutFx_cons (e : BitVec 7) (x : BitVec 2 × Fx) (outs : List (BitVec 2 × Fx)) (m : Mach) :
    carryOutFx e (x :: outs) m = if !(applyFx e (x :: outs) m).1 then (applyFx e (x :: outs) m).2
      else eventDone e (chainComp m e) x.2.ev (applyFx e (x :: outs) m).2 := by
  obtain ⟨r, f⟩ := x
  rcases hp : applyFx e ((r, f) :: outs) m with ⟨go, n⟩
  cases hev : f.ev <;> simp only [carryOutFx, eventDone, hp, hev]

theorem Steady.carryOutFx {e} {outs : List (BitVec 2 × Fx)} (hq : ∀ x ∈ outs, x.2.Quiet) : Steady c k (carryOutFx e outs m) := by
  cases outs with
  | nil => exact h
  | cons x outs =>
    have ha := h.applyFx (e := e) hq
    rw [carryOutFx_cons]
    refine ha.ite ?_
    rcases (hq x (by simp)).2 with hev | ⟨v, hev⟩ <;> simp only [hev, Machine.eventDone, engineEvent]
    · exact ha
    · exact ha.engineReset

theorem Steady.commitFx {e} {outs : List (BitVec 2 × Fx)} (hq : ∀ x ∈ outs, x.2.Quiet) : Steady c k (commitFx e outs m) := by
  have hr := h.react (e := e) (v := vote (outs.map fun x => (x.1, fxKey m e x.1 x.2)))
    (x := ⟨outs.head?.any fun x => x.2.memLoad, false, misMoment m e, fxCopies outs, none⟩)
  unfold Machine.commitFx voteFx
  dsimp only
  generalize Machine.react e (vote (outs.map fun x => (x.1, fxKey m e x.1 x.2))) _ m = p at *
  by_cases hp : p.1 = true
  · simp only [hp, if_true]
    exact hr.carryOutFx fun x hx => hq x (List.mem_filter.mp hx).1
  · simp only [hp, Bool.false_eq_true, if_false]
    exact hr

theorem Steady.runOuts {e} {outs : List (BitVec 2 × LaneOut)} (hq : ∀ x ∈ outs, ∀ cx a, (x.2.fx cx a).Quiet) :
    Steady c k (runOuts e outs m) := by
  unfold Machine.runOuts resolve
  simp only [h.drain, ite_self, Bool.not_true, Bool.false_eq_true, if_false]
  refine h.commitFx fun x hx => ?_
  obtain ⟨y, hy, rfl⟩ := List.mem_map.mp hx
  exact hq y (List.mem_filter.mp hy).1 _ _

theorem Steady.finishLoad {e l mode o a g} : Steady c k (finishLoad e l mode o a g m) := by
  have hr : Steady c k (Machine.runOuts e ((lanesOf (Machine.modEng e (fun g => { g with act := .run }) m) e).map fun r =>
      (r, loadOut l mode o a (g r) (Ctx.of (Machine.modEng e (fun g => { g with act := .run }) m) e r)
        (rep (Machine.modEng e (fun g => { g with act := .run }) m) (tileOf e) r).arch))
      (Machine.modEng e (fun g => { g with act := .run }) m)) := by
    refine h.modEng.runOuts fun x hx cx a => ?_
    obtain ⟨r, -, rfl⟩ := List.mem_map.mp hx
    exact quiet_loadOut ..
  unfold Machine.finishLoad
  dsimp only
  generalize Machine.runOuts e _ _ = n at *
  split
  · split
    · split
      · exact hr.resv
      · exact hr
    · exact hr
  · exact hr

theorem Steady.respond {e l d} : Steady c k (respond e l d none m) := by
  have hl := h.loadAccess (w := engineWho m e) (n := l.op.size) (b := l.op.isCap) (a := l.addr) (d := d)
  unfold Machine.respond
  dsimp only
  generalize Machine.loadAccess (engineWho m e) l.op.size l.op.isCap l.addr d m = p at *
  refine Steady.finishLoad ?_
  split
  · exact hl.deviceAccess
  · exact hl

/-! ### An engine that comes to a boundary -/

omit h in
theorem hushed_settleLane (x : Replica) : x.Hushed (settleLane x) := by
  have hdue : ∀ x : Replica, (loadDue x).state = x.state ∧ (loadDue x).lane = x.lane ∧ (loadDue x).sb = x.sb := fun x => by
    unfold loadDue; split <;> exact ⟨rfl, rfl, rfl⟩
  have hlong : ∀ x : Replica, (longDue x).state = x.state ∧ (longDue x).lane = x.lane ∧ (longDue x).sb = x.sb := fun x => by
    unfold longDue; split <;> exact ⟨rfl, rfl, rfl⟩
  have hend : ∀ x : Replica, (repeatEnd x).state = x.state ∧ (repeatEnd x).lane = x.lane ∧ (repeatEnd x).sb = x.sb :=
    fun _ => ⟨rfl, rfl, rfl⟩
  unfold settleLane
  dsimp only
  split <;> simp [Replica.Hushed, hdue, hlong, hend]

theorem Steady.settleLanes {e} : Steady c k (settleLanes e m) := by
  unfold Machine.settleLanes
  exact (h.mapLanes hushed_settleLane).countOne.ite (h.mapLanes hushed_settleLane)

/-- The engine's outstanding load, answered at once. -/
def answered (e : BitVec 7) (m : Mach) : Mach :=
  match (m.engines.get e).act with
  | .load l => let (k, m) := drawFree m; respond e l (Config.hostData k) none m
  | _ => m

/-- The bisque that an engine owes, taken. -/
def owedTaken (e : BitVec 7) (m : Mach) : Mach := if forcedOwed m e && canRun m e then forcedBisque e m else m

/-- The slots that an engine can begin, begun. -/
def begun (e : BitVec 7) (m : Mach) : Mach :=
  if (m.engines.get e).act = .bisque && !(m.engines.get e).halted then
    let (go, m) := drain e m
    if go then pumped e m else m
  else m

omit h in
theorem settle_eq (e : BitVec 7) (m : Mach) : settle e m = begun e (owedTaken e (settleLanes e (answered e m))) := by
  unfold settle answered
  cases (m.engines.get e).act <;> simp only [begun, owedTaken]

theorem Steady.answered {e} : Steady c k (answered e m) := by
  unfold Machine.answered
  split
  · simp only [drawFree]
    exact Steady.respond h.aside
  · exact h

theorem Steady.owedTaken {e} : Steady c k (owedTaken e m) := h.forcedBisque.ite h

theorem Steady.begun {e} : Steady c k (begun e m) := by
  unfold Machine.begun
  rw [h.drain]
  exact Steady.ite h.pumped h

theorem Steady.settle {e} : Steady c k (settle e m) := by
  rw [settle_eq]
  exact h.answered.settleLanes.owedTaken.begun

end

end Sys2Proof.Machine
end

section
/-! PROOFS. The tick is steady as the mode changes, HARDPAN among the modes, and as a watchdog is looked at. -/

namespace Sys2Proof.Machine

open Sys2Proof

set_option Elab.async false -- one proof at a time: the threads of many at once exceed the memory of a check

section
variable {c : TickSt} {k : Nat} {m : Mach} (h : Steady c k m)
include h

/-! ### The debug unit lets go -/

theorem Steady.dbg {v} : Steady c k { m with dbg := v } := h.aside

theorem Steady.resumeNow {e b} : Steady c k (resumeNow e b m) := by
  have hs := ((h.modDEng (e := e) (f := fun x => { x with
    hcause := 0#4, resv := false, defer := false, deferStep := false, step := b, pass := true })).modEng (e := e)
    (f := fun g => { g with halted := false })).syncTimers
  unfold Machine.resumeNow
  exact hs.startNext.ite hs

theorem Steady.resumeOne {e b} : Steady c k (resumeOne b e m) := by
  unfold Machine.resumeOne
  exact h.ite (h.modDEng.ite h.resumeNow)

theorem Steady.releaseHalts {b} : Steady c k (releaseHalts b m) :=
  h.foldl fun _ _ hn => hn.modDEng.ite (hn.modDEng.resumeNow.ite hn.modDEng.resumeOne)

theorem Steady.dropControl {b} : Steady c k (dropControl b m) := h.modDbg.releaseHalts.syncTimers

theorem Steady.closeSession {b} : Steady c k (closeSession b m) := h.modDbg.dropControl

theorem Steady.sessionAt {x b} : Steady c k (sessionAt x b m) := by
  unfold Machine.sessionAt
  exact h.ite (h.modDbg.dropControl.ite h.closeSession)

/-! ### A change of mode -/

theorem Steady.keeperOff : Steady c k (keeperOff m) := by
  have hd : Steady c k (if (m.engines.get 0#7).act = .stopped then m
      else (Machine.drain 0#7 (Machine.settle 0#7 m)).2) := by
    rw [h.settle.drain]
    exact h.ite h.settle
  unfold Machine.keeperOff
  exact Steady.ite hd.modEng.clearRun h

theorem Steady.drainLeft : Steady c k (allEngines.foldl (fun m e => if Machine.drained m e then m else (Machine.drain e m).2) m) :=
  h.foldl fun n e hn => by rw [if_pos (hn.drained e)]; exact hn

theorem Steady.asleep {a b d v} : Steady c k { m with chans := a, pwr := b, mode := d, yl := v } := h.aside

theorem Steady.enterSleep : Steady c k (enterSleep m) := by
  unfold Machine.enterSleep
  exact h.drainLeft.asleep

theorem Steady.rcaches {v} : Steady c k { m with tiles := m.tiles.map fun t => { t with rcache := [] }, mc := v } :=
  h.tiles rfl rfl fun t => .of_reps (by simp [Tbl.get]) (by simp [Tbl.get])

theorem Steady.modeEnter {x b} : Steady c k (modeEnter x b m) := by
  unfold Machine.modeEnter
  extract_lets old m1 m2 m3 m4 m5 mc m6 m7 m8 m9
  have h1 : Steady c k m1 := h.ite h.keeperOff
  clear_value m1
  have h3 : Steady c k m3 := h1.modMode.modDbg.sessionAt
  clear_value m3
  have h4 : Steady c k m4 := h3.enterSleep.ite h3
  clear_value m4
  have h5 : Steady c k m5 := h4.ite h4.chans
  clear_value m5
  have h6 : Steady c k m6 := h5.rcaches
  clear_value m6
  have h7 : Steady c k m7 := h6.modWatch.ite h6
  clear_value m7
  have h8 : Steady c k m8 := h7.modMc.ite h7
  clear_value m8
  have h9 : Steady c k m9 := h8.modYl.ite h8
  exact h9.moduleEvent.deviceVector

theorem Steady.modeEdge : Steady c k (modeEdge m) := by
  unfold Machine.modeEdge
  split
  · exact h.ite (h.modMode.deviceVector.ite h.modeEnter)
  · exact h.modeEnter.ite h

/-! ### HARDPAN -/

theorem Steady.hardpanEngines : Steady c k (hardpanEngines m) := by
  have ha : Steady c k (allEngines.foldl (fun m e => Machine.modEng e (fun g => { g with todo := [] })
      (if (m.engines.get e).cur.isSome then Machine.abandonRun e m else m)) m) :=
    h.foldl fun n e hn => (Steady.ite hn.abandonRun hn).modEng
  exact ha.foldl fun n e hn => by rw [if_pos (hn.drained e)]; exact hn

theorem Steady.hardpanKeeper : Steady c k (hardpanKeeper m) := by
  unfold Machine.hardpanKeeper
  extract_lets ent r a m1
  have h1 : Steady c k m1 := h.mapLanes fun _ => .inl rfl
  exact h1.resv.clearRun.modEng

end

section
variable {c : TickSt} {k : Nat} {m : Mach} (h : Steady c k m)
include h

theorem Steady.putHstat {d} : Steady c k (putHstat d m) := h.hwWrite32

theorem Steady.endHart {d v} : Steady c k (endHart d v m) := h.modChan.putHstat.pend

theorem Steady.abortHart {d} : Steady c k (abortHart d m) := by
  unfold Machine.abortHart
  exact h.endHart.ite h

theorem Steady.shellHardpan {d} : Steady c k (shellHardpan d m) := h.abortHart.modChan

theorem Steady.enterHardpan : Steady c k (enterHardpan m) := by
  have hs : Steady c k (allChans.foldl (fun m c => Machine.shellHardpan c m) (Machine.modMc (fun c => { c with dramFrozen := true })
      (Machine.hardpanEngines (Machine.modeEnter .hardpan true (Machine.modFaults (fun x => { x with hpDue := false }) m))))) :=
    h.modFaults.modeEnter.hardpanEngines.modMc.foldl fun _ _ hn => hn.shellHardpan
  have he := hs.hardpanKeeper.modHost (f := fun h => { h with kready := false })
  unfold Machine.enterHardpan
  exact h.ite (he.ite he.deviceVector)

theorem Steady.watchdogEdge {e} : Steady c k (watchdogEdge e m) := by
  unfold Machine.watchdogEdge
  exact h.ite (h.modWd.bite.carryBite.ite h.modWd)

end

end Sys2Proof.Machine
end

section
/-! PROOFS. The tick is steady as channels begin and end a tick, and as the module latches its tables. -/

namespace Sys2Proof.Machine

open Sys2Proof

set_option Elab.async false -- one proof at a time: the threads of many at once exceed the memory of a check

section
variable {c : TickSt} {k : Nat} {m : Mach} (h : Steady c k m)
include h

/-! ### Channels as time passes -/

theorem Steady.modHart {d f} : Steady c k (modHart d f m) := h.modChan.putHstat

theorem Steady.hartWaits {d} : Steady c k (hartWaits d m) := h.modHart.ite h

theorem Steady.timerEvents {d v} : Steady c k (timerEvents d v m) := h.ite h.pend

theorem Steady.advanceChan {a b d} : Steady c k (advanceChan a b d m) := by
  unfold Machine.advanceChan
  extract_lets x mode9 r
  exact h.ite h.modChan.timerEvents

/-! ### The end of a tick on a channel -/

theorem Steady.freeze {t d} : Steady c k (freeze t d m) := by
  unfold Machine.freeze
  extract_lets x b m1 m2 m3
  have h2 : Steady c k m2 := h.hwWriteGran.hwWriteGran
  have h3 : Steady c k m3 := h2.hwWrite32.ite h2
  exact h.ite h3.modChan

theorem Steady.stream {d} : Steady c k (stream d m) := by
  unfold Machine.stream
  extract_lets x g len used m1 a p v m2 half
  have h1 : Steady c k m1 := h.hwTouch
  have hp : Steady c k p.2 := h1.fenceCheck
  have h2 : Steady c k m2 := hp.writeGran
  exact h.ite (h1.hwWrite32.ite (h2.modChan.ite hp.modChan.report))

theorem Steady.finish {b s d} : Steady c k (finish b s d m) := h.modChan

theorem Steady.timerSample {b d} : Steady c k (timerSample b d m) := by
  unfold Machine.timerSample
  exact h.finish.stream.ite h

theorem Steady.endTick {d} : Steady c k (endTick d m) := by
  unfold Machine.endTick
  extract_lets t m1 m2
  have h1 : Steady c k m1 := h.modChan.timerEvents.ite h
  exact h1.timerSample.freeze.modChan

/-! ### The start of a tick on a channel -/

theorem Steady.takeMode {d} : Steady c k (takeMode d m) := by
  unfold Machine.takeMode
  extract_lets m1 v
  have h1 : Steady c k m1 := h.modChan
  exact Steady.ite (h1.writeGran.putHstat) h1

theorem Steady.termEdge {d} : Steady c k (termEdge d m) := h.takeMode.ite h

theorem Steady.reachOff {d} : Steady c k (reachOff d m) := h.abortHart.modChan

theorem Steady.applyCommit {d} : Steady c k (applyCommit d m) := by
  unfold Machine.applyCommit
  extract_lets x due g v m1 m2 old m3
  have h1 : Steady c k m1 := h.hwTouch
  have h2 : Steady c k m2 := h1.modChan
  have h3 : Steady c k m3 := h2.abortHart.ite h2
  exact h.ite (h.modChan.termEdge.ite (h1.modChan.termEdge.ite ((h2.modChan.ite h2.takeMode).ite
    (h2.modChan.ite (h3.modChan.ite h3.reachOff)))))

theorem Steady.rampEdge {d} : Steady c k (rampEdge d m) := by
  unfold Machine.rampEdge
  exact h.reachOff.ite (h.ite h.termEdge)

theorem Steady.freezeEdge {d} : Steady c k (freezeEdge d m) := by
  unfold Machine.freezeEdge
  exact h.ite h.modChan

theorem Steady.startTick {d} : Steady c k (startTick d m) := h.freezeEdge.rampEdge.applyCommit.modChan.timerEvents

/-! ### Guards, clocks and tables at the edge -/

theorem Steady.groupCheck {g b} : Steady c k (groupCheck g b m) := by
  unfold Machine.groupCheck
  exact h.modDie.modDie.report.ite h.modDie

theorem Steady.clockEdge : Steady c k (clockEdge m) := by
  unfold Machine.clockEdge
  exact h.modPwr

theorem Steady.clearTick : Steady c k (clearTick m) := h.aside

theorem Steady.tilesOn : Steady c k (tilesOn m) := h.modPwr

theorem Steady.latchOwner {d o} : Steady c k (latchOwner d o m) := by
  unfold Machine.latchOwner
  exact h.ite (Steady.abortHart h.aside)

theorem Steady.latchOwners : Steady c k (latchOwners m) :=
  h.foldl fun n g hn => by
    have hr := hn.readGran (w := Acc.other) (g := granOf (0x40F5_0000#36 + BitVec.ofNat 36 (16 * g)))
    exact Steady.ite hr (hr.foldl fun _ _ hq => hq.latchOwner)

theorem Steady.spans {v} : Steady c k { m with spans := v } := h.aside

theorem Steady.latchSpan {i} : Steady c k (latchSpan i m) := by
  have hr := fun g0 g1 g2 g3 => (((h.readGran (w := Acc.other) (g := g0)).readGran (w := Acc.other) (g := g1)).readGran
    (w := Acc.other) (g := g2)).readGran (w := Acc.other) (g := g3)
  unfold Machine.latchSpan
  dsimp only
  exact (hr ..).ite (hr ..).spans

theorem Steady.latchSpans : Steady c k (latchSpans m) := by
  unfold Machine.latchSpans
  extract_lets all m1 m2
  have h1 : Steady c k m1 := h.foldl fun _ _ hn => hn.latchSpan
  have h2 : Steady c k m2 := h1.foldl fun _ _ hn => hn.report.ite hn
  exact h2.aside

end

end Sys2Proof.Machine
end

section
/-! PROOFS. The tick is steady as the tiles come to an edge, and as time moves on. -/

namespace Sys2Proof.Machine

open Sys2Proof

set_option Elab.async false -- one proof at a time: the threads of many at once exceed the memory of a check

/-! ### Tiles at an edge -/

/-- A replica that takes its place in a new grouping has an empty buffer (R10). -/
theorem regroupRep_sb (code : BitVec 3) (now : BitVec 64) (r : BitVec 2) (n : Nat) (x : Replica) :
    (regroupRep code now r n x).sb = [] := by
  unfold regroupRep
  dsimp only
  split
  · rfl
  · split
    · rfl
    · split
      · rfl
      · split <;> rfl

theorem retakeLanes_sb (code : BitVec 3) (now : BitVec 64) (reps : Tbl 2 Replica) (r : BitVec 2) :
    ((retakeLanes code now reps).get r).sb = [] := by
  simp only [retakeLanes, Tbl.get, Vector.getElem_ofFn]
  exact regroupRep_sb ..

section
variable {c : TickSt} {k : Nat} {m : Mach} (h : Steady c k m)
include h

theorem Steady.endEngine {e} : Steady c k (endEngine e m) := h.clearRun.modEng.modWd

theorem Steady.placeEngine {e x} : Steady c k (placeEngine e x m) := by
  unfold Machine.placeEngine
  extract_lets r m1 blank m2
  have h1 : Steady c k m1 := h.mapLanes (by exact fun _ => .inr ⟨rfl, rfl, id⟩)
  have h2 : Steady c k m2 := h1.modEng
  exact h2.ite h2.modWd

theorem Steady.regroup {t} : Steady c k (regroup t m) := by
  unfold Machine.regroup
  extract_lets x v w ps eng old m1 m2
  have h1 : Steady c k m1 := h.foldl fun _ _ hn => hn.endEngine
  have h2 : Steady c k m2 := h1.modTile fun _ _ => .inl (retakeLanes_sb ..)
  refine h.ite (Steady.ite (h.modTile ?_) ?_)
  · exact fun _ => .of_reps rfl rfl
  · exact h2.foldl fun _ _ hn => hn.placeEngine

theorem Steady.regroupReadBack {t l} : Steady c k (regroupReadBack t l m) :=
  h.foldl fun _ _ hn => hn.ite hn.react

theorem Steady.promoteAtEdge {t l} : Steady c k (promoteAtEdge t l m) := by
  unfold Machine.promoteAtEdge
  extract_lets e x
  split
  · rw [h.settleLanes.drain]
    dsimp only
    exact Steady.ite h.settleLanes (Steady.ite h.settleLanes.react.promote h.settleLanes.react)
  · exact h

theorem Steady.bistStart {t r} : Steady c k (bistStart t r m) :=
  h.modRep fun x => by
    split
    · exact .inr ⟨rfl, rfl, id⟩
    · exact .refl _

theorem Steady.tileEdge {l t} : Steady c k (tileEdge l t m) := by
  unfold Machine.tileEdge
  extract_lets commits m1 m2
  have h1 : Steady c k m1 := h.regroup
  have h2 : Steady c k m2 := h1.regroupReadBack.ite h1.promoteAtEdge
  exact h2.foldl fun _ _ hn => hn.bistStart

/-! ### The copier -/

theorem Steady.copyEntry {e p} : Steady c k (copyEntry e p m).2 := by
  unfold Machine.copyEntry
  dsimp only
  split <;> dsimp only <;> exact h.readGran

theorem Steady.countMalformed {e p d} : Steady c k (countMalformed e p d m) :=
  (h.modTick (f := fun t => { t with malformed := true }) rfl).bump32.report

theorem Steady.copyFrom {e n} : Steady c k (copyFrom e n m).2 := by
  induction n generalizing m with
  | zero => exact h
  | succ n ih =>
    have hc := h.copyEntry (e := e) (p := BitVec.ofNat 6 (63 - n))
    unfold Machine.copyFrom
    dsimp only
    split
    · exact ih hc.countMalformed
    · split
      · exact hc
      · split
        · exact ih hc.countMalformed
        · exact ih hc

theorem Steady.copyList {e} : Steady c k (copyList e m) := by
  unfold Machine.copyList
  exact h.ite h.copyFrom.modEng

theorem Steady.copyStep : Steady c k (copyStep m) := by
  unfold Machine.copyStep
  extract_lets n e
  split
  · exact h.modTick rfl
  · exact h.copyList.modTick rfl

theorem Steady.copyUntil {t n} : Steady c k (copyUntil t n m) := by
  induction n generalizing m with
  | zero => exact h
  | succ n ih =>
    unfold Machine.copyUntil
    exact (ih h.copyStep).ite h

theorem Steady.copier {t} : Steady c k (copier t m) := h.copyUntil.ite h

/-! ### Time -/

theorem Steady.bkp {v} : Steady c k { m with bkp := v } := h.aside

theorem Steady.haltedTime {n} : Steady c k (haltedTime n m) := by
  unfold Machine.haltedTime
  split
  · exact ⟨h.idle, h.clk, h.tick⟩
  · exact h

theorem Steady.advanceTo {t} : Steady c (max k t) (advanceTo t m) := by
  unfold Machine.advanceTo
  split
  next hlt =>
    extract_lets a m1 m2 m3
    have h1 : Steady c k m1 := h.copier
    have h2 : Steady c k m2 := Steady.haltedTime (h1.bkp.ite h1)
    have h3 : Steady c k m3 := h2.foldl fun _ _ hn => hn.advanceChan
    clear_value m3
    have h4 : Steady c (max k t) { m3 with clk := t } :=
      ⟨h3.idle, max_le (h.clk.trans hlt.le) le_rfl, h3.tick⟩
    exact h4.foldl fun _ _ hn => hn.hartWaits
  next hge => exact ⟨h.idle, max_le h.clk (not_lt.mp hge), h.tick⟩

end

end Sys2Proof.Machine
end

section
/-! PROOFS. What a tick edge leaves of the tick (R15, R20, R31, R34). -/

namespace Sys2Proof.Machine

open Sys2Proof

set_option Elab.async false -- one proof at a time: the threads of many at once exceed the memory of a check

/-! ### The tick at an edge -/

theorem core_newTick (x : Nat) (t : TickSt) : (newTick x t).core = (newTick x t.core).core := rfl

/-- The tick after a bank swap that was asked for (R31). -/
def TickSt.swapped (t : TickSt) : TickSt := if t.swapPend then { t with active := !t.active, swapPend := false } else t

/-- The tick that begins at `x`. -/
def TickSt.after (x : Nat) (t : TickSt) : TickSt := (newTick x t).core.swapped

/-- A tick that is closed has nothing of its phases left to do. -/
theorem closePhase_of_closed {m : Mach} (h : m.tick.phase = .closed) : closePhase m = m := by
  have ha : applyPhase m = m := by simp [applyPhase, h]
  have hp : p1Phase m = m := by simp [p1Phase, ha, h]
  simp [closePhase, hp, h]

section
variable {c : TickSt} {k : Nat} {m : Mach} (h : Steady c k m)
include h

theorem Steady.newTick {x} : Steady (Machine.newTick x c).core k (Machine.modTick (Machine.newTick x) m) where
  idle := h.idle
  clk := h.clk
  tick := by
    show (Machine.newTick x m.tick).core = _
    rw [core_newTick, h.tick]

theorem Steady.bankSwap : Steady c.swapped k (bankSwap m) := by
  have hc : c.swapPend = m.tick.swapPend := h.tick ▸ rfl
  unfold Machine.bankSwap TickSt.swapped
  rw [hc]
  split
  · refine Steady.foldl ⟨h.idle, h.clk, ?_⟩ fun n e hn => hn.foldl fun _ _ hq => hq.hwWriteGran
    rw [← h.tick]
    rfl
  · exact h

theorem Steady.skipCopies : Steady c k (if slotsRun m.mode.mode then m else Machine.modTick (fun t => { t with copied := 128 }) m) :=
  h.ite (h.modTick rfl)

theorem Steady.edge {x g l} : Steady (c.after x) (max k x) (edge x g l m) := by
  unfold Machine.edge
  extract_lets m1 m2 m3 m4 m5 m6 m7 m8 m9
  have h1 : Steady c (max k x) m1 := h.advanceTo.enterHardpan
  clear_value m1
  have h2 : Steady c (max k x) m2 := h1.foldl fun _ _ hn => hn.endTick
  clear_value m2
  have h3 : Steady (Machine.newTick x c).core (max k x) m3 := h2.newTick.clearTick
  clear_value m3
  have h4 : Steady (Machine.newTick x c).core (max k x) m4 := (h3.foldl fun _ _ hn => hn.watchdogEdge).modeEdge
  clear_value m4
  have h5 : Steady (c.after x) (max k x) m5 := (h4.foldl fun _ _ hn => hn.tileEdge).tilesOn.bankSwap
  clear_value m5
  have h6 : Steady (c.after x) (max k x) m6 := h5.latchOwners.latchSpans
  clear_value m6
  have h7 : Steady (c.after x) (max k x) m7 := h6.skipCopies.copier
  clear_value m7
  have h8 : Steady (c.after x) (max k x) m8 := h7.foldl fun _ _ hn => hn.startTick
  clear_value m8
  have h9 : Steady (c.after x) (max k x) m9 := h8.foldl fun _ _ hn => hn.groupCheck
  exact h9.clockEdge

end

/-- What an edge does to the tick, where no store waits in a buffer. -/
theorem exec_tickEdge {s : State} {x : Nat} (g : BitVec 32) (l : List (BitVec 5 × BitVec 2)) (hr : tickRuns s.m = true)
    (hp : s.m.tick.phase = .closed) (hn : nextEdgeAt s.m.tick = some x) (he : s.m.emptied) :
    ∃ m, exec (.tickEdge g l) s = .next { s with m := m } ∧ Steady (s.m.tick.core.after x) (max s.m.clk x) m :=
  ⟨edge x g l s.m, by
    show Host.Outcome.next _ = _
    simp [tickEdge, hr, hn, closePhase_of_closed hp], Steady.edge ⟨he, le_rfl, rfl⟩⟩

end Sys2Proof.Machine
end

section
/-! PROOFS. What stays as time moves on: the modes, the tiles, the debug unit, and the engines whose lists stand copied. -/

namespace Sys2Proof.Machine

open Sys2Proof

set_option Elab.async false -- one proof at a time: the threads of many at once exceed the memory of a check

/-! ### Accesses to SRAM keep the mode -/

theorem reactionOf_sram (m : Mach) (arg : W64) : reactionOf m 0x0401 arg ≠ .h := by
  simp [reactionOf, logOnly, hardpanCode, escalates]

theorem reactionOf_malformed (m : Mach) (arg : W64) : reactionOf m 0x0102 arg ≠ .h := by
  simp [reactionOf, logOnly]

theorem mode_readGran_of_sram {w : Acc} {g : Nat} {m : Mach} (h : isDram g = false) : (readGran w g m).2.mode = m.mode := by
  unfold readGran
  split
  · rfl
  · simp [countCorrected, h]
  · simp only [h, Bool.false_eq_true, if_false]
    rw [report_soft _ _ _ (reactionOf_sram _ _)]
    simp

theorem mode_writeGran_of_sram {w : Acc} {g : Nat} {d : Gran} {x : BitVec 16} {t : Bool} {m : Mach} (h : isDram g = false) :
    (writeGran w g d x t m).mode = m.mode := by
  unfold writeGran
  extract_lets mc m1
  have h1 : (readGran w g m1).2.mode = m.mode := mode_readGran_of_sram h
  generalize readGran w g m1 = p at *
  split
  · rfl
  · dsimp only
    split
    · exact h1
    · exact h1

theorem isDram_granOf {a : Addr} (h : a.toNat < 0x8_0000_0000) : isDram (granOf a) = false := by
  have : ¬ 0x8000_0000 ≤ a.toNat / 16 := by omega
  simp [isDram, granOf, this]

theorem toNat_put_le {n j : Nat} (x : BitVec j) (lo : Nat) : (put n x lo).toNat ≤ x.toNat * 2 ^ lo := by
  simp only [put, BitVec.toNat_shiftLeft, BitVec.toNat_setWidth, Nat.shiftLeft_eq]
  exact (Nat.mod_le _ _).trans (Nat.mul_le_mul_right _ (Nat.mod_le _ _))

theorem toNat_add_le {n : Nat} (x y : BitVec n) : (x + y).toNat ≤ x.toNat + y.toNat := by
  rw [BitVec.toNat_add]
  exact Nat.mod_le _ _

theorem isDram_statusBase (e : BitVec 7) (o : Addr) (ho : o.toNat < 0x1000) : isDram (granOf (statusBase e + o)) = false := by
  have he := e.isLt
  have h1 := toNat_add_le (statusBase e) o
  have h2 := toNat_add_le 0x40F4_0000#36 (put 36 e 7)
  have h3 := toNat_put_le (n := 36) e 7
  simp only [BitVec.toNat_ofNat] at h2
  refine isDram_granOf ?_
  unfold statusBase at *
  omega

theorem isDram_slotAddr (b : Bool) (e : BitVec 7) (p : BitVec 6) : isDram (granOf (slotAddr b e p)) = false := by
  have he := e.isLt
  have hp := p.isLt
  have h1 := toNat_add_le (bankBase b + put 36 e 10) (put 36 p 4)
  have h2 := toNat_add_le (bankBase b) (put 36 e 10)
  have h3 := toNat_put_le (n := 36) e 10
  have h4 := toNat_put_le (n := 36) p 4
  have h5 : (bankBase b).toNat ≤ 0x40F2_0000 := by cases b <;> decide
  refine isDram_granOf ?_
  unfold slotAddr
  omega

theorem isDram_parAddr (c : BitVec 8) (o : Nat) (ho : o < 0x1000) : isDram (granOf (parAddr c o)) = false := by
  have hc := c.isLt
  have h1 := toNat_add_le (0x40FC_0000#36 + put 36 c 10) (BitVec.ofNat 36 o)
  have h2 := toNat_add_le 0x40FC_0000#36 (put 36 c 10)
  have h3 := toNat_put_le (n := 36) c 10
  simp only [BitVec.toNat_ofNat] at h1 h2
  refine isDram_granOf ?_
  unfold parAddr
  omega

/-! ### The relation -/

/-- The tick but for what the copier moves. -/
def TickSt.but (t u : TickSt) : TickSt := { t with copied := u.copied, window := u.window, malformed := u.malformed }

/-- How far time can move the module from `m`: the copier carries on, a halted engine's times pass, and an engine that is not
halted and whose list stands copied stays as it is. -/
structure Flows (m n : Mach) : Prop where
  tick : n.tick = m.tick.but n.tick
  copied : m.tick.copied ≤ n.tick.copied
  mode : n.mode = m.mode
  dbg : n.dbg = m.dbg
  pwr : n.pwr = m.pwr
  tiles : n.tiles = m.tiles
  halted : ∀ e, (n.engines.get e).halted = (m.engines.get e).halted
  keeper : ∀ e, (n.engines.get e).keeper = (m.engines.get e).keeper
  still : ∀ e, e.toNat < m.tick.copied → (m.engines.get e).halted = false → n.engines.get e = m.engines.get e

section
variable {m n p : Mach}

/-- What touches none of it. -/
theorem Flows.aside (ht : n.tick = m.tick := by rfl) (hm : n.mode = m.mode := by rfl) (hd : n.dbg = m.dbg := by rfl)
    (hp : n.pwr = m.pwr := by rfl) (hl : n.tiles = m.tiles := by rfl) (he : n.engines = m.engines := by rfl) : Flows m n where
  tick := by rw [ht]; rfl
  copied := by rw [ht]
  mode := hm
  dbg := hd
  pwr := hp
  tiles := hl
  halted e := by rw [he]
  keeper e := by rw [he]
  still e _ _ := by rw [he]

theorem Flows.count (h : Flows m n) : n.tick.count = m.tick.count := by rw [h.tick]; rfl

theorem Flows.refl : Flows m m := .aside

theorem Flows.trans (h : Flows m n) (h' : Flows n p) : Flows m p where
  tick := by rw [h'.tick, h.tick]; rfl
  copied := h.copied.trans h'.copied
  mode := h'.mode.trans h.mode
  dbg := h'.dbg.trans h.dbg
  pwr := h'.pwr.trans h.pwr
  tiles := h'.tiles.trans h.tiles
  halted e := (h'.halted e).trans (h.halted e)
  keeper e := (h'.keeper e).trans (h.keeper e)
  still e hc hh := (h'.still e (hc.trans_le h.copied) ((h.halted e).trans hh)).trans (h.still e hc hh)

theorem Flows.foldl {α : Type} {f : Mach → α → Mach} {l : List α} (hf : ∀ n x, Flows n (f n x)) : Flows m (l.foldl f m) := by
  induction l generalizing m with
  | nil => exact .refl
  | cons x l ih => exact (hf m x).trans ih

theorem Flows.ite {q : Prop} {_ : Decidable q} (hm : Flows m n) (hn : Flows m p) : Flows m (if q then n else p) := by
  split
  · exact hm
  · exact hn

end

/-! ### The copier -/

theorem flows_readGran {w : Acc} {g : Nat} {m : Mach} (h : isDram g = false) : Flows m (readGran w g m).2 :=
  .aside (by simp) (mode_readGran_of_sram h) (by simp) (by simp) (by simp) (by simp)

theorem flows_writeGran {w : Acc} {g : Nat} {d : Gran} {x : BitVec 16} {t : Bool} {m : Mach} (h : isDram g = false) :
    Flows m (writeGran w g d x t m) :=
  .aside (by simp) (mode_writeGran_of_sram h) (by simp) (by simp) (by simp) (by simp)

theorem flows_report {code : BitVec 16} {arg : W64} {m : Mach} (h : reactionOf m code arg ≠ .h) : Flows m (report code arg m) :=
  .aside (by simp) (by rw [report_soft _ _ _ h, queueFault_mode]) (by simp) (by simp) (by simp) (by simp)

/-- What moves the copier on. -/
theorem flows_modTick {f : TickSt → TickSt} {m : Mach} (hf : f m.tick = m.tick.but (f m.tick))
    (hc : m.tick.copied ≤ (f m.tick).copied) : Flows m (modTick f m) where
  tick := hf
  copied := hc
  mode := rfl
  dbg := rfl
  pwr := rfl
  tiles := rfl
  halted _ := rfl
  keeper _ := rfl
  still _ _ _ := rfl

theorem flows_copyEntry (e : BitVec 7) (p : BitVec 6) (m : Mach) : Flows m (copyEntry e p m).2 := by
  unfold copyEntry
  dsimp only
  split <;> dsimp only <;> exact flows_readGran (isDram_slotAddr ..)

theorem flows_countMalformed (e : BitVec 7) (p : BitVec 6) (d : Gran) (m : Mach) : Flows m (countMalformed e p d m) :=
  ((flows_modTick rfl le_rfl).trans (flows_writeGran (isDram_statusBase e _ (by decide)))).trans
    (flows_report (reactionOf_malformed _ _))

theorem flows_copyFrom (e : BitVec 7) (n : Nat) (m : Mach) : Flows m (copyFrom e n m).2 := by
  induction n generalizing m with
  | zero => exact .refl
  | succ n ih =>
    have hc := flows_copyEntry e (BitVec.ofNat 6 (63 - n)) m
    unfold copyFrom
    dsimp only
    split
    · exact (hc.trans (flows_countMalformed ..)).trans (ih _)
    · split
      · exact hc
      · split
        · exact (hc.trans (flows_countMalformed ..)).trans (ih _)
        · exact hc.trans (ih _)

/-- A list is copied into its engine alone, and its place in the copier's order is not yet past. -/
theorem Flows.modEng {m n : Mach} (h : Flows m n) {e : BitVec 7} {f : Engine → Engine}
    (hh : ∀ g : Engine, (f g).halted = g.halted) (hk : ∀ g : Engine, (f g).keeper = g.keeper) (he : m.tick.copied ≤ e.toNat) :
    Flows m (modEng e f n) where
  tick := h.tick
  copied := h.copied
  mode := h.mode
  dbg := h.dbg
  pwr := h.pwr
  tiles := h.tiles
  halted e' := by
    rw [← h.halted, modEng_engines, Tbl.get_upd]
    split
    next he => rw [hh, he]
    · rfl
  keeper e' := by
    rw [← h.keeper, modEng_engines, Tbl.get_upd]
    split
    next he => rw [hk, he]
    · rfl
  still e' hc hh := by
    rw [← h.still e' hc hh, modEng_engines, Tbl.get_upd_ne]
    rintro rfl
    omega

theorem flows_copyList {e : BitVec 7} {m : Mach} (he : m.tick.copied ≤ e.toNat) : Flows m (copyList e m) := by
  unfold copyList
  dsimp only
  exact Flows.refl.ite ((flows_copyFrom e 64 m).modEng (fun _ => rfl) (fun _ => rfl) he)

theorem flows_copyStep {m : Mach} (hn : m.tick.copied < 128) : Flows m (copyStep m) := by
  unfold copyStep
  extract_lets n e
  split
  · exact flows_modTick rfl le_rfl
  · have hl : Flows m (copyList e m) := flows_copyList (by simp [e, n]; omega)
    exact { hl with
      tick := by
        show { (copyList e m).tick with copied := n + 1, window := none } = _
        rw [hl.tick]
        rfl
      copied := Nat.le_succ _ }

theorem flows_copyUntil (t n : Nat) (m : Mach) : Flows m (copyUntil t n m) := by
  induction n generalizing m with
  | zero => exact .refl
  | succ n ih =>
    unfold copyUntil
    extract_lets i next
    split
    next h =>
      simp only [Bool.and_eq_true, decide_eq_true_eq] at h
      obtain ⟨⟨hn, -⟩, -⟩ := h
      exact (flows_copyStep hn).trans (ih _)
    · exact .refl

theorem flows_copier (t : Nat) (m : Mach) : Flows m (copier t m) := (flows_copyUntil t 256 m).ite .refl

/-! ### Time -/

/-- A halted engine's slot begins later by what passes; nothing else of any engine changes (R470). -/
theorem engine_haltedTime (n : Nat) (m : Mach) (e : BitVec 7) : (haltedTime n m).engines.get e = (m.engines.get e) ∨
    ((m.engines.get e).halted = true ∧ (haltedTime n m).engines.get e = { m.engines.get e with
      cur := (m.engines.get e).cur.map fun r => { r with start := r.start + n, bisqueAt := r.bisqueAt + n } }) := by
  unfold haltedTime
  split
  · simp only [Tbl.get, Vector.getElem_map]
    split
    next h => exact .inr ⟨h, rfl⟩
    · exact .inl rfl
  · exact .inl rfl

theorem flows_haltedTime (n : Nat) (m : Mach) : Flows m (haltedTime n m) := by
  have hx : (haltedTime n m) = { m with engines := (haltedTime n m).engines, watch := (haltedTime n m).watch } := by
    unfold haltedTime
    split <;> rfl
  refine ⟨by rw [hx]; rfl, by rw [hx], by rw [hx], by rw [hx], by rw [hx], by rw [hx], fun e => ?_, fun e => ?_, fun e _ hh => ?_⟩
  · rcases engine_haltedTime n m e with h | ⟨-, h⟩ <;> rw [h]
  · rcases engine_haltedTime n m e with h | ⟨-, h⟩ <;> rw [h]
  · rcases engine_haltedTime n m e with h | ⟨h, -⟩
    · exact h
    · rw [hh] at h
      exact absurd h (by simp)

theorem flows_advanceChan (a b : Nat) (c : BitVec 8) (m : Mach) : Flows m (advanceChan a b c m) := by
  unfold advanceChan timerEvents
  extract_lets x mode9 r
  exact Flows.refl.ite (Flows.ite .aside .aside)

theorem flows_hartWaits (c : BitVec 8) (m : Mach) : Flows m (hartWaits c m) := by
  have hc : ∀ f, Flows m (modChan c f m) := fun _ => .aside
  unfold hartWaits modHart putHstat hwWrite32
  exact Flows.ite ((hc _).trans (flows_writeGran (isDram_parAddr c 0x204 (by omega)))) .refl

theorem flows_advanceTo (t : Nat) (m : Mach) : Flows m (advanceTo t m) := by
  unfold advanceTo
  extract_lets a m1 m2 m3
  refine Flows.ite ?_ .refl
  have h1 : Flows m m1 := flows_copier t m
  clear_value m1
  have hb : Flows m1 (if backupFed m1 then { m1 with bkp := rtcAdvance m1.watch.bkpLost (t - a) m1.bkp } else m1) :=
    Flows.ite .aside .refl
  have h2 : Flows m1 m2 := hb.trans (flows_haltedTime ..)
  clear_value m2
  have h3 : Flows m2 m3 := Flows.foldl fun _ _ => flows_advanceChan ..
  clear_value m3
  have h4 : Flows m3 { m3 with clk := t } := .aside
  exact (((h1.trans h2).trans h3).trans h4).trans (Flows.foldl fun _ _ => flows_hartWaits ..)

end Sys2Proof.Machine
end

section
/-! PROOFS. What stays while slots are ended and outputs collected at C: the clock, the tick's count and phase, the release of
outputs, and the engines but the one whose slots end. -/

namespace Sys2Proof.Machine

open Sys2Proof

set_option Elab.async false -- one proof at a time: the threads of many at once exceed the memory of a check

/-! ### Time moves the clock -/

theorem foldl_keeps {α β σ : Type} {f : σ → α → σ} (g : σ → β) (hf : ∀ s x, g (f s x) = g s) (l : List α) (s : σ) :
    g (l.foldl f s) = g s := by
  induction l generalizing s with
  | nil => rfl
  | cons x l ih => rw [List.foldl_cons, ih, hf]

theorem foldl_preserves {α σ : Type} {f : σ → α → σ} {P : σ → Prop} (hf : ∀ s x, P s → P (f s x)) (l : List α) {s : σ} (h : P s) :
    P (l.foldl f s) := by
  induction l generalizing s with
  | nil => exact h
  | cons x l ih => exact ih (hf s x h)

theorem clk_hartWaits (c : BitVec 8) (m : Mach) : (hartWaits c m).clk = m.clk := by
  unfold hartWaits
  dsimp only
  split
  · simp [modHart, putHstat, hwWrite32]
  · rfl

theorem clk_advanceTo (t : Nat) (m : Mach) : (advanceTo t m).clk = max m.clk t := by
  rcases Nat.lt_or_ge m.clk t with h | h
  · rw [advanceTo_of_lt h, foldl_keeps Mach.clk fun m c => clk_hartWaits c m]
    exact (max_eq_right h.le).symm
  · rw [advanceTo, if_neg (not_lt.mpr h), max_eq_left h]

/-! ### The relation -/

/-- The clock, the tick's count and phase, the release of outputs and the engines are as they were. -/
structure Kept (m n : Mach) : Prop where
  clk : n.clk = m.clk
  count : n.tick.count = m.tick.count
  phase : n.tick.phase = m.tick.phase
  outRel : n.mode.outRel = m.mode.outRel
  engines : n.engines = m.engines

section
variable {m n p : Mach}

theorem Kept.refl : Kept m m := ⟨rfl, rfl, rfl, rfl, rfl⟩

theorem Kept.trans (h : Kept m n) (h' : Kept n p) : Kept m p :=
  ⟨h'.clk.trans h.clk, h'.count.trans h.count, h'.phase.trans h.phase, h'.outRel.trans h.outRel, h'.engines.trans h.engines⟩

theorem Kept.aside (hc : n.clk = m.clk := by rfl) (ht : n.tick = m.tick := by rfl)
    (hm : n.mode.outRel = m.mode.outRel := by rfl) (he : n.engines = m.engines := by rfl) : Kept m n :=
  ⟨hc, by rw [ht], by rw [ht], hm, he⟩

theorem Kept.foldl {α : Type} {f : Mach → α → Mach} {l : List α} (hf : ∀ n x, Kept n (f n x)) : Kept m (l.foldl f m) :=
  foldl_preserves (P := Kept m) (fun n x hn => hn.trans (hf n x)) l .refl

theorem Kept.ite {q : Prop} {_ : Decidable q} (hm : Kept m n) (hn : Kept m p) : Kept m (if q then n else p) := by
  split
  · exact hm
  · exact hn

/-- A change of one engine goes along. -/
theorem Kept.modEng (h : Kept m n) (e : BitVec 7) (f : Engine → Engine) : Kept (modEng e f m) (modEng e f n) :=
  ⟨h.clk, h.count, h.phase, h.outRel, by rw [modEng_engines, modEng_engines, h.engines]⟩

end

/-! ### Faults and memory -/

theorem outRel_report (code : BitVec 16) (arg : W64) (m : Mach) : (report code arg m).mode.outRel = m.mode.outRel := by
  unfold report reportC beginHardpan
  split
  · simp only [queueFault_mode]
    split <;> rfl
  · rw [queueFault_mode]

theorem kept_report {code : BitVec 16} {arg : W64} {m : Mach} : Kept m (report code arg m) :=
  .aside (by simp) (by simp) (outRel_report ..) (by simp)

theorem outRel_countDevice (g : Nat) (dev : BitVec 5) (m : Mach) : (countDevice g dev m).mode.outRel = m.mode.outRel := by
  unfold countDevice
  extract_lets ch ix old row rows m1 arg m2
  have h1 : m1.mode.outRel = m.mode.outRel := rfl
  have h2 : m2.mode.outRel = m.mode.outRel := by
    simp only [m2]
    split
    · split
      · rw [outRel_report]; exact h1
      · split
        · exact h1
        · rw [outRel_report]; exact h1
    · exact h1
  split
  · rw [outRel_report]; exact h2
  · exact h2

theorem outRel_countCorrected (g : Nat) (x : BitVec 5) (m : Mach) : (countCorrected g x m).mode.outRel = m.mode.outRel := by
  unfold countCorrected
  dsimp only
  split
  · rw [outRel_countDevice]
    split <;> rfl
  · rfl

theorem outRel_readGran (w : Acc) (g : Nat) (m : Mach) : (readGran w g m).2.mode.outRel = m.mode.outRel := by
  unfold readGran
  split
  · rfl
  · exact outRel_countCorrected ..
  · dsimp only
    split <;> exact outRel_report ..

theorem outRel_writeGran (w : Acc) (g : Nat) (d : Gran) (x : BitVec 16) (t : Bool) (m : Mach) :
    (writeGran w g d x t m).mode.outRel = m.mode.outRel := by
  unfold writeGran
  extract_lets mc m1
  have h1 : (readGran w g m1).2.mode.outRel = m.mode.outRel := outRel_readGran ..
  generalize readGran w g m1 = p at *
  split
  · rfl
  · dsimp only
    split <;> exact h1

theorem kept_readGran {w : Acc} {g : Nat} {m : Mach} : Kept m (readGran w g m).2 :=
  .aside (by simp) (by simp) (outRel_readGran ..) (by simp)

theorem kept_writeGran {w : Acc} {g : Nat} {d : Gran} {x : BitVec 16} {t : Bool} {m : Mach} : Kept m (writeGran w g d x t m) :=
  .aside (by simp) (by simp) (outRel_writeGran ..) (by simp)

/-! ### Slots that end -/

theorem kept_spanResult {e : BitVec 7} {s : Slot} {x : MemberResult} {m : Mach} : Kept m (spanResult e s x m) := by
  unfold spanResult
  split
  · split
    · exact .aside
    · exact .refl
  · exact .refl

theorem kept_raiseConsec {e : BitVec 7} {s : Slot} {m : Mach} : Kept m (raiseConsec e s m) := by
  unfold raiseConsec
  extract_lets a n
  exact (kept_writeGran.trans kept_report).ite kept_writeGran

theorem kept_countSkip {e : BitVec 7} {s : Slot} {m : Mach} : Kept m (countSkip e s m) := by
  have hs : Kept m { m with tick := { m.tick with skip := true } } := ⟨rfl, rfl, rfl, rfl, rfl⟩
  exact (hs.trans kept_writeGran).trans kept_raiseConsec

theorem kept_countOverrun {e : BitVec 7} {s : Slot} {m : Mach} : Kept m (countOverrun e s m) := by
  unfold countOverrun
  extract_lets b m1 m2 m3 m4 m5 m6
  have h5 : Kept m m5 := (((kept_writeGran.trans kept_writeGran).trans kept_writeGran).trans kept_writeGran).trans kept_writeGran
  clear_value m5
  have h6 : Kept m5 m6 := Kept.ite .aside .refl
  exact (h5.trans h6).trans kept_raiseConsec

/-- What is left of an engine whose run is cleared. -/
def Engine.cleared (g : Engine) : Engine :=
  { g with act := .idle, cur := none, undo := [], taken := [], notices := [], forcedDue := false, fed := false, reread := false }

/-- An engine whose list is dropped. -/
def Engine.listless (g : Engine) : Engine := { g with todo := [] }

theorem kept_abandonRun {e : BitVec 7} {m : Mach} {r : Run} (h : (m.engines.get e).cur = some r) :
    Kept (modEng e Engine.cleared m) (abandonRun e m) := by
  have hr : ∀ {n : Mach}, Kept m n → Kept (modEng e Engine.cleared m) (clearRun e n) := fun {n} hn => by
    have hq : Kept m { n with
        supNotices := n.supNotices ++ (n.engines.get e).notices, resv := n.resv.filter fun x => x.1 ≠ e } := hn.trans .aside
    exact hq.modEng e Engine.cleared
  have hm : ∀ {n : Mach} {f : Replica → Replica}, Kept n (mapLanes e f n) := .aside (by simp) (by simp) (by simp) (by simp)
  unfold abandonRun
  rw [h]
  dsimp only
  have hw : Kept m (withhold e r.slot.pos m) := .aside
  exact hr ((hw.trans kept_spanResult).trans hm)

/-- Where the window is closed, what an engine has left of its list is skipped (R34). -/
theorem kept_startNext {e : BitVec 7} {m : Mach} (h : m.tick.phase = .closed) :
    Kept (modEng e Engine.listless m) (startNext e m) := by
  unfold startNext
  dsimp only
  split
  next ht =>
    refine ⟨rfl, rfl, rfl, rfl, ?_⟩
    rw [modEng_engines, Tbl.upd_id]
    rw [Engine.listless, ← ht]
  next s r ht =>
    rw [if_pos h]
    exact (Kept.foldl fun _ _ => kept_spanResult.trans kept_countSkip).modEng e Engine.listless

theorem kept_overrunSlot {e : BitVec 7} {m : Mach} {r : Run} (h : (m.engines.get e).cur = some r) (hp : m.tick.phase = .closed) :
    Kept (modEng e Engine.listless (modEng e Engine.cleared m)) (overrunSlot e m) := by
  unfold overrunSlot
  rw [h]
  have ha := (kept_abandonRun h).trans (kept_countOverrun (e := e) (s := r.slot))
  exact (ha.modEng e Engine.listless).trans (kept_startNext (ha.phase.trans hp))

end Sys2Proof.Machine
end

section
/-! PROOFS. The phases of a tick, tick-sync edges and holdover (O29, R12 to R22). -/

namespace Sys2Proof.Machine

open Sys2Proof

set_option Elab.async false -- one proof at a time: the threads of many at once exceed the memory of a check

/-! ### The outputs change -/

theorem kept_hwTouch {l : List Nat} {m : Mach} : Kept m (hwTouch l m) := Kept.foldl fun _ _ => kept_readGran

theorem kept_modChan {c : BitVec 8} {f : Chan → Chan} {m : Mach} : Kept m (modChan c f m) := .aside

theorem kept_applyOut {b : Bool} {c : BitVec 8} {m : Mach} : Kept m (applyOut b c m) := by
  have hr : ∀ (n : Mach) (r : OutRec), Kept n (match (generalizing := false) r with
      | .failed k => reportRecord c k n
      | _ => n) := fun n r => by
    split
    · exact kept_modChan.trans kept_report
    · exact .refl
  unfold applyOut
  extract_lets x m1 m2
  have h1 : Kept m m1 := kept_modChan
  have h2 : Kept m1 m2 := hr m1 x.outRec
  clear_value m1 m2
  exact h1.ite (h1.trans (h2.ite ((h2.trans kept_modChan).ite (h2.trans kept_modChan))))

theorem kept_collect {c : BitVec 8} {m : Mach} : Kept m (collect c m) := by
  unfold collect
  extract_lets x b mk a d m1 k
  exact Kept.refl.ite (kept_hwTouch.trans kept_modChan)

theorem windowClose_eq (m : Mach) : ∃ f : TickSt → TickSt, windowClose m = modTick f m ∧ ∀ t, (f t).count = t.count := by
  unfold windowClose
  extract_lets t n
  split
  · exact ⟨id, rfl, fun _ => rfl⟩
  · split
    · exact ⟨_, rfl, fun _ => rfl⟩
    · exact ⟨_, rfl, fun _ => rfl⟩

/-- The apply: 5 µs into the tick, the outputs change (R21). -/
theorem applyPhase_of_p0 {m : Mach} (h : m.tick.phase = .p0) : (applyPhase m).tick.phase = .applied ∧
    (applyPhase m).tick.count = m.tick.count ∧ m.tick.edgeAt + 512 ≤ (applyPhase m).clk := by
  have ha := flows_advanceTo (m.tick.edgeAt + usClk 5) m
  have hc := clk_advanceTo (m.tick.edgeAt + usClk 5) m
  have hcount := ha.count
  unfold applyPhase
  rw [if_neg (not_not.mpr h)]
  dsimp only
  generalize advanceTo (m.tick.edgeAt + usClk 5) m = n at *
  obtain ⟨f, hf, hfc⟩ := windowClose_eq n
  rw [hf]
  have hk : Kept (modTick f n) (if (modTick f n).mode.mode = .hardpan then modTick f n
      else allChans.foldl (fun m c => applyOut m.dbg.bscan c m) (modTick f n)) :=
    Kept.refl.ite (Kept.foldl fun _ _ => kept_applyOut)
  refine ⟨rfl, hk.count.trans ((hfc _).trans hcount), ?_⟩
  show _ ≤ Mach.clk (if _ then _ else _)
  rw [hk.clk]
  have : usClk 5 = 512 := rfl
  show _ ≤ n.clk
  omega

/-! ### Each engine by itself -/

theorem mem_allEngines (e : BitVec 7) : e ∈ allEngines := by
  rw [allEngines, List.mem_map]
  exact ⟨e.toNat, (mem_range 0 128 _).mpr ⟨Nat.zero_le _, by omega⟩, by simp⟩

theorem nodup_allEngines : allEngines.Nodup := by decide +kernel

/-- Where each step of a pass over the engines leaves the other engines, an engine comes out as its own step makes it. -/
theorem engine_foldl {f : Mach → BitVec 7 → Mach} {P : Mach → Prop} (hf : ∀ n x, P n → P (f n x))
    (ho : ∀ n x, P n → ∀ e, e ≠ x → (f n x).engines.get e = n.engines.get e) (e : BitVec 7) {m : Mach} (hm : P m) :
    ∃ n, P n ∧ n.engines.get e = m.engines.get e ∧ (allEngines.foldl f m).engines.get e = (f n e).engines.get e := by
  have hother : ∀ l : List (BitVec 7), e ∉ l → ∀ n, P n → P (l.foldl f n) ∧ (l.foldl f n).engines.get e = n.engines.get e := by
    intro l
    induction l with
    | nil => exact fun _ n hn => ⟨hn, rfl⟩
    | cons x l ih =>
      intro hl n hn
      obtain ⟨hx, hl⟩ := not_or.mp (hl ∘ List.mem_cons.mpr)
      obtain ⟨hp, he⟩ := ih hl (f n x) (hf n x hn)
      exact ⟨hp, he.trans (ho n x hn e hx)⟩
  obtain ⟨l, r, hlr⟩ := List.append_of_mem (mem_allEngines e)
  obtain ⟨-, hr, hd⟩ := List.nodup_append.mp (hlr ▸ nodup_allEngines)
  have hl : e ∉ l := fun h => hd e h e (by simp) rfl
  obtain ⟨hp, he⟩ := hother l hl m hm
  refine ⟨l.foldl f m, hp, he, ?_⟩
  rw [hlr, List.foldl_append, List.foldl_cons]
  exact (hother r (List.nodup_cons.mp hr).1 _ (hf _ e hp)).2

/-! ### P1 begins -/

/-- An engine whose next slot starts at clock `k` (R33). -/
def Engine.started (k : Nat) (s : Slot) (l : List Slot) (g : Engine) : Engine :=
  { g with
    todo := l, act := .bisque, ran := (s.comp.toNat, s.pos) :: g.ran.filter fun x => x.1 ≠ s.comp.toNat
    cur := some { slot := s, begun := false, start := k, bisqueAt := k, warned := false, recovered := false
                  retaken := false, overrun := false, count := 0, captured := [], capBase := [], marked := [] } }

theorem startNext_cons {e : BitVec 7} {m : Mach} {p : Slot} {l : List Slot} (ht : (m.engines.get e).todo = p :: l)
    (hp : m.tick.phase ≠ .closed) : startNext e m = modEng e (Engine.started m.clk p l) m := by
  unfold startNext
  dsimp only
  rw [ht]
  exact if_neg hp

theorem startNext_nil {e : BitVec 7} {m : Mach} (ht : (m.engines.get e).todo = []) : startNext e m = m := by
  unfold startNext
  dsimp only
  rw [ht]

/-- Before the window closes, a start touches its engine alone. -/
theorem startNext_open (e : BitVec 7) {m : Mach} (hp : m.tick.phase ≠ .closed) : ∃ f, startNext e m = modEng e f m := by
  cases ht : (m.engines.get e).todo with
  | nil =>
    refine ⟨id, ?_⟩
    rw [startNext_nil ht, modEng, Tbl.upd_id _ _ _ rfl]
  | cons p l => exact ⟨_, startNext_cons ht hp⟩

theorem resumeNow_open {e : BitVec 7} {b : Bool} {m : Mach} (hp : m.tick.phase ≠ .closed) :
    (resumeNow e b m).tick = m.tick ∧ (resumeNow e b m).clk = m.clk ∧ (resumeNow e b m).mode = m.mode := by
  unfold resumeNow
  extract_lets m1 m2 g
  have h2 : m2.tick = m.tick ∧ m2.clk = m.clk ∧ m2.mode = m.mode := ⟨rfl, rfl, rfl⟩
  clear_value m2
  obtain ⟨ht, hc, hm⟩ := h2
  split
  · obtain ⟨f, hf⟩ := startNext_open e (m := m2) (ht ▸ hp)
    rw [hf]
    exact ⟨ht, hc, hm⟩
  · exact ⟨ht, hc, hm⟩

/-- What starts slots as P1 begins, on the engines that may (R33). -/
def startAll (m : Mach) : Mach :=
  if slotsRun m.mode.mode then allEngines.foldl (fun m e => if mayStart m e then startNext e m else m) m else m

/-- What P1 resumes of engines that were to wait for it (R470). -/
def resumeAll (m : Mach) : Mach :=
  allEngines.foldl (fun m e => let x := m.dbg.engs.get e; if x.defer then resumeNow e x.deferStep m else m) m

/-- The module 10 µs into the tick. -/
def atP1 (m : Mach) : Mach := modTick (fun t => { t with phase := .p1 }) (advanceTo (m.tick.edgeAt + usClk 10) m)

theorem applyPhase_of_ne {m : Mach} (h : m.tick.phase ≠ .p0) : applyPhase m = m := by simp [applyPhase, h]

theorem p1Phase_of_ne {m : Mach} (h : (applyPhase m).tick.phase ≠ .applied) : p1Phase m = applyPhase m := by simp [p1Phase, h]

theorem p1Phase_of_applied {m : Mach} (h : (applyPhase m).tick.phase = .applied) :
    p1Phase m = startAll (resumeAll (atP1 (applyPhase m))) := by
  unfold p1Phase startAll resumeAll atP1
  simp only [h, ne_eq, not_true_eq_false, if_false]

theorem tick_atP1 (m : Mach) : (atP1 m).tick.phase = .p1 ∧ (atP1 m).tick.count = m.tick.count ∧
    m.tick.edgeAt + 1024 ≤ (atP1 m).clk := by
  have ha := (flows_advanceTo (m.tick.edgeAt + usClk 10) m).count
  have hc := clk_advanceTo (m.tick.edgeAt + usClk 10) m
  have hu : usClk 10 = 1024 := rfl
  refine ⟨rfl, ha, ?_⟩
  · show _ ≤ (advanceTo (m.tick.edgeAt + usClk 10) m).clk
    omega

theorem resumeAll_open {m : Mach} (hp : m.tick.phase ≠ .closed) :
    (resumeAll m).tick = m.tick ∧ (resumeAll m).clk = m.clk := by
  refine foldl_preserves (P := fun n : Mach => n.tick = m.tick ∧ n.clk = m.clk) (fun n e hn => ?_) _ ⟨rfl, rfl⟩
  obtain ⟨ht, hc⟩ := hn
  dsimp only
  split
  · obtain ⟨ht', hc', -⟩ := resumeNow_open (e := e) (b := (n.dbg.engs.get e).deferStep) (m := n) (ht ▸ hp)
    exact ⟨ht'.trans ht, hc'.trans hc⟩
  · exact ⟨ht, hc⟩

/-- What no start of a slot changes. -/
structure Poised (m n : Mach) : Prop where
  tick : n.tick = m.tick
  clk : n.clk = m.clk
  tiles : n.tiles = m.tiles
  pwr : n.pwr = m.pwr

theorem poised_start {m n : Mach} {e : BitVec 7} (hp : m.tick.phase ≠ .closed) (h : Poised m n) :
    Poised m (if mayStart n e then startNext e n else n) := by
  split
  · obtain ⟨f, hf⟩ := startNext_open e (m := n) (h.tick ▸ hp)
    rw [hf]
    exact ⟨h.tick, h.clk, h.tiles, h.pwr⟩
  · exact h

theorem startAll_open {m : Mach} (hp : m.tick.phase ≠ .closed) : (startAll m).tick = m.tick ∧ (startAll m).clk = m.clk := by
  unfold startAll
  split
  · obtain ⟨ht, hc, -, -⟩ := foldl_preserves (P := Poised m) (fun n e => poised_start hp) allEngines ⟨rfl, rfl, rfl, rfl⟩
    exact ⟨ht, hc⟩
  · exact ⟨rfl, rfl⟩

/-- An engine that may start begins the first slot of its list. -/
theorem engine_startAll {m : Mach} {e : BitVec 7} {p : Slot} {l : List Slot} (hp : m.tick.phase ≠ .closed)
    (hs : slotsRun m.mode.mode = true) (hm : mayStart m e = true) (ht : (m.engines.get e).todo = p :: l) :
    (startAll m).engines.get e = (m.engines.get e).started m.clk p l := by
  obtain ⟨n, hn, he, hf⟩ := engine_foldl (f := fun m e => if mayStart m e then startNext e m else m) (P := Poised m)
    (fun n e => poised_start hp) (fun n x hn e' hne => by
      split
      · obtain ⟨f, hf⟩ := startNext_open x (m := n) (hn.tick ▸ hp)
        rw [hf, modEng_engines, Tbl.get_upd_ne _ _ hne]
      · rfl) e (m := m) ⟨rfl, rfl, rfl, rfl⟩
  have hmay : mayStart n e = true := by
    simpa only [mayStart, validEngine, liveCode, hn.tiles, hn.pwr, he] using hm
  rw [startAll, if_pos hs, hf]
  simp only [hmay, if_true]
  rw [startNext_cons (he ▸ ht) (hn.tick ▸ hp), modEng_engines, Tbl.get_upd_same, he, hn.clk]

/-! ### The window closes -/

theorem modEng_id (e : BitVec 7) (m : Mach) : modEng e id m = m := by
  rw [modEng, Tbl.upd_id _ _ _ rfl]

/-- At C an engine's slots end: none runs and none is left, but where the engine is halted or the keeper runs (R34). -/
theorem engineClose_closed (e : BitVec 7) {m : Mach} (hp : m.tick.phase = .closed) :
    ∃ f, Kept (modEng e f m) (engineClose e m) ∧ ((m.engines.get e).halted = false → (m.engines.get e).keeper = false →
      (f (m.engines.get e)).cur = none ∧ (f (m.engines.get e)).todo = []) := by
  have hid : Kept (modEng e id m) m := by rw [modEng_id]; exact .refl
  unfold engineClose
  dsimp only
  split
  next h =>
    refine ⟨id, hid, fun hh hk => ?_⟩
    rw [hh, hk] at h
    exact absurd h (by simp)
  · cases hc : (m.engines.get e).cur with
    | some r =>
      refine ⟨Engine.listless ∘ Engine.cleared, ?_, fun _ _ => ⟨rfl, rfl⟩⟩
      have := kept_overrunSlot hc hp
      simp only [modEng, Tbl.upd_upd] at this
      exact this
    | none =>
      simp only [Option.isSome_none, Bool.false_eq_true, if_false]
      split
      next ht => exact ⟨id, hid, fun _ _ => ⟨hc, List.isEmpty_iff.mp ht⟩⟩
      · exact ⟨Engine.listless, kept_startNext hp, fun _ _ => ⟨hc, rfl⟩⟩

/-- What no end of a slot at C changes. -/
structure Shut (m n : Mach) : Prop where
  clk : n.clk = m.clk
  count : n.tick.count = m.tick.count
  phase : n.tick.phase = m.tick.phase
  outRel : n.mode.outRel = m.mode.outRel

theorem shut_engineClose {m n : Mach} {e : BitVec 7} (hp : m.tick.phase = .closed) (h : Shut m n) : Shut m (engineClose e n) := by
  obtain ⟨f, hf, -⟩ := engineClose_closed e (h.phase.trans hp)
  exact ⟨hf.clk.trans h.clk, hf.count.trans h.count, hf.phase.trans h.phase, hf.outRel.trans h.outRel⟩

/-- Every engine's slots end. -/
def closeAll (m : Mach) : Mach := allEngines.foldl (fun m e => engineClose e m) m

theorem shut_closeAll {m : Mach} (hp : m.tick.phase = .closed) : Shut m (closeAll m) :=
  foldl_preserves (P := Shut m) (fun _ _ => shut_engineClose hp) allEngines ⟨rfl, rfl, rfl, rfl⟩

theorem engine_closeAll {m : Mach} (hp : m.tick.phase = .closed) (e : BitVec 7) (hh : (m.engines.get e).halted = false)
    (hk : (m.engines.get e).keeper = false) :
    ((closeAll m).engines.get e).cur = none ∧ ((closeAll m).engines.get e).todo = [] := by
  obtain ⟨n, hn, he, hf⟩ := engine_foldl (f := fun m e => engineClose e m) (P := Shut m)
    (fun n e => shut_engineClose hp) (fun n x hn e' hne => by
      obtain ⟨f, hf, -⟩ := engineClose_closed x (hn.phase.trans hp)
      rw [hf.engines, modEng_engines, Tbl.get_upd_ne _ _ hne]) e (m := m) ⟨rfl, rfl, rfl, rfl⟩
  obtain ⟨f, hk', hend⟩ := engineClose_closed e (hn.phase.trans hp)
  rw [closeAll, hf, hk'.engines, modEng_engines, Tbl.get_upd_same]
  exact hend (by rw [he, hh]) (by rw [he, hk])

/-- The module at C. -/
def atC (m : Mach) : Mach := modTick (fun t => { t with phase := .closed }) (advanceTo (closeAt m.tick) m)

/-- The marked output records, collected. -/
def collectAll (m : Mach) : Mach := if m.mode.mode = .hardpan then m else allChans.foldl (fun m c => collect c m) m

theorem kept_collectAll {m : Mach} : Kept m (collectAll m) := Kept.refl.ite (Kept.foldl fun _ _ => kept_collect)

theorem closePhase_of_ne {m : Mach} (h : (p1Phase m).tick.phase ≠ .p1) : closePhase m = p1Phase m := by simp [closePhase, h]

theorem closePhase_of_p1 {m : Mach} (h : (p1Phase m).tick.phase = .p1) :
    closePhase m = modMode (fun x => { x with outRelAtC := x.outRel }) (collectAll (closeAll (atC (p1Phase m)))) := by
  unfold closePhase collectAll closeAll atC
  simp only [h, ne_eq, not_true_eq_false, if_false]

theorem tick_atC (m : Mach) : (atC m).tick.phase = .closed ∧ (atC m).tick.count = m.tick.count ∧ closeAt m.tick ≤ (atC m).clk ∧
    (atC m).mode = m.mode ∧ ∀ e, ((atC m).engines.get e).halted = (m.engines.get e).halted ∧
      ((atC m).engines.get e).keeper = (m.engines.get e).keeper := by
  have ha := flows_advanceTo (closeAt m.tick) m
  have hc := clk_advanceTo (closeAt m.tick) m
  unfold atC
  generalize closeAt m.tick = x at *
  refine ⟨rfl, ha.count, ?_, ha.mode, fun e => ⟨ha.halted e, ha.keeper e⟩⟩
  show x ≤ (advanceTo x m).clk
  omega

theorem applyPhase_count (m : Mach) : (applyPhase m).tick.count = m.tick.count := by
  by_cases h : m.tick.phase = .p0
  · obtain ⟨-, hc, -⟩ := applyPhase_of_p0 h
    exact hc
  · rw [applyPhase_of_ne h]

theorem p1_count {m : Mach} : (startAll (resumeAll (atP1 m))).tick.phase = .p1 ∧
    (startAll (resumeAll (atP1 m))).tick.count = m.tick.count ∧ m.tick.edgeAt + 1024 ≤ (startAll (resumeAll (atP1 m))).clk := by
  obtain ⟨hp, hc, hk⟩ := tick_atP1 m
  have hne : (atP1 m).tick.phase ≠ .closed := by rw [hp]; simp
  obtain ⟨hrt, hrk⟩ := resumeAll_open hne
  obtain ⟨hst, hsk⟩ := startAll_open (m := resumeAll (atP1 m)) (by rw [hrt]; exact hne)
  rw [hst, hsk, hrt, hrk]
  exact ⟨hp, hc, hk⟩

theorem p1Phase_count (m : Mach) : (p1Phase m).tick.count = m.tick.count := by
  by_cases h : (applyPhase m).tick.phase = .applied
  · obtain ⟨-, hc, -⟩ := p1_count (m := applyPhase m)
    rw [p1Phase_of_applied h, hc, applyPhase_count]
  · rw [p1Phase_of_ne h, applyPhase_count]

/-- The close keeps the tick's count, whatever of the tick's phases it finds still to come (log entry 9). -/
theorem closePhase_count (m : Mach) : (closePhase m).tick.count = m.tick.count := by
  by_cases h : (p1Phase m).tick.phase = .p1
  · obtain ⟨hp, hc, -⟩ := tick_atC (p1Phase m)
    have hk : Kept (closeAll (atC (p1Phase m))) (collectAll (closeAll (atC (p1Phase m)))) := kept_collectAll
    rw [closePhase_of_p1 h, modMode_tick, hk.count, (shut_closeAll hp).count, hc, p1Phase_count]
  · rw [closePhase_of_ne h, p1Phase_count]

end Sys2Proof.Machine
end

section
/-! PROOFS. The clauses of O29. -/

namespace Sys2Proof.Machine

open Sys2Proof

set_option Elab.async false -- one proof at a time: the threads of many at once exceed the memory of a check

theorem tickRuns_iff (m : Mach) : tickRuns m = true ↔ m.mode.mode ≠ .dormant ∧ m.watch.mainLost = false ∧ m.pwr.pfw = false := by
  simp [tickRuns, and_assoc]

/-! ### Edges and phases -/

theorem tickEdge_clause (s : State) (grp : BitVec 32) (bad : List (BitVec 5 × BitVec 2)) (x : Nat) (hr : tickRuns s.m = true)
    (hp : s.m.tick.phase = .closed) (hn : nextEdgeAt s.m.tick = some x) (he : s.m.emptied) :
    ∃ u, exec (.tickEdge grp bad) s = .next u ∧ u.m.tick.count = s.m.tick.count + 1 ∧ u.m.tick.edgeAt = x ∧ u.m.tick.phase = .p0 ∧
      u.m.tick.period = s.m.tick.periodNext.getD s.m.tick.period ∧ u.m.tick.periodNext = none ∧ u.m.tick.swapPend = false ∧
      u.m.tick.active = (if s.m.tick.swapPend then !s.m.tick.active else s.m.tick.active) ∧ s.m.clk ≤ u.m.clk ∧ x ≤ u.m.clk ∧
      u.pending = s.pending ∧ u.fuses = s.fuses := by
  obtain ⟨m, hm, -, hclk, ht⟩ := exec_tickEdge grp bad hr hp hn he
  have hcore : ∀ {α : Type} (g : TickSt → α), (∀ t, g t.core = g t) → g m.tick = g (s.m.tick.core.after x) :=
    fun g hg => by rw [← ht, hg]
  have hs : ∀ t : TickSt, t.swapped.swapPend = false ∧ t.swapped.active = (if t.swapPend then !t.active else t.active) ∧
      t.swapped = { t with swapPend := t.swapped.swapPend, active := t.swapped.active } := fun t => by
    unfold TickSt.swapped
    split
    · exact ⟨rfl, rfl, rfl⟩
    next h => exact ⟨by simpa using h, rfl, rfl⟩
  obtain ⟨hswap, hactive, hsame⟩ := hs (newTick x s.m.tick.core).core
  refine ⟨_, hm, ?_, ?_, ?_, ?_, ?_, ?_, ?_, (le_max_left ..).trans hclk, (le_max_right ..).trans hclk, rfl, rfl⟩
  · rw [hcore TickSt.count fun _ => rfl, TickSt.after, hsame]; rfl
  · rw [hcore TickSt.edgeAt fun _ => rfl, TickSt.after, hsame]; rfl
  · rw [hcore TickSt.phase fun _ => rfl, TickSt.after, hsame]; rfl
  · rw [hcore TickSt.period fun _ => rfl, TickSt.after, hsame]; rfl
  · rw [hcore TickSt.periodNext fun _ => rfl, TickSt.after, hsame]; rfl
  · exact (hcore TickSt.swapPend fun _ => rfl).trans hswap
  · exact (hcore TickSt.active fun _ => rfl).trans hactive

theorem applyOutputs_clause (s : State) (hr : tickRuns s.m = true) (hp : s.m.tick.phase = .p0) :
    ∃ u, exec .applyOutputs s = .next u ∧ u.m.tick.phase = .applied ∧ u.m.tick.count = s.m.tick.count ∧
      s.m.tick.edgeAt + 512 ≤ u.m.clk :=
  ⟨{ s with m := applyPhase s.m }, by
    show Host.Outcome.next _ = _
    simp only [hr, if_true], applyPhase_of_p0 hp⟩

theorem p1Start_clause (s : State) (hr : tickRuns s.m = true) (hp : s.m.tick.phase = .applied) :
    ∃ u, exec .p1Start s = .next u ∧ u.m.tick.phase = .p1 ∧ u.m.tick.count = s.m.tick.count ∧ s.m.tick.edgeAt + 1024 ≤ u.m.clk ∧
      ((s.m.mode.mode = .commission ∨ s.m.mode.mode = .operate) → (∀ e, (s.m.dbg.engs.get e).defer = false) →
        ∀ e p l, (s.m.engines.get e).todo = p :: l → e.toNat < s.m.tick.copied → (s.m.engines.get e).cur = none →
          (s.m.engines.get e).halted = false → (s.m.engines.get e).keeper = false → validEngine s.m e = true →
          s.m.pwr.tiles.get (tileOf e) = .on → ∃ r, (u.m.engines.get e).cur = some r ∧ r.slot = p ∧
            (u.m.engines.get e).todo = l ∧ (u.m.engines.get e).act = .bisque) := by
  have ha : applyPhase s.m = s.m := applyPhase_of_ne (by rw [hp]; simp)
  have h1 := p1Phase_of_applied (m := s.m) (by rw [ha, hp])
  rw [ha] at h1
  obtain ⟨hphase, hcount, hclk⟩ := p1_count (m := s.m)
  refine ⟨{ s with m := p1Phase s.m }, ?_, ?_⟩
  · show Host.Outcome.next _ = _
    simp only [hr, if_true]
  · rw [h1]
    dsimp only
    refine ⟨hphase, hcount, hclk, fun hmode hdefer e p l ht hc hcur hh hk hv hon => ?_⟩
    have hf := flows_advanceTo (s.m.tick.edgeAt + usClk 10) s.m
    obtain ⟨hp1, -, -⟩ := tick_atP1 s.m
    have hmode1 : (atP1 s.m).mode = s.m.mode := hf.mode
    have hdbg : (atP1 s.m).dbg = s.m.dbg := hf.dbg
    have he : (atP1 s.m).engines.get e = s.m.engines.get e := hf.still e hc hh
    have htiles : (atP1 s.m).tiles = s.m.tiles := hf.tiles
    have hpwr : (atP1 s.m).pwr = s.m.pwr := hf.pwr
    have hres : resumeAll (atP1 s.m) = atP1 s.m := foldl_fixed _ _ _ fun e _ => by simp [hdbg, hdefer]
    have hrun : slotsRun s.m.mode.mode = true := by
      rcases hmode with h | h <;> rw [h] <;> rfl
    have hmay : mayStart s.m e = true := by simp [mayStart, hv, hh, hcur, hk, hon]
    have hmay1 : mayStart (atP1 s.m) e = true := by
      rw [← hmay]
      simp only [mayStart, validEngine, liveCode, he, htiles, hpwr]
    show ∃ r, ((startAll (resumeAll (atP1 s.m))).engines.get e).cur = some r ∧ r.slot = p ∧
      ((startAll (resumeAll (atP1 s.m))).engines.get e).todo = l ∧ ((startAll (resumeAll (atP1 s.m))).engines.get e).act = .bisque
    rw [hres, engine_startAll (by rw [hp1]; simp) (hmode1 ▸ hrun) hmay1 (he ▸ ht)]
    exact ⟨_, rfl, rfl, rfl, rfl⟩

theorem commitClose_clause (s : State) (hr : tickRuns s.m = true) (hp : s.m.tick.phase = .p1) :
    ∃ u, exec .commitClose s = .next u ∧ u.m.tick.phase = .closed ∧ u.m.tick.count = s.m.tick.count ∧
      closeAt s.m.tick ≤ u.m.clk ∧ u.m.mode.outRelAtC = s.m.mode.outRel ∧
      ∀ e, (s.m.engines.get e).halted = false → (s.m.engines.get e).keeper = false →
        (u.m.engines.get e).cur = none ∧ (u.m.engines.get e).todo = [] := by
  have ha : applyPhase s.m = s.m := applyPhase_of_ne (by rw [hp]; simp)
  have h1 : p1Phase s.m = s.m := (p1Phase_of_ne (by rw [ha, hp]; simp)).trans ha
  have hc := closePhase_of_p1 (m := s.m) (by rw [h1, hp])
  rw [h1] at hc
  obtain ⟨hphase, hcount, hclk, hmode, heng⟩ := tick_atC s.m
  have hs := shut_closeAll hphase
  have hk : Kept (closeAll (atC s.m)) (collectAll (closeAll (atC s.m))) := kept_collectAll
  refine ⟨{ s with m := closePhase s.m }, ?_, ?_⟩
  · show Host.Outcome.next _ = _
    simp only [hr, if_true]
  · rw [hc]
    simp only [modMode_tick, modMode_clk, modMode_engines, hk.phase, hk.count, hk.clk, hk.engines]
    refine ⟨hs.phase.trans hphase, hs.count.trans hcount, by rw [hs.clk]; exact hclk, ?_, fun e hh hkp => ?_⟩
    · rw [modMode_mode, hk.outRel, hs.outRel, hmode]
    · obtain ⟨hh', hk'⟩ := heng e
      exact engine_closeAll hphase e (hh'.trans hh) (hk'.trans hkp)

/-! ### Tick-sync and holdover -/

theorem satInc_eq (v : BitVec 16) : satInc v = BitVec.ofNat 16 (min (v.toNat + 1) 0xFFFF) := by
  have hv := v.isLt
  unfold satInc
  split
  next h =>
    subst h
    rfl
  next h =>
    have : v.toNat ≠ 65535 := fun hn => h (BitVec.eq_of_toNat_eq hn)
    apply BitVec.eq_of_toNat_eq
    rw [Nat.min_eq_left (by omega)]
    simp [BitVec.toNat_add]

theorem tickSync_unlocked (s : State) (d : Nat) (h : s.m.tick.src = false) : exec (.tickSyncEdge d) s = leaves s s.m := by
  show Host.Outcome.next _ = Host.Outcome.next _
  simp [tickSync, h]

/-- A tick-sync edge of a generator that follows its source. -/
theorem tickSync_following {m : Mach} (d : Nat) (hr : tickRuns m = true) (hb : m.dbg.bscan = false) (hs : m.tick.src = true)
    (hl : m.tick.extLock = true) : tickSync d m = if inWindow d m.tick.period.toNat
      then modTick (fun x => { x with nextEdge := some (x.nextEdge.getD (m.tick.edgeAt + d)) }) (advanceTo (m.tick.edgeAt + d) m)
      else modTick (fun x => { x with spurious := satInc x.spurious }) (advanceTo (m.tick.edgeAt + d) m) := by
  simp [tickSync, pinsHeld, following, hr, hb, hs, hl]

theorem tickSync_near (s : State) (d : Nat) (hr : tickRuns s.m = true) (hb : s.m.dbg.bscan = false) (hs : s.m.tick.src = true)
    (hl : s.m.tick.extLock = true)
    (hn : 512 * s.m.tick.period.toNat ≤ 5 * d + 1024 ∧ 5 * d ≤ 512 * s.m.tick.period.toNat + 1024) :
    ∃ u, exec (.tickSyncEdge d) s = .next u ∧
      u.m.tick = { s.m.tick with nextEdge := some (s.m.tick.nextEdge.getD (s.m.tick.edgeAt + d)) }.but u.m.tick := by
  have hw : inWindow d s.m.tick.period.toNat = true := by simp [inWindow, hn]
  have ht := (flows_advanceTo (s.m.tick.edgeAt + d) s.m).tick
  refine ⟨{ s with m := tickSync d s.m }, rfl, ?_⟩
  rw [tickSync_following d hr hb hs hl, if_pos hw]
  generalize advanceTo (s.m.tick.edgeAt + d) s.m = n at *
  show { n.tick with nextEdge := some (n.tick.nextEdge.getD (s.m.tick.edgeAt + d)) } = _
  rw [ht]
  rfl

theorem tickSync_far (s : State) (d : Nat) (hr : tickRuns s.m = true) (hb : s.m.dbg.bscan = false) (hs : s.m.tick.src = true)
    (hl : s.m.tick.extLock = true)
    (hn : ¬ (512 * s.m.tick.period.toNat ≤ 5 * d + 1024 ∧ 5 * d ≤ 512 * s.m.tick.period.toNat + 1024)) :
    ∃ u, exec (.tickSyncEdge d) s = .next u ∧
      u.m.tick = { s.m.tick with spurious := BitVec.ofNat 16 (min (s.m.tick.spurious.toNat + 1) 0xFFFF) }.but u.m.tick := by
  have hw : ¬ inWindow d s.m.tick.period.toNat = true := by simpa [inWindow] using hn
  have ht := (flows_advanceTo (s.m.tick.edgeAt + d) s.m).tick
  refine ⟨{ s with m := tickSync d s.m }, rfl, ?_⟩
  rw [tickSync_following d hr hb hs hl, if_neg hw, ← satInc_eq]
  generalize advanceTo (s.m.tick.edgeAt + d) s.m = n at *
  show { n.tick with spurious := satInc n.tick.spurious } = _
  rw [ht]
  rfl

theorem holdoverEntry_clause (s : State) (hr : tickRuns s.m = true) (hs : s.m.tick.src = true) (hl : s.m.tick.extLock = true)
    (hn : s.m.tick.nextEdge = none) :
    ∃ u, exec .holdoverEntry s = .next u ∧ u.m.tick.holdover = true ∧ u.m.tick.extLock = false ∧ u.m.tick.holdTicks = 0 ∧
      u.m.tick.count = s.m.tick.count ∧
      u.m.tick.nextEdge = some (s.m.tick.edgeAt + (1024 * s.m.tick.period.toNat + 2048 + 5) / 10) := by
  have hx : holdoverEntry s.m = modTick (fun t => { t with
      nextEdge := some (s.m.tick.edgeAt + (2 * (512 * s.m.tick.period.toNat + 1024) + 5) / 10), holdover := true, extLock := false
      holdTicks := 0, expDone := false, streak := 0, hit := false, early := false })
      (advanceTo (s.m.tick.edgeAt + (2 * (512 * s.m.tick.period.toNat + 1024) + 5) / 10) (closePhase s.m)) := by
    simp [holdoverEntry, following, hr, hs, hl, hn]
  have hmoment : (2 * (512 * s.m.tick.period.toNat + 1024) + 5) / 10 = (1024 * s.m.tick.period.toNat + 2048 + 5) / 10 := by
    rw [show 2 * (512 * s.m.tick.period.toNat + 1024) = 1024 * s.m.tick.period.toNat + 2048 by omega]
  refine ⟨{ s with m := holdoverEntry s.m }, rfl, ?_⟩
  rw [hx, hmoment]
  generalize s.m.tick.edgeAt + (1024 * s.m.tick.period.toNat + 2048 + 5) / 10 = x
  exact ⟨rfl, rfl, rfl, (flows_advanceTo _ _).count.trans (closePhase_count _), rfl⟩

theorem reactionOf_holdover (m : Mach) (arg : W64) : reactionOf m 0x0101 arg ≠ .h := by
  simp [reactionOf, logOnly, hardpanCode, escalates]

theorem holdExpired_clause (s : State) (hr : tickRuns s.m = true) (hh : s.m.tick.holdover = true) (hd : s.m.tick.expDone = false)
    (hl : s.m.tick.limit.toNat ≤ s.m.tick.holdTicks) (hroom : s.m.hasRoom) :
    exec .holdExpired s = leaves s
      ({ s.m with tick := { s.m.tick with holdExpired := true, expDone := true } }.faulted 0x0101 (s.m.tick.limit.setWidth 64)) := by
  obtain ⟨hmode, hlen⟩ := hroom
  show Host.Outcome.next _ = Host.Outcome.next _
  simp only [hr, hh, hd, hl, decide_true, Bool.not_false, Bool.and_self, if_true]
  rw [report_soft _ _ _ (reactionOf_holdover _ _)]
  simp [queueFault, Mach.faulted, put, hmode, hlen, hh]

/-- Settles O29: the edge by the invariant `Steady`, the phases by what each leaves of the tick and of the engines, tick-sync
and holdover by what time leaves of the tick. -/
theorem ticksAndTheirSource : Obligations.TicksAndTheirSource := by
  unfold Obligations.TicksAndTheirSource
  refine ⟨fun s grp bad hd hl hw => ?_, fun s d hd hl hw hb => ?_⟩ <;>
    have hr := (tickRuns_iff s.m).mpr ⟨hd, hl, hw⟩
  · exact ⟨fun x => tickEdge_clause s grp bad x hr, applyOutputs_clause s hr, p1Start_clause s hr, commitClose_clause s hr⟩
  · exact ⟨tickSync_unlocked s d, fun hs hk => tickSync_near s d hr hb hs hk, fun hs hk => tickSync_far s d hr hb hs hk,
      holdoverEntry_clause s hr, holdExpired_clause s hr⟩

end Sys2Proof.Machine
end

section
/-! PROOFS. The registers of the tick, of the tilth table and of the modes, as stores and loads reach them (O28). -/

namespace Sys2Proof.Machine

open Sys2Proof

set_option Elab.async false -- one proof at a time: the threads of many at once exceed the memory of a check

/-! ### Stores and loads of the system block -/

theorem fld_eq {n : Nat} (v : BitVec n) (lo len : Nat) : fld v lo len = (v >>> lo).setWidth len := by
  ext i hi
  simp [fld]

theorem fld_zero {n : Nat} (v : BitVec n) (len : Nat) : fld v 0 len = v.setWidth len := by
  simp [fld_eq]

theorem toNat_fld (v : W32) (lo len : Nat) : (fld v lo len).toNat = v.toNat / 2 ^ lo % 2 ^ len := by
  simp [fld_eq, Nat.shiftRight_eq_div_pow]

theorem doReset_of_none {m : Mach} (h : m.watch.resetWanted = none) : doReset m = m := by simp [doReset, resetDue, h]

theorem enterHardpan_of_not_due {m : Mach} (h : m.faults.hpDue = false) : enterHardpan m = m := by simp [enterHardpan, h]

/-- A store that asks for no reset and raises no HARDPAN does what its register does. -/
theorem busWrite_eq {w : Who} {a : Addr} {v : W32} {m n : Mach} (hm : m.live) (hn : orNotice w a (regWrite w a v m) = n)
    (hr : n.watch.resetWanted = none) (hp : n.faults.hpDue = false) : busWrite w a v m = n := by
  obtain ⟨hmode, -, -⟩ := hm
  simp [busWrite, powered, hmode, hn, doReset_of_none hr, enterHardpan_of_not_due hp]

theorem regWrite_taken {w : Who} {a : Addr} {o : Nat} (v : W32) (m : Mach) (hb : blockOf a = some (.sys o))
    (hc : (sysCode o).writes w = true) (hk : keeperReplica w o = true) : regWrite w a v m = (true, sysWrite w o v m) := by
  simp [regWrite, hb, hc, hk]

theorem regWrite_refused {w : Who} {a : Addr} {o : Nat} (v : W32) (m : Mach) (hb : blockOf a = some (.sys o))
    (hc : (sysCode o).writes w = false) : regWrite w a v m = (false, m) := by
  simp [regWrite, hb, hc]

/-- A store that is taken, and touches neither a reset nor HARDPAN. -/
theorem busWrite_taken {w : Who} {a : Addr} {o : Nat} {v : W32} {m : Mach} (hm : m.live) (hb : blockOf a = some (.sys o))
    (hc : (sysCode o).writes w = true) (hk : keeperReplica w o = true)
    (hw : (sysWrite w o v m).watch = m.watch) (hf : (sysWrite w o v m).faults = m.faults) :
    busWrite w a v m = sysWrite w o v m := by
  obtain ⟨-, hreset, hdue⟩ := id hm
  exact busWrite_eq hm (by rw [regWrite_taken v m hb hc hk]; rfl) (by rw [hw, hreset]) (by rw [hf, hdue])

/-! ### The tick's registers -/

theorem watch_tickRegWrite (o : Nat) (v : W32) (m : Mach) :
    (tickRegWrite o v m).watch = m.watch ∧ (tickRegWrite o v m).faults = m.faults := by
  unfold tickRegWrite tickCtlWrite tickPeriodWrite tickHoldWrite ovrCtlWrite
  dsimp only
  repeat' split
  all_goals exact ⟨rfl, rfl⟩

/-- A store to a register of the tick, open to every master (R536). -/
theorem busWrite_tick {w : Who} {a : Addr} {o : Nat} {v : W32} {m : Mach} (hm : m.live) (hb : blockOf a = some (.sys o))
    (ho : 0x100 ≤ o ∧ o < 0x200) : busWrite w a v m = tickRegWrite o v m := by
  have hs : sysWrite w o v m = tickRegWrite o v m := by
    rw [sysWrite, if_neg (by omega), if_pos (by omega)]
  have hc : sysCode o = .d := by
    unfold sysCode
    repeat rw [if_neg (by omega)]
  obtain ⟨hw, hf⟩ := watch_tickRegWrite o v m
  rw [← hs] at hw hf ⊢
  exact busWrite_taken hm hb (by rw [hc]; rfl) (by simp [keeperReplica]; omega) hw hf

theorem tickWritable_iff (m : Mach) : tickWritable m = true ↔ m.mode.mode = .wake ∨ m.mode.mode = .commission := by
  simp [tickWritable]

theorem tickCtlWrite_open {v : W32} {m : Mach} (h : tickWritable m = true) :
    tickCtlWrite v m = modTick (fun t => { t with srcNext := some (bit v 0) }) m := if_pos h

theorem tickCtlWrite_shut {v : W32} {m : Mach} (h : ¬ tickWritable m = true) :
    tickCtlWrite v m = modTick (fun t => { t with werr := true }) m := if_neg h

theorem tickHoldWrite_shut {v : W32} {m : Mach} (h : ¬ tickWritable m = true) :
    tickHoldWrite v m = modTick (fun t => { t with werr := true }) m := if_neg h

/-- Fields that are not 0 are both taken. -/
theorem tickHoldWrite_open {v : W32} {m : Mach} (h : tickWritable m = true) (hl : fld v 0 16 ≠ 0#16) (hr : fld v 16 4 ≠ 0#4) :
    tickHoldWrite v m = modTick (fun t => { t with limitNext := some (fld v 0 16), reacqNext := some (fld v 16 4) }) m := by
  simp [tickHoldWrite, h, hl, hr]

theorem periodOk_iff (p : BitVec 17) : periodOk p = true ↔ 250 ≤ p.toNat ∧ p.toNat ≤ 100000 := by
  simp [periodOk]

theorem tickPeriodWrite_open {v : W32} {m : Mach} (h : tickWritable m = true) (hp : periodOk (fld v 0 17) = true) :
    tickPeriodWrite v m = modTick (fun t => { t with periodNext := some (fld v 0 17) }) m := by
  simp [tickPeriodWrite, h, hp]

theorem tickPeriodWrite_shut {v : W32} {m : Mach} (h : ¬ (tickWritable m = true ∧ periodOk (fld v 0 17) = true)) :
    tickPeriodWrite v m = modTick (fun t => { t with werr := true }) m := by
  simp only [tickPeriodWrite, Bool.and_eq_true, if_neg h]

theorem ovrCtlWrite_nonzero {v : W32} {m : Mach} (h : fld v 0 8 ≠ 0#8) :
    ovrCtlWrite v m = modTick (fun t => { t with ovrLimit := fld v 0 8 }) m := if_neg h

/-- A field is 0 where its bits are. -/
theorem fld_ne_zero {v : W32} {lo len : Nat} (h : v.toNat / 2 ^ lo % 2 ^ len ≠ 0) : fld v lo len ≠ 0#len := fun hz =>
  h (by rw [← toNat_fld, hz]; simp)

section
variable (s : State) (w : Who) (v : W32) (hm : s.m.live)
include hm

theorem exec_tickCtlWrite : exec (.tickCtlWrite w v) s = leaves s (tickCtlWrite v s.m) :=
  congrArg (leaves s) (busWrite_tick (o := 0x100) hm rfl (by omega))

theorem exec_tickPeriodWrite : exec (.tickPeriodWrite w v) s = leaves s (tickPeriodWrite v s.m) :=
  congrArg (leaves s) (busWrite_tick (o := 0x104) hm rfl (by omega))

theorem exec_tickHoldWrite : exec (.tickHoldWrite w v) s = leaves s (tickHoldWrite v s.m) :=
  congrArg (leaves s) (busWrite_tick (o := 0x108) hm rfl (by omega))

theorem exec_tilthSwapRequest : exec (.tilthSwapRequest w v) s
    = leaves s { s.m with tick := { s.m.tick with swapPend := true } } := by
  have hb : bit (v ||| 1#32) 0 = true := by simp [bit]
  have hw : busWrite w 0x8000_0118#36 (v ||| 1#32) s.m = tilthCtlWrite (v ||| 1#32) s.m := busWrite_tick (o := 0x118) hm rfl (by omega)
  show leaves s _ = _
  rw [hw, tilthCtlWrite, hb]
  simp [modTick]

theorem exec_ovrCtlWrite (hv : v.toNat % 256 ≠ 0) (hr : w.master = .replica) : exec (.registerWrite w 0x8000_0120 4 v) s
    = leaves s { s.m with tick := { s.m.tick with ovrLimit := v.setWidth 8 } } := by
  have hw : busWrite w 0x8000_0120#36 v s.m = ovrCtlWrite v s.m := busWrite_tick (o := 0x120) hm rfl (by omega)
  have hp : plainWrite w 0x8000_0120#36 4 v s.m = busWrite w 0x8000_0120#36 v s.m := by
    unfold plainWrite
    rw [hr]
    exact if_pos (by decide)
  show leaves s (plainWrite w 0x8000_0120#36 4 v s.m) = _
  rw [hp, hw, ovrCtlWrite_nonzero (fld_ne_zero (by simpa using hv)), fld_zero]
  rfl

end

end Sys2Proof.Machine
end

section
/-! PROOFS. Loads of the tick's registers, and the mode requests (O28, R38, R42 to R46). -/

namespace Sys2Proof.Machine

open Sys2Proof

set_option Elab.async false -- one proof at a time: the threads of many at once exceed the memory of a check

/-! ### Loads -/

theorem getLsbD_at_ (n : Nat) (b : Bool) (i j : Nat) (hi : i < n) : (at_ b i : BitVec n).getLsbD j = (b && decide (j = i)) := by
  cases b with
  | false => simp [at_]
  | true =>
    simp only [at_, if_true, BitVec.getLsbD_shiftLeft, BitVec.getLsbD_one, Bool.true_and]
    by_cases h : j = i
    · simp [h, hi]
      omega
    · simp only [h, decide_false, Bool.and_eq_false_iff, decide_eq_false_iff_not, Bool.not_eq_false', decide_eq_true_eq]
      omega

theorem getLsbD_put_of_lt {n k : Nat} (x : BitVec k) {lo i : Nat} (h : i < lo) : (put n x lo).getLsbD i = false := by
  simp [put, h]

theorem getLsbD_put {n k : Nat} (x : BitVec k) {lo i : Nat} (h : lo + i < n) : (put n x lo).getLsbD (lo + i) = x.getLsbD i := by
  simp [put, h]

theorem getLsbD_tickStatWord (t : TickSt) (i : Nat) : (tickStatWord t).getLsbD i = (t.extLock && decide (i = 0) ||
    t.holdover && decide (i = 1) || t.holdExpired && decide (i = 2) || t.werr && decide (i = 3) ||
    (put 32 t.spurious 16).getLsbD i) := by
  simp only [tickStatWord, BitVec.getLsbD_or]
  rw [getLsbD_at_ _ _ _ _ (by omega), getLsbD_at_ _ _ _ _ (by omega), getLsbD_at_ _ _ _ _ (by omega),
    getLsbD_at_ _ _ _ _ (by omega)]

/-- TICK_STAT's bits (R38). -/
theorem tickStatWord_bits (t : TickSt) : (tickStatWord t).getLsbD 0 = t.extLock ∧ (tickStatWord t).getLsbD 1 = t.holdover ∧
    (tickStatWord t).getLsbD 2 = t.holdExpired ∧ (tickStatWord t).getLsbD 3 = t.werr := by
  simp only [getLsbD_tickStatWord, getLsbD_put_of_lt, Nat.reduceLT]
  simp

theorem tickStatWord_spurious (t : TickSt) : (tickStatWord t).toNat / 2 ^ 16 = t.spurious.toNat := by
  have hx : tickStatWord t >>> 16 = t.spurious.setWidth 32 := by
    apply BitVec.eq_of_getLsbD_eq
    intro i hi
    rw [BitVec.getLsbD_ushiftRight, getLsbD_tickStatWord, BitVec.getLsbD_setWidth]
    by_cases h : 16 + i < 32
    · rw [getLsbD_put _ h]
      simp [hi, show 16 + i ≠ 0 ∧ 16 + i ≠ 1 ∧ 16 + i ≠ 2 ∧ 16 + i ≠ 3 by omega]
    · rw [BitVec.getLsbD_of_ge _ (16 + i) (by omega), BitVec.getLsbD_of_ge t.spurious i (by omega)]
      simp [show 16 + i ≠ 0 ∧ 16 + i ≠ 1 ∧ 16 + i ≠ 2 ∧ 16 + i ≠ 3 by omega]
  rw [← Nat.shiftRight_eq_div_pow, ← BitVec.toNat_ushiftRight, hx, BitVec.toNat_setWidth]
  omega

/-- A load of a register of the tick by a master that is no debug session. -/
theorem busRead_tick {w : Who} {a : Addr} {o : Nat} {m : Mach} (hm : m.live) (hd : w.master ≠ .debug)
    (hb : blockOf a = some (.sys o)) (ho : 0x100 ≤ o ∧ o < 0x200) :
    busRead w a m = (tickRegReadFx o m).read (tickRegRead o m) := by
  obtain ⟨hmode, -, -⟩ := hm
  have hc : sysCode o = .d := by
    unfold sysCode
    repeat rw [if_neg (by omega)]
  have hr : regRead w a m = (some (tickRegRead o m), tickRegReadFx o m) := by
    simp only [regRead, hb, hc, Code.reads, if_true]
    rw [sysRead, sysReadFx, if_neg (by omega), if_pos (by omega), if_neg (by omega), if_pos (by omega)]
  simp [busRead, powered, hmode, hd, hr, onBus, Mach.read]

theorem exec_tickStatRead (s : State) (w : Who) (hm : s.m.live) (hd : w.master ≠ .debug) : exec (.tickStatRead w) s
    = leaves s ({ s.m with tick := { s.m.tick with spurious := 0 } }.read (tickStatWord s.m.tick)) :=
  congrArg (leaves s) (busRead_tick (o := 0x10C) hm hd rfl (by omega))

theorem exec_tickCountRead (s : State) (w : Who) (hm : s.m.live) (hd : w.master ≠ .debug) : exec (.tickCountRead w) s
    = leaves s ({ s.m with tick := { s.m.tick with countHi := (s.m.tick.count >>> 32).setWidth 32 } }.read
      (s.m.tick.count.setWidth 32)) := by
  rw [← fld_eq, ← fld_zero]
  exact congrArg (leaves s) (busRead_tick (o := 0x110) hm hd rfl (by omega))

/-! ### Mode requests -/

theorem whoKeeper_of_byKeeper {w : Who} (h : byKeeper w) : whoKeeper w = true ∧ w.master = .replica := by
  obtain ⟨hm, hc, hr⟩ := h
  simp [whoKeeper, keeperCtx, hm, hc, hr]

theorem whoKeeper_of_not {w : Who} (h : ¬ (w.comp = 0 ∧ w.ring = 0)) : whoKeeper w = false := by
  have : keeperCtx w.comp w.ring = false := by
    simp only [keeperCtx, Bool.and_eq_false_iff, decide_eq_false_iff_not]
    exact not_and_or.mp h
  simp [whoKeeper, this]

theorem deviceVectorOn_keeps (p : Bool) (k : Nat) (m : Mach) : (deviceVectorOn p k m).mode = m.mode ∧
    (deviceVectorOn p k m).watch = m.watch ∧ (deviceVectorOn p k m).faults = m.faults := by
  unfold deviceVectorOn sendMsix
  dsimp only
  repeat' split
  all_goals exact ⟨rfl, rfl, rfl⟩

theorem modeAnnounce_keeps (m n : Mach) : (modeAnnounce m n).mode = n.mode ∧ (modeAnnounce m n).watch = n.watch ∧
    (modeAnnounce m n).faults = n.faults := by
  unfold modeAnnounce deviceVector
  obtain ⟨hm, hw, hf⟩ := deviceVectorOn_keeps false 0 n
  obtain ⟨hm', hw', hf'⟩ := deviceVectorOn_keeps true 0 (deviceVectorOn false 0 n)
  split
  · exact ⟨hm'.trans hm, hw'.trans hw, hf'.trans hf⟩
  · exact ⟨rfl, rfl, rfl⟩

theorem modeAnnounce_same {m n : Mach} (hm : n.mode.mode = m.mode.mode) (hp : n.mode.pend.isSome = m.mode.pend.isSome) :
    modeAnnounce m n = n := by simp [modeAnnounce, hm, hp]

/-- A store to MODE_REQ or MODE_CTL by the keeper. -/
theorem busWrite_mode {w : Who} {a : Addr} {o : Nat} {v : W32} {m n : Mach} (hm : m.live) (hk : byKeeper w)
    (hb : blockOf a = some (.sys o)) (ho : o = 0x044 ∨ o = 0x048) (hn : modeRegWrite o v m = n)
    (hw : n.watch = m.watch) (hf : n.faults = m.faults) : busWrite w a v m = modeAnnounce m n := by
  obtain ⟨hwho, hrep⟩ := whoKeeper_of_byKeeper hk
  have hs : sysWrite w o v m = modeAnnounce m n := by rw [sysWrite, if_pos (by omega), hn]
  have hc : sysCode o = .kw := if_pos ho
  obtain ⟨-, hw', hf'⟩ := modeAnnounce_keeps m n
  rw [← hs] at hw' hf' ⊢
  exact busWrite_taken hm hb (by rw [hc]; exact hwho) (by simp [keeperReplica, hrep]) (hw'.trans hw) (hf'.trans hf)

/-- How a request is judged whose target is a mode and whose reserved bits are 0 (R43). -/
theorem modeRefusal_eq {v : W32} {t : Mode} (m : Mach) (ht : modeOf (fld v 0 3) = some t) (hz : fld v 3 13 = 0#13) :
    modeRefusal v m = if requestable m.mode.mode t = false then 1#4 else if fld v 16 16 ≠ 0x5A3C#16 then 2#4
      else if m.mode.pend.isSome then 3#4 else if m.mode.mode = .commission ∧ t = .operate then entryRefusal m else 0#4 := by
  simp [modeRefusal, ht, hz]

theorem modeRefusal_operate {m : Mach} (h : m.mode.mode = .commission) : modeRefusal 0x5A3C_0003 m
    = if m.mode.pend.isSome then 3#4 else entryRefusal m := by
  rw [modeRefusal_eq m (t := .operate) rfl rfl, h]
  simp [requestable, show fld (0x5A3C_0003#32) 16 16 = 0x5A3C#16 from rfl]

theorem entryRefusal_eq (m : Mach) : entryRefusal m = if 2 ≤ m.dbg.level.toNat then 4#4 else if m.dbg.bscan then 5#4
    else if (∀ c, (m.chans.get c).live = false) then 0#4 else 6#4 := by
  have hl : m.chans.toList.any Chan.live = true ↔ ¬ ∀ c, (m.chans.get c).live = false := by
    simp only [List.any_eq_true, not_forall, Bool.not_eq_false]
    constructor
    · rintro ⟨x, hx, hxl⟩
      obtain ⟨i, hi, rfl⟩ := List.getElem_of_mem hx
      have hi' : i < 2 ^ 8 := by simpa using hi
      exact ⟨⟨i, hi'⟩, by simpa [Tbl.get] using hxl⟩
    · rintro ⟨c, hc⟩
      exact ⟨m.chans.get c, by simp [Tbl.get], hc⟩
  by_cases h : ∀ c, (m.chans.get c).live = false
  · have : m.chans.toList.any Chan.live = false := Bool.eq_false_iff.mpr fun hx => hl.mp hx h
    simp only [entryRefusal, this, h, Bool.false_eq_true, if_false, implies_true, if_true]
  · simp only [entryRefusal, hl.mpr h, if_true, if_neg h]

end Sys2Proof.Machine
end

section
/-! PROOFS. The clauses of O28. -/

namespace Sys2Proof.Machine

open Sys2Proof

set_option Elab.async false -- one proof at a time: the threads of many at once exceed the memory of a check

section
variable {s : State} {w : Who} {v : W32} (hm : s.m.live)
include hm

/-! ### Stores by the keeper -/

/-- A request that is refused leaves its code (R43). -/
theorem exec_modeReq_refused (hk : byKeeper w) {r : BitVec 4} (hr : modeRefusal v s.m = r) (hne : r ≠ 0#4) :
    exec (.modeReqWrite w v) s = leaves s { s.m with mode := { s.m.mode with refuse := r } } := by
  have hn : modeRegWrite 0x044 v s.m = modMode (fun x => { x with refuse := r }) s.m := by
    simp [modeRegWrite, modeRequest, hr, hne]
  have hw : busWrite w 0x8000_0044#36 v s.m = modMode (fun x => { x with refuse := r }) s.m :=
    (busWrite_mode (o := 0x044) hm hk rfl (.inl rfl) hn rfl rfl).trans (modeAnnounce_same rfl rfl)
  exact congrArg (leaves s) hw

/-- A request that is accepted waits for its tick (R42). -/
theorem exec_modeReq_taken (hk : byKeeper w) (hr : modeRefusal v s.m = 0#4) (hs : s.m.mode.mode ≠ .sleep) :
    ∃ t, exec (.modeReqWrite w v) s = .next t ∧ t.m.mode = { s.m.mode with
      pend := modeOf (fld v 0 3), refuse := 0
      pendTick := s.m.tick.count + (if s.m.tick.phase = .closed then 2 else 1) } := by
  have hn : modeRegWrite 0x044 v s.m = modMode (fun x => { x with
      pend := modeOf (fld v 0 3), refuse := 0
      pendTick := s.m.tick.count + (if s.m.tick.phase = .closed then 2 else 1) }) s.m := by
    simp [modeRegWrite, modeRequest, hr, leaveSleep, hs]
  obtain ⟨hmode, -, -⟩ := modeAnnounce_keeps s.m (modMode (fun x => { x with
      pend := modeOf (fld v 0 3), refuse := 0
      pendTick := s.m.tick.count + (if s.m.tick.phase = .closed then 2 else 1) }) s.m)
  exact ⟨_, congrArg (leaves s) (busWrite_mode (o := 0x044) hm hk rfl (.inl rfl) hn rfl rfl), hmode⟩

theorem exec_outReleaseWrite (hk : byKeeper w) : exec (.outReleaseWrite w v) s = leaves s { s.m with mode := { s.m.mode with
    outRel := s.m.mode.outRel || decide (s.m.mode.mode = .operate), wkHost := v.getLsbD 8, wkSent := v.getLsbD 9
    wkPeer := v.getLsbD 10, wkRtc := v.getLsbD 11 } } := by
  have hb : bit (v ||| 2#32) 1 = true ∧ bit (v ||| 2#32) 8 = v.getLsbD 8 ∧ bit (v ||| 2#32) 9 = v.getLsbD 9 ∧
      bit (v ||| 2#32) 10 = v.getLsbD 10 ∧ bit (v ||| 2#32) 11 = v.getLsbD 11 := by simp [bit]
  obtain ⟨h1, h8, h9, h10, h11⟩ := hb
  have hn : modeRegWrite 0x048 (v ||| 2#32) s.m = { s.m with mode := { s.m.mode with
      outRel := s.m.mode.outRel || decide (s.m.mode.mode = .operate), wkHost := v.getLsbD 8, wkSent := v.getLsbD 9
      wkPeer := v.getLsbD 10, wkRtc := v.getLsbD 11 } } := by
    simp [modeRegWrite, modeCtlWrite, modMode, h1, h8, h9, h10, h11]
  exact congrArg (leaves s) ((busWrite_mode (o := 0x048) hm hk rfl (.inr rfl) hn rfl rfl).trans (modeAnnounce_same rfl rfl))

/-! ### Stores by another -/

omit hm in
/-- A notice logs its fault, and keeps the mode and the mint (R70). -/
theorem notice_logs (e : BitVec 7) (y : SbEntry) {m : Mach} (hroom : m.hasRoom) :
    (notice e y 3#4 m).mode = m.mode ∧ (notice e y 3#4 m).mint = m.mint ∧ (notice e y 3#4 m).watch = m.watch ∧
      (notice e y 3#4 m).faults.hpDue = m.faults.hpDue ∧
      ∃ f, (notice e y 3#4 m).faults.queue = m.faults.queue ++ [f] ∧ f.code = 0x0205 := by
  obtain ⟨-, hlen⟩ := hroom
  have hsoft : ∀ arg, reactionOf m 0x0205#16 arg ≠ .h := fun arg => by simp [reactionOf, logOnly]
  have hr : ∀ arg, ∃ f, report 0x0205#16 arg m = { m with faults := { m.faults with queue := m.faults.queue ++ [f] } } ∧
      f.code = 0x0205 := fun arg => by
    rw [report_soft _ _ _ (hsoft arg), queueFault, if_pos hlen]
    exact ⟨_, rfl, rfl⟩
  obtain ⟨f, hf, hcode⟩ := hr (argAD y.storeAddr e y.ring y.comp)
  have hcause : (0x0202#16 + (3#4).setWidth 16) = 0x0205#16 := rfl
  unfold notice
  rw [hcause, hf]
  dsimp only
  repeat' split
  all_goals exact ⟨rfl, rfl, rfl, rfl, f, rfl, hcode⟩

/-- A store to a keeper's register that another replica makes is dropped with a notice (R4, R45). -/
theorem busWrite_foreign {a : Addr} {o : Nat} (hr : w.master = .replica) (hk : ¬ (w.comp = 0 ∧ w.ring = 0)) (hroom : s.m.hasRoom)
    (hb : blockOf a = some (.sys o)) (hc : sysCode o = .kw ∨ sysCode o = .k) :
    (busWrite w a v s.m).mode = s.m.mode ∧ (busWrite w a v s.m).mint = s.m.mint ∧
      ∃ f, (busWrite w a v s.m).faults.queue = s.m.faults.queue ++ [f] ∧ f.code = 0x0205 := by
  have hwho := whoKeeper_of_not hk
  have hn : (sysCode o).writes w = false := by rcases hc with h | h <;> rw [h] <;> exact hwho
  obtain ⟨-, hreset, hdue⟩ := id hm
  obtain ⟨hmode, hmint, hwatch, hpd, hf⟩ := notice_logs w.eng
    ⟨a, 0#128, 0#16, false, false, false, false, none, w.comp, w.ring, w.pc, w.tick, w.pos, false⟩ hroom
  rw [busWrite_eq hm (by rw [regWrite_refused v s.m hb hn, orNotice, if_neg (by simp), if_pos hr])
    (by rw [hwatch, hreset]) (by rw [hpd, hdue])]
  exact ⟨hmode, hmint, hf⟩

theorem foreign_clause (hr : w.master = .replica) (hk : ¬ (w.comp = 0 ∧ w.ring = 0)) (hroom : s.m.hasRoom) :
    ∀ i ∈ [Instr.modeReqWrite w v, .outReleaseWrite w v, .registerWrite w 0x8000_0200 4 v],
      ∃ t f, exec i s = .next t ∧ t.m.mode = s.m.mode ∧ t.m.mint = s.m.mint ∧ t.m.faults.queue = s.m.faults.queue ++ [f] ∧
        f.code = 0x0205 := by
  have hone : ∀ {i : Instr} {a : Addr} {o : Nat} {x : W32}, exec i s = leaves s (busWrite w a x s.m) →
      blockOf a = some (.sys o) → (sysCode o = .kw ∨ sysCode o = .k) →
      ∃ t f, exec i s = .next t ∧ t.m.mode = s.m.mode ∧ t.m.mint = s.m.mint ∧ t.m.faults.queue = s.m.faults.queue ++ [f] ∧
        f.code = 0x0205 := fun he hb hc => by
    obtain ⟨hmode, hmint, f, hf, hcode⟩ := busWrite_foreign hm hr hk hroom hb hc
    exact ⟨_, f, he, hmode, hmint, hf, hcode⟩
  have hp : plainWrite w 0x8000_0200#36 4 v s.m = busWrite w 0x8000_0200#36 v s.m := by
    unfold plainWrite
    rw [hr]
    exact if_pos (by decide)
  intro i hi
  simp only [List.mem_cons, List.not_mem_nil, or_false] at hi
  rcases hi with rfl | rfl | rfl
  · exact hone (a := 0x8000_0044#36) (o := 0x044) rfl rfl (.inl rfl)
  · exact hone (a := 0x8000_0048#36) (o := 0x048) rfl rfl (.inl rfl)
  · exact hone (a := 0x8000_0200#36) (o := 0x200) (congrArg (leaves s) hp) rfl (.inr rfl)

end

/-- Settles O28: each register by what its store or load does, the period by what an edge takes over, the mode requests by the
code of `modeRefusal`. -/
theorem tickAndModeRegisters : Obligations.TickAndModeRegisters := by
  unfold Obligations.TickAndModeRegisters
  refine ⟨fun s w v hm hd => ?_, fun s grp bad x hd hl hw hp hn he => ?_, fun s w v hm => ?_⟩
  · have hopen := tickWritable_iff s.m
    have hper : periodOk (fld v 0 17) = true ↔ 250 ≤ v.toNat % 2 ^ 17 ∧ v.toNat % 2 ^ 17 ≤ 100000 := by
      rw [periodOk_iff, toNat_fld, Nat.pow_zero, Nat.div_one]
    obtain ⟨h0, h1, h2, h3⟩ := tickStatWord_bits s.m.tick
    refine ⟨fun ho => ?_, fun ho hl hh => ?_, fun hp => ?_, fun ho hl hr => ?_, fun ho => ⟨?_, ?_, ?_⟩,
      ⟨_, exec_tickStatRead s w hm hd, h0, h1, h2, h3, tickStatWord_spurious _⟩, exec_tickCountRead s w hm hd,
      exec_tilthSwapRequest s w v hm, exec_ovrCtlWrite s w v hm⟩
    · exact (exec_tickCtlWrite s w v hm).trans (congrArg (leaves s) (tickCtlWrite_open (hopen.mpr ho)))
    · rw [← fld_zero]
      exact (exec_tickPeriodWrite s w v hm).trans
        (congrArg (leaves s) (tickPeriodWrite_open (hopen.mpr ho) (hper.mpr ⟨hl, hh⟩)))
    · refine (exec_tickPeriodWrite s w v hm).trans (congrArg (leaves s) (tickPeriodWrite_shut fun h => ?_))
      obtain ⟨hl, hh⟩ := hper.mp h.2
      rcases hp with hp | hp
      · exact absurd hl (not_le.mpr hp)
      · exact absurd hh (not_le.mpr hp)
    · rw [← fld_zero, ← fld_eq]
      refine (exec_tickHoldWrite s w v hm).trans (congrArg (leaves s) (tickHoldWrite_open (hopen.mpr ho) ?_ (fld_ne_zero hr)))
      exact fld_ne_zero (by simpa using hl)
    · exact (exec_tickCtlWrite s w v hm).trans (congrArg (leaves s) (tickCtlWrite_shut (mt hopen.mp ho)))
    · exact (exec_tickPeriodWrite s w v hm).trans (congrArg (leaves s) (tickPeriodWrite_shut fun h => ho (hopen.mp h.1)))
    · exact (exec_tickHoldWrite s w v hm).trans (congrArg (leaves s) (tickHoldWrite_shut (mt hopen.mp ho)))
  · obtain ⟨u, hu, -, -, -, hperiod, -⟩ := tickEdge_clause s grp bad x ((tickRuns_iff s.m).mpr ⟨hd, hl, hw⟩) hp hn he
    exact ⟨u, hu, hperiod⟩
  · have hop : ∀ {r : BitVec 4}, s.m.mode.mode = .commission → (if s.m.mode.pend.isSome then 3#4 else entryRefusal s.m) = r →
        modeRefusal 0x5A3C_0003 s.m = r := fun h hr => (modeRefusal_operate h).trans hr
    refine ⟨fun hk hf hlev hbs hno => ?_, fun hk hmode hpend => ?_, fun hk hmode => ⟨?_, ?_⟩, fun hk hmode hpend => ?_,
      fun hk hf hlev => ?_, fun hk hf hlev hbs => ?_, fun hk hf hlev hbs hno => ?_, exec_outReleaseWrite hm,
      foreign_clause hm⟩
    · obtain ⟨hmode, hpend⟩ := hf
      exact exec_modeReq_taken hm hk (hop hmode (by simp [hpend, entryRefusal_eq, hlev, hbs, hno])) (by simp [hmode])
    · have hr : modeRefusal 0x5A3C_0004 s.m = 0#4 := by
        rw [modeRefusal_eq s.m (t := .sleep) rfl rfl, hmode, hpend]
        rfl
      obtain ⟨t, ht, hx⟩ := exec_modeReq_taken hm hk hr (by simp [hmode])
      exact ⟨t, ht, by rw [hx]; rfl, by rw [hx]; exact hmode⟩
    · refine exec_modeReq_refused hm hk ?_ (by decide)
      rw [modeRefusal_eq s.m (t := .sleep) rfl rfl, hmode]
      rfl
    · refine exec_modeReq_refused hm hk ?_ (by decide)
      rw [modeRefusal_eq s.m (t := .operate) rfl rfl, hmode]
      rfl
    · exact exec_modeReq_refused hm hk (hop hmode (by simp [Option.isSome_iff_ne_none, hpend])) (by decide)
    · obtain ⟨hmode, hpend⟩ := hf
      exact exec_modeReq_refused hm hk (hop hmode (by simp [hpend, entryRefusal_eq, hlev])) (by decide)
    · obtain ⟨hmode, hpend⟩ := hf
      exact exec_modeReq_refused hm hk (hop hmode (by simp [hpend, entryRefusal_eq, hlev, hbs])) (by decide)
    · obtain ⟨hmode, hpend⟩ := hf
      exact exec_modeReq_refused hm hk (hop hmode (by simp only [hpend, entryRefusal_eq, hbs, if_neg hno]; simp [hlev]))
        (by decide)

end Sys2Proof.Machine
end

section
/-! PROOFS. Why O30 fails: where the fuses cannot be resolved, power up goes on into HARDPAN, and there E0 no longer holds the
registers with which WAKE begins. -/

namespace Sys2Proof.Machine

open Sys2Proof

set_option Elab.async false -- one proof at a time: the threads of many at once exceed the memory of a check

/-! ### A fault that the boot finds -/

theorem hpDue_queueFault (code : BitVec 16) (arg : W64) (cont : List (BitVec 224)) (m : Mach) :
    (queueFault code arg cont m).faults.hpDue = m.faults.hpDue := by
  unfold queueFault
  split <;> rfl

/-- The entry to HARDPAN is due once a fault of reaction H is detected in a mode from which it is entered (R41, R433). -/
theorem hpDue_report {code : BitVec 16} {arg : W64} {m : Mach} (hr : reactionOf m code arg = .h) (hf : hardpanFrom m = true) :
    (report code arg m).faults.hpDue = true := by
  have hb : (beginHardpan code m).faults.hpDue = true := by simp [beginHardpan, hf]
  unfold report reportC
  rw [if_pos ⟨hr, hf⟩]
  exact (hpDue_queueFault ..).trans hb

theorem reactionOf_fuses (m : Mach) (arg : W64) : reactionOf m 0x0701 arg = .h := by
  simp [reactionOf, logOnly, hardpanCode]

theorem reactionOf_relay (m : Mach) (arg : W64) : reactionOf m 0x0808 arg ≠ .h := by
  simp [reactionOf, logOnly]

/-- A WAKE whose fuses cannot be resolved goes on into HARDPAN (R404, R405). -/
theorem hpDue_wakeStart {fu : Fuses} (h : fu.bootFault ≠ none) (cause prev : BitVec 4) (mem : Memory) (m : Mach) :
    (wakeStart cause prev mem fu m).faults.hpDue = true := by
  obtain ⟨x, hx⟩ := Option.ne_none_iff_exists'.mp h
  unfold wakeStart
  rw [hx]
  exact hpDue_report (reactionOf_fuses _ _) rfl

/-- Relays that are driven leave a due entry to HARDPAN due. -/
theorem hpDue_drivePending (m : Mach) : (drivePending m).faults.hpDue = m.faults.hpDue := by
  refine foldl_keeps (fun m : Mach => m.faults.hpDue) (fun n k => ?_) _ m
  have hd : (driveRelay k 0#64 n).faults.hpDue = n.faults.hpDue := by
    unfold driveRelay
    split
    · rfl
    · split
      · rfl
      · rw [report_soft _ _ _ (reactionOf_relay _ _), hpDue_queueFault]
        rfl
  split
  · exact hd
  · rfl

/-! ### E0 in HARDPAN -/

/-- The device vectors leave the tiles. -/
theorem tiles_deviceVector (k : Nat) (m : Mach) : (deviceVector k m).tiles = m.tiles := by
  have h : ∀ p n, (deviceVectorOn p k n).tiles = n.tiles := fun p n => by
    unfold deviceVectorOn sendMsix
    dsimp only
    repeat' split
    all_goals rfl
  exact (h _ _).trans (h _ _)

/-- E0 starts for the keeper with IB 1 (R451). -/
theorem ib_hardpanKeeper (m : Mach) : ∀ r ∈ lanesOf (hardpanKeeper m) 0, (rep (hardpanKeeper m) 0 r).arch.ib = true := by
  unfold hardpanKeeper
  extract_lets ent first a n
  have hl : lanesOf n 0 = lanesOf m 0 := lanesOf_mapLanes 0 _ m fun _ => ⟨rfl, rfl⟩
  have hib : ∀ r ∈ lanesOf n 0, (rep n 0 r).arch.ib = true := fun r hr => by
    have hn := rep_mapLanes 0 (fun x => { x with arch := a, sb := [], prefetch := [], ldue := none, repEnd := false }) m r
    rw [if_pos (hl ▸ hr)] at hn
    exact congrArg (fun x : Replica => x.arch.ib) hn
  clear_value n
  exact hib

/-- The lanes of E0 and their registers stand in the tiles. -/
theorem ib_of_tiles {m n : Mach} (ht : n.tiles = m.tiles) (h : ∀ r ∈ lanesOf m 0, (rep m 0 r).arch.ib = true) :
    ∀ r ∈ lanesOf n 0, (rep n 0 r).arch.ib = true := by
  unfold lanesOf rep at *
  rw [ht]
  exact h

/-- So it stands once an entry to HARDPAN that was due is completed. -/
theorem ib_enterHardpan {m : Mach} (h : m.faults.hpDue = true) :
    ∀ r ∈ lanesOf (enterHardpan m) 0, (rep (enterHardpan m) 0 r).arch.ib = true := by
  unfold enterHardpan
  rw [if_neg (by simp [h])]
  extract_lets m1 m2 m3 m4 m5
  clear_value m4
  have hk : ∀ r ∈ lanesOf m5 0, (rep m5 0 r).arch.ib = true := ib_of_tiles (modHost_tiles ..) (ib_hardpanKeeper m4)
  split
  · exact hk
  · exact ib_of_tiles (tiles_deviceVector ..) hk

/-! ### Power up -/

theorem exec_powerUp {s : State} (h : s.m.mode.mode = .dormant) (slot : BitVec 8) (dt : Nat) :
    exec (.logicSuppliesInRegulation slot dt) s = leaves s (powerUp slot dt s.fuses s.m) := if_pos h

theorem machine_of_leaves {s t : State} {m : Mach} (h : leaves s m = .next t) : t.m = m := by
  cases h
  rfl

/-- Where the fuses cannot be resolved, power up ends with E0 at the start of the keeper in HARDPAN. -/
theorem ib_powerUp {fu : Fuses} (h : fu.bootFault ≠ none) (slot : Byte) (dt : Nat) (m : Mach) :
    ∀ r ∈ lanesOf (powerUp slot dt fu m) 0, (rep (powerUp slot dt fu m) 0 r).arch.ib = true :=
  ib_enterHardpan ((hpDue_drivePending _).trans (hpDue_wakeStart h ..))

/-! ### The counterexample -/

/-- LIFECYCLE.RETIRED is burned, and nothing else (R405). -/
def retiredFuses : Fuses := Fuses.blank.program 0 4 0

/-- The module of a retired part in DORMANT. -/
def retiredDormant : State :=
  { State.reset with
    fuses := retiredFuses, m := { State.reset.m with mode := { State.reset.m.mode with mode := .dormant } } }

theorem bootFault_retired : retiredFuses.bootFault = some (4, 0) := by decide +kernel

theorem calm_retiredDormant : retiredDormant.m.calm := by
  delta Mach.calm
  decide +kernel

/-- Refutes O30: its first clause says of every power up that the lanes of E0 hold `bootArch`, and with it IB 0. With
LIFECYCLE.RETIRED burned the fuses stop the boot (R405) and the same command goes on into HARDPAN, as the clause also says;
there E0 has been reset and started for the keeper with IB 1 (R451). -/
theorem not_wakeBeginsAndEnds : ¬ Obligations.WakeBeginsAndEnds := by
  unfold Obligations.WakeBeginsAndEnds
  intro h
  obtain ⟨hup, -⟩ := h retiredDormant calm_retiredDormant rfl
  obtain ⟨t, ht, -, -, -, -, -, -, -, hlanes, harch, -⟩ := hup 0 0 rfl
  have hm : t.m = powerUp 0 0 retiredFuses retiredDormant.m :=
    machine_of_leaves ((exec_powerUp (s := retiredDormant) rfl 0 0).symm.trans ht)
  have hmem : 0#2 ∈ lanesOf t.m 0 := by
    rw [hlanes]
    decide
  have hboot : (rep t.m 0 0).arch.ib = bootArch.ib := congrArg Arch.ib (harch 0 hmem)
  have hkeeper : (rep t.m 0 0).arch.ib = true := by
    rw [hm] at hmem ⊢
    exact ib_powerUp (by simp [bootFault_retired]) 0 0 _ 0 hmem
  exact absurd (hboot.symm.trans hkeeper) (by decide)

end Sys2Proof.Machine
end

section
/-! PROOFS. What stays as time moves on, beside what `Flows` names: the security block, the backup domain's kept registers and
its cell, and the modes at the terminals. -/

namespace Sys2Proof.Machine

open Sys2Proof

set_option Elab.async false -- one proof at a time: the threads of many at once exceed the memory of a check

/-! ### The copier -/

section
variable {α : Type} {f : Mach → α} (hwrite : ∀ w g d x t m, f (writeGran w g d x t m) = f m)
  (hreport : ∀ code arg m, f (report code arg m) = f m) (htick : ∀ h m, f (modTick h m) = f m)
include hwrite hreport htick

theorem countMalformed_keeps (e : BitVec 7) (p : BitVec 6) (d : Gran) (m : Mach) : f (countMalformed e p d m) = f m :=
  (hreport ..).trans ((hwrite ..).trans (htick ..))

variable (hread : ∀ w g m, f (readGran w g m).2 = f m)
include hread

theorem copyFrom_keeps (e : BitVec 7) (n : Nat) (m : Mach) : f (copyFrom e n m).2 = f m := by
  induction n generalizing m with
  | zero => rfl
  | succ n ih =>
    have hc : ∀ p d m, f (countMalformed e p d m) = f m := countMalformed_keeps hwrite hreport htick e
    have he : ∀ p, f (copyEntry e p m).2 = f m := fun p => by
      unfold copyEntry
      dsimp only
      split <;> dsimp only <;> exact hread ..
    unfold copyFrom
    dsimp only
    split
    · exact (ih _).trans ((hc ..).trans (he _))
    · split
      · exact he _
      · split
        · exact (ih _).trans ((hc ..).trans (he _))
        · exact (ih _).trans (he _)

variable (heng : ∀ e h m, f (modEng e h m) = f m)
include heng

theorem copyStep_keeps (m : Mach) : f (copyStep m) = f m := by
  have hl : ∀ e, f (copyList e m) = f m := fun e => by
    unfold copyList
    dsimp only
    split
    · rfl
    · exact (heng ..).trans (copyFrom_keeps hwrite hreport htick hread ..)
  unfold copyStep
  dsimp only
  split
  · exact htick ..
  · exact (htick ..).trans (hl _)

/-- The copier moves the tick and the engines, and reads, writes and reports; nothing else of the module changes by it. -/
theorem copier_keeps (t : Nat) (m : Mach) : f (copier t m) = f m := by
  have hu : ∀ n m, f (copyUntil t n m) = f m := fun n => by
    induction n with
    | zero => exact fun _ => rfl
    | succ n ih =>
      intro m
      unfold copyUntil
      extract_lets i next
      split
      · exact (ih _).trans (copyStep_keeps hwrite hreport htick hread heng m)
      · rfl
  unfold copier
  split
  · exact hu ..
  · rfl

end

/-! ### Time -/

/-- What lasts as time moves on. -/
structure Lasts (m n : Mach) : Prop where
  sec : n.sec = m.sec
  scr : n.bkp.scr = m.bkp.scr
  cell : n.bkp.cell = m.bkp.cell
  modes : ∀ c, (n.chans.get c).mode = (m.chans.get c).mode

theorem Lasts.refl {m : Mach} : Lasts m m := ⟨rfl, rfl, rfl, fun _ => rfl⟩

theorem Lasts.trans {m n p : Mach} (h : Lasts m n) (h' : Lasts n p) : Lasts m p :=
  ⟨h'.sec.trans h.sec, h'.scr.trans h.scr, h'.cell.trans h.cell, fun c => (h'.modes c).trans (h.modes c)⟩

theorem Lasts.aside {m n : Mach} (hs : n.sec = m.sec := by rfl) (hb : n.bkp = m.bkp := by rfl)
    (hc : n.chans = m.chans := by rfl) : Lasts m n :=
  ⟨hs, by rw [hb], by rw [hb], by simp [hc]⟩

theorem Lasts.foldl {α : Type} {f : Mach → α → Mach} (hf : ∀ n x, Lasts n (f n x)) (l : List α) (m : Mach) :
    Lasts m (l.foldl f m) :=
  foldl_preserves (fun n x h => h.trans (hf n x)) l .refl

section
variable {m n : Mach} (h : Lasts m n)
include h

/-- A change of one channel that keeps the mode at its terminals. -/
theorem Lasts.modChan {c : BitVec 8} {f : Chan → Chan} (hf : ∀ x : Chan, (f x).mode = x.mode) : Lasts m (modChan c f n) where
  sec := h.sec
  scr := h.scr
  cell := h.cell
  modes d := by
    rw [← h.modes d, modChan_chans, Tbl.get_upd]
    split
    next hd => rw [hf, hd]
    · rfl

theorem Lasts.writeGran {w : Acc} {g : Nat} {d : Gran} {x : BitVec 16} {t : Bool} : Lasts m (writeGran w g d x t n) :=
  h.trans (.aside (by simp) (by simp) (by simp))

theorem Lasts.pend {c : BitVec 10} {b : Nat} : Lasts m (pend c b n) := h.trans .aside

end

theorem lasts_copier (t : Nat) (m : Mach) : Lasts m (copier t m) :=
  .aside (copier_keeps (f := Mach.sec) (by simp) (by simp) (fun _ _ => rfl) (by simp) (fun _ _ _ => rfl) t m)
    (copier_keeps (f := Mach.bkp) (by simp) (by simp) (fun _ _ => rfl) (by simp) (fun _ _ _ => rfl) t m)
    (copier_keeps (f := Mach.chans) (by simp) (by simp) (fun _ _ => rfl) (by simp) (fun _ _ _ => rfl) t m)

theorem lasts_rtcAdvance (lost : Bool) (n : Nat) (m : Mach) : Lasts m { m with bkp := rtcAdvance lost n m.bkp } := by
  obtain ⟨hscr, hcell⟩ : (rtcAdvance lost n m.bkp).scr = m.bkp.scr ∧ (rtcAdvance lost n m.bkp).cell = m.bkp.cell := by
    unfold rtcAdvance
    dsimp only
    repeat' split
    all_goals exact ⟨rfl, rfl⟩
  exact ⟨rfl, hscr, hcell, fun _ => rfl⟩

theorem lasts_haltedTime (n : Nat) (m : Mach) : Lasts m (haltedTime n m) := by
  unfold haltedTime
  split
  · exact .aside
  · exact .refl

theorem lasts_advanceChan (a b : Nat) (c : BitVec 8) (m : Mach) : Lasts m (advanceChan a b c m) := by
  unfold advanceChan timerEvents
  extract_lets x mode9 r
  split
  · exact .refl
  · split
    · refine Lasts.refl.modChan ?_
      exact fun _ => rfl
    · refine (Lasts.refl.modChan ?_).pend
      exact fun _ => rfl

theorem lasts_hartWaits (c : BitVec 8) (m : Mach) : Lasts m (hartWaits c m) := by
  unfold hartWaits modHart putHstat hwWrite32
  dsimp only
  split
  · refine (Lasts.refl.modChan ?_).writeGran
    exact fun _ => rfl
  · exact .refl

theorem lasts_advanceTo (t : Nat) (m : Mach) : Lasts m (advanceTo t m) := by
  unfold advanceTo
  extract_lets a m1 m2 m3
  split
  · have h1 : Lasts m m1 := lasts_copier t m
    clear_value m1
    have h2 : Lasts m1 m2 := by
      refine Lasts.trans ?_ (lasts_haltedTime ..)
      split
      · exact lasts_rtcAdvance ..
      · exact .refl
    clear_value m2
    have h3 : Lasts m2 m3 := .foldl (fun _ _ => lasts_advanceChan ..) ..
    clear_value m3
    have h4 : Lasts m3 { m3 with clk := t } := .aside
    exact (((h1.trans h2).trans h3).trans h4).trans (.foldl (fun _ _ => lasts_hartWaits ..) ..)
  · exact .refl

end Sys2Proof.Machine
end

section
/-! PROOFS. What stays once the power-fail warning stands: an access to memory may be reported, but HARDPAN is entered no more
(R51, R487). -/

namespace Sys2Proof.Machine

open Sys2Proof

set_option Elab.async false -- one proof at a time: the threads of many at once exceed the memory of a check

/-! ### The relation -/

/-- The clock, the supplies, the modes at the terminals and, where the warning stands, the mode are as they were. -/
structure Failing (m n : Mach) : Prop where
  clk : n.clk = m.clk
  pwr : n.pwr = m.pwr
  modes : ∀ c, (n.chans.get c).mode = (m.chans.get c).mode
  mode : m.pwr.pfw = true → n.mode = m.mode

theorem Failing.refl {m : Mach} : Failing m m := ⟨rfl, rfl, fun _ => rfl, fun _ => rfl⟩

theorem Failing.trans {m n p : Mach} (h : Failing m n) (h' : Failing n p) : Failing m p :=
  ⟨h'.clk.trans h.clk, h'.pwr.trans h.pwr, fun c => (h'.modes c).trans (h.modes c),
    fun hp => (h'.mode (h.pwr ▸ hp)).trans (h.mode hp)⟩

section
variable {m n : Mach} (h : Failing m n)
include h

/-- What touches none of it. -/
theorem Failing.aside {p : Mach} (hc : p.clk = n.clk := by rfl) (hp : p.pwr = n.pwr := by rfl)
    (hn : p.chans = n.chans := by rfl) (hm : p.mode = n.mode := by rfl) : Failing m p :=
  h.trans ⟨hc, hp, by simp [hn], fun _ => hm⟩

theorem Failing.foldl {α : Type} {f : Mach → α → Mach} (hf : ∀ n x, Failing m n → Failing m (f n x)) (l : List α) :
    Failing m (l.foldl f n) := foldl_preserves hf l h

theorem Failing.modSec {f : Sec → Sec} : Failing m (modSec f n) := h.aside

theorem Failing.modMc {f : MemCtl → MemCtl} : Failing m (modMc f n) := h.aside

theorem Failing.mem {v : Memory} : Failing m { n with mem := v } := h.aside

theorem Failing.pend {d : BitVec 10} {b : Nat} : Failing m (pend d b n) := h.aside

theorem Failing.modChan {c : BitVec 8} {f : Chan → Chan} (hf : ∀ x : Chan, (f x).mode = x.mode) : Failing m (modChan c f n) :=
  h.trans ⟨rfl, rfl, (Lasts.refl.modChan hf).modes, fun _ => rfl⟩

/-- With the warning no fault begins HARDPAN. -/
theorem Failing.report {code : BitVec 16} {arg : W64} : Failing m (report code arg n) := by
  refine h.trans ⟨by simp, by simp, by simp, fun hp => ?_⟩
  have hf : hardpanFrom n = false := by simp [hardpanFrom, hp]
  simp [Machine.report, reportC, hf]

/-! ### Memory -/

theorem Failing.countDevice {g : Nat} {dev : BitVec 5} : Failing m (countDevice g dev n) := by
  unfold Machine.countDevice
  extract_lets ch ix old row rows m1 arg m2
  have h1 : Failing m m1 := h.modMc
  have h2 : Failing m m2 := by
    simp only [m2]
    split
    · split
      · exact h1.modMc.report
      · split
        · exact h1
        · exact h1.modMc.report
    · exact h1
  split
  · exact h2.modMc.report
  · exact h2

theorem Failing.countCorrected {g : Nat} {x : BitVec 5} : Failing m (countCorrected g x n) := by
  unfold Machine.countCorrected
  dsimp only
  split
  · refine Failing.countDevice ?_
    split
    · exact h.modMc.modMc
    · exact h.modMc.modMc
  · exact h.modMc.modMc

theorem Failing.readGran {w : Acc} {g : Nat} : Failing m (readGran w g n).2 := by
  unfold Machine.readGran
  split
  · exact h
  · exact h.countCorrected
  · dsimp only
    split <;> dsimp only
    · exact h.mem.modMc.report
    · exact h.modMc.report

theorem Failing.writeGran {w : Acc} {g : Nat} {d : Gran} {x : BitVec 16} {t : Bool} : Failing m (writeGran w g d x t n) := by
  unfold Machine.writeGran
  extract_lets mc n1
  have h1 : Failing m (Machine.readGran w g n1).2 := (h.aside (p := n1)).readGran
  generalize Machine.readGran w g n1 = p at *
  split
  · exact h.aside
  · dsimp only
    split
    · exact h1
    · exact h1.aside

theorem Failing.codedGran {w : Acc} {g : Nat} : Failing m (codedGran w g n).2 := by
  have hr : Failing m (Machine.readGran w g n).2 := h.readGran
  unfold Machine.codedGran
  split
  · exact h
  · dsimp only
    split
    · exact hr.aside
    · exact hr

end

theorem failing_codedFrom (w : Acc) (n g : Nat) (m : Mach) : Failing m (codedFrom w n g m).2 := by
  induction n generalizing g m with
  | zero => exact .refl
  | succ n ih => exact Failing.refl.codedGran.trans (ih ..)

theorem failing_writeBytesFuel (w : Acc) (n : Nat) (a : Addr) (l : List Byte) (m : Mach) :
    Failing m (writeBytesFuel w n a l m) := by
  induction n generalizing a l m with
  | zero => exact .refl
  | succ n ih =>
    unfold writeBytesFuel
    split
    · exact .refl
    · exact Failing.refl.writeGran.trans (ih ..)

/-! ### The flash operation that is cut off -/

theorem failing_flashWork (j : FlashJob) (n : Nat) (m : Mach) : Failing m (flashWork j n m).2 := by
  unfold flashWork
  dsimp only
  split
  · exact failing_writeBytesFuel ..
  · exact (failing_codedFrom ..).modSec
  · exact Failing.refl.modSec

theorem failing_flashCut (n : Nat) (sector : List Byte) (m : Mach) : Failing m (flashCut n sector m) := by
  have he : Failing m (flashEnd false n m) := by
    unfold flashEnd
    split
    · exact .refl
    · exact (failing_flashWork ..).modSec
  unfold flashCut
  split
  · exact .refl
  · dsimp only
    split
    · exact he
    · exact he.modSec

/-- No flash operation is left in progress (R430). -/
theorem flJob_flashCut (n : Nat) (sector : List Byte) (m : Mach) : (flashCut n sector m).sec.flJob = none := by
  unfold flashCut
  split
  next h => exact h
  next j h =>
    have he : (flashEnd false n m).sec.flJob = none := by
      unfold flashEnd
      rw [h]
      rfl
    dsimp only
    split
    · exact he
    · have hr : ∀ d off l (x : Sec), (rewrite d off l x).flJob = x.flJob := fun d _ _ _ => by cases d <;> rfl
      exact (hr ..).trans he

/-! ### The shells (R450) -/

theorem failing_abortHart (c : BitVec 8) (m : Mach) : Failing m (abortHart c m) := by
  unfold abortHart endHart putHstat hwWrite32
  dsimp only
  split
  · refine (Failing.refl.modChan ?_).writeGran.pend
    exact fun _ => rfl
  · exact .refl

/-- A channel without a commit, a ramp or a record. -/
def Chan.unramped (x : Chan) : Chan :=
  { (if x.cpend then commitResult 3#2 0#5 x else x) with ramping := false, rampDue := false, outRec := .none }

/-- What HARDPAN makes of a channel whose HART transaction is over: an output goes to its CH_SAFE action. -/
def Chan.brought (now : Nat) (x : Chan) : Chan :=
  if isOutMode x.unramped.mode then commanded now toSafe x.unramped else x.unramped

theorem shellHardpan_eq (c : BitVec 8) (m : Mach) :
    shellHardpan c m = modChan c (Chan.brought (abortHart c m).clk) (abortHart c m) := rfl

/-- The CH_SAFE action leaves the mode and is marked. -/
theorem commanded_toSafe (now : Nat) (x : Chan) :
    (commanded now toSafe x).mode = x.mode ∧ (commanded now toSafe x).atSafe = true := by
  obtain ⟨hterm, hsafe⟩ : (toSafe x).term = x.term ∧ (toSafe x).atSafe = true := by
    unfold toSafe outZero setOut putDrive
    dsimp only
    repeat' split
    all_goals exact ⟨rfl, rfl⟩
  have hmode : (toSafe x).mode = x.mode := congrArg (fun t => fld t 0 4) hterm
  unfold commanded
  dsimp only
  split
  · exact ⟨hmode, hsafe⟩
  · exact ⟨hmode, hsafe⟩

theorem mode_unramped (x : Chan) : x.unramped.mode = x.mode := by
  unfold Chan.unramped
  split <;> rfl

theorem mode_brought (now : Nat) (x : Chan) : (x.brought now).mode = x.mode := by
  unfold Chan.brought
  split
  · exact (commanded_toSafe ..).1.trans (mode_unramped x)
  · exact mode_unramped x

theorem atSafe_brought (now : Nat) {x : Chan} (h : isOutMode x.mode = true) : (x.brought now).atSafe = true := by
  rw [Chan.brought, mode_unramped, if_pos h]
  exact (commanded_toSafe ..).2

theorem failing_shellHardpan (c : BitVec 8) (m : Mach) : Failing m (shellHardpan c m) :=
  (failing_abortHart c m).modChan (mode_brought _)

/-- A shell acts on its own channel. -/
theorem chan_shellHardpan {c d : BitVec 8} (h : d ≠ c) (m : Mach) : (shellHardpan c m).chans.get d = m.chans.get d := by
  have ha : (abortHart c m).chans.get d = m.chans.get d := by
    unfold abortHart endHart putHstat hwWrite32
    dsimp only
    split
    · simp [Tbl.get_upd_ne _ _ h]
    · rfl
  rw [shellHardpan_eq, modChan_chans, Tbl.get_upd_ne _ _ h, ha]

/-- An output channel stands at its CH_SAFE action. -/
def Mach.safeAt (m : Mach) (c : BitVec 8) : Prop := isOutMode (m.chans.get c).mode = true → (m.chans.get c).atSafe = true

theorem safeAt_shellHardpan_same (c : BitVec 8) (m : Mach) : (shellHardpan c m).safeAt c := by
  intro h
  have hm := (failing_shellHardpan c m).modes c
  have ha := (failing_abortHart c m).modes c
  rw [shellHardpan_eq, modChan_chans, Tbl.get_upd_same]
  exact atSafe_brought _ (ha.trans hm.symm ▸ h)

theorem safeAt_shellHardpan {c d : BitVec 8} {m : Mach} (h : m.safeAt d) : (shellHardpan c m).safeAt d := by
  by_cases hd : d = c
  · exact hd ▸ safeAt_shellHardpan_same c m
  · unfold Mach.safeAt
    rw [chan_shellHardpan hd]
    exact h

theorem mem_allChans (c : BitVec 8) : c ∈ allChans := by
  rw [allChans, List.mem_map]
  exact ⟨c.toNat, (mem_range 0 256 _).mpr ⟨Nat.zero_le _, by omega⟩, by simp⟩

/-- What one element of a list brings about stands at the end of a fold, if the steps of the fold keep it. -/
theorem foldl_reaches {α σ : Type} {f : σ → α → σ} {P Q : σ → Prop} {x : α} (hp : ∀ s y, P s → P (f s y))
    (hx : ∀ s, P s → Q (f s x)) (hq : ∀ s y, Q s → Q (f s y)) {l : List α} (hl : x ∈ l) {s : σ} (h : P s) : Q (l.foldl f s) := by
  obtain ⟨a, b, rfl⟩ := List.append_of_mem hl
  rw [List.foldl_append, List.foldl_cons]
  exact foldl_preserves hq b (hx _ (foldl_preserves hp a h))

/-- With every shell in HARDPAN, every output stands at its CH_SAFE action. -/
theorem safeAt_shells (m : Mach) (c : BitVec 8) : (allChans.foldl (fun m c => shellHardpan c m) m).safeAt c :=
  foldl_reaches (f := fun m c => shellHardpan c m) (P := fun _ => True) (Q := fun n => n.safeAt c) (fun _ _ _ => trivial)
    (fun n _ => safeAt_shellHardpan_same c n) (fun _ _ h => safeAt_shellHardpan h) (mem_allChans c) trivial

theorem sec_shellHardpan (c : BitVec 8) (m : Mach) : (shellHardpan c m).sec = m.sec := by
  have ha : (abortHart c m).sec = m.sec := by
    unfold abortHart endHart putHstat hwWrite32
    dsimp only
    split
    · simp
    · rfl
  exact ha

end Sys2Proof.Machine
end

section
/-! PROOFS. The buffers as the power-fail sequence discards what they hold (R71). -/

namespace Sys2Proof.Machine

open Sys2Proof

set_option Elab.async false -- one proof at a time: the threads of many at once exceed the memory of a check

/-- Some buffers have been emptied, and what was discarded has been counted; faults and memory stand. -/
structure Discarding (m n : Mach) : Prop where
  live : ∀ t, (n.tiles.get t).live = (m.tiles.get t).live
  reps : ∀ t r, rep n t r = rep m t r ∨ rep n t r = { rep m t r with sb := [] }
  mem : n.mem = m.mem
  faults : n.faults = m.faults

/-- The buffers of engine `e` are among them. -/
def Discarded (e : BitVec 7) (m n : Mach) : Prop := ∀ r ∈ lanesOf m e, rep n (tileOf e) r = { rep m (tileOf e) r with sb := [] }

theorem Discarded.of_tiles {e : BitVec 7} {m n p : Mach} (h : Discarded e m n) (ht : p.tiles = n.tiles) : Discarded e m p := by
  unfold Discarded rep at *
  rw [ht]
  exact h

/-- Every store that comes next is one to a host window, which no target accepts any more (R71). -/
def Stuck (m : Mach) : Prop :=
  ∀ e, ∀ r ∈ lanesOf m e, ∀ y, (rep m (tileOf e) r).sb.head? = some y → region y.gran = .hostWin

/-- Nothing of a buffer that is stuck is accepted. -/
theorem drainMem_stuck {m : Mach} (h : Stuck m) (e : BitVec 7) (n : Nat) : drainMem e n m = m := by
  cases n with
  | zero => rfl
  | succ n =>
    unfold drainMem
    split
    next y hy =>
      obtain ⟨r, hr, hs⟩ := List.exists_of_findSome?_eq_some hy
      exact if_pos (h e r hr y hs)
    · rfl

section
variable {m n : Mach} (h : Discarding m n)
include h

theorem Discarding.lanesOf (e : BitVec 7) : lanesOf n e = lanesOf m e :=
  lanesOf_congr m n e (h.live _) fun r => by rcases h.reps (tileOf e) r with hr | hr <;> rw [hr] <;> exact ⟨rfl, rfl⟩

theorem Discarding.stuck (hs : Stuck m) : Stuck n := by
  intro e r hr y hy
  rcases h.reps (tileOf e) r with hn | hn
  · exact hs e r (h.lanesOf e ▸ hr) y (hn ▸ hy)
  · rw [hn] at hy
    cases hy

theorem rep_discard (e : BitVec 7) (t : BitVec 5) (r : BitVec 2) :
    rep (discard e n) t r = if t = tileOf e ∧ r ∈ Machine.lanesOf m e then { rep n t r with sb := [] } else rep n t r := by
  rw [← h.lanesOf e]
  exact rep_mapLanes_any ..

theorem Discarding.discard (e : BitVec 7) : Discarding m (discard e n) where
  live t := (live_foldl_modRep ..).trans (h.live t)
  reps t r := by
    rw [rep_discard h]
    split
    · rcases h.reps t r with hn | hn <;> exact .inr (by rw [hn])
    · exact h.reps t r
  mem := (mapLanes_mem ..).trans h.mem
  faults := (mapLanes_faults ..).trans h.faults

theorem discarded_self (e : BitVec 7) : Discarded e m (discard e n) := by
  intro r hr
  rw [rep_discard h, if_pos ⟨rfl, hr⟩]
  rcases h.reps (tileOf e) r with hn | hn <;> rw [hn]

theorem Discarded.discard {e : BitVec 7} (hd : Discarded e m n) (x : BitVec 7) : Discarded e m (discard x n) := by
  intro r hr
  rw [rep_discard h]
  split <;> rw [hd r hr]

end

/-- The drain of stuck buffers empties every one and changes no other part than the count (R71). -/
theorem discardAll_stuck {m : Mach} (hs : Stuck m) :
    Discarding m (allEngines.foldl (fun m e => discard e (drainMem e 8 m)) m) ∧
      ∀ e, Discarded e m (allEngines.foldl (fun m e => discard e (drainMem e 8 m)) m) := by
  have hself : Discarding m m := ⟨fun _ => rfl, fun _ _ => .inl rfl, rfl, rfl⟩
  have hstep : ∀ n x, Discarding m n → Discarding m (discard x (drainMem x 8 n)) := fun n x h => by
    rw [drainMem_stuck (h.stuck hs)]
    exact h.discard x
  have hown : ∀ e n, Discarding m n → Discarded e m (discard e (drainMem e 8 n)) := fun e n h => by
    rw [drainMem_stuck (h.stuck hs)]
    exact discarded_self h e
  have hother : ∀ e n x, Discarding m n → Discarded e m n → Discarded e m (discard x (drainMem x 8 n)) := fun e n x h hd => by
    rw [drainMem_stuck (h.stuck hs)]
    exact hd.discard h x
  refine ⟨foldl_preserves hstep _ hself, fun e => ?_⟩
  have hboth := foldl_reaches (P := Discarding m) (Q := fun n => Discarding m n ∧ Discarded e m n) hstep
    (fun n h => ⟨hstep n e h, hown e n h⟩) (fun n x ⟨h, hd⟩ => ⟨hstep n x h, hother e n x h hd⟩) (mem_allEngines e) hself
  exact hboth.right

end Sys2Proof.Machine
end

section
/-! PROOFS. The clauses of O31. -/

namespace Sys2Proof.Machine

open Sys2Proof

set_option Elab.async false -- one proof at a time: the threads of many at once exceed the memory of a check

/-! ### The interruption -/

theorem satInc_eq_min {n : Nat} (v : BitVec n) : satInc v = BitVec.ofNat n (min (v.toNat + 1) (2 ^ n - 1)) := by
  have hv := v.isLt
  apply BitVec.eq_of_toNat_eq
  unfold satInc
  split
  next h =>
    rw [h, BitVec.toNat_allOnes, BitVec.toNat_ofNat, Nat.min_eq_right (by omega), Nat.mod_eq_of_lt (by omega)]
  next h =>
    have hne : v.toNat ≠ 2 ^ n - 1 := fun hn => h (BitVec.eq_of_toNat_eq (hn.trans BitVec.toNat_allOnes.symm))
    rw [Nat.min_eq_left (by omega)]
    simp [BitVec.toNat_add]

theorem mainInterruption_begins {s : State} (h : s.m.pwr.supply = .on) : exec (.mainInterruption false) s
    = leaves s { s.m with pwr := { s.m.pwr with supply := .ride, rideAt := s.m.clk, mainOk := false } } := by
  refine congrArg (leaves s) ?_
  unfold mainInterruption
  rw [h]
  rfl

theorem mainInterruption_ends {s : State} (h : s.m.pwr.supply = .ride) : exec (.mainInterruption true) s
    = leaves s { s.m with pwr := { s.m.pwr with
      supply := .on, mainOk := true, dips := BitVec.ofNat 8 (min (s.m.pwr.dips.toNat + 1) 255) } } := by
  refine congrArg (leaves s) ?_
  unfold mainInterruption
  have hd : satInc s.m.pwr.dips = BitVec.ofNat 8 (min (s.m.pwr.dips.toNat + 1) 255) := satInc_eq_min _
  rw [h, ← hd]
  rfl

/-! ### The warning -/

/-- The supplies once the warning has come (R487). -/
def Power.warning (p : Power) : Power :=
  { p with supply := .fail, pfw := true, drainOpen := true, coreClk := if p.coreClk = 1#2 then 0#2 else p.coreClk }

/-- The module as the flash controller and the shells see the warning (R51, R487). -/
def Mach.warned (m : Mach) : Mach :=
  modPwr Power.warning (modMode (fun x => { x with pend := none, prevKept := (modeCode x.mode).setWidth 4 }) m)

section
variable (m : Mach)

@[simp] theorem Mach.warned_clk : m.warned.clk = m.clk := (modPwr_clk ..).trans (modMode_clk ..)

@[simp] theorem Mach.warned_pwr : m.warned.pwr = m.pwr.warning :=
  (modPwr_pwr ..).trans (congrArg Power.warning (modMode_pwr ..))

@[simp] theorem Mach.warned_mode :
    m.warned.mode = { m.mode with pend := none, prevKept := (modeCode m.mode.mode).setWidth 4 } :=
  (modPwr_mode ..).trans (modMode_mode ..)

@[simp] theorem Mach.warned_chans : m.warned.chans = m.chans := (modPwr_chans ..).trans (modMode_chans ..)

end

/-- The flash operation in progress is cut off and every output goes to its CH_SAFE action. -/
def Mach.cutOff (n : Nat) (sector : List Byte) (m : Mach) : Mach :=
  allChans.foldl (fun m c => shellHardpan c m) (flashCut n sector m)

theorem powerFailWarning_eq (n : Nat) (sector : List Byte) (m : Mach) :
    powerFailWarning n sector m = (advanceTo (m.pwr.rideAt + 15 * usClk 1000) m).warned.cutOff n sector := rfl

theorem failing_cutOff (n : Nat) (sector : List Byte) (m : Mach) : Failing m (m.cutOff n sector) :=
  (failing_flashCut n sector m).foldl (fun n c h => h.trans (failing_shellHardpan c n)) _

theorem flJob_cutOff (n : Nat) (sector : List Byte) (m : Mach) : (m.cutOff n sector).sec.flJob = none :=
  (foldl_keeps (fun m : Mach => m.sec.flJob) (fun n c => congrArg Sec.flJob (sec_shellHardpan c n)) ..).trans (flJob_flashCut ..)

theorem powerFailWarning_leaves (n : Nat) (sector : List Byte) (m : Mach) :
    (powerFailWarning n sector m).pwr = m.pwr.warning ∧
    (powerFailWarning n sector m).mode = { m.mode with pend := none, prevKept := (modeCode m.mode.mode).setWidth 4 } ∧
    m.pwr.rideAt + 1536000 ≤ (powerFailWarning n sector m).clk ∧
    (powerFailWarning n sector m).sec.flJob = none ∧
    ∀ c, isOutMode (m.chans.get c).mode = true → ((powerFailWarning n sector m).chans.get c).atSafe = true := by
  have ha := flows_advanceTo (m.pwr.rideAt + 15 * usClk 1000) m
  have hl := lasts_advanceTo (m.pwr.rideAt + 15 * usClk 1000) m
  have hc := clk_advanceTo (m.pwr.rideAt + 15 * usClk 1000) m
  rw [powerFailWarning_eq]
  generalize advanceTo (m.pwr.rideAt + 15 * usClk 1000) m = a at *
  have hs : Failing a.warned (a.warned.cutOff n sector) := failing_cutOff ..
  have hsafe : ∀ c, (a.warned.cutOff n sector).safeAt c := safeAt_shells _
  have hj : (a.warned.cutOff n sector).sec.flJob = none := flJob_cutOff ..
  generalize a.warned.cutOff n sector = t at *
  refine ⟨?_, ?_, ?_, hj, fun c hout => hsafe c ?_⟩
  · rw [hs.pwr, Mach.warned_pwr, ha.pwr]
  · rw [hs.mode (by rw [Mach.warned_pwr]; rfl), Mach.warned_mode, ha.mode]
  · have hus : 15 * usClk 1000 = 1536000 := by decide
    rw [hs.clk, Mach.warned_clk, hc, hus]
    exact Nat.le_max_right ..
  · rw [hs.modes, Mach.warned_chans, hl.modes]
    exact hout

theorem Sec.flJob_stopBurn (x : Sec) (fu : Fuses) : ({ x with fuse := fu, burn := none } : Sec).flJob = x.flJob := rfl

/-- The fuses stand where no burn was in progress (R402). -/
theorem exec_powerFailWarning {s : State} (h : s.m.pwr.supply = .ride) (hb : s.m.sec.burn = none) (done weak : BitVec 32) (n : Nat)
    (sector : List Byte) : exec (.powerFailWarning done weak n sector) s
      = leaves s (modSec (fun x => { x with fuse := s.fuses, burn := none }) (powerFailWarning n sector s.m)) := by
  have hf : burnCut done weak s.fuses s.m.sec = s.fuses := by rw [burnCut, hb]
  refine (if_pos h).trans ?_
  rw [hf]
  rfl

/-! ### The drain -/

theorem queue_queueFault {m : Mach} (h : m.faults.queue.length < 64) (code : BitVec 16) (arg : W64) (cont : List (BitVec 224)) :
    ∃ f, f.code = code ∧ (queueFault code arg cont m).faults.queue = m.faults.queue ++ [f] := by
  unfold queueFault
  rw [if_pos h]
  exact ⟨_, rfl, rfl⟩

theorem powerFailEntry_eq (m : Mach) : ∃ arg cont, powerFailEntry m = queueFault 0x0806 arg cont m := by
  unfold powerFailEntry
  extract_lets b arg cont
  have hr : reactionOf m 0x0806 arg ≠ .h := by simp [reactionOf, logOnly]
  exact ⟨arg, [cont], if_neg fun h => hr h.1⟩

theorem powerFailDrain_leaves {m : Mach} (hs : m.pwr.supply = .fail) (ho : m.pwr.drainOpen = true) (hq : m.faults.queue.length < 64)
    (hstuck : Stuck m) : ∃ f, (powerFailDrain m).pwr.drainOpen = false ∧ (∀ e, Discarded e m (powerFailDrain m)) ∧
      (powerFailDrain m).faults.queue = m.faults.queue ++ [f] ∧ f.code = 0x0806 ∧ (powerFailDrain m).mem = m.mem := by
  unfold powerFailDrain
  rw [if_pos ⟨hs, ho⟩]
  extract_lets n
  obtain ⟨hd, he⟩ : Discarding m n ∧ ∀ e, Discarded e m n := discardAll_stuck hstuck
  clear_value n
  obtain ⟨arg, cont, hentry⟩ := powerFailEntry_eq (modPwr (fun p => { p with drainOpen := false }) n)
  obtain ⟨f, hcode, hqueue⟩ := queue_queueFault (m := modPwr (fun p => { p with drainOpen := false }) n)
    (by rw [modPwr_faults, hd.faults]; exact hq) 0x0806 arg cont
  rw [hentry]
  refine ⟨f, ?_, fun e => (he e).of_tiles ?_, ?_, hcode, ?_⟩
  · rw [queueFault_pwr, modPwr_pwr]
  · rw [queueFault_tiles, modPwr_tiles]
  · rw [hqueue, modPwr_faults, hd.faults]
  · rw [queueFault_mem, modPwr_mem, hd.mem]

/-! ### DORMANT -/

theorem powerFailDrain_of_closed {m : Mach} (h : m.pwr.drainOpen = false) : powerFailDrain m = m := if_neg (by simp [h])

/-- What DORMANT keeps (R488, R489). -/
theorem dormantMach_keeps (fu : Fuses) (m : Mach) :
    (dormantMach fu m).mode.mode = .dormant ∧ (dormantMach fu m).pwr.supply = .off ∧
    (dormantMach fu m).mem = ⟨[], [], [], []⟩ ∧
    (dormantMach fu m).sec.flashA = m.sec.flashA ∧ (dormantMach fu m).faults.queue = [] ∧
    (m.bkp.cell = true → (dormantMach fu m).bkp.scr = m.bkp.scr ∧ (dormantMach fu m).mode.prevKept = m.mode.prevKept) ∧
    (m.bkp.cell = false → ∀ k, (dormantMach fu m).bkp.scr.get k = 0) := by
  unfold dormantMach
  cases hc : m.bkp.cell
  · exact ⟨rfl, rfl, rfl, rfl, rfl, fun h => absurd h (by decide), fun _ k => Vector.getElem_replicate ..⟩
  · exact ⟨rfl, rfl, rfl, rfl, rfl, fun _ => ⟨rfl, rfl⟩, fun h => absurd h (by decide)⟩

section
variable (m : Mach)

@[simp] theorem flushFaults_bkp : (flushFaults m).bkp = m.bkp := by
  unfold flushFaults
  rfl

@[simp] theorem flushFaults_mode : (flushFaults m).mode = m.mode := by
  unfold flushFaults
  rfl

@[simp] theorem flushFaults_sec : (flushFaults m).sec = m.sec := by
  unfold flushFaults
  rfl

end

theorem sequenceEnd_of_closed {m : Mach} (hs : m.pwr.supply = .fail) (ho : m.pwr.drainOpen = false) (fu : Fuses) :
    sequenceEnd fu m = dormantMach fu (flushFaults (advanceTo (m.clk + 5 * usClk 1000) m)) := by
  rw [sequenceEnd, if_pos hs, powerFailDrain_of_closed ho]

/-- What the end of the sequence keeps, once the drain is over. -/
theorem sequenceEnd_keeps {m : Mach} (hs : m.pwr.supply = .fail) (ho : m.pwr.drainOpen = false) (fu : Fuses) :
    (sequenceEnd fu m).mode.mode = .dormant ∧ (sequenceEnd fu m).pwr.supply = .off ∧
    (sequenceEnd fu m).mem = ⟨[], [], [], []⟩ ∧
    (sequenceEnd fu m).sec.flashA = m.sec.flashA ∧ (sequenceEnd fu m).faults.queue = [] ∧
    (m.bkp.cell = true → (sequenceEnd fu m).bkp.scr = m.bkp.scr ∧ (sequenceEnd fu m).mode.prevKept = m.mode.prevKept) ∧
    (m.bkp.cell = false → ∀ k, (sequenceEnd fu m).bkp.scr.get k = 0) := by
  have ha := flows_advanceTo (m.clk + 5 * usClk 1000) m
  have hl := lasts_advanceTo (m.clk + 5 * usClk 1000) m
  rw [sequenceEnd_of_closed hs ho]
  generalize advanceTo (m.clk + 5 * usClk 1000) m = a at *
  obtain ⟨hmode, hoff, hmem, hflash, hq, hcell, hnone⟩ := dormantMach_keeps fu (flushFaults a)
  rw [flushFaults_bkp, hl.cell, hl.scr, flushFaults_mode, ha.mode] at hcell
  rw [flushFaults_bkp, hl.cell] at hnone
  rw [flushFaults_sec, hl.sec] at hflash
  exact ⟨hmode, hoff, hmem, hflash, hq, hcell, hnone⟩

theorem exec_powerFailDrainExpire (s : State) : exec .powerFailDrainExpire s = leaves s (powerFailDrain s.m) := rfl

theorem exec_powerFailSequenceEnd (s : State) : exec .powerFailSequenceEnd s = leaves s (sequenceEnd s.fuses s.m) := rfl

/-- Settles O31: the warning by what its cut of the flash and the shells leave (`Failing`), the drain by what each engine's
discard does (`Discarding`), and DORMANT by what time (`Flows`, `Lasts`) and the end of the sequence leave. -/
theorem mainIsLost : Obligations.MainIsLost := by
  unfold Obligations.MainIsLost
  intro s p
  refine ⟨mainInterruption_begins, mainInterruption_ends, fun done weak n l hs hb => ?_, fun hs ho hq hh => ?_, fun hs ho => ?_⟩
  · obtain ⟨hp, hm, hc, hj, ho⟩ := powerFailWarning_leaves n l s.m
    refine ⟨_, exec_powerFailWarning hs hb done weak n l, ?_⟩
    rw [modSec_pwr, modSec_mode, modSec_clk, modSec_chans, modSec_sec, hp, hm]
    exact ⟨rfl, rfl, rfl, rfl, rfl, rfl, hc, (Sec.flJob_stopBurn ..).trans hj, ho⟩
  · obtain ⟨f, hd, he, hf, hcode, hmem⟩ := powerFailDrain_leaves hs ho hq hh
    exact ⟨_, f, exec_powerFailDrainExpire s, hd, he, hf, hcode, hmem⟩
  · obtain ⟨hmode, hoff, hmem, hflash, hq, hcell, hnone⟩ := sequenceEnd_keeps hs ho s.fuses
    exact ⟨_, exec_powerFailSequenceEnd s, hmode, hoff, hmem, rfl, hflash, hq, hcell, hnone⟩

end Sys2Proof.Machine
end

section
/-! PROOFS. Instructions with a value operand (R83): loads into A (O1) and the issue of long operations (O5). -/

namespace Sys2Proof.Machine

open Sys2Proof

set_option Elab.async false -- one proof at a time: the threads of many at once exceed the memory of a check

/-- The low bits of a word, widened without a sign. -/
theorem setWidth_fld_zero (v : W64) (n : Nat) : (fld v 0 n).setWidth 64 = BitVec.ofNat 64 (v.toNat % 2 ^ n) := by
  rw [fld_zero]
  apply BitVec.eq_of_toNat_eq
  simp

/-- The low bits of a word, widened with their sign. -/
theorem sext_fld_zero (v : W64) (n : Nat) : sext 64 (fld v 0 n) = (v.setWidth n).signExtend 64 := by
  rw [fld_zero]; rfl

/-- Settles O1: each load is an instruction with a value operand (`instrV_ready`); what it leaves pending is the low part of
the operand, widened. -/
theorem valueLoads : Obligations.ValueLoads := by
  unfold Obligations.ValueLoads
  intro s e a mode opnd v step h hc b pend
  have go (k : LdOp) (n : Bool) (hk : k.plainValue = true) (hv : valueIs s.m e a k mode opnd v step) :
      .next { s with m := instrV k e mode opnd n s.m } = takesOn s e a mode opnd (step (valueEffect k v b)) :=
    instrV_ready h k mode opnd n v step hk hc hv
  refine ⟨go .lda false rfl, fun hv => ?_, fun hv => ?_, fun hv => ?_, fun hv => ?_, fun hv => ?_, fun hv => ?_,
    go .lde false rfl, go .ldrc true rfl⟩
  · exact (go .ldaw false rfl hv).trans (by rw [valueEffect, setWidth_fld_zero]; rfl)
  · exact (go .ldaws false rfl hv).trans (by rw [valueEffect, sext_fld_zero]; rfl)
  · exact (go .ldah false rfl hv).trans (by rw [valueEffect, setWidth_fld_zero]; rfl)
  · exact (go .ldahs false rfl hv).trans (by rw [valueEffect, sext_fld_zero]; rfl)
  · exact (go .ldab false rfl hv).trans (by rw [valueEffect, setWidth_fld_zero]; rfl)
  · exact (go .ldabs false rfl hv).trans (by rw [valueEffect, sext_fld_zero]; rfl)

end Sys2Proof.Machine
end

section
/-! PROOFS. Long operations (R73, R74, R93, R94): their issue, their results, and the write of a loaded value (O5). -/

namespace Sys2Proof.Machine

open Sys2Proof

set_option Elab.async false -- one proof at a time: the threads of many at once exceed the memory of a check

/-! ### Issue -/

theorem a_beginArch (a : Arch) : (beginArch a).a = a.a := by
  unfold beginArch countDist; split <;> rfl

theorem f_beginArch (a : Arch) : (beginArch a).f = a.f := by
  unfold beginArch countDist; split <;> rfl

/-- What an issue leaves in flight, from the registers as the instruction finds them. -/
theorem issue_beginArch (opc : BitVec 8) (dist : BitVec 5) (fp : Bool) (v : W64) (a : Arch) :
    issue opc dist fp v (beginArch a) = { beginArch a with
      lop := opc, lopa := a.a, lopb := v, ldist := dist, lrm := if fp then fld a.f 7 2 else 0#2 } := by
  simp only [issue, a_beginArch, f_beginArch, fRM]

/-- A long operation on A alone is issued on a ready engine. -/
theorem instrA_issue {s : State} {e : BitVec 7} {a : Arch} (h : Ready s.m e a) (opc : BitVec 8) (dist : BitVec 5) :
    .next { s with m := instrA (plain .n) e 0 0 (issue opc dist true 0) s.m }
      = goesOn s e a { beginArch a with lop := opc, lopa := a.a, lopb := 0, ldist := dist, lrm := fld a.f 7 2 } := by
  rw [instrA_ready h (plain .n) _ _ _ (decodeCheck_outside .n false _ _ _ (by decide) h.outside), issue_beginArch]
  rfl

/-! ### Results -/

/-- A result goes to M, E and F, never to A or PCC. -/
theorem longResult_keeps (a : Arch) : (longResult a).a = a.a ∧ (longResult a).pcc = a.pcc := by
  unfold longResult setEM setMF
  dsimp only
  repeat' split
  all_goals exact ⟨rfl, rfl⟩

/-- A 128-bit result in M and E, by its two halves. -/
theorem setEM_halves (p : BitVec 128) (a : Arch) :
    (setEM p a).m = p.setWidth 64 ∧ (setEM p a).e = (p >>> 64).setWidth 64 :=
  ⟨fld_zero p 64, fld_eq p 64 64⟩

/-- E:M as a number. -/
theorem append_em (a : Arch) : a.e ++ a.m = BitVec.ofNat 128 (a.e.toNat * 2 ^ 64 + a.m.toNat) := by
  apply BitVec.eq_of_toNat_eq
  rw [BitVec.toNat_append, ← Nat.shiftLeft_add_eq_or_of_lt a.m.isLt, Nat.shiftLeft_eq, BitVec.toNat_ofNat]
  omega

theorem em_add_mulS (a : Arch) (x y : W64) :
    (a.e ++ a.m) + mulS x y = BitVec.ofInt 128 ((a.e.toNat * 2 ^ 64 + a.m.toNat : Nat) + x.toInt * y.toInt) := by
  rw [append_em, mulS, BitVec.ofInt_add, BitVec.ofInt_natCast]

theorem em_add_mulU (a : Arch) (x y : W64) :
    (a.e ++ a.m) + mulU x y = BitVec.ofNat 128 (a.e.toNat * 2 ^ 64 + a.m.toNat + x.toNat * y.toNat) := by
  rw [append_em, mulU, ← BitVec.ofNat_add]

/-- A long operation whose distance is reached is over, with its result. -/
theorem longDue_reached {x : Replica} (hop : x.arch.lop ≠ 0#8) (hd : x.arch.ldist.toNat ≤ 1) :
    longDue x = { x with arch := { longResult x.arch with lop := 0#8, lopa := 0#64, lopb := 0#64, ldist := 0#5, lrm := 0#2 } } := by
  rw [longDue, if_pos ⟨hop, hd⟩, completeLong, if_neg hop]

theorem ofNat_div (a b : W64) : BitVec.ofNat 64 (a.toNat / b.toNat) = a / b := by
  apply BitVec.eq_of_toNat_eq
  rw [BitVec.toNat_ofNat, BitVec.toNat_udiv, Nat.mod_eq_of_lt ((Nat.div_le_self ..).trans_lt a.isLt)]

theorem ofNat_mod (a b : W64) : BitVec.ofNat 64 (a.toNat % b.toNat) = a % b := by
  apply BitVec.eq_of_toNat_eq
  rw [BitVec.toNat_ofNat, BitVec.toNat_umod, Nat.mod_eq_of_lt ((Nat.mod_le ..).trans_lt a.isLt)]

/-- The products and their sums with E:M. -/
theorem longResult_mul (a : Arch) :
    (a.lop = 0x40#8 → longResult a = setEM (BitVec.ofInt 128 (a.lopa.toInt * a.lopb.toInt)) a) ∧
    (a.lop = 0x41#8 → longResult a = setEM (BitVec.ofNat 128 (a.lopa.toNat * a.lopb.toNat)) a) ∧
    (a.lop = 0x42#8 → longResult a
      = setEM (BitVec.ofInt 128 ((a.e.toNat * 2 ^ 64 + a.m.toNat : Nat) + a.lopa.toInt * a.lopb.toInt)) a) ∧
    (a.lop = 0x43#8 → longResult a
      = setEM (BitVec.ofNat 128 (a.e.toNat * 2 ^ 64 + a.m.toNat + a.lopa.toNat * a.lopb.toNat)) a) := by
  refine ⟨fun h => ?_, fun h => ?_, fun h => ?_, fun h => ?_⟩
  · simp [longResult, h, mulS]
  · simp [longResult, h, mulU]
  · simp only [longResult, h, em_add_mulS]; rfl
  · simp only [longResult, h, em_add_mulU]; rfl

/-- The quotients and remainders by a divisor that is not 0. -/
theorem longResult_div (a : Arch) (hb : a.lopb ≠ 0#64) :
    (a.lop = 0x44#8 → longResult a = { a with
      m := BitVec.ofInt 64 (a.lopa.toInt.tdiv a.lopb.toInt), e := BitVec.ofInt 64 (a.lopa.toInt.tmod a.lopb.toInt) }) ∧
    (a.lop = 0x45#8 → longResult a = { a with
      m := BitVec.ofNat 64 (a.lopa.toNat / a.lopb.toNat), e := BitVec.ofNat 64 (a.lopa.toNat % a.lopb.toNat) }) ∧
    (a.lop = 0x47#8 → longResult a = { a with m := BitVec.ofNat 64 (a.lopa.toNat % a.lopb.toNat) }) := by
  refine ⟨fun h => ?_, fun h => ?_, fun h => ?_⟩
  · simp [longResult, h, hb]
  · simp [longResult, h, hb, ofNat_div, ofNat_mod]
  · simp [longResult, h, hb, ofNat_mod]

/-- Division by zero (R93). -/
theorem longResult_div_zero (a : Arch) (hb : a.lopb = 0#64) (h : a.lop = 0x44#8 ∨ a.lop = 0x45#8) :
    longResult a = { a with m := 0#64, e := a.lopa, f := a.f ||| 1#64 <<< 12 } := by
  rcases h with h | h <;> simp [longResult, h, hb, stick, fDZ, put]

/-- Settles O5: the issue by `instrV_ready` and `instrA_issue`; the results by what `longResult` gives for each opcode, on a
lane whose distance is reached (`longDue_reached`). -/
theorem longOperationsAndLoadDelay : Obligations.LongOperationsAndLoadDelay := by
  unfold Obligations.LongOperationsAndLoadDelay
  refine ⟨?_, ?_⟩
  · intro s e a mode opnd v step h hc hv fly int fp one
    have go (k : LdOp) (opc : BitVec 8) (dist : BitVec 5) (b : Bool) (hk : k.plainValue = true)
        (hi : valueEffect k v (beginArch a) = issue opc dist b v (beginArch a)) (hv : valueIs s.m e a k mode opnd v step) :
        .next { s with m := instrV k e mode opnd false s.m }
          = takesOn s e a mode opnd (step (fly opc dist (if b then fld a.f 7 2 else 0#2) v)) := by
      rw [instrV_ready h k mode opnd false v step hk hc hv, hi, issue_beginArch]
    exact ⟨go .mul 0x40 4 false rfl rfl hv, go .mulu 0x41 4 false rfl rfl hv, go .mac 0x42 4 false rfl rfl hv,
      go .macu 0x43 4 false rfl rfl hv, go .div 0x44 20 false rfl rfl hv, go .divu 0x45 20 false rfl rfl hv,
      go .rem 0x46 20 false rfl rfl hv, go .remu 0x47 20 false rfl rfl hv, go .fadd 0x50 6 true rfl rfl hv,
      go .fsub 0x51 6 true rfl rfl hv, go .fmul 0x52 6 true rfl rfl hv, go .fdiv 0x53 24 true rfl rfl hv,
      instrA_issue h 0x54 28, instrA_issue h 0x55 6, instrA_issue h 0x56 6, instrA_issue h 0x57 6, instrA_issue h 0x58 6⟩
  · intro s e r hr x
    have hy (f : Replica → Replica) : rep (mapLanes e f s.m) (tileOf e) r = f x := (rep_mapLanes e f s.m r).trans (if_pos hr)
    refine ⟨fun hop hd => ⟨_, rfl, ?_⟩, fun v hv => ⟨_, rfl, (hy loadDue).trans ?_⟩⟩
    case refine_2 => simp only [loadDue, hv]
    obtain ⟨hA, hpcc⟩ := longResult_keeps x.arch
    obtain ⟨hmul, hmulu, hmac, hmacu⟩ := longResult_mul x.arch
    dsimp only
    rw [hy, longDue_reached hop hd]
    refine ⟨rfl, hA, hpcc, rfl, fun h => ?_, fun h => ?_, fun h => ?_, fun h => ?_,
      fun h hb => ?_, fun h hb => ?_, fun h hb => ?_, fun h hb => ?_⟩
    · rw [hmul h]; exact setEM_halves _ x.arch
    · rw [hmulu h]; exact setEM_halves _ x.arch
    · rw [hmac h]; exact setEM_halves _ x.arch
    · rw [hmacu h]; exact setEM_halves _ x.arch
    · rw [(longResult_div x.arch hb).1 h]; exact ⟨rfl, rfl, rfl⟩
    · rw [(longResult_div x.arch hb).2.1 h]; exact ⟨rfl, rfl, rfl⟩
    · rw [longResult_div_zero x.arch hb h]; exact ⟨rfl, rfl, rfl⟩
    · rw [(longResult_div x.arch hb).2.2 h]; exact ⟨rfl, rfl⟩

end Sys2Proof.Machine
end

section
/-! PROOFS. The bytes of a granule that a store names (R66, R115). -/

namespace Sys2Proof.Machine

open Sys2Proof

set_option Elab.async false -- one proof at a time: the threads of many at once exceed the memory of a check

/-- The bits that a byte mask opens in a granule, of its first `n` bytes. -/
theorem getLsbD_wide (mask : BitVec 16) (n k : Nat) (hk : k < 128) :
    ((range 0 n).foldl (fun acc i => if bit mask i then acc ||| ((0xFF#128) <<< (8 * i)) else acc) 0#128).getLsbD k
      = (decide (k / 8 < n) && mask.getLsbD (k / 8)) := by
  induction n with
  | zero => simp [range]
  | succ n ih =>
    have hff : (0xFF#128).getLsbD (k - 8 * n) = decide (k - 8 * n < 8) := by
      rw [show (0xFF#128) = (BitVec.allOnes 8).setWidth 128 from rfl, BitVec.getLsbD_setWidth, BitVec.getLsbD_allOnes]
      simp only [Bool.and_eq_right_iff_imp, decide_eq_true_eq]
      omega
    have hr : range 0 (n + 1) = range 0 n ++ [n] := by simp [range_eq, List.range_succ]
    rw [hr, List.foldl_append, List.foldl_cons, List.foldl_nil]
    have h8 : (8 * n ≤ k ∧ k - 8 * n < 8) ↔ k / 8 = n := by omega
    have hb : ((0xFF#128) <<< (8 * n)).getLsbD k = decide (k / 8 = n) := by
      rw [BitVec.getLsbD_shiftLeft, hff]
      simp only [hk, decide_true, Bool.true_and, ← Bool.decide_and, ← decide_not, decide_eq_decide]
      omega
    have hlt : (k / 8 < n + 1) ↔ k / 8 < n ∨ k / 8 = n := by omega
    by_cases hn : k / 8 = n
    · have hm : bit mask n = mask.getLsbD (k / 8) := by rw [hn]; rfl
      split
      · next h => rw [BitVec.getLsbD_or, hb, ← hm, h]; simp [hn]
      · next h => rw [ih, ← hm]; simp [h]
    · split <;> simp only [BitVec.getLsbD_or, ih, hb, hlt, hn, decide_false, or_false, Bool.or_false]

theorem getLsbD_byteOf {n : Nat} (v : BitVec n) (i j : Nat) (hj : j < 8) : (byteOf v i).getLsbD j = v.getLsbD (8 * i + j) := by
  simp [byteOf, hj]

/-- A merge takes the bytes that its mask names from the new granule and the others from the old one. -/
theorem byteOf_mergeBytes (old new : Gran) (mask : BitVec 16) {i : Nat} (hi : i < 16) :
    byteOf (mergeBytes old new mask) i = if mask.getLsbD i then byteOf new i else byteOf old i := by
  apply BitVec.eq_of_getLsbD_eq
  intro j hj
  have hk : 8 * i + j < 128 := by omega
  have hd : (8 * i + j) / 8 = i := by omega
  rw [getLsbD_byteOf _ _ _ hj, mergeBytes]
  simp only [BitVec.getLsbD_or, BitVec.getLsbD_and, BitVec.getLsbD_not, getLsbD_wide mask 16 _ hk, hd, hi, hk, decide_true,
    Bool.true_and]
  cases mask.getLsbD i <;> simp only [getLsbD_byteOf _ _ _ hj, Bool.not_true, Bool.not_false, Bool.and_true, Bool.and_false,
    Bool.or_false, Bool.false_or, if_true, if_false, Bool.false_eq_true]

/-- A word moved up by whole bytes. -/
theorem byteOf_shiftLeft (v : Gran) {o i : Nat} (h : o + i < 16) : byteOf (v <<< (8 * o)) (o + i) = byteOf v i := by
  apply BitVec.eq_of_getLsbD_eq
  intro j hj
  have h1 : 8 * (o + i) + j < 128 := by omega
  have h2 : ¬ 8 * (o + i) + j < 8 * o := by omega
  have h3 : 8 * (o + i) + j - 8 * o = 8 * i + j := by omega
  simp only [getLsbD_byteOf _ _ _ hj, BitVec.getLsbD_shiftLeft, h1, h2, h3, decide_true, decide_false, Bool.not_false,
    Bool.true_and]

/-- The mask of `size` bytes from byte `o` of a granule. -/
theorem getLsbD_placeMask (size o : Nat) {i : Nat} (hi : i < 16) :
    (BitVec.ofNat 16 ((2 ^ size - 1) * 2 ^ o)).getLsbD i = true ↔ o ≤ i ∧ i < o + size := by
  rw [BitVec.getLsbD_ofNat, ← Nat.shiftLeft_eq]
  simp [hi, Nat.testBit_shiftLeft, Nat.testBit_two_pow_sub_one]
  omega

/-- The granule of an address. -/
theorem toNat_alignG (a : Addr) : (alignG a).toNat = 16 * (a.toNat / 16) := by
  have hf : ∀ i, (0xF#36).getLsbD i = decide (i < 4) := fun i => by
    rw [show (0xF#36) = (BitVec.allOnes 4).setWidth 36 from rfl, BitVec.getLsbD_setWidth, BitVec.getLsbD_allOnes]
    simp only [Bool.and_eq_right_iff_imp, decide_eq_true_eq]
    omega
  apply Nat.eq_of_testBit_eq
  intro i
  rw [show (16 : Nat) = 2 ^ 4 from rfl, Nat.testBit_two_pow_mul, Nat.testBit_div_two_pow, ← BitVec.getLsbD, ← BitVec.getLsbD,
    alignG, BitVec.getLsbD_and, BitVec.getLsbD_not, hf]
  by_cases h4 : i < 4
  · simp [h4]
  · have h36 := @BitVec.lt_of_getLsbD 36 a i
    rw [Nat.sub_add_cancel (by omega : 4 ≤ i)]
    cases h : a.getLsbD i <;> simp_all

/-- The entry of a store that lies within a granule, whose low bytes are those of `v`. -/
theorem storedAs_entry (m : Mach) (e : BitVec 7) (a : Arch) (x : Addr) (size : Nat) (v w : Gran) (cap tag : Bool)
    (hfit : x.toNat % 16 + size ≤ 16) (hv : ∀ i, i < size → byteOf w i = byteOf v i) :
    storedAs ((⟨x, size, w, cap, tag⟩ : StReq).entry a m.tick.count (runPos m e)) m e a x size v cap tag := by
  refine ⟨toNat_alignG x, fun i hi => getLsbD_placeMask _ _ hi, fun i hi => ?_, rfl, rfl, rfl, rfl, rfl, rfl, rfl, rfl, rfl, rfl⟩
  have hlt : x.toNat % 16 + i < 16 := by omega
  have hm : (BitVec.ofNat 16 ((2 ^ size - 1) * 2 ^ (x.toNat % 16))).getLsbD (x.toNat % 16 + i) = true :=
    (getLsbD_placeMask _ _ hlt).mpr (by omega)
  simp only [StReq.entry, StReq.place]
  rw [byteOf_mergeBytes _ _ _ hlt, hm, if_pos rfl, byteOf_shiftLeft _ hlt, hv i hi]

end Sys2Proof.Machine
end

section
/-! PROOFS. A store enters the store buffer of every lane (O7, R66, R115). -/

namespace Sys2Proof.Machine

open Sys2Proof

set_option Elab.async false -- one proof at a time: the threads of many at once exceed the memory of a check

/-! ### The registers that a store takes its value from -/

theorem e_beginArch (a : Arch) : (beginArch a).e = a.e := by unfold beginArch countDist; split <;> rfl

theorem x_beginArch (a : Arch) : (beginArch a).x = a.x := by unfold beginArch countDist; split <;> rfl

theorem y_beginArch (a : Arch) : (beginArch a).y = a.y := by unfold beginArch countDist; split <;> rfl

theorem d_beginArch (a : Arch) : (beginArch a).d = a.d := by unfold beginArch countDist; split <;> rfl

theorem s_beginArch (a : Arch) : (beginArch a).s = a.s := by unfold beginArch countDist; split <;> rfl

theorem put_zero (v : W64) : put 128 v 0 = v.setWidth 128 := by rw [put, BitVec.shiftLeft_zero]

/-- The bytes of the low part of a word are those of the word. -/
theorem byteOf_put_fld (v : W64) {len i : Nat} (h : 8 * i + 8 ≤ len) : byteOf (put 128 (fld v 0 len) 0) i = byteOf (v.setWidth 128) i := by
  apply BitVec.eq_of_getLsbD_eq
  intro j hj
  have hl : 8 * i + j < len := by omega
  simp only [getLsbD_byteOf _ _ _ hj, put, BitVec.shiftLeft_zero, fld_zero, BitVec.getLsbD_setWidth, hl, decide_true,
    Bool.true_and]

/-! ### The store -/

theorem ite_some_ne_none {α : Type} {c : Prop} [Decidable c] {x : α} {r : Option α} (h : r ≠ none) :
    (if c then some x else r) ≠ none := by
  split
  · exact nofun
  · exact h

/-- An access of R120 is aligned: one of 1, 2, 4, 8 or 16 bytes lies within a granule. -/
theorem checkOp_fits {c : Ctx} {a : Arch} {o : MemOp} {size : Nat} {w cap : Bool} (h : checkOp c a o ⟨size, size, w, cap⟩ = none)
    (hs : size ∣ 16) : o.addr.toNat % 16 + size ≤ 16 := by
  have hal : o.addr.toNat % size = 0 := by
    by_contra hne
    refine absurd h ?_
    unfold checkOp checkAccess
    iterate 11 refine ite_some_ne_none ?_
    rw [if_pos hne]
    exact nofun
  have hlt : o.addr.toNat % 16 < 16 := Nat.mod_lt _ (by decide)
  have hd : size ∣ o.addr.toNat % 16 := Nat.dvd_of_mod_eq_zero ((Nat.mod_mod_of_dvd _ hs).trans hal)
  have hle : size ≤ 16 - o.addr.toNat % 16 := Nat.le_of_dvd (by omega) (Nat.dvd_sub hs hd)
  omega

/-- AN INSTRUCTION THAT IS ONE CHECKED STORE, on a ready engine: its entry stands in the buffers, with the bytes of `v`. -/
theorem instrE_store {s : State} {e : BitVec 7} {a : Arch} (h : Ready s.m e a) {sp : InstrSpec} {mode : BitVec 4}
    {opnd : BitVec 20} {F : Ctx → Arch → Except Exc Fx} {o : MemOp} {size : Nat} {v w : Gran} {cap tag : Bool} {b : Arch}
    (hd : decodeCheck sp mode opnd a = none)
    (hF : F ⟨s.m, e, []⟩ (beginArch a) = guardE (checkOp ⟨s.m, e, []⟩ (beginArch a) o ⟨size, size, true, cap⟩)
      (.ok (storeFx ⟨s.m, e, []⟩ ⟨o.addr, size, w, cap, tag⟩ b)))
    (hall : storeAllowed s.m e a o size cap) (hs : size ∣ 16) (hv : ∀ i, i < size → byteOf w i = byteOf v i) :
    ∃ y, .next { s with m := instrE sp e mode opnd F s.m } = stores s e a b y ∧ storedAs y s.m e a o.addr size v cap tag := by
  obtain ⟨hck, hspan⟩ := hall
  refine ⟨_, ?_, storedAs_entry s.m e a o.addr size v w cap tag (checkOp_fits hck hs) hv⟩
  unfold instrE stores
  rw [instr_store h sp mode opnd .nothing _ ⟨o.addr, size, w, cap, tag⟩ hd (b := b)]
  rw [hF, checkOp_beginArch, hck]
  simp only [guardE, storeFx, hspan, toOut, Bool.false_eq_true, if_false]

/-- PUSHC of a register that exists passes its decode checks (R86, R112). -/
theorem decodeCheck_pushc {k : BitVec 4} {a : Arch} (hk : k.toNat ≤ 6) :
    decodeCheck ⟨.i, false, fun o => (rawZero 0 16 o).or (if 6 < (cDst o).toNat then some (excIllegal 0x06) else none), 3⟩
      0 (k ++ 0#16) a = none := by
  have hraw : ∀ k : BitVec 4, k.toNat ≤ 6 →
      rawZero 0 16 (k ++ 0#16) = none ∧ (cDst (k ++ 0#16)).toNat ≤ 6 := by decide
  have hr : ¬ 3 < a.ring.toNat := by have := a.ring.isLt; omega
  simp [decodeCheck, hraw k hk, hr, classCheck]

/-- Settles O7: each row is one checked store (`instrE_store`), through its memory operand or below S. -/
theorem storesEnterTheBuffer : Obligations.StoresEnterTheBuffer := by
  unfold Obligations.StoresEnterTheBuffer
  intro s e a mode opnd h o b goes n8 n16
  have go (i : Instr) (size : Nat) (v : Gran) (cap tag : Bool) (w : Arch → Gran) (g : Arch → Bool)
      (hi : exec i s = .next { s with m := (instrE (plain .m) e mode opnd fun c a => storeSem size (w a) cap (g a) mode opnd c a) s.m })
      (hs : size ∣ 16) (hv : ∀ i, i < size → byteOf (w (beginArch a)) i = byteOf v i) (hg : g (beginArch a) = tag) :
      goes i size v cap tag := fun hc hall => by
    rw [hi, ← hg]
    exact instrE_store h (decodeCheck_outside .m false mode opnd a hc h.outside)
      (by simp only [storeSem, memOp_beginArch]; rfl) hall hs hv
  have whole {w v : Gran} (n : Nat) (h : w = v) : ∀ i, i < n → byteOf w i = byteOf v i := fun _ _ => by rw [h]
  have low {n : Nat} (k : Nat) (h : 8 * n ≤ k) : ∀ i, i < n →
      byteOf (put 128 (fld (beginArch a).a 0 k) 0) i = byteOf (a.a.setWidth 128) i := fun i hi => by
    rw [a_beginArch, byteOf_put_fld _ (by omega)]
  refine ⟨?_, ?_, ?_, ?_, ?_, ?_, ?_, ?_, ?_, ?_, fun hall => ?_, fun k hk hall => ?_⟩
  · exact go _ 8 _ false false (fun a => put 128 a.a 0) (fun _ => false) rfl (by decide) (whole 8 (by rw [put_zero, a_beginArch])) rfl
  · exact go _ 4 _ false false (fun a => put 128 (fld a.a 0 32) 0) (fun _ => false) rfl (by decide) (low 32 (by decide)) rfl
  · exact go _ 2 _ false false (fun a => put 128 (fld a.a 0 16) 0) (fun _ => false) rfl (by decide) (low 16 (by decide)) rfl
  · exact go _ 1 _ false false (fun a => put 128 (fld a.a 0 8) 0) (fun _ => false) rfl (by decide) (low 8 (by decide)) rfl
  · exact go _ 8 _ false false (fun a => put 128 a.e 0) (fun _ => false) rfl (by decide) (whole 8 (by rw [put_zero, e_beginArch])) rfl
  · exact go _ 8 _ false false (fun _ => 0#128) (fun _ => false) rfl (by decide) (whole 8 rfl) rfl
  · exact go _ 16 _ true _ (fun a => a.x.bits) (fun a => a.x.tag) rfl (by decide) (whole 16 (by rw [x_beginArch])) (by rw [x_beginArch])
  · exact go _ 16 _ true _ (fun a => a.y.bits) (fun a => a.y.tag) rfl (by decide) (whole 16 (by rw [y_beginArch])) (by rw [y_beginArch])
  · exact go _ 16 _ true _ (fun a => a.d.bits) (fun a => a.d.tag) rfl (by decide) (whole 16 (by rw [d_beginArch])) (by rw [d_beginArch])
  · exact go _ 16 _ true _ (fun a => a.s.bits) (fun a => a.s.tag) rfl (by decide) (whole 16 (by rw [s_beginArch])) (by rw [s_beginArch])
  · exact instrE_store h (o := n8) (w := put 128 (beginArch a).a 0) (decodeCheck_outside .n false 0 0 a (by decide) h.outside)
      (by simp only [pushSem, s_beginArch]; rfl) hall (by decide) (whole 8 (by rw [put_zero, a_beginArch]))
  · have hc : cDst (k ++ 0#16) = k := by
      revert k; decide
    exact instrE_store h (o := n16) (decodeCheck_pushc hk)
      (by simp only [pushSem, s_beginArch, hc]; rfl) hall (by decide) (whole 16 rfl)

end Sys2Proof.Machine
end

section
/-! PROOFS. Waits, invalidations, and a breakpoint that a session claims (O19, R63, R179, R265, R474). -/

namespace Sys2Proof.Machine

open Sys2Proof

set_option Elab.async false -- one proof at a time: the threads of many at once exceed the memory of a check

/-! ### The engines of a tile -/

/-- No replica serves two engines (R10, R183). -/
theorem lanesOf_disjoint {m : Mach} {e x : BitVec 7} {r : BitVec 2} (hne : x ≠ e) (ht : tileOf x = tileOf e)
    (hr : r ∈ lanesOf m e) : r ∉ lanesOf m x := by
  have hp : posOf x ≠ posOf e := fun hp => hne (by
    have hs : ∀ y : BitVec 7, y = tileOf y ++ posOf y := by decide
    rw [hs x, hs e, ht, hp])
  have hplain : ∀ (c : BitVec 3) (p q : BitVec 2), isVoted c = false → p ≠ q → ∀ r,
      r ∈ (if isPair c q then [q, q + 1#2] else if validPos c q then [q] else []) →
        r ∉ (if isPair c p then [p, p + 1#2] else if validPos c p then [p] else []) := by decide
  unfold lanesOf at hr ⊢
  rw [ht]
  dsimp only at hr ⊢
  generalize (m.tiles.get (tileOf e)).live = c at *
  cases hv : isVoted c with
  | false => rw [hv] at hr; exact hplain c _ _ hv hp r hr
  | true =>
    rw [hv, if_pos rfl] at hr
    rw [if_pos rfl]
    split at hr
    · next he => rw [if_neg (fun hx => hp (hx.trans he.symm))]; exact List.not_mem_nil
    · exact absurd hr List.not_mem_nil

/-- A replica that serves engine `e` is not touched by a change of another engine's lanes. -/
theorem rep_mapLanes_other {m : Mach} {e x : BitVec 7} {r : BitVec 2} (f : Replica → Replica) (hne : x ≠ e)
    (hr : r ∈ lanesOf m e) : rep (mapLanes x f m) (tileOf e) r = rep m (tileOf e) r := by
  rw [rep_mapLanes_any, if_neg]
  rintro ⟨ht, hx⟩
  exact lanesOf_disjoint hne ht.symm hr hx

/-! ### What a ready engine leaves beside its lanes -/

section
variable (m : Mach) (e : BitVec 7) (b : Arch) (d : Option W64) (j : Bool) (sb : List SbEntry)

theorem mem_retired : (m.retired e b d j sb).mem = m.mem := by
  rw [(retired_refilled m e b d j sb).rest]
  simp only [Mach.counted, modEng_mem, Mach.lanesAfter, mapLanes_mem]

theorem dbg_retired : (m.retired e b d j sb).dbg = m.dbg := by
  rw [(retired_refilled m e b d j sb).rest]
  simp only [Mach.counted, modEng_dbg, lanesAfter_dbg]

/-- The engine runs a slot, or as the keeper, after an instruction as before it; it is halted if it was. -/
theorem engine_retired :
    let g := (m.retired e b d j sb).engines.get e
    g.cur.isNone = (m.engines.get e).cur.isNone ∧ g.keeper = (m.engines.get e).keeper ∧ g.halted = (m.engines.get e).halted := by
  dsimp only
  rw [(retired_refilled m e b d j sb).engines]
  simp [Mach.counted]

/-- No store waits in a buffer after an instruction that stores nothing, if none did before. -/
theorem emptied_retired {m : Mach} (h : m.emptied) : (m.retired e b d j []).emptied := by
  have h0 : Steady m.tick.core m.clk m := ⟨h, le_rfl, rfl⟩
  have h1 : Steady m.tick.core m.clk (m.lanesAfter e b d j []) := h0.mapLanes fun _ => .inl rfl
  have h2 : Steady m.tick.core m.clk (m.retired e b d j []) := by
    unfold Mach.retired
    exact h1.modEng.prefetchFill
  exact h2.idle

end

/-- An instruction without an effect on the registers, which asks something of its engine. -/
theorem instr_asks {m : Mach} {e : BitVec 7} {a : Arch} (h : Ready m e a) (s : InstrSpec) (mode : BitVec 4) (opnd : BitVec 20)
    (b : Before) (sem : Ctx → Arch → Bool → LaneOut) (ev : Ev) (hd : decodeCheck s mode opnd a = none)
    (hs : sem ⟨m, e, []⟩ (beginArch a) a.lpend = .ok { fx (beginArch a) with ev := ev })
    (hev : (∀ op x, ev ≠ .load op x) ∧ (∀ k, ev ≠ .string k) ∧ (∀ x v, ev ≠ .sc x v) ∧ ∀ v, ev ≠ .chain v) :
    instr s e mode opnd b sem m = pumped e (engineEvent e ev (m.retired e (beginArch a).advance a.due false [])) := by
  have hlast : ({ fx (beginArch a) with ev := ev } : Fx).last = (beginArch a).advance := rfl
  have hdue : ({ fx (beginArch a) with ev := ev } : Fx).due a = a.due := rfl
  have hbuf : ({ fx (beginArch a) with ev := ev } : Fx).buffer m e a = [] := rfl
  rw [instr_event h s mode opnd b sem { fx (beginArch a) with ev := ev } hd hs rfl rfl rfl hev, hlast, hdue, hbuf]
  simp only [fx, issue_retired]

/-! ### Invalidations -/

/-- With empty buffers no transaction waits for its acceptance. -/
theorem acceptChecked_empty {m : Mach} {e : BitVec 7} (h : ∀ r ∈ lanesOf m e, (rep m (tileOf e) r).sb = []) (n : Nat) :
    acceptChecked e n m = m := by
  cases n with
  | zero => rfl
  | succ n => simp [acceptChecked, oldest_empty h]

theorem invalidateRegions_emptied {m : Mach} (h : m.emptied) (e : BitVec 7) (all : Bool) :
    invalidateRegions e all m = if all then
        modMc (fun c => { c with portCaches := Tbl.all 2 [] }) { m with tiles := m.tiles.map fun t => { t with rcache := [] } }
      else modTile (tileOf e) (fun t => { t with rcache := [] }) m := by
  have hf : ∀ l : List (BitVec 7), l.foldl (fun m x => acceptChecked x 4 m) m = m := by
    intro l
    induction l with
    | nil => rfl
    | cons x l ih => rw [List.foldl_cons, acceptChecked_empty (h x), ih]
  simp only [invalidateRegions, hf]

/-! ### A halt that is asked for -/

/-- Of engine `e` nothing has changed: its lanes, its own state and its debug registers; nor has memory. -/
structure Spares (e : BitVec 7) (m n : Mach) : Prop where
  lanes : lanesOf n e = lanesOf m e
  reps : ∀ r ∈ lanesOf m e, rep n (tileOf e) r = rep m (tileOf e) r
  engine : n.engines.get e = m.engines.get e
  dbg : n.dbg.engs.get e = m.dbg.engs.get e
  mem : n.mem = m.mem

theorem Spares.refl (e : BitVec 7) (m : Mach) : Spares e m m := ⟨rfl, fun _ _ => rfl, rfl, rfl, rfl⟩

theorem Spares.trans {e : BitVec 7} {m n p : Mach} (h : Spares e m n) (h' : Spares e n p) : Spares e m p where
  lanes := h'.lanes.trans h.lanes
  reps r hr := (h'.reps r (h.lanes ▸ hr)).trans (h.reps r hr)
  engine := h'.engine.trans h.engine
  dbg := h'.dbg.trans h.dbg
  mem := h'.mem.trans h.mem

theorem Spares.ite {e : BitVec 7} {m n n' : Mach} {p : Prop} {_ : Decidable p} (h : Spares e m n) (h' : Spares e m n') :
    Spares e m (if p then n else n') := by
  split
  · exact h
  · exact h'

section
variable {e x : BitVec 7} (hne : x ≠ e) (m : Mach)
include hne

theorem spares_modEng (f : Engine → Engine) : Spares e m (modEng x f m) :=
  ⟨rfl, fun _ _ => rfl, Tbl.get_upd_ne _ _ hne.symm, rfl, rfl⟩

theorem spares_modDEng (f : DEng → DEng) : Spares e m (modDEng x f m) :=
  ⟨rfl, fun _ _ => rfl, rfl, Tbl.get_upd_ne _ _ hne.symm, rfl⟩

theorem spares_mapLanes {f : Replica → Replica} (hf : ∀ r, (f r).state = r.state ∧ (f r).lane = r.lane) :
    Spares e m (mapLanes x f m) where
  lanes := lanesOf_congr _ _ _ (by rw [tile_mapLanes]) fun r => by
    rw [rep_mapLanes_any]
    split
    · exact hf _
    · exact ⟨rfl, rfl⟩
  reps r hr := rep_mapLanes_other f hne hr
  engine := by rw [mapLanes_engines]
  dbg := by rw [mapLanes_dbg]
  mem := mapLanes_mem ..

theorem spares_clearResv : Spares e m (clearResv x m) :=
  (⟨rfl, fun _ _ => rfl, rfl, rfl, rfl⟩ : Spares e m { m with resv := m.resv.filter fun z => z.1 ≠ x }).trans
    (spares_mapLanes hne _ fun _ => ⟨rfl, rfl⟩)

omit hne in
theorem spares_chans (c : Tbl 8 Chan) : Spares e m { m with chans := c } := ⟨rfl, fun _ _ => rfl, rfl, rfl, rfl⟩

theorem spares_haltNow : Spares e m (haltNow x m) :=
  (((spares_clearResv hne m).trans (spares_modDEng hne _ _)).trans (spares_modEng hne _ _)).trans (spares_chans _ _)

/-- A halt asked of another engine. -/
theorem spares_askHalt (cause : BitVec 4) (src : BitVec 7) : Spares e m (askHalt x cause src m) := by
  unfold askHalt
  dsimp only
  exact (Spares.refl e m).ite (((spares_modDEng hne m _).trans (spares_haltNow hne _)).ite (spares_modDEng hne m _))

end

/-- An engine that runs takes a request to halt, and stays as it is until the boundary; the others of its group are asked too. -/
theorem requestHalt_runs {m : Mach} {e : BitVec 7} (cause : BitVec 4) (hh : (m.engines.get e).halted = false)
    (hw : (m.dbg.engs.get e).want = false) (hi : engIdle (m.engines.get e) = false) :
    ∃ n, Spares e n (requestHalt e cause m) ∧ n.engines = m.engines ∧ n.tiles = m.tiles ∧ n.mem = m.mem ∧
      (n.dbg.engs.get e).want = true ∧ (n.dbg.engs.get e).wantCause = cause := by
  have hg : ∀ x ∈ groupOf m e, x ≠ e := fun x hx he => by
    subst he
    simp [groupOf, sameGroup] at hx
  have hfold : ∀ (l : List (BitVec 7)) (n : Mach), (∀ x ∈ l, x ≠ e) → Spares e n (l.foldl (fun m x => askHalt x 2#4 e m) n) := by
    intro l
    induction l with
    | nil => exact fun n _ => .refl e n
    | cons x l ih =>
      exact fun n hl => (spares_askHalt (hl x (.head _)) n _ _).trans (ih _ fun y hy => hl y (.tail _ hy))
  refine ⟨askHalt e cause e m, hfold _ _ hg, ?_⟩
  unfold askHalt
  simp [hh, hw, hi]

/-- The decode checks of an instruction outside a repeat body, in a ring that may run it. -/
theorem decodeCheck_none {sp : InstrSpec} {mode : BitVec 4} {opnd : BitVec 20} {a : Arch} (hc : classCheck sp.cls mode opnd = none)
    (hraw : sp.raw opnd = none) (ho : inBody a = false) (hr : a.ring.toNat ≤ sp.ringMax) : decodeCheck sp mode opnd a = none := by
  simp [decodeCheck, hc, hraw, ho, hr]

/-- The engine of an instruction that asks for a halt: it goes on to the boundary after the instruction, where the halt is due. -/
theorem requestHalt_retired {m : Mach} {e : BitVec 7} {a : Arch} (h : Ready m e a) (b : Arch) (cause : BitVec 4) :
    let n := requestHalt e cause (m.retired e b a.due false [])
    (n.dbg.engs.get e).want = true ∧ (n.dbg.engs.get e).wantCause = cause ∧
      (∀ r ∈ lanesOf m e, (rep n (tileOf e) r).arch = b) ∧ n.mem = m.mem ∧ (n.engines.get e).act = .run := by
  obtain ⟨hcur, hkeep, hhalt⟩ := engine_retired m e b a.due false []
  have hrun := h.canRun
  simp only [canRun, Bool.and_eq_true, Bool.or_eq_true, Bool.not_eq_true'] at hrun
  obtain ⟨⟨⟨⟨-, hnot⟩, -⟩, -⟩, hslot⟩ := hrun
  have hbusy : engIdle ((m.retired e b a.due false []).engines.get e) = false := by
    rw [engIdle, hcur, hkeep]
    rcases hslot with hs | hk
    · rw [Option.isNone_eq_false_iff.mpr hs, Bool.false_and]
    · rw [hk, Bool.not_true, Bool.and_false]
  obtain ⟨n, hsp, heng, htiles, hmem, hwant, hcause⟩ := requestHalt_runs cause (hhalt.trans hnot)
    (by rw [dbg_retired]; exact h.undebugged.1) hbusy
  have hlanes : lanesOf n e = lanesOf m e :=
    (lanesOf_congr _ _ _ (by rw [htiles]) fun r => by simp only [rep, htiles, and_self]).trans (lanesOf_retired ..)
  refine ⟨?_, ?_, fun r hr => ?_, ?_, ?_⟩
  · rw [hsp.dbg, hwant]
  · rw [hsp.dbg, hcause]
  · rw [hsp.reps r (hlanes.symm ▸ hr)]
    simp only [rep, htiles]
    exact congrArg Replica.arch (retired_lane m e b a.due false [] r hr)
  · rw [hsp.mem, hmem, mem_retired]
  · rw [hsp.engine, heng, act_retired h]

/-- A breakpoint that the session claims asks for a halt (R474). -/
theorem exec_bkpt_claimed {s : State} {e : BitVec 7} {a : Arch} (h : Ready s.m e a) (code : BitVec 8)
    (hcl : bkptClaimed s.m a.comp = true) : exec (.bkpt e 0 (code.setWidth 20)) s
      = .next { s with m := requestHalt e 6#4 (s.m.retired e (beginArch a).advance a.due false []) } := by
  have hraw : ∀ code : BitVec 8, rawZero 8 12 (code.setWidth 20) = none := by decide
  have hd := decodeCheck_none (sp := ⟨.i, false, rawZero 8 12, 3⟩) (mode := 0) (opnd := code.setWidth 20) (a := a) rfl
    (hraw code) h.outside (Nat.le_of_lt_succ a.ring.isLt)
  show Host.Outcome.next { s with m := instrE _ e 0 _ _ s.m } = _
  rw [instrE, instr_asks h _ 0 _ .nothing _ (.bkpt (fld (code.setWidth 20) 0 8)) hd
    (by simp only [comp_beginArch, hcl, if_true, toOut]) ⟨nofun, nofun, nofun, nofun⟩, engineEvent,
    pumped_run (by rw [(requestHalt_retired h _ _).2.2.2.2]; exact nofun)]

/-- Settles O19: each row asks its engine for one thing (`instr_asks`); WFI leaves it waiting, the invalidations find nothing to
accept first, and a halt leaves the engine as it is until its boundary (`requestHalt_retired`). -/
theorem waitsAndInvalidations : Obligations.WaitsAndInvalidations := by
  unfold Obligations.WaitsAndInvalidations
  intro s e a h m gives
  have hact : (m.engines.get e).act = .run := act_retired h _ _ _ _
  have go (i : Instr) (sp : InstrSpec) (opnd : BitVec 20) (ev : Ev) (n : Mach)
      (hi : exec i s = .next { s with m := instr sp e 0 opnd .nothing (fun _ a _ => .ok { fx a with ev := ev }) s.m })
      (hc : classCheck sp.cls 0 opnd = none) (hraw : sp.raw opnd = none) (hr : a.ring.toNat ≤ sp.ringMax)
      (hev : (∀ op x, ev ≠ .load op x) ∧ (∀ k, ev ≠ .string k) ∧ (∀ x v, ev ≠ .sc x v) ∧ ∀ v, ev ≠ .chain v)
      (hn : engineEvent e ev m = n) (ha : (n.engines.get e).act ≠ .bisque) : gives i n := by
    refine hi.trans ?_
    rw [instr_asks h sp 0 opnd .nothing _ ev (decodeCheck_none hc hraw h.outside hr) rfl hev, hn, pumped_run ha]
  have hrun : (m.engines.get e).act ≠ .bisque := by rw [hact]; exact nofun
  have hempty : s.m.emptied → m.emptied := emptied_retired e _ _ _
  clear_value m
  refine ⟨fun hr => ?_, fun hr => ?_, fun code hcl => ?_⟩
  · exact go _ ⟨.n, true, fun _ => none, 1⟩ 0 .wfi _ rfl (by decide) rfl hr ⟨nofun, nofun, nofun, nofun⟩ rfl (by simp)
  · have hring : a.ring.toNat ≤ 0 := by rw [hr]; rfl
    have invalidates (i : Instr) (opnd : BitVec 20) (ev : Ev) (n : Mach) :=
      go i ⟨.i, false, rawZero 1 19, 0⟩ opnd ev n
    refine ⟨?_, ?_, fun hq => ⟨?_, ?_⟩⟩
    · exact invalidates _ 0 (.cinv false) _ rfl (by decide) (by decide) hring ⟨nofun, nofun, nofun, nofun⟩ rfl hrun
    · exact invalidates _ 1 (.cinv true) _ rfl (by decide) (by decide) hring ⟨nofun, nofun, nofun, nofun⟩ rfl hrun
    · exact invalidates _ 0 (.rinv false) _ rfl (by decide) (by decide) hring ⟨nofun, nofun, nofun, nofun⟩
        (invalidateRegions_emptied (hempty hq) e false) hrun
    · exact invalidates _ 1 (.rinv true) _ rfl (by decide) (by decide) hring ⟨nofun, nofun, nofun, nofun⟩
        (invalidateRegions_emptied (hempty hq) e true) hrun
  · obtain ⟨hw, hwc, hl, hm, -⟩ := requestHalt_retired h (beginArch a).advance 6#4
    exact ⟨_, exec_bkpt_claimed h code hcl, hw, hwc, hl, hm, rfl, rfl⟩

end Sys2Proof.Machine
end

section
/-! PROOFS. The end of an iteration of a repeat block (O21, R75, R104, R105). -/

namespace Sys2Proof.Machine

open Sys2Proof

set_option Elab.async false -- one proof at a time: the threads of many at once exceed the memory of a check

/-- Changes of an engine's lanes that agree on each of them are one change. -/
theorem mapLanes_congr {e : BitVec 7} {f g : Replica → Replica} {m : Mach}
    (h : ∀ r ∈ lanesOf m e, f (rep m (tileOf e) r) = g (rep m (tileOf e) r)) : mapLanes e f m = mapLanes e g m :=
  foldl_modRep_congr _ _ (fun _ => f) (fun _ => g) m (lanesOf_nodup m e) h

/-- The registers after an iteration that leaves `n` to go (R104): the block ends, or goes back to its start. -/
def iterated (a : Arch) (n : W64) : Arch :=
  if n = 0#64 then { beginArch a with rcnt := n, rstate := 0#64 }
  else { beginArch a with rcnt := n, rstate := setPos a.rstate 0#4, pcc := a.pcc.setCursor (fld a.rstate 20 36) }

/-- A lane at the end of an iteration, to which no loaded value is due. -/
theorem repeatEnd_quiet {x : Replica} {a : Arch} (ha : x.arch = a) (hl : x.ldue = none) :
    repeatEnd (loadDue x) = { x with arch := iterated a (a.rcnt - 1#64), repEnd := false, ldue := a.due } := by
  have hd : loadDue x = x := by simp only [loadDue, hl]
  subst ha
  rw [hd]
  unfold repeatEnd iterated beginArch countDist Arch.due
  rw [hl]
  dsimp only
  split <;> split <;> rfl

theorem setPos_zero (rs : W64) : setPos rs 0#4 = rs &&& ~~~0x1_E000#64 := by
  simp [setPos, setFld]

/-- Settles O21: every lane takes the registers of `iterated`, and the engine counts one instruction. -/
theorem repeatIterations : Obligations.RepeatIterations := by
  unfold Obligations.RepeatIterations
  intro s e a hrun hdb hne hl ends b
  have hstop : stopping s.m e = false := by simp [stopping, hdb.1]
  have hiter : stepIteration e s.m = false := by simp [stepIteration, hdb.2.1]
  have hlead : (leader s.m e).any Replica.repEnd = true := by
    unfold leader
    cases hL : lanesOf s.m e with
    | nil => exact absurd hL hne
    | cons r l => exact (hl r (by simp [hL])).2.2
  have hlanes : mapLanes e (fun r => if r.repEnd then repeatEnd (loadDue r) else r) s.m
      = mapLanes e (fun r => { r with arch := iterated a (a.rcnt - 1#64), repEnd := false, ldue := a.due }) s.m :=
    mapLanes_congr fun r hr => by
      obtain ⟨ha, hd, he⟩ := hl r hr
      rw [he, if_pos rfl, repeatEnd_quiet ha hd]
  have key : ends (iterated a (a.rcnt - 1#64)) := by
    show Host.Outcome.next _ = _
    simp only [hrun, hstop, hiter, hlead, hlanes, countOne]
    rfl
  refine ⟨fun h1 => ?_, fun h1 => ?_⟩
  · rw [iterated, h1, if_pos (by decide)] at key
    exact key
  · rw [iterated, if_neg (fun h0 => h1 (by bv_omega)), setPos_zero, fld_eq] at key
    exact key

end Sys2Proof.Machine
end

section
/-! PROOFS. The oldest store reaches the tile's own SRAM (O22, R67, R70, R115, R155). -/

namespace Sys2Proof.Machine

open Sys2Proof

set_option Elab.async false -- one proof at a time: the threads of many at once exceed the memory of a check

/-! ### The target in the tile's SRAM -/

/-- The tile's own SRAM under the number by which memory keys it. -/
theorem region_phys_alias (t : BitVec 5) {x : Addr} (h : region x = .tileAlias) : ∃ k, region (phys t x) = .tile k := by
  have hp := phys_alias t x h
  have ht := t.isLt
  refine ⟨fld (phys t x) 18 5, ?_⟩
  unfold region
  generalize phys t x = y at *
  rw [if_neg (by omega), if_neg (by omega), if_pos (by omega)]

theorem tileOff_phys_alias (t : BitVec 5) {x : Addr} (h : region x = .tileAlias) :
    (tileOff (phys t x)).toNat = x.toNat % 2 ^ 18 := by
  have hp := phys_alias t x h
  rw [tileOff, fld_zero, BitVec.toNat_setWidth]
  omega

/-- The shadow stacks in the tile's own SRAM (R155). -/
theorem inShadow_phys_alias (t : BitVec 5) {x : Addr} (h : region x = .tileAlias) :
    inShadow (phys t x) = decide (0x3_8000 ≤ x.toNat % 2 ^ 18 ∧ x.toNat % 2 ^ 18 < 0x3_C000) := by
  obtain ⟨k, hk⟩ := region_phys_alias t h
  simp only [inShadow, hk, tileOff_phys_alias t h]

theorem areaRefusal_alias (replica keeper whole : Bool) (t : BitVec 5) {x : Addr} (h : region x = .tileAlias) :
    areaRefusal replica keeper whole (phys t x)
      = if 0x3_8000 ≤ x.toNat % 2 ^ 18 ∧ x.toNat % 2 ^ 18 < 0x3_C000 then some 5#4 else none := by
  obtain ⟨k, hk⟩ := region_phys_alias t h
  simp only [areaRefusal, hk, inShadow_phys_alias t h, decide_eq_true_eq]

theorem paramMask_alias (keeper : Bool) (t : BitVec 5) {x : Addr} (h : region x = .tileAlias) (mask : BitVec 16) :
    paramMask keeper (phys t x) mask = mask := by
  have hp := phys_alias t x h
  have ht := t.isLt
  unfold paramMask
  generalize phys t x = y at *
  exact if_neg (by omega)

theorem isDram_alias (t : BitVec 5) {x : Addr} (h : region x = .tileAlias) : isDram (granOf (phys t x)) = false := by
  have hp := phys_alias t x h
  have ht := t.isLt
  exact isDram_granOf (by omega)

/-- What a store to the tile's own SRAM comes to: refused in the shadow stacks, else a write of its granule. -/
theorem storeTarget_alias (e : BitVec 7) (y : SbEntry) (m : Mach) (h : region y.gran = .tileAlias) (hm : y.mask ≠ 0) :
    storeTarget (y.who e) y m
      = if 0x3_8000 ≤ y.gran.toNat % 2 ^ 18 ∧ y.gran.toNat % 2 ^ 18 < 0x3_C000 then (some 5#4, m)
        else (none, markWrite (phys (tileOf e) y.gran) e y.pos y.withheld
          (writeGran (whoAcc (y.who e)) (granOf (phys (tileOf e) y.gran)) y.data y.mask y.tag m)) := by
  obtain ⟨k, hk⟩ := region_phys_alias (tileOf e) h
  have hw : (y.who e).eng = e := rfl
  unfold storeTarget
  simp only [hw, hk, areaRefusal_alias _ _ _ _ h, paramMask_alias _ _ h]
  by_cases hs : 0x3_8000 ≤ y.gran.toNat % 2 ^ 18 ∧ y.gran.toNat % 2 ^ 18 < 0x3_C000
  · simp only [if_pos hs]
  · simp only [if_neg hs]
    exact if_neg hm

/-! ### What a write leaves -/

theorem watch_readGran_of_sram {w : Acc} {g : Nat} {m : Mach} (h : isDram g = false) : (readGran w g m).2.watch = m.watch := by
  unfold readGran
  split
  · rfl
  · simp [countCorrected, h]
  · simp only [h, Bool.false_eq_true, if_false]
    rw [report_soft _ _ _ (reactionOf_sram _ _)]
    simp

theorem watch_writeGran_of_sram {w : Acc} {g : Nat} {d : Gran} {x : BitVec 16} {t : Bool} {m : Mach} (h : isDram g = false) :
    (writeGran w g d x t m).watch = m.watch := by
  unfold writeGran
  extract_lets mc m1
  have h1 : (readGran w g m1).2.watch = m.watch := watch_readGran_of_sram h
  generalize readGran w g m1 = p at *
  split
  · rfl
  · dsimp only
    split
    · exact h1
    · exact h1

/-- A mark touches the commit marks alone (R35). -/
theorem markWrite_eq (a : Addr) (e : BitVec 7) (pos : BitVec 6) (b : Bool) (m : Mach) :
    markWrite a e pos b m = { m with marks := (markWrite a e pos b m).marks } := by
  unfold markWrite
  repeat' split
  all_goals rfl

/-- A write of a granule that reads clean (R115): the bytes of the mask, and the tag of a whole write. -/
theorem mem_writeGran_clean {w : Acc} {g : Nat} {d : Gran} {k : BitVec 16} {t : Bool} {m : Mach} (h : readsClean m g) :
    (writeGran w g d k t m).mem = m.mem.putGran g (if k = 0xFFFF#16 then d else mergeBytes (m.mem.data g) d k)
      (decide (k = 0xFFFF#16) && t) false := by
  obtain ⟨herr, hpois⟩ := h
  unfold writeGran
  extract_lets mc m1
  rw [readGran_clean w g m1 herr]
  have hm : m1.mem = m.mem := rfl
  clear_value m1
  split <;> simp [*]

/-- The bytes of a granule after such a write. -/
theorem byteOf_written (old new : Gran) (k : BitVec 16) {i : Nat} (hi : i < 16) :
    byteOf (if k = 0xFFFF#16 then new else mergeBytes old new k) i = if k.getLsbD i then byteOf new i else byteOf old i := by
  split
  · next h =>
    have hb : (0xFFFF#16).getLsbD i = true := by
      rw [show (0xFFFF#16) = BitVec.allOnes 16 from rfl, BitVec.getLsbD_allOnes, decide_eq_true hi]
    rw [h, hb, if_pos rfl]
  · exact byteOf_mergeBytes old new k hi

/-- A notice of a store into the shadow stacks (R70, R155): it is logged, and memory, the lanes and the watchdogs are as they
were. -/
theorem notice_shadow (e : BitVec 7) (y : SbEntry) (m : Mach) :
    let n := notice e y 5#4 m
    n.tiles = m.tiles ∧ n.watch = m.watch ∧ n.mem = m.mem ∧ (n.engines.get e).act = (m.engines.get e).act ∧
      (m.faults.queue.length < 64 →
        ∃ v, n.faults.queue = m.faults.queue ++ [v] ∧ v.code = 0x0207 ∧ v.time = m.clk) := by
  have hsoft : ∀ arg, reactionOf m 0x0207#16 arg ≠ .h := fun arg => by simp [reactionOf, logOnly]
  have hr := report_soft 0x0207#16 (argAD y.storeAddr e y.ring y.comp) m (hsoft _)
  have hq : m.faults.queue.length < 64 → ∃ v, (queueFault 0x0207#16 (argAD y.storeAddr e y.ring y.comp) [] m).faults.queue
      = m.faults.queue ++ [v] ∧ v.code = 0x0207 ∧ v.time = m.clk := fun h => by
    rw [queueFault, if_pos h]
    exact ⟨_, rfl, rfl, rfl⟩
  have hcause : (0x0202#16 + (5#4).setWidth 16) = 0x0207#16 := rfl
  unfold notice
  rw [hcause, hr]
  dsimp only
  repeat' split
  all_goals simp_all

/-! ### Changes of the lanes, one after another -/

/-- Two tables whose entries are alike are the same. -/
theorem Tbl.eq_of_get {k : Nat} {α : Type} {t u : Tbl k α} (h : ∀ i, t.get i = u.get i) : t = u :=
  Vector.ext fun i hi => by
    have := h (BitVec.ofNat k i)
    simp only [Tbl.get, BitVec.toNat_ofNat, Nat.mod_eq_of_lt hi] at this
    exact this

/-- Two modules that differ by changes of lanes alone, and whose replicas are alike, are the same. -/
theorem mapLanes_eq_of_rep {e e' : BitVec 7} {f g : Replica → Replica} {m n : Mach}
    (hn : n = { m with tiles := n.tiles }) (ht : ∀ t, n.tiles.get t = { m.tiles.get t with reps := (n.tiles.get t).reps })
    (h : ∀ t r, rep (mapLanes e' g n) t r = rep (mapLanes e f m) t r) : mapLanes e' g n = mapLanes e f m := by
  rw [mapLanes_eq e' g n, mapLanes_eq e f m, hn]
  congr 1
  refine Tbl.eq_of_get fun t => ?_
  have hreps : ((mapLanes e' g n).tiles.get t).reps = ((mapLanes e f m).tiles.get t).reps := Tbl.eq_of_get (h t)
  rw [← hn, tile_mapLanes e' g n t, tile_mapLanes e f m t, ht, hreps]

/-- Two changes of an engine's lanes are one. -/
theorem mapLanes_mapLanes (e : BitVec 7) (f g : Replica → Replica) (m : Mach)
    (hf : ∀ r, (f r).state = r.state ∧ (f r).lane = r.lane) : mapLanes e g (mapLanes e f m) = mapLanes e (fun x => g (f x)) m :=
  mapLanes_eq_of_rep (mapLanes_eq e f m) (tile_mapLanes e f m) fun t r => by
    simp only [rep_mapLanes_any, lanesOf_mapLanes e f m hf]
    split <;> rfl

/-! ### An engine whose lanes hold one entry alike -/

theorem oldest_alike {m : Mach} {e : BitVec 7} {y : SbEntry} {l : List SbEntry} (hne : lanesOf m e ≠ [])
    (h : ∀ r ∈ lanesOf m e, (rep m (tileOf e) r).sb = y :: l) : oldest m e = some y := by
  unfold oldest
  cases hL : lanesOf m e with
  | nil => exact absurd hL hne
  | cons r rest => rw [List.findSome?_cons, h r (by simp [hL])]; rfl

/-- An entry that has been issued. -/
def SbEntry.sent (y : SbEntry) : SbEntry := { y with issued := some true }

/-- Nothing is issued from a place whose entries, where there are any, have been issued. -/
theorem issueAt_issued {m : Mach} {e : BitVec 7} {l : List SbEntry} (h : ∀ r ∈ lanesOf m e, (rep m (tileOf e) r).sb = l) {k : Nat}
    (hk : ∀ y, l[k]? = some y → y.issued.isSome = true) : issueAt e m k = (true, m) := by
  have hall : (((lanesOf m e).map fun r => (r, (rep m (tileOf e) r).sb[k]?)).all
      fun x => x.2.all fun y => y.issued.isSome) = true := by
    simp only [List.all_map, List.all_eq_true, Function.comp_apply]
    intro r hr
    rw [h r hr]
    exact Option.all_eq_true _ _ |>.mpr hk
  simp only [issueAt, hall, if_true]

/-- The one entry of the lanes of an engine, for the tile's own SRAM, is issued (R67): the fence map is not asked (R235). -/
theorem issueAt_alias {m : Mach} {e : BitVec 7} {y : SbEntry} (hne : lanesOf m e ≠ [])
    (h : ∀ r ∈ lanesOf m e, (rep m (tileOf e) r).sb = [y]) (hr : region y.gran = .tileAlias) (hi : y.issued = none) :
    issueAt e m 0 = (true, mapLanes e (fun x => { x with sb := x.sb.modify 0 SbEntry.sent }) m) := by
  obtain ⟨r0, rest, hL⟩ := List.exists_cons_of_ne_nil hne
  have hmap : ((lanesOf m e).map fun r => (r, (rep m (tileOf e) r).sb[0]?)) = (lanesOf m e).map fun r => (r, some y) :=
    List.map_congr_left fun r hr => by rw [h r hr]; rfl
  have hv : vote (((lanesOf m e).map fun r => (r, some y)).map fun x => (x.1, x.2.map SbEntry.key)) = .agree := by
    apply vote_const _ (some y.key)
    simp only [List.map_map, List.mem_map, Function.comp_apply]
    rintro x ⟨r, -, rfl⟩
    rfl
  have hall : (((lanesOf m e).map fun r => (r, some y)).all fun x => x.2.all fun y => y.issued.isSome) = false := by
    simp [hL, hi]
  have hfind : ((lanesOf m e).findSome? fun r => (rep m (tileOf e) r).sb[0]?) = some y := by
    rw [hL, List.findSome?_cons, h r0 (by simp [hL])]
    rfl
  have hp : storePermitted (tileOf e) y m = (true, m) := by simp only [storePermitted, hr]
  simp only [issueAt, hmap, hall, hv, react, hfind, hp]
  rfl

/-- What is issued already is not issued again. -/
theorem issueSb_issued {m : Mach} {e : BitVec 7} {y : SbEntry} (h : ∀ r ∈ lanesOf m e, (rep m (tileOf e) r).sb = [y])
    (hi : y.issued.isSome = true) (ks : List Nat) :
    ks.foldl (fun (p : Bool × Mach) k => if p.1 then issueAt e p.2 k else p) (true, m) = (true, m) := by
  have hat : ∀ k, issueAt e m k = (true, m) := fun k => issueAt_issued h fun z hz => by
    rw [List.mem_singleton.mp (List.mem_of_getElem? hz), hi]
  induction ks with
  | nil => rfl
  | cons k ks ih => rw [List.foldl_cons, if_pos rfl, hat, ih]

/-- The one entry of the lanes stands issued, whether it was before or not. -/
theorem issueSb_alias {m : Mach} {e : BitVec 7} {y : SbEntry} (hne : lanesOf m e ≠ [])
    (h : ∀ r ∈ lanesOf m e, (rep m (tileOf e) r).sb = [y]) (hr : region y.gran = .tileAlias) (hi : y.issued ≠ some false) :
    issueSb e m = (true, mapLanes e (fun x => { x with sb := [y.sent] }) m) := by
  cases hy : y.issued with
  | some b =>
    have hb : b = true := by cases b with
      | false => exact absurd hy hi
      | true => rfl
    have hs : y.sent = y := by rw [SbEntry.sent, ← hb, ← hy]
    have hm : mapLanes e (fun x => { x with sb := [y.sent] }) m = m := mapLanes_id _ _ _ fun r hr => by rw [hs, ← h r hr]
    rw [hm]
    exact issueSb_issued h (by rw [hy]; rfl) _
  | none =>
    have hm : mapLanes e (fun x => { x with sb := x.sb.modify 0 SbEntry.sent }) m = mapLanes e (fun x => { x with sb := [y.sent] }) m :=
      mapLanes_congr fun r hr => by rw [h r hr]; rfl
    have hl := lanesOf_mapLanes e (fun x => { x with sb := [y.sent] }) m fun _ => ⟨rfl, rfl⟩
    have hsent : ∀ r ∈ lanesOf (mapLanes e (fun x => { x with sb := [y.sent] }) m) e,
        (rep (mapLanes e (fun x => { x with sb := [y.sent] }) m) (tileOf e) r).sb = [y.sent] := fun r hr => by
      rw [rep_mapLanes, if_pos (hl ▸ hr)]
    rw [issueSb, List.foldl_cons, if_pos rfl, issueAt_alias hne h hr hy, hm]
    exact issueSb_issued hsent rfl _

/-- The entry has left the lanes' buffers. -/
def unbuffered (e : BitVec 7) (m : Mach) : Mach := mapLanes e (fun x => { x with sb := [] }) m

/-- The module after the target of a store, to which it has gone from `m`, has answered `p`. -/
def targetAnswer (e : BitVec 7) (y : SbEntry) (m : Mach) (p : Option (BitVec 4) × Mach) : Mach :=
  match p.1 with
  | some k => notice e y k p.2
  | none => deviceAccess e y.gran (logUndo e (phys (tileOf e) y.gran) m p.2)

/-- THE OLDEST STORE REACHES ITS TARGET in the tile's own SRAM, when the answer asks for no reset. -/
theorem acceptOne_alias {m : Mach} {e : BitVec 7} {y : SbEntry} (hne : lanesOf m e ≠ [])
    (h : ∀ r ∈ lanesOf m e, (rep m (tileOf e) r).sb = [y]) (hr : region y.gran = .tileAlias) (hi : y.issued ≠ some false)
    (n : Mach) (hn : n = targetAnswer e y.sent (unbuffered e m) (storeTarget (y.sent.who e) y.sent (unbuffered e m)))
    (ht : n.tiles = (unbuffered e m).tiles) (hw : n.watch = m.watch) (hreset : m.watch.resetWanted = none)
    (hwd : (m.watch.wd.get e).due = false) : acceptOne e m = (true, n) := by
  have hl := lanesOf_mapLanes e (fun x => { x with sb := [y.sent] }) m fun _ => ⟨rfl, rfl⟩
  have hsent : ∀ r ∈ lanesOf (mapLanes e (fun x => { x with sb := [y.sent] }) m) e,
      (rep (mapLanes e (fun x => { x with sb := [y.sent] }) m) (tileOf e) r).sb = [y.sent] := fun r hr => by
    rw [rep_mapLanes, if_pos (hl ▸ hr)]
  have hold := oldest_alike (by rw [hl]; exact hne) hsent
  have hpre : mapLanes e (fun x => { x with sb := x.sb.drop 1 }) (mapLanes e (fun x => { x with sb := [y.sent] }) m)
      = unbuffered e m := mapLanes_mapLanes _ _ _ _ fun _ => ⟨rfl, rfl⟩
  have hhead : acceptHead e (mapLanes e (fun x => { x with sb := [y.sent] }) m) = (true, n) := by
    have hd : resetDue n = false := by simp [resetDue, hw, hreset]
    have hb : carryBite e n = (true, n) := by simp [carryBite, hw, hwd]
    unfold acceptHead
    simp only [hold, hpre]
    change (fun z => if resetDue z then (false, doReset z) else carryBite e z) (targetAnswer e y.sent (unbuffered e m)
      (storeTarget (y.sent.who e) y.sent (unbuffered e m))) = _
    rw [← hn]
    simp only [hd, hb, Bool.false_eq_true, if_false]
  have hlanes : lanesOf n e = lanesOf m e := by
    have hu := lanesOf_mapLanes e (fun x => { x with sb := [] }) m fun _ => ⟨rfl, rfl⟩
    rw [← hu]
    simp only [lanesOf, ht, unbuffered]
  have hempty : ∀ r ∈ lanesOf n e, (rep n (tileOf e) r).sb = [] := fun r hr => by
    have hu : rep n (tileOf e) r = rep (unbuffered e m) (tileOf e) r := by simp only [rep, ht]
    rw [hu, unbuffered, rep_mapLanes, if_pos (hlanes ▸ hr)]
  simp only [acceptOne, issueSb_alias hne h hr hi, hhead, issueSb_empty hempty, Bool.not_true, Bool.false_eq_true, if_false,
    if_true]

/-- What `deviceAccess` and the undo log leave of the module. -/
theorem logged_keeps (e : BitVec 7) (a x : Addr) (pre m : Mach) :
    let n := deviceAccess e a (logUndo e x pre m)
    n.tiles = m.tiles ∧ n.watch = m.watch ∧ n.mem = m.mem ∧ (n.engines.get e).act = (m.engines.get e).act := by
  unfold deviceAccess logUndo
  dsimp only
  repeat' split
  all_goals simp

/-- A store for the tile's own SRAM, from lanes that hold it alike: what its acceptance leaves (R67, R115, R155). -/
theorem storeTarget_answer {m : Mach} {e : BitVec 7} {y : SbEntry} (hr : region y.gran = .tileAlias) (hm : y.mask ≠ 0) :
    let n := targetAnswer e y m (storeTarget (y.who e) y m)
    let g := granOf (phys (tileOf e) y.gran)
    let inShadow : Prop := 0x3_8000 ≤ y.gran.toNat % 2 ^ 18 ∧ y.gran.toNat % 2 ^ 18 < 0x3_C000
    n.tiles = m.tiles ∧ n.watch = m.watch ∧ (n.engines.get e).act = (m.engines.get e).act ∧
      (inShadow → n.mem = m.mem ∧ (m.faults.queue.length < 64 →
        ∃ v, n.faults.queue = m.faults.queue ++ [v] ∧ v.code = 0x0207 ∧ v.time = m.clk)) ∧
      (¬ inShadow → readsClean m g → n.mem = m.mem.putGran g
        (if y.mask = 0xFFFF#16 then y.data else mergeBytes (m.mem.data g) y.data y.mask) (decide (y.mask = 0xFFFF#16) && y.tag) false) := by
  intro n g inShadow
  by_cases hs : inShadow
  · have hn : n = notice e y 5#4 m := by
      simp only [n, storeTarget_alias e y m hr hm, targetAnswer]
      rw [if_pos hs]
    obtain ⟨ht, hw, hmem, hact, hq⟩ := notice_shadow e y m
    rw [hn]
    exact ⟨ht, hw, hact, fun _ => ⟨hmem, hq⟩, fun h => absurd hs h⟩
  · have hn : n = deviceAccess e y.gran (logUndo e (phys (tileOf e) y.gran) m (markWrite (phys (tileOf e) y.gran) e y.pos
        y.withheld (writeGran (whoAcc (y.who e)) g y.data y.mask y.tag m))) := by
      simp only [n, storeTarget_alias e y m hr hm, targetAnswer]
      rw [if_neg hs]
    obtain ⟨ht, hw, hmem, hact⟩ := logged_keeps e y.gran (phys (tileOf e) y.gran) m (markWrite (phys (tileOf e) y.gran) e y.pos
        y.withheld (writeGran (whoAcc (y.who e)) g y.data y.mask y.tag m))
    rw [← hn, markWrite_eq] at ht hw hmem hact
    refine ⟨ht.trans (writeGran_tiles ..), hw.trans (watch_writeGran_of_sram (isDram_alias _ hr)), ?_, fun h => absurd h hs,
      fun _ hc => hmem.trans (mem_writeGran_clean hc)⟩
    rw [hact]
    exact congrArg (fun t : Tbl 7 Engine => (t.get e).act) (writeGran_engines ..)

/-- A parity error on the way to a single lane is not compared (R193). -/
theorem pathParity_single {e : BitVec 7} {m : Mach} (h : (lanesOf m e).length = 1) : pathParity e m = m :=
  if_pos h.le

/-- THE OLDEST STORE IS ACCEPTED by the tile's own SRAM (R67, R70, R115, R155), from lanes that hold the one entry alike. -/
theorem exec_storeAccept_alias {s : State} {e : BitVec 7} {y : SbEntry} {parity : Bool} (hne : lanesOf s.m e ≠ [])
    (hact : (s.m.engines.get e).act ≠ .bisque) (h : ∀ r ∈ lanesOf s.m e, (rep s.m (tileOf e) r).sb = [y])
    (hreset : s.m.watch.resetWanted = none) (hi : y.issued ≠ some false) (hwd : (s.m.watch.wd.get e).due = false)
    (hpar : parity = true → (lanesOf s.m e).length = 1) (hr : region y.gran = .tileAlias) (hm : y.mask ≠ 0) :
    exec (.storeAccept e parity) s = .next { s with
      m := targetAnswer e y.sent (unbuffered e s.m) (storeTarget (y.sent.who e) y.sent (unbuffered e s.m)) } := by
  obtain ⟨ht, hw, ha, -, -⟩ := storeTarget_answer (m := unbuffered e s.m) (e := e) (y := y.sent) hr hm
  generalize hn : targetAnswer e y.sent (unbuffered e s.m) (storeTarget (y.sent.who e) y.sent (unbuffered e s.m)) = n at *
  have hacc : acceptOne e s.m = (true, n) :=
    acceptOne_alias hne h hr hi n hn.symm ht (hw.trans (mapLanes_watch ..)) hreset hwd
  have hl : lanesOf n e = lanesOf s.m e := by
    have hu := lanesOf_mapLanes e (fun x => { x with sb := [] }) s.m fun _ => ⟨rfl, rfl⟩
    rw [← hu]
    simp only [lanesOf, ht, unbuffered]
  have hpp : (if true && parity && (oldest s.m e).isSome then pathParity e n else n) = n := by
    split
    · next hp =>
      simp only [Bool.true_and, Bool.and_eq_true] at hp
      exact pathParity_single (by rw [hl]; exact hpar hp.1)
    · rfl
  have hrun : (n.engines.get e).act ≠ .bisque := by
    rw [ha, unbuffered, mapLanes_engines]
    exact hact
  show Host.Outcome.next { s with m := _ } = _
  simp only [hacc, hpp, pumped_run hrun]

end Sys2Proof.Machine
end

section
/-! PROOFS. The data of a load through the fabric arrives, or a host window does not answer (O22, R64, R65, R72, R187). -/

namespace Sys2Proof.Machine

open Sys2Proof

set_option Elab.async false -- one proof at a time: the threads of many at once exceed the memory of a check

/-! ### An engine that stands ready once its load is over -/

/-- An engine stands ready by its own registers, lanes and debug registers. -/
theorem Ready.congr {m n : Mach} {e : BitVec 7} {a : Arch} (h : Ready m e a) (he : n.engines = m.engines) (hd : n.dbg = m.dbg)
    (hp : n.pwr = m.pwr) (hw : n.watch = m.watch) (hl : lanesOf n e = lanesOf m e) (hc : liveCode n e = liveCode m e)
    (hr : ∀ r, rep n (tileOf e) r = rep m (tileOf e) r) : Ready n e a where
  boundary := by
    have hb := h.boundary
    unfold atBoundary Machine.canRun validEngine at hb ⊢
    rwa [he, hp, hw, hc]
  lanes := hl ▸ h.lanes
  quiet r hr' := by rw [hr]; exact h.quiet r (hl ▸ hr')
  notForced := by rw [he]; exact h.notForced
  undebugged := by
    have := h.undebugged
    unfold Machine.undebugged at this ⊢
    rwa [hd]
  notDue := h.notDue
  outside := h.outside
  fetch := h.fetch
  word := by
    have := h.word
    unfold wordFault at this ⊢
    rwa [he]

/-- The engine of a load, told to run. -/
def running (e : BitVec 7) (m : Mach) : Mach := modEng e (fun g => { g with act := .run }) m

/-- What a load brings to lanes that are alike is carried out alike. -/
theorem runOuts_ready {m : Mach} {e : BitVec 7} {a : Arch} (h : Ready m e a) (o : LaneOut) :
    runOuts e ((lanesOf m e).map fun r => (r, o)) m
      = carryOutFx e ((lanesOf m e).map fun r => (r, o.fx ⟨m, e, []⟩ a)) m := by
  simp only [runOuts, resolve_ready h, commitFx, voteFx_const h.empty]

theorem finishLoad_ready {m : Mach} {e : BitVec 7} {a : Arch} (h : Ready (running e m) e a) {op : LdOp} {mode : BitVec 4}
    {opnd : BitVec 20} {x : Addr} {res : LoadResult} {o : LaneOut}
    (ho : loadOut op mode opnd x res ⟨running e m, e, []⟩ a = o) {n : Mach}
    (hn : carryOutFx e ((lanesOf (running e m) e).map fun r => (r, o.fx ⟨running e m, e, []⟩ a)) (running e m) = n)
    (hlr : op = .lr → ∀ l, leader n e = some l → l.arch.resv = none) :
    finishLoad e op mode opnd x (fun _ => res) m = n := by
  have houts : ((lanesOf (running e m) e).map fun r =>
      (r, loadOut op mode opnd x res (Ctx.of (running e m) e r) (rep (running e m) (tileOf e) r).arch))
      = (lanesOf (running e m) e).map fun r => (r, o) :=
    List.map_congr_left fun r hr => by rw [(h.quiet r hr).1, h.ctx r hr, ho]
  have hrun := runOuts_ready h o
  rw [hn, ← houts] at hrun
  unfold running at hrun
  unfold finishLoad
  simp only [hrun]
  split
  · next hop =>
    cases hL : leader n e with
    | none => rfl
    | some l => simp only [hlr hop l hL]
  · rfl

/-- The data of a load completes its instruction on every lane. -/
theorem finishLoad_data {m : Mach} {e : BitVec 7} {a b : Arch} (h : Ready (running e m) e a) {op : LdOp} {mode : BitVec 4}
    {opnd : BitVec 20} {x : Addr} {d : Gran} {t : Bool} (hop : op ≠ .lr)
    (hf : loadFinish op mode opnd x d t ⟨running e m, e, []⟩ (beginArch a) = .ok (fx b)) :
    finishLoad e op mode opnd x (fun _ => .data d t) m = (running e m).retired e b.advance a.due false [] := by
  refine finishLoad_ready h (o := .ok (fx b)) (by simp only [loadOut, hf]) ?_ fun hlr => absurd hlr hop
  have hap := applyFx_ready h (fx b) rfl rfl rfl
  simp only [fx_buffer, fx_last, fx_due, issue_retired] at hap
  cases hL : lanesOf (running e m) e with
  | nil => exact absurd hL h.lanes
  | cons r0 rest =>
    rw [hL] at hap
    simp only [List.map_cons] at hap
    simp only [List.map_cons, LaneOut.fx, carryOutFx, hap]
    rfl

/-! ### The data of a load of shared SRAM -/

/-- The fence map's answer changes nothing that an engine stands on. -/
theorem Ready.afterFence {m : Mach} {e : BitVec 7} {a : Arch} (h : Ready (running e m) e a) (p : Port) (i : FenceId) (x : Addr)
    (w : Bool) : Ready (running e (fenceCheck p i x w m).2) e a := by
  obtain ⟨h1, h2⟩ := fenceCheck_eq p i x w m
  generalize (fenceCheck p i x w m).2 = n at *
  have hr : ∀ r, rep n (tileOf e) r = rep m (tileOf e) r := fun r => by simp only [rep]; rw [h2]
  refine h.congr ?_ ?_ ?_ ?_ ?_ ?_ hr
  · simp only [running, modEng_engines]; rw [h1]
  · show n.dbg = m.dbg; rw [h1]
  · show n.pwr = m.pwr; rw [h1]
  · show n.watch = m.watch; rw [h1]
  · exact lanesOf_congr m n e (by rw [h2]) fun r => by rw [hr]; exact ⟨rfl, rfl⟩
  · show (n.tiles.get _).live = (m.tiles.get _).live; rw [h2]

/-- A load of shared SRAM that the fence map permits brings its granule, when that reads clean (R125, R262). -/
theorem loadAccess_shared {w : Who} {size : Nat} {cap : Bool} {x : Addr} {host : Gran} {m : Mach} (hx : region x = .shared)
    (hc : readsClean m (granOf x)) (hp : (fenceCheck (.tile (tileOf w.eng)) (.ring w.comp w.ring) x false m).1 = true) :
    loadAccess w size cap x host m = (.data (m.mem.data (granOf x)) (m.mem.tag (granOf x) && cap),
      (fenceCheck (.tile (tileOf w.eng)) (.ring w.comp w.ring) x false m).2) := by
  obtain ⟨h1, -⟩ := fenceCheck_eq (.tile (tileOf w.eng)) (.ring w.comp w.ring) x false m
  have hmem : (fenceCheck (.tile (tileOf w.eng)) (.ring w.comp w.ring) x false m).2.mem = m.mem := by rw [h1]
  have hphys : phys (tileOf w.eng) x = x := by simp only [phys, hx]
  obtain ⟨herr, hpois⟩ := hc
  unfold loadAccess
  simp only [hx, hp, hphys]
  generalize (fenceCheck (.tile (tileOf w.eng)) (.ring w.comp w.ring) x false m).2 = n at *
  rw [← hmem] at herr
  simp only [readGran_clean _ _ _ herr, hmem, hpois, Bool.not_true, Bool.false_eq_true, if_false]

/-- The identity of an engine's accesses is that of its leading lane. -/
theorem engineWho_leader {m : Mach} {e : BitVec 7} {a : Arch} (h : ∃ l, leader m e = some l ∧ l.arch = a) :
    engineWho m e = ⟨.replica, e, a.comp, a.ring, a.pcc.cursor, m.tick.count, runPos m e⟩ := by
  obtain ⟨l, hl, rfl⟩ := h
  simp only [engineWho, hl]

/-- THE DATA OF A LOAD OF SHARED SRAM reaches the lanes undisturbed (R64, R187). -/
theorem exec_loadResponse_shared {s : State} {e : BitVec 7} {a b : Arch} {l : FabLoad} {host : Gran} {lane : BitVec 2}
    (hact : (s.m.engines.get e).act = .load l) (h : Ready (running e s.m) e a) (hop : l.op ≠ .lr) (hx : region l.addr = .shared)
    (hc : readsClean s.m (granOf l.addr))
    (hp : (fenceCheck (.tile (tileOf e)) (.ring a.comp a.ring) l.addr false s.m).1 = true)
    (hf : loadFinish l.op l.mode l.opnd l.addr (s.m.mem.data (granOf l.addr)) (s.m.mem.tag (granOf l.addr) && l.op.isCap)
      ⟨running e (fenceCheck (.tile (tileOf e)) (.ring a.comp a.ring) l.addr false s.m).2, e, []⟩ (beginArch a) = .ok (fx b)) :
    exec (.loadResponse e host ⟨false, lane, 0⟩) s = .next { s with
      m := (running e (fenceCheck (.tile (tileOf e)) (.ring a.comp a.ring) l.addr false s.m).2).retired e b.advance a.due false [] } := by
  have hwho : engineWho s.m e = ⟨.replica, e, a.comp, a.ring, a.pcc.cursor, s.m.tick.count, runPos s.m e⟩ := engineWho_leader h.leader
  have hla := loadAccess_shared (w := engineWho s.m e) (size := l.op.size) (cap := l.op.isCap) (host := host) hx hc
    (by rw [hwho]; exact hp)
  rw [hwho] at hla
  have hn := h.afterFence (.tile (tileOf e)) (.ring a.comp a.ring) l.addr false
  generalize (fenceCheck (.tile (tileOf e)) (.ring a.comp a.ring) l.addr false s.m).2 = n at *
  have hdev : deviceAccess e l.addr n = n := by simp [deviceAccess, isDevice, hx]
  have hflip : ∀ d : Gran, d ^^^ put 128 (0 : W64) (8 * (l.addr.toNat % 16)) = d := fun d => by simp [put]
  have hresp : respond e l host (some ⟨false, lane, 0⟩) s.m = (running e n).retired e b.advance a.due false [] := by
    rw [← finishLoad_data hn hop hf]
    unfold respond
    rw [hwho, hla]
    simp only [hdev, Bool.false_and, hflip, ite_self, Bool.false_eq_true, if_false]
  have hrun := act_retired hn b.advance a.due false []
  show Host.Outcome.next { s with m := _ } = _
  simp only [hact, hresp]
  rw [pumped_run (by rw [hrun]; exact nofun)]

/-! ### A load that ends in an exception -/

/-- A trap of a ready engine with granules of its tile that it reads and writes: what `instr_trap` says, of the effect alone. -/
theorem applyFx_trap {m : Mach} {e : BitVec 7} {a : Arch} (h : Ready m e a) (f : Fx) (reads writes : List Trans)
    (hst : f.stores = []) (hp : f.part = false) (htrap : f.trap = true) (ht : f.trans = reads ++ writes)
    (hr : ∀ x ∈ reads, x.kind.isLoad = true ∧ region x.addr = .tileAlias ∧ m.mem.err (granOf (phys (tileOf e) x.addr)) = 0#152)
    (hw : ∀ x ∈ writes, x.localWrite) :
    let n := prefetchFill e (m.trapped e f a writes)
    applyFx e ((lanesOf m e).map fun r => (r, f)) m = (true, n) ∧
      lanesOf n e = lanesOf m e ∧ ∀ r ∈ lanesOf m e, (rep n (tileOf e) r).arch = f.last := by
  intro n
  have hb : f.buffer m e a = [] := by simp [Fx.buffer, hst]
  have hfold := lanes_done h f hp
  rw [hb] at hfold
  obtain ⟨-, htiles, -, -⟩ := trapped_eq m e f a writes hw
  have hfill := refilled_fill e (m.trapped e f a writes)
  have hlanes : lanesOf n e = lanesOf m e := by
    rw [hfill.lanesOf, ← lanesOf_lanesAfter m e f.last (f.due a) f.jump []]
    simp only [lanesOf, htiles]
  have hrep : ∀ r ∈ lanesOf m e, (rep n (tileOf e) r).sb = [] ∧ (rep n (tileOf e) r).arch = f.last := fun r hr => by
    have hl : rep (m.trapped e f a writes) (tileOf e) r = rep (m.lanesAfter e f.last (f.due a) f.jump []) (tileOf e) r := by
      simp only [rep, htiles]
    rw [hfill.reps, hl, lanesAfter_lane m e _ _ _ _ r hr]
    exact ⟨rfl, rfl⟩
  refine ⟨?_, hlanes, fun r hr => (hrep r hr).2⟩
  have hread : reads.foldl (doTrans e) (modEng e (fun g => { g with fed := false, reread := false })
      (m.lanesAfter e f.last (f.due a) f.jump [])) = modEng e (fun g => { g with fed := false, reread := false })
      (m.lanesAfter e f.last (f.due a) f.jump []) :=
    foldl_doTrans_read _ _ _ fun x hx => by simpa [Mach.lanesAfter] using hr x hx
  obtain ⟨r0, rest, hL⟩ := List.exists_cons_of_ne_nil h.lanes
  rw [hL] at hfold
  simp only [List.map_cons] at hfold
  simp only [hL, applyFx, List.map_cons, ht, List.foldl_append, htrap, if_true, hfold, hread]
  exact issueSb_empty fun r hr => (hrep r (hlanes ▸ hr)).1

/-- The effect of entering exception `k` (R163, R166, R167): ESTACK is read, the block is written, the handler's registers
are taken. -/
def entryFx (m : Mach) (e : BitVec 7) (a : Arch) (k : Exc) : Fx :=
  { fxJump (handlerState a k.info a.tsbr (Cap.norm ⟨m.mem.data (granOf (phys (tileOf e) a.tsbr) + 15), true⟩) false) with
    settled := true, trap := true
    trans := [load16 (a.tsbr + 0xF0#36) a] ++
      granWrites .taskState a a.tsbr (tsbGranules (idleLatches m.free a) k.info m.tick.count) }

theorem exc_fx {m : Mach} {e : BitVec 7} {a : Arch} (hc : canEnter m e a) (k : Exc) :
    (LaneOut.exc k).fx ⟨m, e, []⟩ a = entryFx m e a k := by
  obtain ⟨hexl, hdfl, htsb, hclean, htag⟩ := hc
  simp only [LaneOut.fx, enterException, hexl, hdfl, enterThrough_ok a k.info a.tsbr htsb hclean htag, Bool.false_eq_true,
    if_false]
  rfl

/-- A load that fails ends as an instruction that raises the same exception (R158, R166). -/
theorem finishLoad_fails {m : Mach} {e : BitVec 7} {a : Arch} (h : Ready (running e m) e a) (hc : canEnter (running e m) e a)
    (op : LdOp) (mode : BitVec 4) (opnd : BitVec 20) (x : Addr) (k : Exc) :
    finishLoad e op mode opnd x (fun _ => .fails k) m = instr (plain .h) e 0 0 .nothing (fun _ _ _ => .exc k) (running e m) := by
  have hfx := exc_fx hc k
  have hd : decodeCheck (plain .h) 0 0 a = none := decodeCheck_outside .h false 0 0 a rfl h.outside
  obtain ⟨-, -, htsb, hclean, -⟩ := hc
  have hread : ∀ y ∈ [load16 (a.tsbr + 0xF0#36) a], y.kind.isLoad = true ∧ region y.addr = .tileAlias ∧
      (running e m).mem.err (granOf (phys (tileOf e) y.addr)) = 0#152 := fun y hy => by
    have hg : granOf (phys (tileOf e) (a.tsbr + 0xF0#36)) = granOf (phys (tileOf e) a.tsbr) + 15 :=
      tsb_granule (tileOf e) a.tsbr htsb 15 (by omega)
    rw [List.mem_singleton.mp hy]
    exact ⟨rfl, region_tsb _ htsb 15 (by omega), by rw [load16, trans16, hg]; exact hclean.1⟩
  have hwrite := granWrites_local a a.tsbr (tsbGranules (idleLatches (running e m).free a) k.info (running e m).tick.count)
    fun i hi => region_tsb _ htsb i (Nat.lt_succ_of_lt hi)
  have hf : (entryFx (running e m) e a k).ev = .none ∧ (entryFx (running e m) e a k).last.resv = none := ⟨rfl, rfl⟩
  have htrap := instr_trap h (plain .h) 0 0 .nothing (fun _ _ _ => .exc k) (entryFx (running e m) e a k) _ _
    (by rw [laneOut_ready h _ _ _ _ _ hd, hfx]) rfl rfl rfl rfl rfl hread hwrite
  obtain ⟨happ, hlanes, harch⟩ := applyFx_trap h (entryFx (running e m) e a k) _ _ rfl rfl rfl rfl hread hwrite
  rw [htrap]
  generalize prefetchFill e ((running e m).trapped e (entryFx (running e m) e a k) a _) = n at *
  refine finishLoad_ready h (o := .exc k) rfl ?_ fun _ l hl => ?_
  · rw [hfx]
    obtain ⟨r0, rest, hL⟩ := List.exists_cons_of_ne_nil h.lanes
    rw [hL] at happ ⊢
    simp only [List.map_cons] at happ ⊢
    simp only [carryOutFx, happ, hf.1, Bool.not_true, Bool.false_eq_true, if_false, engineEvent]
  · unfold leader at hl
    rw [hlanes] at hl
    obtain ⟨r0, rest, hL⟩ := List.exists_cons_of_ne_nil h.lanes
    rw [hL] at hl
    obtain rfl := Option.some.inj hl
    rw [harch r0 (by simp [hL]), hf.2]

/-- A LOAD OF A HOST WINDOW THAT IS NOT ANSWERED ends as an instruction that raises vector 0x06 with cause 0x06 (R65). -/
theorem exec_hostWindowTimeout_load {s : State} {e : BitVec 7} {a : Arch} {l : FabLoad}
    (hact : (s.m.engines.get e).act = .load l) (h : Ready (running e s.m) e a) (hx : region l.addr = .hostWin)
    (hc : canEnter s.m e a) : exec (.hostWindowTimeout e) s = .next { s with
      m := instr (plain .h) e 0 0 .nothing (fun _ _ _ => .exc ⟨0x06, 0x06, 0, l.addr⟩) (running e s.m) } := by
  have hold : oldest s.m e = none := oldest_empty h.empty
  have hfin := finishLoad_fails h hc l.op l.mode l.opnd l.addr ⟨0x06, 0x06, 0, l.addr⟩
  have hd : decodeCheck (plain .h) 0 0 a = none := decodeCheck_outside .h false 0 0 a rfl h.outside
  obtain ⟨hexl, hdfl, htsb, hclean, htag⟩ := hc
  obtain ⟨-, -, heng, -, -, -⟩ := instr_exception h (plain .h) 0 0 .nothing (fun _ _ _ => .exc ⟨0x06, 0x06, 0, l.addr⟩) _
    (laneOut_ready h _ _ _ _ _ hd) ⟨hexl, hdfl⟩ htsb hclean htag
  have hrun : ((instr (plain .h) e 0 0 .nothing (fun _ _ _ => .exc ⟨0x06, 0x06, 0, l.addr⟩) (running e s.m)).engines.get e).act
      ≠ .bisque := by
    rw [heng]
    exact fun hb => nomatch h.act.symm.trans hb
  show Host.Outcome.next { s with m := _ } = _
  simp only [hold, Option.filter_none, hact, if_pos hx]
  rw [show finishLoad e l.op l.mode l.opnd l.addr (fun _ => .fails (excData 0x06 l.addr)) s.m = _ from hfin, pumped_run hrun]

end Sys2Proof.Machine
end

section
/-! PROOFS. Transactions of an engine with memory (O22). -/

namespace Sys2Proof.Machine

open Sys2Proof

set_option Elab.async false -- one proof at a time: the threads of many at once exceed the memory of a check

/-- A load of A by LDA, from what its granule holds (R72, R86). -/
theorem loadFinish_lda (mode : BitVec 4) (opnd : BitVec 20) (x : Addr) (d : Gran) (t : Bool) (c : Ctx) (a : Arch) :
    loadFinish .lda mode opnd x d t c (beginArch a) = .ok (fx ((memOp a mode opnd).applyStep { beginArch a with
      lpend := true, lval := BitVec.ofNat 64 (d.toNat / 2 ^ (8 * (x.toNat % 16))) })) := by
  have hv : fld (d >>> (8 * (x.toNat % 16))) 0 64 = BitVec.ofNat 64 (d.toNat / 2 ^ (8 * (x.toNat % 16))) := by
    apply BitVec.eq_of_toNat_eq
    rw [fld_zero, BitVec.toNat_setWidth, BitVec.toNat_ushiftRight, Nat.shiftRight_eq_div_pow, BitVec.toNat_ofNat]
  simp only [loadFinish, memOp_beginArch, hv]
  rfl

/-- The fence map's answer moves no lane. -/
theorem lanesOf_fenceCheck (p : Port) (i : FenceId) (x : Addr) (w : Bool) (m : Mach) (e : BitVec 7) :
    lanesOf (fenceCheck p i x w m).2 e = lanesOf m e := by
  obtain ⟨-, ht⟩ := fenceCheck_eq p i x w m
  refine lanesOf_congr _ _ _ (by rw [ht]) fun r => ?_
  simp only [rep]
  rw [ht]
  exact ⟨rfl, rfl⟩

/-- What an engine's load leaves once its data has come: the engine runs, its lanes hold the new registers, and memory is as it
was. -/
theorem loaded_leaves {m : Mach} {e : BitVec 7} {a : Arch} (h : Ready (running e m) e a) (b : Arch) :
    let n := (running e m).retired e b a.due false []
    (n.engines.get e).act = .run ∧
      (∀ r ∈ lanesOf m e, let y := rep n (tileOf e) r; y.arch = b ∧ y.ldue = a.due ∧ y.sb = []) ∧ n.mem = m.mem := by
  refine ⟨act_retired h .., fun r hr => ?_, mem_retired ..⟩
  dsimp only
  rw [retired_lane (running e m) e b a.due false [] r hr]
  exact ⟨rfl, rfl, rfl⟩

/-- An LDA of shared SRAM: its data comes (R64, R72). -/
theorem loadResponse_lda {s : State} {e : BitVec 7} {a : Arch} {l : FabLoad} {host : Gran} {lane : BitVec 2}
    (hact : (s.m.engines.get e).act = .load l) (h : Ready (running e s.m) e a) (hop : l.op = .lda) (hx : region l.addr = .shared)
    (hc : readsClean s.m (granOf l.addr))
    (hp : (fenceCheck (.tile (tileOf e)) (.ring a.comp a.ring) l.addr false s.m).1 = true) :
    ∃ n, exec (.loadResponse e host ⟨false, lane, 0⟩) s = .next { s with m := n } ∧ (n.engines.get e).act = .run ∧
      (∀ r ∈ lanesOf s.m e, let y := rep n (tileOf e) r
        y.arch = ((memOp a l.mode l.opnd).applyStep { beginArch a with
          lpend := true
          lval := BitVec.ofNat 64 ((s.m.mem.data (granOf l.addr)).toNat / 2 ^ (8 * (l.addr.toNat % 16))) }).advance ∧
        y.ldue = a.due ∧ y.sb = []) ∧ n.mem = s.m.mem := by
  have hlr : l.op ≠ .lr := by rw [hop]; exact nofun
  obtain ⟨hfence, -⟩ := fenceCheck_eq (.tile (tileOf e)) (.ring a.comp a.ring) l.addr false s.m
  have hlanes := lanesOf_fenceCheck (.tile (tileOf e)) (.ring a.comp a.ring) l.addr false s.m e
  obtain ⟨hrun, hl, hmem⟩ := loaded_leaves (h.afterFence (.tile (tileOf e)) (.ring a.comp a.ring) l.addr false) _
  refine ⟨_, exec_loadResponse_shared hact h hlr hx hc hp (by rw [hop]; exact loadFinish_lda ..), hrun, hlanes ▸ hl, ?_⟩
  rw [hmem, hfence]

/-- Settles O22: a store by what its target in the tile's SRAM answers (`storeTarget_answer`), a load by what its data completes
(`loadResponse_lda`) or by the exception that it ends in (`exec_hostWindowTimeout_load`, `entered_of`). -/
theorem memoryTransactions : Obligations.MemoryTransactions := by
  unfold Obligations.MemoryTransactions
  refine ⟨?_, ?_⟩
  · intro s e y parity hne hact hsb hreset hi hwd hpar hr hm g inShadow
    obtain ⟨ht, -, -, hshadow, hstore⟩ := storeTarget_answer (m := unbuffered e s.m) (e := e) (y := y.sent) hr hm
    refine ⟨_, exec_storeAccept_alias hne hact hsb hreset hi hwd hpar hr hm, ?_⟩
    generalize targetAnswer e y.sent (unbuffered e s.m) (storeTarget (y.sent.who e) y.sent (unbuffered e s.m)) = n at *
    have hmem : (unbuffered e s.m).mem = s.m.mem := mapLanes_mem ..
    have hfaults : (unbuffered e s.m).faults = s.m.faults := mapLanes_faults ..
    have hclk : (unbuffered e s.m).clk = s.m.clk := mapLanes_clk ..
    rw [hmem, hfaults, hclk] at hshadow
    unfold readsClean at hstore
    rw [hmem] at hstore
    refine ⟨fun r hr' => ?_, rfl, rfl, hshadow, fun hs hc => ?_⟩
    · have hn : rep n (tileOf e) r = rep (unbuffered e s.m) (tileOf e) r := by simp only [rep, ht]
      show rep n _ _ = _
      rw [hn, unbuffered, rep_mapLanes, if_pos hr']
    · have hnm : n.mem = s.m.mem.putGran g (if y.mask = 0xFFFF#16 then y.data else mergeBytes (s.m.mem.data g) y.data y.mask)
          (decide (y.mask = 0xFFFF#16) && y.tag) false := hstore hs hc
      refine ⟨fun i hi' => ?_, ?_, fun j hj => ?_⟩
      · show byteOf (n.mem.data g) i = _
        rw [hnm, data_putGran, if_pos rfl]
        exact byteOf_written _ _ _ hi'
      · show n.mem.tag g = _
        rw [hnm, tag_putGran, if_pos rfl]
        rfl
      · show n.mem.data j = _ ∧ n.mem.tag j = _
        rw [hnm, data_putGran, tag_putGran, if_neg hj, if_neg hj]
        exact ⟨rfl, rfl⟩
  · intro s e a l host lane hact h
    refine ⟨fun hop haddr hx hc _ hp => ?_, fun hx hc => ?_⟩
    · obtain ⟨n, hn, hrun, hlanes, hmem⟩ := loadResponse_lda (host := host) (lane := lane) hact h hop hx hc hp
      exact ⟨_, hn, hrun, hlanes, hmem, rfl, rfl⟩
    · refine ⟨_, exec_hostWindowTimeout_load hact h hx hc, ?_⟩
      exact entered_of (s := { s with m := running e s.m }) h hc (plain .h) 0 0 .nothing _ _
        (laneOut_ready h _ _ _ _ _ (decodeCheck_outside .h false 0 0 a rfl h.outside))

end Sys2Proof.Machine
end

section
/-! PROOFS. A line fill brings its line; a reservation lapses (O23). -/

namespace Sys2Proof.Machine

open Sys2Proof

set_option Elab.async false -- one proof at a time: the threads of many at once exceed the memory of a check

/-! ### The line of an address -/

/-- The start of the line of an address. -/
theorem toNat_alignLine (x : Addr) : (x &&& ~~~63#36).toNat = x.toNat / 64 * 64 := by
  have hf : ∀ i, (63#36).getLsbD i = decide (i < 6) := fun i => by
    rw [show (63#36) = (BitVec.allOnes 6).setWidth 36 from rfl, BitVec.getLsbD_setWidth, BitVec.getLsbD_allOnes]
    simp only [Bool.and_eq_right_iff_imp, decide_eq_true_eq]
    omega
  apply Nat.eq_of_testBit_eq
  intro i
  rw [show (64 : Nat) = 2 ^ 6 from rfl, Nat.testBit_mul_two_pow, Nat.testBit_div_two_pow, ← BitVec.getLsbD,
    ← BitVec.getLsbD, BitVec.getLsbD_and, BitVec.getLsbD_not, hf]
  by_cases h6 : i < 6
  · simp [h6]
  · have h36 := @BitVec.lt_of_getLsbD 36 x i
    rw [Nat.sub_add_cancel (by omega : 6 ≤ i)]
    cases h : x.getLsbD i <;> simp_all

/-- The number of a line, from any address in it. -/
theorem lineOf_alignLine (x : Addr) : fld (x &&& ~~~63#36) 6 30 = (x >>> 6).setWidth 30 := by
  apply BitVec.eq_of_toNat_eq
  simp only [fld_eq, BitVec.toNat_setWidth, BitVec.toNat_ushiftRight, Nat.shiftRight_eq_div_pow, toNat_alignLine]
  omega

/-- The granules of a line of the tile's own SRAM lie in it, one after another (R60, R235). -/
theorem line_granule (t : BitVec 5) {a : Addr} (h : region a = .tileAlias) (h64 : a.toNat % 64 = 0) {k : Nat} (hk : k < 4) :
    region (a + BitVec.ofNat 36 (16 * k)) = .tileAlias ∧
    granOf (phys t (a + BitVec.ofNat 36 (16 * k))) = granOf (phys t a) + k := by
  have hr := (region_alias a).mp h
  have hn : (a + BitVec.ofNat 36 (16 * k)).toNat = a.toNat + 16 * k := by
    simp only [BitVec.toNat_add, BitVec.toNat_ofNat]; omega
  have hk' : region (a + BitVec.ofNat 36 (16 * k)) = .tileAlias := (region_alias _).mpr (by omega)
  refine ⟨hk', ?_⟩
  simp only [granOf, phys_alias _ _ h, phys_alias _ _ hk', hn]
  omega

/-! ### Reading a line -/

/-- A load of the tile's own SRAM brings its granule, when that reads clean, and changes nothing (R64, R243). -/
theorem loadAccess_alias {w : Who} {size : Nat} {cap : Bool} {x : Addr} {host : Gran} {m : Mach}
    (hx : region x = .tileAlias) (hc : readsClean m (granOf (phys (tileOf w.eng) x))) :
    loadAccess w size cap x host m = (.data (m.mem.data (granOf (phys (tileOf w.eng) x)))
      (m.mem.tag (granOf (phys (tileOf w.eng) x)) && cap), m) := by
  obtain ⟨herr, hpois⟩ := hc
  simp only [loadAccess, hx, readGran_clean _ _ _ herr, hpois, Bool.false_eq_true, if_false]

@[simp] theorem engineWho_eng (m : Mach) (e : BitVec 7) : (engineWho m e).eng = e := by
  unfold engineWho
  split <;> rfl

/-- The line of four granules from `g`, all of it read. -/
def wholeLine (n : BitVec 30) (g : Nat) (mem : Memory) : ICLine :=
  ⟨n, mem.data (g + 3) ++ mem.data (g + 2) ++ mem.data (g + 1) ++ mem.data g, Tbl.all 2 0⟩

/-- A line of the tile's own SRAM whose granules read clean (R60). -/
theorem readLine_alias {e : BitVec 7} {a : Addr} {m : Mach} (ha : region a = .tileAlias) (h64 : a.toNat % 64 = 0)
    (hc : ∀ k, k < 4 → readsClean m (granOf (phys (tileOf e) a) + k)) :
    readLine e a m = (wholeLine (fld a 6 30) (granOf (phys (tileOf e) a)) m.mem, m) := by
  have hload : ∀ k, k < 4 → loadAccess (engineWho m e) 16 false (a + BitVec.ofNat 36 (16 * k)) 0#128 m
      = (.data (m.mem.data (granOf (phys (tileOf e) a) + k)) false, m) := by
    intro k hk
    obtain ⟨hr, hg⟩ := line_granule (tileOf e) ha h64 hk
    have hck := hc k hk
    rw [← hg] at hck
    rw [loadAccess_alias hr (by rw [engineWho_eng]; exact hck), engineWho_eng, hg, Bool.and_false]
  have hhost : ¬ region a = .hostWin := by rw [ha]; decide
  have hall : (Vector.ofFn fun _ => 0#4 : Tbl 2 (BitVec 4)) = Tbl.all 2 0 := by decide
  simp only [readLine, hhost, if_false, hload 0 (by decide), hload 1 (by decide), hload 2 (by decide), hload 3 (by decide),
    fillPart, ite_self, wholeLine, Nat.add_zero]
  rw [← hall]

/-! ### The instruction cache (R61) -/

/-- A line stands in a cache behind no more than `j` others, and no other line there has its number. -/
def Recent (x : ICLine) (j : Nat) (c : List ICLine) : Prop :=
  (∃ l1 l2, c = l1 ++ x :: l2 ∧ l1.length ≤ j) ∧ ∀ y ∈ c, y.line = x.line → y = x

theorem Recent.mem {x : ICLine} {j : Nat} {c : List ICLine} (h : Recent x j c) : x ∈ c := by
  obtain ⟨⟨l1, l2, rfl, -⟩, -⟩ := h
  simp

theorem Recent.mono {x : ICLine} {j k : Nat} {c : List ICLine} (h : Recent x j c) (hjk : j ≤ k) : Recent x k c := by
  obtain ⟨⟨l1, l2, hc, hl⟩, hu⟩ := h
  exact ⟨⟨l1, l2, hc, hl.trans hjk⟩, hu⟩

/-- A line that is placed is the most recent one. -/
theorem recent_cacheLine (x : ICLine) (c : List ICLine) : Recent x 0 (cacheLine x c) := by
  refine ⟨⟨[], _, rfl, le_rfl⟩, fun y hy hl => ?_⟩
  rcases List.mem_cons.mp hy with rfl | hy
  · rfl
  · simp [hl] at hy

theorem filter_split {α : Type} {p : α → Bool} {x : α} (h : p x = true) (l1 l2 : List α) :
    (l1 ++ x :: l2).filter p = l1.filter p ++ x :: l2.filter p := by
  rw [List.filter_append, List.filter_cons_of_pos h]

/-- What a placed line leaves in the cache: the lines of other sets, and of its own set the three most recent (R61). -/
def staysBeside (y : ICLine) (c : List ICLine) (z : ICLine) : Bool :=
  fld z.line 0 7 ≠ (fld y.line 0 7 : BitVec 7) || decide (z ∈ ((c.filter fun z => z.line ≠ y.line).filter
    fun z => fld z.line 0 7 = (fld y.line 0 7 : BitVec 7)).take 3)

theorem cacheLine_eq (y : ICLine) (c : List ICLine) :
    cacheLine y c = y :: (c.filter fun z => z.line ≠ y.line).filter (staysBeside y c) := rfl

/-- A line with fewer than three others before it stays. -/
theorem staysBeside_of_recent {x y : ICLine} {l1 l2 : List ICLine} (hl : l1.length ≤ 2) (hxy : x.line ≠ y.line) :
    staysBeside y (l1 ++ x :: l2) x = true := by
  by_cases hs : (fld x.line 0 7 : BitVec 7) = fld y.line 0 7
  · have hlen := ((l1.filter fun z => z.line ≠ y.line).length_filter_le
      fun z => (fld z.line 0 7 : BitVec 7) = fld y.line 0 7).trans (l1.length_filter_le fun z => z.line ≠ y.line)
    rw [staysBeside, filter_split (by simpa using hxy), filter_split (by simpa using hs), Bool.or_eq_true]
    refine .inr (decide_eq_true ?_)
    rw [List.take_append, List.take_cons (by omega), List.mem_append]
    exact .inr List.mem_cons_self
  · simp [staysBeside, hs]

/-- One of the three lines before it does not drive a line out of its set of four ways. -/
theorem Recent.cacheLine {x y : ICLine} {j : Nat} {c : List ICLine} (h : Recent x j c) (hj : j ≤ 2) (hy : y ∈ c) :
    Recent x (j + 1) (cacheLine y c) := by
  by_cases hxy : x.line = y.line
  · rw [h.2 y hy hxy.symm]
    exact (recent_cacheLine x _).mono (Nat.zero_le _)
  · obtain ⟨⟨l1, l2, rfl, hl⟩, hu⟩ := h
    rw [cacheLine_eq]
    refine ⟨?_, fun z hz hzl => ?_⟩
    · rw [filter_split (by simpa using hxy), filter_split (staysBeside_of_recent (hl.trans hj) hxy), ← List.cons_append]
      exact ⟨_, _, rfl, Nat.succ_le_succ (((List.length_filter_le _ _).trans (List.length_filter_le _ _)).trans hl)⟩
    · rcases List.mem_cons.mp hz with rfl | hz
      · exact absurd hzl.symm hxy
      · exact hu z (List.mem_of_mem_filter (List.mem_of_mem_filter hz)) hzl

/-- The instruction cache of an engine's tile. -/
def icacheOf (e : BitVec 7) (m : Mach) : List ICLine := (m.tiles.get (tileOf e)).icache

theorem icacheOf_mapLanes (e : BitVec 7) (f : Replica → Replica) (m : Mach) : icacheOf e (mapLanes e f m) = icacheOf e m := by
  unfold icacheOf
  rw [tile_mapLanes]

/-- The next line comes out of the cache, where it is then the most recent, or nothing does (R61). -/
theorem icacheOf_bufferNext (e : BitVec 7) (m : Mach) : icacheOf e (bufferNext e m) = icacheOf e m ∨
    ∃ y ∈ icacheOf e m, icacheOf e (bufferNext e m) = cacheLine y (icacheOf e m) := by
  unfold bufferNext
  dsimp only
  split
  · exact .inl rfl
  · split
    · exact .inl rfl
    · split
      · next y hy =>
        refine .inr ⟨y, List.mem_of_find?_eq_some hy, ?_⟩
        simp only [icacheOf, modEng_tiles, modTile_tiles, Tbl.get_upd_same]
      · exact .inl rfl

theorem Recent.bufferNext {e : BitVec 7} {x : ICLine} {j : Nat} {m : Mach} (h : Recent x j (icacheOf e m)) (hj : j ≤ 2) :
    Recent x (j + 1) (icacheOf e (bufferNext e m)) := by
  rcases icacheOf_bufferNext e m with hc | ⟨y, hy, hc⟩ <;> rw [hc]
  · exact h.mono (Nat.le_succ j)
  · exact h.cacheLine hj hy

/-- Filling the prefetch queues does not drive out the line that was just placed. -/
theorem Recent.prefetchFill {e : BitVec 7} {x : ICLine} {m : Mach} (h : Recent x 0 (icacheOf e m)) :
    x ∈ icacheOf e (prefetchFill e m) := by
  unfold Machine.prefetchFill
  have h1 := h.bufferNext (by decide)
  rw [← icacheOf_mapLanes e (takeWords ((Machine.bufferNext e m).engines.get e).lineBuf)] at h1
  rw [icacheOf_mapLanes]
  exact (h1.bufferNext (by decide)).mem

/-! ### The fill -/

/-- A line that was cached already is invalidated after a parity error, which is counted (R62). -/
def invalidated (t : BitVec 5) (line : BitVec 30) (m : Mach) : Mach :=
  if (m.tiles.get t).icache.any fun y => y.line = line then
    modTile t (fun x => { x with icache := x.icache.filter fun y => y.line ≠ line })
      (modMc (fun c => { c with icpar := satInc c.icpar }) m)
  else m

theorem invalidated_mem (t : BitVec 5) (line : BitVec 30) (m : Mach) : (invalidated t line m).mem = m.mem := by
  unfold invalidated
  split <;> rfl

theorem rep_invalidated (t : BitVec 5) (line : BitVec 30) (m : Mach) (k : BitVec 5) (r : BitVec 2) :
    rep (invalidated t line m) k r = rep m k r := by
  unfold invalidated
  split
  · simp only [rep, modTile_tiles, modMc_tiles, Tbl.get_upd]
    split
    · next h => rw [h]
    · rfl
  · rfl

/-- The module after a whole line has come to the caches of engine `e`, before its words come to the queues. -/
def lineCached (e : BitVec 7) (x : ICLine) (m : Mach) : Mach :=
  modEng e (fun g => { g with lineBuf := bufferLine x g.lineBuf })
    (modTile (tileOf e) (fun tl => { tl with icache := cacheLine x tl.icache }) m)

theorem recent_lineCached (e : BitVec 7) (x : ICLine) (m : Mach) : Recent x 0 (icacheOf e (lineCached e x m)) := by
  simp only [icacheOf, lineCached, modEng_tiles, modTile_tiles, Tbl.get_upd_same]
  exact recent_cacheLine x _

theorem rep_lineCached (e : BitVec 7) (x : ICLine) (m : Mach) (k : BitVec 5) (r : BitVec 2) :
    rep (lineCached e x m) k r = rep m k r := by
  simp only [rep, lineCached, modEng_tiles, modTile_tiles, Tbl.get_upd]
  split
  · next h => rw [h]
  · rfl

/-- A LINE FILL of the tile's own SRAM, whose granules read clean (R60 to R62). -/
theorem lineFill_alias {e : BitVec 7} {x : Addr} {m : Mach} (he : validEngine m e = true) (hx : region x = .tileAlias)
    (hl : fillAllowed m e (x &&& ~~~63#36) = true)
    (hc : ∀ k, k < 4 → readsClean m (granOf (phys (tileOf e) (x &&& ~~~63#36)) + k)) :
    lineFill e x 0#152 m = prefetchFill e (lineCached e
      (wholeLine ((x >>> 6).setWidth 30) (granOf (phys (tileOf e) (x &&& ~~~63#36))) m.mem)
      (invalidated (tileOf e) ((x >>> 6).setWidth 30) m)) := by
  have ha : region (x &&& ~~~63#36) = .tileAlias := by
    rw [region_alias] at hx ⊢
    rw [toNat_alignLine]; omega
  have h64 : (x &&& ~~~63#36).toNat % 64 = 0 := by rw [toNat_alignLine]; omega
  have hread := readLine_alias (e := e) (m := invalidated (tileOf e) ((x >>> 6).setWidth 30) m) ha h64
    (by intro k hk; unfold readsClean; rw [invalidated_mem]; exact hc k hk)
  rw [invalidated_mem, lineOf_alignLine] at hread
  unfold invalidated at hread
  have hbad : ((Tbl.all 2 0 : Tbl 2 (BitVec 4)).toList.all (· = 0#4)) = true := by decide
  simp only [lineFill, he, hl, bne_self_eq_false, Bool.and_false, Bool.false_eq_true, if_false, Bool.not_true, Bool.or_false,
    lineOf_alignLine, hread]
  simp only [wholeLine, hbad, if_true]
  rfl

/-- The limit of the leading lane allows the fill (R60). -/
theorem fillAllowed_alignLine {m : Mach} {e : BitVec 7} {x : Addr} {r : BitVec 2} (hr : (lanesOf m e).head? = some r)
    (hlt : x.toNat / 64 * 64 < (rep m (tileOf e) r).arch.pcc.limit) : fillAllowed m e (x &&& ~~~63#36) = true := by
  have hl : leader m e = some (rep m (tileOf e) r) := by
    obtain ⟨l, hl⟩ := List.head?_eq_some_iff.mp hr
    rw [leader, hl]
  simp only [fillAllowed, hl, Option.any_some, toNat_alignLine, hlt, decide_true]

/-- What stands after a whole line came to the caches: the line in the tile's cache, memory and what the program sees of each
replica as they were. -/
theorem after_lineCached (e : BitVec 7) (x : ICLine) (line : BitVec 30) (m : Mach) :
    let n := prefetchFill e (lineCached e x (invalidated (tileOf e) line m))
    x ∈ icacheOf e n ∧ n.mem = m.mem ∧ ∀ r, (rep n (tileOf e) r).arch = (rep m (tileOf e) r).arch := by
  intro n
  have hx : x ∈ icacheOf e n := (recent_lineCached e x _).prefetchFill
  have hf : Refilled e (lineCached e x (invalidated (tileOf e) line m)) n := refilled_fill e _
  clear_value n
  have hmem : (lineCached e x (invalidated (tileOf e) line m)).mem = m.mem := invalidated_mem ..
  refine ⟨hx, (congrArg Mach.mem hf.rest).trans hmem, fun r => ?_⟩
  have hreps := congrArg Replica.arch (hf.reps (tileOf e) r)
  rwa [rep_lineCached, rep_invalidated] at hreps

/-- Settles O23, by the line's place in its set: it was placed last, and the two lines that may come to the line buffer after it
cannot drive it out of four ways. -/
theorem lineFillsAndLapses : Obligations.LineFillsAndLapses := by
  unfold Obligations.LineFillsAndLapses
  intro s e x
  refine ⟨fun hmode he hx hl hc => ?_, ?_⟩
  · obtain ⟨r, l, hr, rfl, hlt⟩ := hl
    have hfill := lineFill_alias he hx (fillAllowed_alignLine hr hlt) hc
    have hafter := after_lineCached e (wholeLine ((x >>> 6).setWidth 30)
      (granOf (phys (tileOf e) (x &&& ~~~63#36))) s.m.mem) ((x >>> 6).setWidth 30) s.m
    have hexec : exec (.lineFill e x 0#152) s = .next { s with m := lineFill e x 0#152 s.m } := by
      have hp : powered s.m = true := decide_eq_true hmode
      show execLineFill e x 0#152 s = _
      rw [execLineFill, State.on_eq, if_pos hp]
    rw [← hfill] at hafter
    generalize lineFill e x 0#152 s.m = n at hafter hexec
    exact ⟨{ s with m := n }, hexec, hafter⟩
  · refine ⟨{ s with m := clearResv e s.m }, rfl, ?_, fun r hr => ?_, ?_, ?_⟩
    · simp [clearResv]
    · have hr' : r ∈ lanesOf { s.m with resv := s.m.resv.filter fun z => z.1 ≠ e } e := hr
      simp only [clearResv, rep_mapLanes_any, hr', and_self, if_true]
      rfl
    · intro z hz hne
      simp [clearResv, hz, hne]
    · simp [clearResv]

end Sys2Proof.Machine
end

section
/-! PROOFS. Sums, differences, logic, and the least and greatest of two numbers (O2, R86, R90, R91). -/

namespace Sys2Proof.Machine

open Sys2Proof

set_option Elab.async false -- one proof at a time: the threads of many at once exceed the memory of a check

/-- An instruction with a value operand, whose effect on the registers is known. -/
theorem instrV_takes {s : State} {e : BitVec 7} {a b : Arch} (h : Ready s.m e a) (k : LdOp) {mode : BitVec 4} {opnd : BitVec 20}
    {v : W64} {step : Arch → Arch} (hc : classCheck .v mode opnd = none) (hv : valueIs s.m e a k mode opnd v step)
    (hk : k.plainValue = true) (hb : valueEffect k v (beginArch a) = b) :
    .next { s with m := instrV k e mode opnd false s.m } = takesOn s e a mode opnd (step b) := by
  rw [instrV_ready h k mode opnd false v step hk hc hv, hb]

/-- A sum with its carry and its overflow (R90). -/
theorem addC_eq (x y : W64) (cin : Bool) :
    let c : Nat := if cin then 1 else 0
    addC x y cin = (x + y + BitVec.ofNat 64 c, decide (2 ^ 64 ≤ x.toNat + y.toNat + c), overflows (x.toInt + y.toInt + c)) := by
  simp only [addC, overflows, BitVec.ofNat_add, BitVec.ofNat_toNat, BitVec.setWidth_eq]

/-- A difference with its borrow and its overflow (R90). -/
theorem subB_eq (x y : W64) (bin : Bool) :
    let c : Nat := if bin then 1 else 0
    subB x y bin = (x - y - BitVec.ofNat 64 c, decide (x.toNat < y.toNat + c), overflows (x.toInt - y.toInt - c)) := rfl

/-- A sum without a carry in. -/
theorem addC_false (x y : W64) :
    addC x y false = (x + y, decide (2 ^ 64 ≤ x.toNat + y.toNat), overflows (x.toInt + y.toInt)) := by
  simp [addC_eq]

/-- A difference without a borrow in. -/
theorem subB_false (x y : W64) :
    subB x y false = (x - y, decide (x.toNat < y.toNat), overflows (x.toInt - y.toInt)) := by
  simp [subB_eq]

theorem resZNCV_beginArch (a : Arch) (r : W64 × Bool × Bool) :
    resZNCV (beginArch a) r = { beginArch a with a := r.1, f := setZNCV a.f r.1 r.2.1 r.2.2 } := by
  rw [resZNCV, f_beginArch]

theorem resZN_beginArch (a : Arch) (r : W64) : resZN (beginArch a) r = { beginArch a with a := r, f := setZN a.f r } := by
  rw [resZN, f_beginArch]

/-- Settles O2: each row is an instruction with a value operand (`instrV_takes`); the sums and differences by `addC_eq` and
`subB_eq`, the others by the definition of their effect. -/
theorem arithmeticAndLogic : Obligations.ArithmeticAndLogic := by
  unfold Obligations.ArithmeticAndLogic
  refine ⟨?_, ?_⟩
  · intro s e a mode opnd v step h hc hv b c x y res
    have go (k : LdOp) {n : Arch} (hk : k.plainValue = true) (hv : valueIs s.m e a k mode opnd v step)
        (hn : valueEffect k v b = n) := instrV_takes h k hc hv hk hn
    have sums (k : LdOp) (r : W64) (carry : Bool) (i : Int) (hk : k.plainValue = true)
        (hv : valueIs s.m e a k mode opnd v step) (hr : valueEffect k v b = resZNCV b (r, carry, overflows i)) :
        .next { s with m := instrV k e mode opnd false s.m } = res r carry i :=
      go k hk hv (hr.trans (resZNCV_beginArch a _))
    refine ⟨sums .add _ _ _ rfl hv ?_, sums .adc _ _ _ rfl hv ?_, sums .sub _ _ _ rfl hv ?_, sums .sbc _ _ _ rfl hv ?_,
      sums .rsb _ _ _ rfl hv ?_, go .cmp rfl hv ?_, go .tst rfl hv ?_⟩
    all_goals simp only [valueEffect, b, a_beginArch, f_beginArch]
    · rw [addC_false]
    · rw [addC_eq]
    · rw [subB_false]
    · rw [subB_eq]
    · rw [subB_false]
    · rw [subB_false]
  · intro s e a mode opnd v step h hc hv res
    have go (k : LdOp) (r : W64) (hk : k.plainValue = true) (hv : valueIs s.m e a k mode opnd v step)
        (hr : valueEffect k v (beginArch a) = resZN (beginArch a) r) :
        .next { s with m := instrV k e mode opnd false s.m } = res r :=
      instrV_takes h k hc hv hk (hr.trans (resZN_beginArch a r))
    refine ⟨go .and_ _ rfl hv ?_, go .or_ _ rfl hv ?_, go .xor _ rfl hv ?_, go .andn _ rfl hv ?_, go .min_ _ rfl hv ?_,
      go .max_ _ rfl hv ?_, go .minu _ rfl hv ?_, go .maxu _ rfl hv ?_⟩
    all_goals simp only [valueEffect, a_beginArch, BitVec.le_def]

end Sys2Proof.Machine
end

section
/-! PROOFS. Shifts, rotates, and the operations on A alone (O3, R86, R90, R91). -/

namespace Sys2Proof.Machine

open Sys2Proof

set_option Elab.async false -- one proof at a time: the threads of many at once exceed the memory of a check

/-! ### Shifts -/

theorem resShift_beginArch (k : Shift) (a : Arch) (v : W64) :
    resShift k (beginArch a) v = { beginArch a with
      a := k.value a.a (v.toNat % 64), f := k.flags a.f a.a (v.toNat % 64) } := by
  simp only [resShift, a_beginArch, f_beginArch]

/-- A rotate by less than a word is two shifts. -/
theorem Shift.value_rotate (x : W64) {n : Nat} (h : n < 64) :
    Shift.value .rol x n = (x <<< n) ||| (x >>> (64 - n)) ∧ Shift.value .ror x n = (x >>> n) ||| (x <<< (64 - n)) := by
  simp only [Shift.value, BitVec.rotateLeft_def, BitVec.rotateRight_def, Nat.mod_eq_of_lt h, and_self]

/-! ### Operations on A alone -/

/-- An instruction on registers alone, whose effect is known, on a ready engine. -/
theorem instrA_goesOn {s : State} {e : BitVec 7} {a b : Arch} (h : Ready s.m e a) {sp : InstrSpec} {mode : BitVec 4}
    {opnd : BitVec 20} {f : Arch → Arch} (hd : decodeCheck sp mode opnd a = none) (hb : f (beginArch a) = b) :
    .next { s with m := instrA sp e mode opnd f s.m } = goesOn s e a b := by
  rw [instrA_ready h sp mode opnd f hd, hb, goesOn]

/-- The difference of 0 and a number overflows for the least number alone. -/
theorem overflows_neg (x : W64) : overflows ((0#64).toInt - x.toInt) = decide (x = BitVec.intMin 64) := by
  have hmin : x = BitVec.intMin 64 ↔ x.toInt = -(2 ^ 63) := by rw [← BitVec.toInt_inj]; rfl
  have hlo := BitVec.le_toInt x
  have hhi := @BitVec.toInt_lt 64 x
  have h0 : (0#64).toInt = 0 := rfl
  rw [overflows, decide_eq_decide, hmin, h0]
  omega

/-- The magnitude of a number. -/
theorem neg_if_eq_natAbs (x : W64) : (if bit x 63 then 0#64 - x else x) = BitVec.ofNat 64 x.toInt.natAbs := by
  have hm : bit x 63 = x.msb := rfl
  rw [hm, BitVec.zero_sub, BitVec.toInt_eq_msb_cond]
  have hlt := x.isLt
  cases x.msb
  · simp
  · apply BitVec.eq_of_toNat_eq
    simp only [if_true, BitVec.toNat_neg, BitVec.toNat_ofNat]
    omega

/-- A word on top of another, as a number. -/
theorem toNat_append_mul {m n : Nat} (x : BitVec m) (y : BitVec n) : (x ++ y).toNat = x.toNat * 2 ^ n + y.toNat := by
  rw [BitVec.toNat_append, ← Nat.shiftLeft_add_eq_or_of_lt y.isLt, Nat.shiftLeft_eq]

/-- The bytes reversed, as a list gives them. -/
theorem bswap_eq (x : W64) : bswap x = BitVec.ofNat 64 (leNat ((bytesOf x 0 8).reverse)) := by
  apply BitVec.eq_of_toNat_eq
  have hb : ∀ i, (byteOf x i).toNat < 256 := fun i => (byteOf x i).isLt
  show (byteOf x 0 ++ byteOf x 1 ++ byteOf x 2 ++ byteOf x 3 ++ byteOf x 4 ++ byteOf x 5 ++ byteOf x 6 ++ byteOf x 7).toNat = _
  simp only [toNat_append_mul]
  simp only [bytesOf, List.reverse_cons, List.reverse_nil, List.nil_append, List.cons_append, leNat, BitVec.toNat_ofNat,
    Nat.reduceAdd]
  have h0 := hb 0; have h1 := hb 1; have h2 := hb 2; have h3 := hb 3
  have h4 := hb 4; have h5 := hb 5; have h6 := hb 6; have h7 := hb 7
  omega

/-- The leading zeros of the `k` low bits: what lies above the highest one bit. -/
theorem clz_spec (x : W64) (k : Nat) : clz x k ≤ k ∧ (∀ i, k - clz x k ≤ i → i < k → x.getLsbD i = false) ∧
    (clz x k < k → x.getLsbD (k - 1 - clz x k) = true) := by
  induction k with
  | zero => simp [clz]
  | succ k ih =>
    obtain ⟨hle, hzero, hone⟩ := ih
    unfold clz
    by_cases hb : bit x k = true
    · rw [if_pos hb]
      exact ⟨Nat.zero_le _, fun i h1 h2 => by omega, fun _ => hb⟩
    · rw [if_neg hb]
      refine ⟨by omega, fun i h1 h2 => ?_, fun h => ?_⟩
      · by_cases hi : i = k
        · rw [hi]; exact Bool.eq_false_iff.mpr hb
        · exact hzero i (by omega) (by omega)
      · rw [show k + 1 - 1 - (1 + clz x k) = k - 1 - clz x k by omega]
        exact hone (by omega)

/-- The trailing zeros of the `k` bits from bit `i` upwards: what lies below the lowest one bit. -/
theorem ctz_spec (x : W64) (k i : Nat) : ctz x i k ≤ k ∧ (∀ j, j < ctz x i k → x.getLsbD (i + j) = false) ∧
    (ctz x i k < k → x.getLsbD (i + ctz x i k) = true) := by
  induction k generalizing i with
  | zero => simp [ctz]
  | succ k ih =>
    obtain ⟨hle, hzero, hone⟩ := ih (i + 1)
    unfold ctz
    by_cases hb : bit x i = true
    · rw [if_pos hb]
      exact ⟨Nat.zero_le _, fun j hj => absurd hj (Nat.not_lt_zero _), fun _ => hb⟩
    · rw [if_neg hb]
      refine ⟨by omega, fun j hj => ?_, fun h => ?_⟩
      · rcases j with _ | j
        · exact Bool.eq_false_iff.mpr hb
        · rw [← Nat.add_assoc, Nat.add_right_comm]
          exact hzero j (by omega)
      · rw [← Nat.add_assoc]
        exact hone (by omega)

/-- The one bits among the lowest `k`. -/
theorem popcount_eq (x : W64) (k : Nat) : popcount x k = ((List.range k).filter fun i => x.getLsbD i).length := by
  induction k with
  | zero => rfl
  | succ k ih =>
    have hb : bit x k = x.getLsbD k := rfl
    rw [List.range_succ, List.filter_append, List.length_append, ← ih, popcount, hb]
    cases h : x.getLsbD k <;> simp [h, Nat.add_comm]

/-- Settles O3: a shift is an instruction with a value operand, a rotate two shifts (`Shift.value_rotate`); each operation on A is
its effect on the registers, with what `clz_spec`, `ctz_spec`, `popcount_eq`, `bswap_eq` and `neg_if_eq_natAbs` say of its value. -/
theorem shiftsAndSingleOperands : Obligations.ShiftsAndSingleOperands := by
  unfold Obligations.ShiftsAndSingleOperands
  refine ⟨?_, ?_⟩
  · intro s e a mode opnd v step h hc hv n res
    have hn : n < 64 := Nat.mod_lt _ (by decide)
    have go (k : LdOp) (sh : Shift) (r : W64) (hk : k.plainValue = true) (hv : valueIs s.m e a k mode opnd v step)
        (hs : valueEffect k v (beginArch a) = resShift sh (beginArch a) v) (hr : sh.value a.a n = r) :
        .next { s with m := instrV k e mode opnd false s.m } = res r (sh.out a.a n) := by
      rw [instrV_takes h k hc hv hk (hs.trans (resShift_beginArch sh a v)), ← hr]
      rfl
    exact ⟨go .shl .shl _ rfl hv rfl rfl, go .shr .shr _ rfl hv rfl rfl, go .sar .sar _ rfl hv rfl rfl,
      go .rol .rol _ rfl hv rfl (Shift.value_rotate a.a hn).1, go .ror .ror _ rfl hv rfl (Shift.value_rotate a.a hn).2⟩
  · intro s e a h b
    have go (f : Arch → Arch) {n : Arch} (hn : f b = n) :
        .next { s with m := instrA (plain .n) e 0 0 f s.m } = goesOn s e a n :=
      instrA_goesOn h (decodeCheck_outside .n false 0 0 a (by decide) h.outside) hn
    have count (k : Nat) : countSem k b = { b with a := BitVec.ofNat 64 k, f := setZ a.f (decide (k = 0)) } := by
      simp only [countSem, b, f_beginArch]
    have ext (opnd : BitVec 20) (r : W64) (hraw : ¬ 2 < opnd.toNat) (hr : sextSem opnd b = resZN b r) :
        exec (.sext e 0 opnd) s = goesOn s e a { b with a := r, f := setZN a.f r } :=
      instrA_goesOn h (decodeCheck_none (by rfl) (if_neg hraw) h.outside (Nat.le_of_lt_succ a.ring.isLt))
        (hr.trans (resZN_beginArch a r))
    refine ⟨go _ ?_, go _ ?_, go _ ?_, go _ ?_, ⟨clz a.a 64, go _ ?_, clz_spec a.a 64⟩,
      ⟨ctz a.a 0 64, go _ ?_, ?_⟩, go _ ?_, ext 0 _ (by decide) ?_, ext 1 _ (by decide) ?_, ext 2 _ (by decide) ?_⟩
    · simp only [b, a_beginArch, resZNCV_beginArch, subB_false, overflows_neg]
      rw [show decide ((0#64).toNat < a.a.toNat) = decide (a.a ≠ 0) by
        rw [decide_eq_decide, ← BitVec.toNat_ne_iff_ne]; exact Nat.pos_iff_ne_zero]
      rfl
    · simp only [b, a_beginArch, resZN_beginArch]
    · simp only [b, absSem, a_beginArch, f_beginArch, neg_if_eq_natAbs]
      rfl
    · simp only [b, a_beginArch, bswap_eq]
    · rw [a_beginArch]; exact count _
    · rw [a_beginArch]; exact count _
    · simpa only [Nat.zero_add] using ctz_spec a.a 64 0
    · rw [a_beginArch, ← popcount_eq]; exact count _
    all_goals simp only [b, sextSem, fld_zero, a_beginArch]; rfl

end Sys2Proof.Machine
end

section
/-! PROOFS. Moves between the data registers, the flags, hints and selections (O4, R86, R89, R90, R91, R96). -/

namespace Sys2Proof.Machine

open Sys2Proof

set_option Elab.async false -- one proof at a time: the threads of many at once exceed the memory of a check

theorem m_beginArch (a : Arch) : (beginArch a).m = a.m := by unfold beginArch countDist; split <;> rfl

/-- A word moved up by 20 bits, with an operand below it. -/
theorem shiftLeft_or_operand (x : W64) (opnd : BitVec 20) :
    (x <<< 20) ||| opnd.setWidth 64 = BitVec.ofNat 64 (x.toNat * 2 ^ 20 + opnd.toNat) := by
  have hadd : (x <<< 20) ||| opnd.setWidth 64 = (x <<< 20) + opnd.setWidth 64 := by
    refine (BitVec.add_eq_or_of_and_eq_zero _ _ (BitVec.eq_of_getLsbD_eq fun i hi => ?_)).symm
    simp only [BitVec.getLsbD_and, BitVec.getLsbD_shiftLeft, BitVec.getLsbD_setWidth, BitVec.getLsbD_zero]
    by_cases h20 : i < 20
    · simp [h20]
    · rw [BitVec.getLsbD_of_ge opnd i (by omega)]
      simp
  apply BitVec.eq_of_toNat_eq
  have hlt := opnd.isLt
  simp only [hadd, BitVec.toNat_add, BitVec.toNat_shiftLeft, BitVec.toNat_setWidth, BitVec.toNat_ofNat, Nat.shiftLeft_eq]
  omega

/-- The bits of F that MTF writes (R90). -/
theorem getLsbD_fMask (i : Nat) : fMask.getLsbD i = decide (i < 14 ∧ i ≠ 5 ∧ i ≠ 6) := by
  by_cases hi : i < 64
  · exact (by decide : ∀ i, i < 64 → fMask.getLsbD i = decide (i < 14 ∧ i ≠ 5 ∧ i ≠ 6)) i hi
  · rw [BitVec.getLsbD_of_ge _ _ (by omega), eq_comm, decide_eq_false_iff_not]
    omega

/-- A condition of R91 stands alone in the operand of SETC and SELC. -/
theorem operand_cond : ∀ c : BitVec 4, c ≠ 15#4 → fld (c.setWidth 20) 0 4 = c ∧
    ((rawZero 4 16 (c.setWidth 20)).or (if fld (c.setWidth 20) 0 4 = 0xF#4 then some (excIllegal 0x04) else none)) = none := by
  decide

/-- Settles O4: each row is its effect on the registers (`instrA_goesOn`); FENCE finds the buffers of a ready engine empty. -/
theorem moves : Obligations.Moves := by
  unfold Obligations.Moves
  intro s e a h b
  have go (f : Arch → Arch) {n : Arch} (hn : f b = n) :
      .next { s with m := instrA (plain .n) e 0 0 f s.m } = goesOn s e a n :=
    instrA_goesOn h (decodeCheck_outside .n false 0 0 a (by decide) h.outside) hn
  have select (f : Arch → Arch) {n : Arch} (c : BitVec 4) (hc : c ≠ 15#4) (hn : f b = n) :
      .next { s with m := instrA ⟨.i, false, fun o =>
        (rawZero 4 16 o).or (if fld o 0 4 = 0xF#4 then some (excIllegal 0x04) else none), 3⟩ e 0 (c.setWidth 20) f s.m }
        = goesOn s e a n :=
    instrA_goesOn h (decodeCheck_none rfl (operand_cond c hc).2 h.outside (Nat.le_of_lt_succ a.ring.isLt)) hn
  have hA : b.a = a.a := a_beginArch a
  have hE : b.e = a.e := e_beginArch a
  have hM : b.m = a.m := m_beginArch a
  have hF : b.f = a.f := f_beginArch a
  refine ⟨go _ rfl, fun k mode opnd => ?_, go _ ?_, go _ ?_, go _ ?_, go _ ?_, go _ ?_, fun opnd => ?_, go _ ?_,
    ⟨b.a &&& fMask, go _ rfl, fun i => ?_⟩, fun c hc => select _ c hc ?_, fun c hc => select _ c hc ?_, ?_⟩
  · exact instrA_goesOn h (decodeCheck_outside .h false mode opnd a rfl h.outside) rfl
  · rw [hE]
  · rw [hA]
  · rw [hM]
  · rw [hA]
  · rw [hA, hE]
  · refine instrA_goesOn h (decodeCheck_outside .i false 0 opnd a rfl h.outside) ?_
    simp only [b, a_beginArch, shiftLeft_or_operand]
  · rw [hF]
  · rw [BitVec.getLsbD_and, hA, getLsbD_fMask]
  · rw [hF, (operand_cond c hc).1]; rfl
  · rw [hF, hA, hE, (operand_cond c hc).1]
  · show Host.Outcome.next { s with m := instr (plain .n) e 0 0 .empty _ s.m } = _
    rw [instr_regs h (plain .n) 0 0 .empty _ (decodeCheck_outside .n false 0 0 a (by decide) h.outside) rfl, goesOn]

end Sys2Proof.Machine
end

section
/-! PROOFS. Binary64 numbers by their bits: class, order, NaN (R86, R94). -/

namespace Sys2Proof.Machine

open Sys2Proof

set_option Elab.async false -- one proof at a time: the threads of many at once exceed the memory of a check

/-! ### The fields of a binary64 -/

def expoOf (x : W64) : Nat := x.toNat / 2 ^ 52 % 2048
def fracOf (x : W64) : Nat := x.toNat % 2 ^ 52
def negOf (x : W64) : Bool := decide (2 ^ 63 ≤ x.toNat)
def nanOf (x : W64) : Bool := decide (expoOf x = 2047 ∧ fracOf x ≠ 0)
def quietOf (x : W64) : Bool := decide (2 ^ 51 ≤ fracOf x)

/-- The bits below the sign: exponent and fraction as one number, in which magnitudes have their order. -/
def sizeOf64 (x : W64) : Nat := x.toNat % 2 ^ 63

/-- The order of the numbers, both zeros equal. -/
def numOf (x : W64) : Int := if negOf x then -(sizeOf64 x) else sizeOf64 x

/-- The order in which -0 lies below +0. -/
def placeOf (x : W64) : Int := if negOf x then -(sizeOf64 x) - 1 else sizeOf64 x

theorem fracOf_lt (x : W64) : fracOf x < 2 ^ 52 := Nat.mod_lt _ (by decide)

theorem expoOf_lt (x : W64) : expoOf x < 2048 := Nat.mod_lt _ (by decide)

theorem sizeOf64_eq (x : W64) : sizeOf64 x = expoOf x * 2 ^ 52 + fracOf x := by
  unfold sizeOf64 expoOf fracOf; omega

/-- A binary64 taken apart. -/
theorem f64_eq (x : W64) : f64 x =
    if expoOf x = 2047 then (if fracOf x = 0 then .inf (negOf x) else .nan (!quietOf x))
    else if expoOf x = 0 then .fin (negOf x) (fracOf x) (-1074)
    else .fin (negOf x) (fracOf x + 2 ^ 52) (expoOf x - 1075) := by
  have hlt := x.isLt
  have hs : decide ((x.toNat / 2 ^ 63) % 2 = 1) = negOf x := by
    rw [negOf, decide_eq_decide]; omega
  have hq : decide (fracOf x / 2 ^ 51 = 0) = !quietOf x := by
    rw [quietOf, ← decide_not, decide_eq_decide]; omega
  have he : ∀ n : Nat, (n : Int) - 1023 - 52 = n - 1075 := fun n => by omega
  show (if expoOf x = 2047 then if fracOf x = 0 then FVal.inf (decide ((x.toNat / 2 ^ 63) % 2 = 1))
      else .nan (decide (fracOf x / 2 ^ 51 = 0))
    else if expoOf x = 0 then .fin (decide ((x.toNat / 2 ^ 63) % 2 = 1)) (fracOf x) (-1074)
    else .fin (decide ((x.toNat / 2 ^ 63) % 2 = 1)) (fracOf x + 2 ^ 52) ((expoOf x : Int) - 1023 - 52)) = _
  rw [hs, hq, he]

theorem isNaN_f64 (x : W64) : (f64 x).isNaN = nanOf x := by
  rw [f64_eq, nanOf]
  by_cases he : expoOf x = 2047
  · by_cases hf : fracOf x = 0 <;> simp [he, hf, FVal.isNaN]
  · by_cases h0 : expoOf x = 0 <;> simp [he, h0, FVal.isNaN]

theorem snan_f64 (x : W64) : (f64 x).snan = (nanOf x && !quietOf x) := by
  rw [f64_eq, nanOf]
  by_cases he : expoOf x = 2047
  · by_cases hf : fracOf x = 0 <;> simp [he, hf, FVal.snan]
  · by_cases h0 : expoOf x = 0 <;> simp [he, h0, FVal.snan]

theorem sign_f64 {x : W64} (hx : nanOf x = false) : (f64 x).sign = negOf x := by
  rw [f64_eq]
  rw [nanOf, decide_eq_false_iff_not] at hx
  by_cases he : expoOf x = 2047
  · have hf : fracOf x = 0 := by_contra fun hf => hx ⟨he, hf⟩
    simp [he, hf, FVal.sign]
  · by_cases h0 : expoOf x = 0 <;> simp [he, h0, FVal.sign]

/-! ### The order of the numbers -/

/-- The magnitude of the finite number whose exponent and fraction are those of `n`, in units of the least one. -/
def magOf (n : Nat) : Nat := if n / 2 ^ 52 = 0 then n % 2 ^ 52 else (n % 2 ^ 52 + 2 ^ 52) * 2 ^ (n / 2 ^ 52 - 1)

theorem magOf_strictMono : StrictMono magOf := by
  refine strictMono_nat_of_lt_succ fun n => ?_
  unfold magOf
  have hf : n % 2 ^ 52 < 2 ^ 52 := Nat.mod_lt _ (by decide)
  by_cases hc : n % 2 ^ 52 + 1 < 2 ^ 52
  · have h1 : (n + 1) / 2 ^ 52 = n / 2 ^ 52 := by omega
    have h2 : (n + 1) % 2 ^ 52 = n % 2 ^ 52 + 1 := by omega
    rw [h1, h2]
    split
    · omega
    · exact Nat.mul_lt_mul_of_pos_right (by omega) (by positivity)
  · have h1 : (n + 1) / 2 ^ 52 = n / 2 ^ 52 + 1 := by omega
    have h2 : (n + 1) % 2 ^ 52 = 0 := by omega
    have h3 : n % 2 ^ 52 = 2 ^ 52 - 1 := by omega
    rw [h1, h2, h3, if_neg (Nat.succ_ne_zero _), Nat.add_sub_cancel]
    by_cases h0 : n / 2 ^ 52 = 0
    · rw [if_pos h0, h0]; decide
    · obtain ⟨k, hk⟩ := Nat.exists_eq_succ_of_ne_zero h0
      have hp : 0 < 2 ^ k := by positivity
      rw [if_neg h0, hk, Nat.succ_sub_one, pow_succ 2 k]
      omega

/-- A magnitude with its sign. -/
def signed (s : Bool) (n : Nat) : Int := if s then -n else n

theorem signed_lt {f : Nat → Nat} (hf : StrictMono f) (h0 : f 0 = 0) (s t : Bool) (m n : Nat) :
    signed s (f m) < signed t (f n) ↔ signed s m < signed t n := by
  have hmn := hf.lt_iff_lt (a := m) (b := n)
  have hnm := hf.lt_iff_lt (a := n) (b := m)
  have hm := hf.lt_iff_lt (a := 0) (b := m)
  have hn := hf.lt_iff_lt (a := 0) (b := n)
  rw [h0] at hm hn
  cases s <;> cases t <;> simp only [signed, if_true, if_false, Bool.false_eq_true] <;> omega

/-- A finite number as its sign and its magnitude. -/
theorem f64_finite {x : W64} (hx : expoOf x ≠ 2047) : ∃ m e, f64 x = .fin (negOf x) m e ∧ -1074 ≤ e ∧
    m * 2 ^ (e + 1074).toNat = magOf (sizeOf64 x) := by
  have hf := fracOf_lt x
  have he : sizeOf64 x / 2 ^ 52 = expoOf x := by rw [sizeOf64_eq]; omega
  have hr : sizeOf64 x % 2 ^ 52 = fracOf x := by rw [sizeOf64_eq]; omega
  rw [f64_eq, if_neg hx, magOf, he, hr]
  by_cases h0 : expoOf x = 0
  · rw [if_pos h0, if_pos h0]
    exact ⟨_, _, rfl, by decide, Nat.mul_one _⟩
  · rw [if_neg h0, if_neg h0]
    refine ⟨_, _, rfl, by omega, ?_⟩
    rw [show ((expoOf x : Int) - 1075 + 1074).toNat = expoOf x - 1 by omega]

theorem signed_mul (s : Bool) (n k : Nat) : signed s (n * k) = signed s n * k := by
  cases s <;> simp [signed]

/-- Finite numbers compare as their magnitudes with their signs. -/
theorem cmpF_fin (s t : Bool) (m n : Nat) (e f : Int) (he : -1074 ≤ e) (hf : -1074 ≤ f) :
    let x := signed s (m * 2 ^ (e + 1074).toNat)
    let y := signed t (n * 2 ^ (f + 1074).toNat)
    cmpF (.fin s m e) (.fin t n f) = if x < y then .lt else if x = y then .eq else .gt := by
  intro x y
  have hscaled (s : Bool) (m : Nat) (e lo : Int) : scaled s m e lo = signed s (m * 2 ^ (e - lo).toNat) := by
    cases s <;> simp [scaled, signed]
  have key (lo : Int) (hlo : -1074 ≤ lo) (s : Bool) (m : Nat) (e : Int) (h : lo ≤ e) :
      signed s (m * 2 ^ (e + 1074).toNat) = scaled s m e lo * (2 ^ (lo + 1074).toNat : Nat) := by
    rw [hscaled, ← signed_mul, Nat.mul_assoc, ← Nat.pow_add]
    congr 3
    omega
  unfold cmpF
  dsimp only
  generalize hl : (if e ≤ f then e else f) = lo
  have hlo : -1074 ≤ lo ∧ lo ≤ e ∧ lo ≤ f := by
    rw [← hl]; split <;> omega
  have hpos : (0 : Int) < (2 ^ (lo + 1074).toNat : Nat) := by positivity
  simp only [x, y, key lo hlo.1 s m e hlo.2.1, key lo hlo.1 t n f hlo.2.2, Int.mul_lt_mul_right hpos,
    Int.mul_eq_mul_right_iff (ne_of_gt hpos)]

/-- Numbers compare as `numOf` orders them. -/
theorem cmpF_num {x y : W64} (hx : nanOf x = false) (hy : nanOf y = false) :
    cmpF (f64 x) (f64 y) = if numOf x < numOf y then .lt else if numOf x = numOf y then .eq else .gt := by
  have hinf {z : W64} (hz : nanOf z = false) (he : expoOf z = 2047) :
      f64 z = .inf (negOf z) ∧ numOf z = if negOf z then -(2047 * 2 ^ 52) else 2047 * 2 ^ 52 := by
    rw [nanOf, decide_eq_false_iff_not] at hz
    have hf : fracOf z = 0 := by_contra fun hf => hz ⟨he, hf⟩
    rw [f64_eq, if_pos he, if_pos hf, numOf, sizeOf64_eq, he, hf]
    exact ⟨rfl, rfl⟩
  have hfin {z : W64} (he : expoOf z ≠ 2047) : -(2047 * 2 ^ 52) < numOf z ∧ numOf z < 2047 * 2 ^ 52 := by
    have := fracOf_lt z
    have := expoOf_lt z
    rw [numOf, sizeOf64_eq]
    split <;> omega
  by_cases hex : expoOf x = 2047 <;> by_cases hey : expoOf y = 2047
  · obtain ⟨h1, h2⟩ := hinf hx hex
    obtain ⟨h3, h4⟩ := hinf hy hey
    rw [h1, h3, h2, h4]
    cases negOf x <;> cases negOf y <;> rfl
  · obtain ⟨h1, h2⟩ := hinf hx hex
    obtain ⟨m, e, h3, -, -⟩ := f64_finite hey
    obtain ⟨hlo, hhi⟩ := hfin hey
    rw [h1, h3, h2]
    cases negOf x
    · rw [if_neg Bool.false_ne_true, if_neg (by omega), if_neg (by omega)]; rfl
    · rw [if_pos rfl, if_pos hlo]; rfl
  · obtain ⟨h1, h2⟩ := hinf hy hey
    obtain ⟨m, e, h3, -, -⟩ := f64_finite hex
    obtain ⟨hlo, hhi⟩ := hfin hex
    rw [h1, h3, h2]
    cases negOf y
    · rw [if_neg Bool.false_ne_true, if_pos hhi]; rfl
    · rw [if_pos rfl, if_neg (by omega), if_neg (by omega)]; rfl
  · obtain ⟨m, e, h1, he, hm⟩ := f64_finite hex
    obtain ⟨n, f, h3, hf, hn⟩ := f64_finite hey
    have hlt := signed_lt magOf_strictMono rfl (negOf x) (negOf y) (sizeOf64 x) (sizeOf64 y)
    have hgt := signed_lt magOf_strictMono rfl (negOf y) (negOf x) (sizeOf64 y) (sizeOf64 x)
    have hlt' : signed (negOf x) (magOf (sizeOf64 x)) < signed (negOf y) (magOf (sizeOf64 y)) ↔ numOf x < numOf y := hlt
    have heq : signed (negOf x) (magOf (sizeOf64 x)) = signed (negOf y) (magOf (sizeOf64 y)) ↔ numOf x = numOf y := by
      rw [le_antisymm_iff, le_antisymm_iff, ← not_lt, ← not_lt, hlt, hgt, not_lt, not_lt]
      rfl
    rw [h1, h3, cmpF_fin _ _ _ _ _ _ he hf, hm, hn]
    simp only [hlt', heq]

/-- A NaN compares with nothing. -/
theorem cmpF_nan {x y : W64} (h : (nanOf x || nanOf y) = true) : cmpF (f64 x) (f64 y) = .un := by
  rw [← isNaN_f64, ← isNaN_f64] at h
  revert h
  cases f64 x <;> cases f64 y <;> simp [FVal.isNaN, cmpF]

end Sys2Proof.Machine
end

section
/-! PROOFS. Floating-point operations that complete at once (O6, R86, R94). -/

namespace Sys2Proof.Machine

open Sys2Proof

set_option Elab.async false -- one proof at a time: the threads of many at once exceed the memory of a check

/-! ### Flags -/

/-- A flag set in F, bit by bit. -/
theorem getLsbD_setFlag (f : W64) {i : Nat} (hi : i < 64) (b : Bool) (j : Nat) :
    (setFlag f i b).getLsbD j = if j = i then b else f.getLsbD j := by
  unfold setFlag setFld
  simp only [BitVec.getLsbD_or, BitVec.getLsbD_and, BitVec.getLsbD_not, BitVec.getLsbD_shiftLeft, BitVec.getLsbD_setWidth,
    BitVec.getLsbD_allOnes]
  have hb : ∀ k, (if b then 1#1 else 0#1).getLsbD k = (b && decide (k = 0)) := by
    intro k; cases b <;> simp [BitVec.getLsbD_one]
  rw [hb]
  by_cases hj : j = i
  · subst hj; simp [hi]
  · by_cases hlt : j < 64
    · by_cases hji : j < i
      · simp [hj, hlt, hji]
      · have h1 : j - i ≠ 0 := by omega
        have h2 : ¬ j - i < 1 := by omega
        simp [hj, hlt, hji, h1, h2]
    · simp [hj, hlt, BitVec.getLsbD_of_ge f j (by omega)]

/-- The flags after an operation on numbers: NV with a signalling NaN (R94). -/
theorem stick_snan (f x y : W64) :
    stick f (snanFlag x y) = if (nanOf x && !quietOf x) || (nanOf y && !quietOf y) then f ||| ((1 : W64) <<< (13 : Nat)) else f := by
  rw [stick, snanFlag, snan_f64, snan_f64]
  split
  · rfl
  · exact BitVec.or_zero

/-- The flags of FCMP are the sticky ones below its own five. -/
theorem getLsbD_fcmpFlags (f x y : W64) (i : Nat) : (fcmpFlags f x y).getLsbD i =
    if i = 0 then cmpF (f64 x) (f64 y) == .eq else if i = 1 then cmpF (f64 x) (f64 y) == .lt
    else if i = 2 ∨ i = 3 then false else if i = 4 then cmpF (f64 x) (f64 y) == .un
    else (stick f (snanFlag x y)).getLsbD i := by
  have hput (j : Nat) (hj : j < 9) : (put 64 (snanFlag x y) 9).getLsbD j = false := getLsbD_put_of_lt _ hj
  simp only [fcmpFlags, stick, setU, setV, setC, setN, setZ, BitVec.getLsbD_or,
    getLsbD_setFlag _ (show 0 < 64 by decide), getLsbD_setFlag _ (show 1 < 64 by decide),
    getLsbD_setFlag _ (show 2 < 64 by decide), getLsbD_setFlag _ (show 3 < 64 by decide),
    getLsbD_setFlag _ (show 4 < 64 by decide)]
  by_cases hi : i < 5
  · rw [hput i (by omega), Bool.or_false]
    interval_cases i <;> rfl
  · rw [if_neg (by omega), if_neg (by omega), if_neg (by omega), if_neg (by omega), if_neg (by omega), if_neg (by omega),
      if_neg (by omega), if_neg (by omega), if_neg (by omega)]

/-- How two numbers compare, as FCMP tells it. -/
theorem cmpF_flags (x y : W64) :
    (cmpF (f64 x) (f64 y) == .eq) = (!(nanOf x || nanOf y) && decide (numOf x = numOf y)) ∧
    (cmpF (f64 x) (f64 y) == .lt) = (!(nanOf x || nanOf y) && decide (numOf x < numOf y)) ∧
    (cmpF (f64 x) (f64 y) == .un) = (nanOf x || nanOf y) := by
  cases hn : nanOf x || nanOf y
  · obtain ⟨hx, hy⟩ := Bool.or_eq_false_iff.mp hn
    rw [cmpF_num hx hy]
    rcases lt_trichotomy (numOf x) (numOf y) with h | h | h
    · simp [h, ne_of_lt h]
    · simp [h]
    · simp [not_lt_of_gt h, (ne_of_lt h).symm]
  · simp [cmpF_nan hn]

/-! ### The smaller and the larger -/

/-- The place of a number tells it. -/
theorem placeOf_inj {x y : W64} (h : placeOf x = placeOf y) : x = y := by
  have hx := x.isLt
  have hy := y.isLt
  apply BitVec.eq_of_toNat_eq
  unfold placeOf negOf sizeOf64 at h
  simp only [decide_eq_true_eq] at h
  split at h <;> split at h <;> omega

/-- A number lies below another, -0 below +0. -/
theorem cmpF_below {x y : W64} (hx : nanOf x = false) (hy : nanOf y = false) :
    (cmpF (f64 x) (f64 y) == .lt || (cmpF (f64 x) (f64 y) == .eq && (f64 x).sign && !(f64 y).sign))
      = decide (placeOf x < placeOf y) := by
  obtain ⟨heq, hlt, -⟩ := cmpF_flags x y
  rw [heq, hlt, sign_f64 hx, sign_f64 hy, hx, hy]
  unfold numOf placeOf
  cases negOf x <;> cases negOf y <;> simp <;> omega

theorem minmaxF_eq (x y : W64) :
    minmaxF false x y = (if nanOf x || nanOf y then 0x7FF8_0000_0000_0000#64
      else if decide (placeOf x ≤ placeOf y) then x else y) ∧
    minmaxF true x y = (if nanOf x || nanOf y then 0x7FF8_0000_0000_0000#64
      else if decide (placeOf y ≤ placeOf x) then x else y) := by
  unfold minmaxF
  dsimp only
  rw [isNaN_f64, isNaN_f64]
  cases hn : nanOf x || nanOf y
  · obtain ⟨hx, hy⟩ := Bool.or_eq_false_iff.mp hn
    rw [cmpF_below hx hy]
    refine ⟨?_, ?_⟩
    · rcases lt_trichotomy (placeOf x) (placeOf y) with h | h | h
      · simp [h, le_of_lt h]
      · simp [placeOf_inj h]
      · simp [not_lt_of_gt h, h]
    · by_cases h : placeOf x < placeOf y
      · simp [h]
      · simp [h, not_lt.mp h]
  · exact ⟨rfl, rfl⟩

/-! ### Class and sign -/

/-- The number of the bit that FCLASS sets. -/
theorem classF_f64 (x : W64) : classF binary64 (f64 x) =
    if expoOf x = 2047 then (if fracOf x = 0 then (if negOf x then 0 else 7) else if quietOf x then 9 else 8)
    else if expoOf x = 0 then (if fracOf x = 0 then (if negOf x then 3 else 4) else if negOf x then 2 else 5)
    else if negOf x then 1 else 6 := by
  have hf : fracOf x < 4503599627370496 := fracOf_lt x
  rw [f64_eq]
  by_cases he : expoOf x = 2047
  · by_cases hz : fracOf x = 0 <;> cases quietOf x <;> simp [he, hz, classF]
  · by_cases h0 : expoOf x = 0
    · simp [h0, classF, binary64, hf]
    · simp [he, h0, classF, binary64]

/-- The magnitude of a number: its bits below the sign. -/
theorem and_size (x : W64) : x &&& 0x7FFF_FFFF_FFFF_FFFF#64 = BitVec.ofNat 64 (sizeOf64 x) := by
  have hlt := x.isLt
  apply BitVec.eq_of_toNat_eq
  rw [BitVec.toNat_and, show (0x7FFF_FFFF_FFFF_FFFF#64).toNat = 2 ^ 63 - 1 from rfl, Nat.and_two_pow_sub_one_eq_mod,
    BitVec.toNat_ofNat, sizeOf64]
  omega

/-- Settles O6: the order of two numbers is that of `numOf` (`cmpF_flags`) and, with -0 below +0, of `placeOf` (`minmaxF_eq`);
class and magnitude are read off the fields. -/
theorem floatingPointAtOnce : Obligations.FloatingPointAtOnce := by
  unfold Obligations.FloatingPointAtOnce
  intro s e a mode opnd v step h hc hv b expo frac neg nan quiet un signals size num place flags picks
  have hA : b.a = a.a := a_beginArch a
  have hF : b.f = a.f := f_beginArch a
  have go (f : Arch → Arch) {n : Arch} (hn : f b = n) :
      .next { s with m := instrA (plain .n) e 0 0 f s.m } = goesOn s e a n :=
    instrA_goesOn h (decodeCheck_outside .n false 0 0 a (by decide) h.outside) hn
  have hflags : stick a.f (snanFlag a.a v) = flags := stick_snan a.f a.a v
  refine ⟨⟨fcmpFlags a.f a.a v, instrV_takes h .fcmp hc hv rfl ?_, fun i => ?_⟩, instrV_takes h .fmin hc hv rfl ?_,
    instrV_takes h .fmax hc hv rfl ?_, go _ ?_, go _ ?_, go _ ?_⟩
  · simp only [valueEffect, a_beginArch, f_beginArch, b]
  · obtain ⟨heq, hlt, hun⟩ := cmpF_flags a.a v
    rw [getLsbD_fcmpFlags, heq, hlt, hun, hflags]
    rfl
  · show { b with a := minmaxF false b.a v, f := stick b.f (snanFlag b.a v) } = _
    rw [hA, hF, (minmaxF_eq a.a v).1, hflags]
    rfl
  · show { b with a := minmaxF true b.a v, f := stick b.f (snanFlag b.a v) } = _
    rw [hA, hF, (minmaxF_eq a.a v).2, hflags]
    rfl
  · rw [hA]
    rfl
  · rw [hA, and_size]
    rfl
  · have hpow (n : Nat) : BitVec.ofNat 64 (2 ^ n) = (1 : W64) <<< n := by
      apply BitVec.eq_of_toNat_eq
      simp [Nat.shiftLeft_eq]
    rw [hA, classF_f64, hpow]
    rfl

end Sys2Proof.Machine
end

section
/-! PROOFS. The registers that an instruction finds, and its ways of going on (R72, R75, R76, R150). -/

namespace Sys2Proof.Machine

open Sys2Proof

set_option Elab.async false -- one proof at a time: the threads of many at once exceed the memory of a check

/-! ### The registers as an instruction finds them -/

/-- Before an instruction only the pending load is taken out and the distance counted (R72, R75). -/
theorem beginArch_frame (a : Arch) : beginArch a = { a with lpend := false, ldist := (beginArch a).ldist } := by
  unfold beginArch countDist; split <;> rfl

theorem pcc_beginArch (a : Arch) : (beginArch a).pcc = a.pcc := (congrArg Arch.pcc (beginArch_frame a) :)

theorem ssp_beginArch (a : Arch) : (beginArch a).ssp = a.ssp := (congrArg Arch.ssp (beginArch_frame a) :)

theorem rstate_beginArch (a : Arch) : (beginArch a).rstate = a.rstate := (congrArg Arch.rstate (beginArch_frame a) :)

theorem rcnt_beginArch (a : Arch) : (beginArch a).rcnt = a.rcnt := (congrArg Arch.rcnt (beginArch_frame a) :)

theorem tsbr_beginArch (a : Arch) : (beginArch a).tsbr = a.tsbr := (congrArg Arch.tsbr (beginArch_frame a) :)

theorem inBody_beginArch (a : Arch) : inBody (beginArch a) = inBody a := by rw [inBody, rstate_beginArch, inBody]

theorem branchTarget_beginArch (a : Arch) (opnd : BitVec 20) : branchTarget (beginArch a) opnd = branchTarget a opnd := by
  rw [branchTarget, pcc_beginArch, branchTarget]

/-- A long operation gives M, E and F. -/
theorem longResult_frame (a : Arch) :
    longResult a = { a with e := (longResult a).e, m := (longResult a).m, f := (longResult a).f } := by
  unfold longResult setEM setMF
  dsimp only
  repeat' split
  all_goals rfl

theorem completeLong_frame (a : Arch) : completeLong a = { a with
    e := (completeLong a).e, m := (completeLong a).m, f := (completeLong a).f, lop := (completeLong a).lop
    lopa := (completeLong a).lopa, lopb := (completeLong a).lopb, ldist := (completeLong a).ldist
    lrm := (completeLong a).lrm } := by
  unfold completeLong
  split
  · rfl
  · rw [longResult_frame]

/-- What is pending completes at once in A, E, M and F; no other register is touched (R76, R150). -/
theorem completeAll_frame (a : Arch) : completeAll a = { a with
    a := (completeAll a).a, e := (completeAll a).e, m := (completeAll a).m, f := (completeAll a).f
    lpend := (completeAll a).lpend, lval := (completeAll a).lval, lop := (completeAll a).lop, lopa := (completeAll a).lopa
    lopb := (completeAll a).lopb, ldist := (completeAll a).ldist, lrm := (completeAll a).lrm } := by
  unfold completeAll
  split <;> rw [completeLong_frame]

/-- The registers of an instruction before which all that is pending completes (R150). -/
def Arch.completed (a : Arch) : Arch := completeAll { beginArch a with lpend := a.lpend }

theorem completed_eq (a : Arch) : a.completed = completeAll { a with ldist := (beginArch a).ldist } := by
  unfold Arch.completed beginArch countDist
  split <;> rfl

theorem completed_frame (a : Arch) : a.completed = { a with
    a := a.completed.a, e := a.completed.e, m := a.completed.m, f := a.completed.f, lpend := a.completed.lpend
    lval := a.completed.lval, lop := a.completed.lop, lopa := a.completed.lopa, lopb := a.completed.lopb
    ldist := a.completed.ldist, lrm := a.completed.lrm } := by
  rw [completed_eq]
  exact completeAll_frame { a with ldist := (beginArch a).ldist }

/-! ### Ways of going on -/

theorem guardE_none {α : Type} {x : Option Exc} (h : x = none) (k : Except Exc α) : guardE x k = k := by
  rw [h, guardE]

/-- The decode checks of an instruction without a rule of its own but that no repeat body holds it. -/
theorem decodeCheck_any {k : Cls} {n : Bool} {mode : BitVec 4} {opnd : BitVec 20} {a : Arch}
    (hc : classCheck k mode opnd = none) (ho : inBody a = false) : decodeCheck ⟨k, n, fun _ => none, 3⟩ mode opnd a = none :=
  decodeCheck_none hc rfl ho (Nat.le_of_lt_succ a.ring.isLt)

/-- An instruction on registers alone that passes its checks, on a ready engine. -/
theorem instrE_goesOn {s : State} {e : BitVec 7} {a b : Arch} (h : Ready s.m e a) {sp : InstrSpec} {mode : BitVec 4}
    {opnd : BitVec 20} {F : Ctx → Arch → Except Exc Fx} (hd : decodeCheck sp mode opnd a = none)
    (hF : F ⟨s.m, e, []⟩ (beginArch a) = .ok (fx b)) :
    .next { s with m := instrE sp e mode opnd F s.m } = goesOn s e a b := by
  rw [instrE, instr_regs (b := b) h sp mode opnd .nothing _ hd (by rw [hF, toOut]), goesOn]

/-- An instruction that moves PCC and passes its checks, on a ready engine. -/
theorem instrE_jumpsTo {s : State} {e : BitVec 7} {a b : Arch} (h : Ready s.m e a) {sp : InstrSpec} {mode : BitVec 4}
    {opnd : BitVec 20} {F : Ctx → Arch → Except Exc Fx} (hd : decodeCheck sp mode opnd a = none)
    (hF : F ⟨s.m, e, []⟩ (beginArch a) = .ok (fxJump b)) :
    .next { s with m := instrE sp e mode opnd F s.m } = jumpsTo s e a b := by
  rw [instrE, instr_jump (b := b) h sp mode opnd .nothing _ hd (by rw [hF, toOut]), jumpsTo]

/-- An instruction that moves PCC, before which all that is pending completed, on a ready engine. -/
theorem instr_settled {m : Mach} {e : BitVec 7} {a b : Arch} (h : Ready m e a) {sp : InstrSpec} {mode : BitVec 4}
    {opnd : BitVec 20} {w : Before} {sem : Ctx → Arch → Bool → LaneOut} (hd : decodeCheck sp mode opnd a = none)
    (hs : sem ⟨m, e, []⟩ (beginArch a) a.lpend = .ok { fxJump b with settled := true }) :
    instr sp e mode opnd w sem m = m.retired e b none true [] := by
  have hlast : ({ fxJump b with settled := true } : Fx).last = b := rfl
  have hdue : ({ fxJump b with settled := true } : Fx).due a = none := rfl
  have hjump : ({ fxJump b with settled := true } : Fx).jump = true := rfl
  have hbuf : ({ fxJump b with settled := true } : Fx).buffer m e a = [] := rfl
  rw [instr_plain h sp mode opnd w sem { fxJump b with settled := true } hd hs rfl rfl rfl rfl, hlast, hdue, hjump, hbuf,
    issue_retired]

end Sys2Proof.Machine
end

section
/-! PROOFS. Branches, jumps, the start of a repeat block, and fast system calls (O12, R91, R102, R103, R105, R153, R154). -/

namespace Sys2Proof.Machine

open Sys2Proof

set_option Elab.async false -- one proof at a time: the threads of many at once exceed the memory of a check

/-- The length of a repeat body and its count, in the operand of REP (R102). -/
theorem operand_rep (opnd : BitVec 20) :
    (fld opnd 0 4).setWidth 36 = (opnd &&& 15#20).setWidth 36 ∧ (fld opnd 0 4).setWidth 64 = (opnd &&& 15#20).setWidth 64 ∧
      (fld opnd 4 16 = 0#16 ↔ opnd >>> 4 = 0#20) ∧ (fld opnd 4 16).setWidth 64 = (opnd >>> 4).setWidth 64 := by
  have hlow : opnd &&& 15#20 = (opnd.setWidth 4).setWidth 20 := by
    apply BitVec.eq_of_toNat_eq
    rw [BitVec.toNat_and, show (15#20).toNat = 2 ^ 4 - 1 from rfl, Nat.and_two_pow_sub_one_eq_mod]
    simp
    omega
  have hlt := opnd.isLt
  rw [fld_zero, fld_eq]
  refine ⟨?_, ?_, ?_, ?_⟩
  · rw [hlow]; bv_omega
  · rw [hlow]; bv_omega
  · rw [← BitVec.toNat_inj, ← BitVec.toNat_inj]
    simp only [BitVec.toNat_setWidth, BitVec.toNat_ushiftRight, Nat.shiftRight_eq_div_pow, BitVec.toNat_ofNat]
    omega
  · apply BitVec.eq_of_toNat_eq
    simp only [BitVec.toNat_setWidth, BitVec.toNat_ushiftRight, Nat.shiftRight_eq_div_pow]
    omega

/-- The ring and the number of a fast system call, in the operand of SYSC (R153). -/
theorem operand_sysc (opnd : BitVec 20) (t : BitVec 2) (h : opnd &&& 3 = t.setWidth 20) :
    fld opnd 0 2 = t ∧ (fld opnd 2 18).setWidth 64 = (opnd >>> 2).setWidth 64 := by
  have hlt := opnd.isLt
  have ht := t.isLt
  have hn := congrArg BitVec.toNat h
  rw [BitVec.toNat_and, show (3 : BitVec 20).toNat = 2 ^ 2 - 1 from rfl, Nat.and_two_pow_sub_one_eq_mod] at hn
  rw [fld_zero, fld_eq]
  refine ⟨?_, ?_⟩ <;> apply BitVec.eq_of_toNat_eq
  · simp only [BitVec.toNat_setWidth] at hn ⊢
    omega
  · simp only [BitVec.toNat_setWidth, BitVec.toNat_ushiftRight, Nat.shiftRight_eq_div_pow]
    omega

/-- A branch outside a repeat body leaves RSTATE alone (R103). -/
theorem takeBranch_outside {a : Arch} (ho : inBody a = false) (pcc : Cap) :
    takeBranch pcc (beginArch a) = fxJump { beginArch a with pcc := pcc } := by
  simp [takeBranch, inBody_beginArch, ho]

theorem bccSem_beginArch {a : Arch} (ho : inBody a = false) (c : BitVec 4) (opnd : BitVec 20) :
    bccSem c opnd (beginArch a) = if cond c a.f then
      guardE (checkFetch a.comp a.ring a.pcc 4 (branchTarget a opnd))
        (.ok (fxJump { beginArch a with pcc := a.pcc.setCursor (branchTarget a opnd) }))
    else .ok (fx (beginArch a)) := by
  simp only [bccSem, f_beginArch, comp_beginArch, ring_beginArch, pcc_beginArch, branchTarget_beginArch, takeBranch_outside ho]

theorem jmpxSem_beginArch {a : Arch} (ho : inBody a = false) :
    jmpxSem (beginArch a) = guardE (checkFetch a.comp a.ring a.x 0 a.x.cursor)
      (.ok (fxJump { beginArch a with pcc := a.x })) := by
  simp only [jmpxSem, comp_beginArch, ring_beginArch, x_beginArch, takeBranch_outside ho]

theorem repSem_beginArch (a : Arch) (opnd : BitVec 20) (n : W64) (hn : n = if opnd >>> 4 = 0#20 then a.a else (opnd >>> 4).setWidth 64) :
    repSem opnd (beginArch a) = if n = 0#64 then
      fxJump { beginArch a with
        rcnt := 0#64, rstate := 0#64, pcc := a.pcc.setCursor (a.pcc.cursor + 4#36 * ((opnd &&& 15#20).setWidth 36 + 2#36)) }
    else fx { beginArch a with
      rcnt := n
      rstate := 0x186#64 ||| ((opnd &&& 15#20).setWidth 64 <<< 9) ||| ((a.pcc.cursor + 4#36).setWidth 64 <<< 20) } := by
  obtain ⟨hlen36, hlen64, hzero, hcount⟩ := operand_rep opnd
  have hskip (p x : Addr) : p + 4#36 + 4#36 * (x + 1#36) = p + 4#36 * (x + 2#36) := by bv_omega
  simp only [repSem, a_beginArch, pcc_beginArch, hzero, hcount, ← hn, put, hlen36, hlen64, hskip]

/-- A fast system call that passes its checks (R153). -/
theorem syscSem_ok {a : Arch} {opnd : BitVec 20} {t : BitVec 2} {ent : Cap} (ht : opnd &&& 3 = t.setWidth 20)
    (hent : ent = if t = 0 then a.ent0 else if t = 1 then a.ent1 else a.ent2)
    (hlt : t < a.ring) (hnot : ¬(t = 0 ∧ a.ring = 3)) (hfast : a.fast = false) (htag : ent.tag = true)
    (hown : t ≠ 0 → ent.owner = a.comp) :
    syscSem opnd (beginArch a) a.lpend = .ok { fxJump { a.completed with
      link := a.pcc.setCursor (a.pcc.cursor + 4#36), slink := a.s, fring := a.ring, fib := a.ib, fast := true, ib := true
      ring := t, pcc := openGate ent, e := (opnd >>> 2).setWidth 64 } with settled := true } := by
  obtain ⟨hfld, hnum⟩ := operand_sysc opnd t ht
  have hc : completeAll { beginArch a with lpend := a.lpend } = a.completed := rfl
  have hring : a.completed.ring = a.ring := (congrArg Arch.ring (completed_frame a) :)
  have hfst : a.completed.fast = a.fast := (congrArg Arch.fast (completed_frame a) :)
  have hpcc : a.completed.pcc = a.pcc := (congrArg Arch.pcc (completed_frame a) :)
  have hs : a.completed.s = a.s := (congrArg Arch.s (completed_frame a) :)
  have hib : a.completed.ib = a.ib := (congrArg Arch.ib (completed_frame a) :)
  have h0 : a.completed.ent0 = a.ent0 := (congrArg Arch.ent0 (completed_frame a) :)
  have h1 : a.completed.ent1 = a.ent1 := (congrArg Arch.ent1 (completed_frame a) :)
  have h2 : a.completed.ent2 = a.ent2 := (congrArg Arch.ent2 (completed_frame a) :)
  have hring' : ¬(a.ring.toNat ≤ t.toNat ∨ (t = 0#2 ∧ a.ring = 3#2)) := by
    rintro (hle | h03)
    · exact absurd hlt (by rw [BitVec.lt_def]; omega)
    · exact hnot h03
  have hown' : ¬(t ≠ 0#2 ∧ ent.owner ≠ a.comp) := fun ⟨hn, ho⟩ => ho (hown hn)
  simp only [syscSem, Arch.comp, Arch.retCap, hc, hfld, hnum, hring, hfst, hpcc, hs, hib, h0, h1, h2]
  rw [if_neg hring', hfast, if_neg Bool.false_ne_true]
  have hcases : ∀ t : BitVec 2, t = 0 ∨ t = 1 ∨ t = 2 ∨ t = 3 := by decide
  have htag' : ¬(!ent.tag) = true := by rw [htag]; exact Bool.false_ne_true
  rcases hcases t with rfl | rfl | rfl | rfl <;> obtain rfl := hent <;> exact (if_neg htag').trans (if_neg hown')

/-- A return from a fast system call that passes its checks (R154). -/
theorem sysrSem_ok {a : Arch} (hfast : a.fast = true) (htag : a.link.tag = true) (hkind : a.link.kind = 0) :
    sysrSem (beginArch a) a.lpend = .ok { fxJump { a.completed with
      pcc := a.link, s := a.slink, ring := a.fring, ib := a.fib, fast := false } with settled := true } := by
  have hc : completeAll { beginArch a with lpend := a.lpend } = a.completed := rfl
  have h1 : a.completed.fast = a.fast := (congrArg Arch.fast (completed_frame a) :)
  have h2 : a.completed.link = a.link := (congrArg Arch.link (completed_frame a) :)
  have h3 : a.completed.slink = a.slink := (congrArg Arch.slink (completed_frame a) :)
  have h4 : a.completed.fring = a.fring := (congrArg Arch.fring (completed_frame a) :)
  have h5 : a.completed.fib = a.fib := (congrArg Arch.fib (completed_frame a) :)
  simp only [sysrSem, hc, h1, h2, h3, h4, h5, hfast, htag, hkind]
  rfl

/-- Settles O12: each row passes its checks and goes on (`instrE_goesOn`), jumps (`instrE_jumpsTo`) or jumps with nothing left
pending (`instr_settled`). -/
theorem jumpsAndFastCalls : Obligations.JumpsAndFastCalls := by
  unfold Obligations.JumpsAndFastCalls
  intro s e a opnd h b target full settled ent count
  obtain ⟨hlen36, hlen64, hzero, hcount⟩ := operand_rep opnd
  have ho := h.outside
  have hbranch : decodeCheck (plain .b) 0xB#4 opnd a = none := decodeCheck_any (by simp [classCheck]) ho
  have hnone : ∀ n, decodeCheck ⟨.n, n, fun _ => none, 3⟩ 0#4 0#20 a = none := fun n => decodeCheck_any (by simp [classCheck]) ho
  have hrep : ∀ n, decodeCheck ⟨.i, n, fun _ => none, 3⟩ 0#4 opnd a = none := fun n => decodeCheck_any (by simp [classCheck]) ho
  refine ⟨fun c hc => ?_, fun c hc hf => ?_, fun hf => ?_, fun hc => ?_, fun hc => ?_, fun t ht hlt hnot hfast htag hown => ?_,
    fun hr hfast htag hkind => ?_⟩
  · exact instrE_goesOn h hbranch (by rw [bccSem_beginArch ho, hc]; rfl)
  · exact instrE_jumpsTo h hbranch (((bccSem_beginArch ho c opnd).trans (if_pos hc)).trans (guardE_none hf _))
  · exact instrE_jumpsTo h (hnone true) ((jmpxSem_beginArch ho).trans (guardE_none hf _))
  · exact instrE_goesOn h (hrep true) (congrArg _ ((repSem_beginArch a opnd count rfl).trans (if_neg hc)))
  · exact instrE_jumpsTo h (hrep true) (congrArg _ ((repSem_beginArch a opnd count rfl).trans (if_pos hc)))
  · refine congrArg (fun m => Host.Outcome.next { s with m := m }) (instr_settled h (hrep true) ?_)
    rw [syscSem_ok ht rfl hlt hnot hfast htag hown]
    rfl
  · refine congrArg (fun m => Host.Outcome.next { s with m := m }) (instr_settled h ?_ ?_)
    · exact decodeCheck_none (by simp [classCheck]) rfl ho hr
    · rw [sysrSem_ok hfast htag hkind]
      rfl

end Sys2Proof.Machine
end

section
/-! PROOFS. Reads and writes of the system registers (O13, R96, R105, R152, R155, R162). -/

namespace Sys2Proof.Machine

open Sys2Proof

set_option Elab.async false -- one proof at a time: the threads of many at once exceed the memory of a check

/-- The area of a position's shadow stack (R155). -/
theorem toNat_shadowBase (p : BitVec 2) : (shadowBase p).toNat = 0x1003_8000 + 0x1000 * p.toNat ∧
    (shadowTop p).toNat = 0x1003_9000 + 0x1000 * p.toNat := by
  revert p; decide

/-- A value whose upper bits are 0. -/
theorem fld_high_zero {x : W64} (h : x.toNat < 2 ^ 36) : fld x 36 28 = 0#28 := by
  rw [fld_eq]
  apply BitVec.eq_of_toNat_eq
  simp only [BitVec.toNat_setWidth, BitVec.toNat_ushiftRight, Nat.shiftRight_eq_div_pow, BitVec.toNat_ofNat]
  omega

/-- Settles O13: each register by its number, in the rings that may (`instrE_goesOn`). -/
theorem systemRegisters : Obligations.SystemRegisters := by
  unfold Obligations.SystemRegisters
  intro s e a h b v reads high
  have hraw (n : Bool) (k : BitVec 20) (hk : rawZero 8 12 k = none) : decodeCheck ⟨.i, n, rawZero 8 12, 3⟩ 0#4 k a = none :=
    decodeCheck_none rfl hk h.outside (Nat.le_of_lt_succ a.ring.isLt)
  have hring : b.ring = a.ring := ring_beginArch a
  have hA : b.a = a.a := a_beginArch a
  have hpcc : b.pcc = a.pcc := pcc_beginArch a
  have loads (k : BitVec 20) (top : Nat) (x y : W64) (hr : a.ring.toNat ≤ top) (hk : rawZero 8 12 k = none)
      (hsem : mfsrSem k b = if top < b.ring.toNat then .error (excPriv 0x01) else .ok (fx { b with a := y })) (hxy : y = x) :
      reads k x := by
    refine instrE_goesOn h (hraw false k hk) ?_
    rw [hsem, if_neg (by rw [hring]; omega), hxy]
  have stores (k : BitVec 20) (f : Except Exc Fx) (n : Arch) (hr : a.ring = 0) (hk : rawZero 8 12 k = none)
      (hsem : mtsrSem k ⟨s.m, e, []⟩ b = if 0 < b.ring.toNat then .error (excPriv 0x01) else f) (hf : f = .ok (fx n)) :
      exec (.mtsr e 0 k) s = goesOn s e a n := by
    refine instrE_goesOn h (hraw true k hk) ?_
    rw [hsem, if_neg (by rw [hring, hr]; exact Nat.lt_irrefl 0), hf]
  refine ⟨fun hr => ?_, fun hr => ?_, ?_, fun hr hh hv => ?_, fun hr hh hal hlo hhi => ?_, fun hr => ?_⟩
  · exact loads 0 1 _ (b.tsbr.setWidth 64) hr (by decide) rfl (by rw [tsbr_beginArch])
  · have h0 : a.ring.toNat ≤ 0 := by rw [hr]; rfl
    have hent0 : b.ent0 = a.ent0 := (congrArg Arch.ent0 (beginArch_frame a) :)
    have hent1 : b.ent1 = a.ent1 := (congrArg Arch.ent1 (beginArch_frame a) :)
    have hent2 : b.ent2 = a.ent2 := (congrArg Arch.ent2 (beginArch_frame a) :)
    refine ⟨loads 1 0 _ (b.ssp.setWidth 64) h0 (by decide) rfl ?_, loads 2 0 _ (b.ent0.cursor.setWidth 64) h0 (by decide) rfl ?_,
      loads 3 0 _ (b.ent1.cursor.setWidth 64) h0 (by decide) rfl ?_, loads 4 0 _ (b.ent2.cursor.setWidth 64) h0 (by decide) rfl ?_⟩
    · rw [ssp_beginArch]
    · rw [hent0]
    · rw [hent1]
    · rw [hent2]
  · exact loads 5 3 _ _ (Nat.le_of_lt_succ a.ring.isLt) (by decide) rfl (rstate_beginArch a)
  · refine stores 0 (if fld b.a 36 28 = 0 ∧ tsbrOk (b.a.setWidth 36) then
      .ok (fx { b with tsbr := b.a.setWidth 36, exl := false }) else .error (excIllegal 0x04)) _ hr (by decide) rfl ?_
    rw [hA, if_pos ⟨fld_high_zero hh, hv⟩]
  · obtain ⟨hbase, htop⟩ := toNat_shadowBase (posOf e)
    refine stores 1 (if fld b.a 36 28 = 0 ∧ (b.a.setWidth 36).toNat % 16 = 0 ∧ (shadowBase (posOf e)).toNat ≤ (b.a.setWidth 36).toNat
      ∧ (b.a.setWidth 36).toNat ≤ (shadowTop (posOf e)).toNat then .ok (fx { b with ssp := b.a.setWidth 36 })
      else .error (excIllegal 0x04)) _ hr (by decide) rfl ?_
    rw [hA, if_pos ⟨fld_high_zero hh, hal, hbase.trans_le hlo, hhi.trans htop.ge⟩]
  · refine ⟨stores 2 (.ok (fx { b with ent0 := b.pcc.setCursor (b.a.setWidth 36) })) _ hr (by decide) rfl ?_,
      stores 3 (.ok (fx { b with ent1 := b.pcc.setCursor (b.a.setWidth 36) })) _ hr (by decide) rfl ?_,
      stores 4 (.ok (fx { b with ent2 := b.pcc.setCursor (b.a.setWidth 36) })) _ hr (by decide) rfl ?_,
      stores 5 (.ok (fx { b with rstate := b.a &&& rstateMask })) _ hr (by decide) rfl ?_⟩
    · rw [hA, hpcc]
    · rw [hA, hpcc]
    · rw [hA, hpcc]
    · rw [hA]
      rfl

end Sys2Proof.Machine
end

section
/-! PROOFS. Traps, breakpoints, blank memory, and encodings that an engine refuses (O16, R82, R86 to R88, R158, R163 to R168). -/

namespace Sys2Proof.Machine

open Sys2Proof

set_option Elab.async false -- one proof at a time: the threads of many at once exceed the memory of a check

/-- An instruction whose outcome is an exception enters it. -/
theorem takes_of_laneOut {s : State} {e : BitVec 7} {a : Arch} (h : Ready s.m e a) (hc : canEnter s.m e a) {i : Instr}
    {sp : InstrSpec} {mode : BitVec 4} {opnd : BitVec 20} {b : Before} {sem : Ctx → Arch → Bool → LaneOut} {k : Exc}
    (hi : exec i s = .next { s with m := instr sp e mode opnd b sem s.m })
    (ho : laneOut sp mode opnd none sem ⟨s.m, e, []⟩ a = .exc k) : ∃ t, exec i s = .next t ∧ Entered s e a k t :=
  ⟨_, hi, entered_of h hc sp mode opnd b sem k ho⟩

/-- An instruction that its decode checks refuse enters that exception (R87). -/
theorem takes_of_decode {s : State} {e : BitVec 7} {a : Arch} (h : Ready s.m e a) (hc : canEnter s.m e a) {i : Instr}
    {sp : InstrSpec} {mode : BitVec 4} {opnd : BitVec 20} {b : Before} {sem : Ctx → Arch → Bool → LaneOut} {k : Exc}
    (hi : exec i s = .next { s with m := instr sp e mode opnd b sem s.m }) (hd : decodeCheck sp mode opnd a = some k) :
    ∃ t, exec i s = .next t ∧ Entered s e a k t :=
  takes_of_laneOut h hc hi (laneOut_bad h sp mode opnd sem _ k hd)

/-- An instruction that passes its decode checks and raises an exception enters it. -/
theorem takes_of_sem {s : State} {e : BitVec 7} {a : Arch} (h : Ready s.m e a) (hc : canEnter s.m e a) {i : Instr}
    {sp : InstrSpec} {mode : BitVec 4} {opnd : BitVec 20} {F : Ctx → Arch → Except Exc Fx} {k : Exc}
    (hi : exec i s = .next { s with m := instrE sp e mode opnd F s.m }) (hd : decodeCheck sp mode opnd a = none)
    (hF : F ⟨s.m, e, []⟩ (beginArch a) = .error k) : ∃ t, exec i s = .next t ∧ Entered s e a k t :=
  takes_of_laneOut h hc hi ((laneOut_ready h sp mode opnd _ _ hd).trans (by rw [hF, toOut]))

/-- A refusal by the class comes before all others (R87). -/
theorem decodeCheck_class {sp : InstrSpec} {mode : BitVec 4} {opnd : BitVec 20} {a : Arch} {k : Exc}
    (hc : classCheck sp.cls mode opnd = some k) : decodeCheck sp mode opnd a = some k := by
  rw [decodeCheck, hc, Option.some_or]

/-- An instruction of a ring that may not run it is refused (R97). -/
theorem decodeCheck_ring {sp : InstrSpec} {mode : BitVec 4} {opnd : BitVec 20} {a : Arch}
    (hc : classCheck sp.cls mode opnd = none) (hraw : sp.raw opnd = none) (ho : inBody a = false)
    (hr : sp.ringMax < a.ring.toNat) : decodeCheck sp mode opnd a = some (excPriv 0x01) := by
  simp [decodeCheck, hc, hraw, ho, hr]

/-- No class but a hint's takes mode 0xF (R82). -/
theorem classCheck_mode15 {k : Cls} {mode : BitVec 4} (opnd : BitVec 20) (hk : k ≠ .h) (hm : mode = 15#4) :
    classCheck k mode opnd = some (excIllegal 0x02) := by
  unfold classCheck
  rw [if_neg hk, if_pos hm]

/-- The classes without an operand and with an immediate take mode 0 alone (R82). -/
theorem classCheck_mode_ne_zero {k : Cls} {mode : BitVec 4} (opnd : BitVec 20) (hk : k = .n ∨ k = .i) (h0 : mode ≠ 0#4)
    (h15 : mode ≠ 15#4) : classCheck k mode opnd = some (excIllegal 0x03) := by
  rcases hk with rfl | rfl <;> exact (if_neg nofun).trans ((if_neg h15).trans (if_pos h0))

/-- The class with a memory operand takes none of the modes without memory (R82). -/
theorem classCheck_m_immediate {mode : BitVec 4} (opnd : BitVec 20) (hm : mode.toNat < 4) :
    classCheck .m mode opnd = some (excIllegal 0x03) := by
  have h15 : mode ≠ 0xF#4 := by rintro rfl; exact absurd hm (by decide)
  exact (if_neg nofun).trans ((if_neg h15).trans (if_pos hm))

/-- ADD as an instruction that its checks may refuse. -/
theorem exec_add (s : State) (e : BitVec 7) (mode : BitVec 4) (opnd : BitVec 20) : exec (.add e mode opnd) s
    = .next { s with m := instrE ⟨.v, false, fun _ => none, 3⟩ e mode opnd (valueSem .add mode opnd) s.m } := rfl

/-- Settles O16: what the decode checks refuse (`takes_of_decode`), and what an instruction that passes them raises
(`takes_of_sem`), is entered. -/
theorem exceptionsAreTaken : Obligations.ExceptionsAreTaken := by
  unfold Obligations.ExceptionsAreTaken
  intro s e a mode opnd h hc takes
  have ho := h.outside
  have hr3 : a.ring.toNat ≤ 3 := Nat.le_of_lt_succ a.ring.isLt
  have hcode : ∀ code : BitVec 8, rawZero 8 12 (code.setWidth 20) = none ∧ fld (code.setWidth 20) 0 8 = code := by decide
  have hring (hr : a.ring ≠ 0) : a.ring.toNat ≠ 0 := fun hn => hr (BitVec.eq_of_toNat_eq hn)
  have hblank (o : BitVec 20) : decodeCheck (plain .h) mode o a = none := decodeCheck_any rfl ho
  refine ⟨fun code => ?_, fun code hcl => ?_, ?_, ?_, fun opc h1 h2 h3 h4 h5 h6 h7 => ?_, ⟨?_, ?_, ?_⟩, fun h0 h15 => ⟨?_, ?_⟩,
    fun hm => ⟨?_, ?_⟩, fun hop => ?_, fun hr => ⟨?_, ?_, ?_⟩, fun hr => ⟨?_, ?_⟩⟩
  · refine takes_of_sem h hc rfl (decodeCheck_none rfl (hcode code).1 ho hr3) ?_
    rw [(hcode code).2]
    rfl
  · refine takes_of_sem h hc rfl (decodeCheck_none rfl (hcode code).1 ho hr3) ?_
    rw [comp_beginArch, hcl, (hcode code).2]
    rfl
  · exact takes_of_sem h hc rfl (hblank opnd) rfl
  · exact takes_of_sem h hc rfl (hblank opnd) rfl
  · have hund : undefinedOpc opc = true := by
      have hff : opc.toNat ≠ 0xFF := fun hn => h7 (BitVec.eq_of_toNat_eq hn)
      have hlt := opc.isLt
      simp only [undefinedOpc, Bool.or_eq_true, decide_eq_true_eq]
      omega
    have hi : exec (.undefinedOpcode e opc mode opnd) s = .next { s with
        m := instrE (plain .h) e mode opnd (fun _ _ => .error (excIllegal 0x01)) s.m } := by
      show Host.Outcome.next { s with m := if undefinedOpc opc then _ else _ } = _
      rw [if_pos hund]
    exact takes_of_sem h hc hi (hblank opnd) rfl
  · exact takes_of_decode h hc (exec_add s e 15 opnd) (decodeCheck_class (classCheck_mode15 opnd nofun rfl))
  · exact takes_of_decode h hc rfl (decodeCheck_class (classCheck_mode15 opnd nofun rfl))
  · exact takes_of_decode h hc rfl (decodeCheck_class (classCheck_mode15 opnd nofun rfl))
  · exact takes_of_decode h hc rfl (decodeCheck_class (classCheck_mode_ne_zero opnd (.inl rfl) h0 h15))
  · exact takes_of_decode h hc rfl (decodeCheck_class (classCheck_mode_ne_zero opnd (.inr rfl) h0 h15))
  · exact takes_of_decode h hc rfl (decodeCheck_class (classCheck_m_immediate opnd hm))
  · exact takes_of_decode h hc rfl (decodeCheck_class (classCheck_m_immediate opnd hm))
  · exact takes_of_decode h hc rfl (decodeCheck_class (if_pos hop))
  · exact takes_of_decode h hc rfl (decodeCheck_ring (by decide) (by decide) ho (Nat.pos_of_ne_zero (hring hr)))
  · exact takes_of_decode h hc rfl (decodeCheck_ring (by decide) (by decide) ho (Nat.pos_of_ne_zero (hring hr)))
  · refine takes_of_sem h hc rfl (decodeCheck_none (by decide) (by decide) ho hr3) ?_
    have hsem : ∀ c b, mtsrSem 2 c b = if 0 < b.ring.toNat then .error (excPriv 0x01)
        else .ok (fx { b with ent0 := b.pcc.setCursor (b.a.setWidth 36) }) := fun _ _ => rfl
    rw [hsem, ring_beginArch, if_pos (Nat.pos_of_ne_zero (hring hr))]
    rfl
  · exact takes_of_decode h hc rfl (decodeCheck_ring (by decide) rfl ho hr)
  · exact takes_of_decode h hc rfl (decodeCheck_ring (by decide) rfl ho hr)

end Sys2Proof.Machine
end

section
/-! PROOFS. Reads of live hardware (O18, R86, R108). -/

namespace Sys2Proof.Machine

open Sys2Proof

set_option Elab.async false -- one proof at a time: the threads of many at once exceed the memory of a check

/-! ### The value on which the lanes agree (R187, R189) -/

theorem insertNat_replicate (v n : Nat) : insertNat v (List.replicate n v) = List.replicate (n + 1) v := by
  cases n with
  | zero => rfl
  | succ n => rw [List.replicate_succ, insertNat, if_pos le_rfl, List.replicate_succ, List.replicate_succ]

theorem lowerMedian_replicate (v n : Nat) : lowerMedian (List.replicate (n + 1) v) = v := by
  have hsort : ∀ n, (List.replicate n v).foldr insertNat [] = List.replicate n v := by
    intro n
    induction n with
    | zero => rfl
    | succ n ih => rw [List.replicate_succ, List.foldr_cons, ih, insertNat_replicate, List.replicate_succ]
  have hlt : n / 2 < n + 1 := by omega
  simp [lowerMedian, hsort, hlt]

/-- Lanes that take the same value act on it. -/
theorem agreed_const {m : Mach} {e : BitVec 7} {own : Replica → Nat} {v : Nat} (hne : lanesOf m e ≠ [])
    (hv : ∀ r ∈ lanesOf m e, own (rep m (tileOf e) r) = v) : agreed m e own = v := by
  have hl : ((lanesOf m e).map fun r => own (rep m (tileOf e) r)) = List.replicate (lanesOf m e).length v :=
    List.eq_replicate_iff.mpr ⟨List.length_map .., by simpa using hv⟩
  obtain ⟨n, hn⟩ : ∃ n, (lanesOf m e).length = n + 1 := Nat.exists_eq_succ_of_ne_zero (mt List.length_eq_zero_iff.mp hne)
  unfold agreed
  rw [hl, hn]
  dsimp only
  rw [lowerMedian_replicate]
  split <;> rfl

/-- Nothing strikes an exchange without a parity error (R190, R193). -/
theorem struck_none {m : Mach} {e : BitVec 7} {x : Exchange} (hp : x.parity = false) (ha : liveCode m e = 4 → x.agr = 0) :
    struck e x m = (true, m) := by
  unfold struck agrParity
  rw [hp, Bool.false_and, if_neg Bool.false_ne_true]
  by_cases hc : liveCode m e = 4
  · have hb : ((lanesOf m e).filter fun r => bit x.agr (rep m (tileOf e) r).lane.toNat).isEmpty = true := by
      simp [ha hc, bit]
    exact if_pos (.inr hb)
  · exact if_pos (.inl hc)

/-- No lane takes a moment later than another (R183, R189). -/
theorem lateIn_zero {m : Mach} {e : BitVec 7} {x : Exchange} (hl : liveCode m e = 4 → x.late = 0) (r : Replica) :
    lateIn x m e r = 0 := by
  refine if_neg fun ⟨hc, _, hb⟩ => ?_
  rw [hl hc] at hb
  simp [bit] at hb

/-- A READ OF LIVE HARDWARE on a ready engine, whose lanes take the same value. -/
theorem liveRead_ready {m : Mach} {e : BitVec 7} {a : Arch} (h : Ready m e a) {x : Exchange} (hs : struck e x m = (true, m))
    {own : Mach → Replica → Nat} {v : Nat} (hv : ∀ r : Replica, r.arch = a → own m r = v) :
    liveRead e 0 0 x own m = (m.retired e { beginArch a with a := BitVec.ofNat 64 v }.advance a.due false []).fed e := by
  have hiter : stepIteration e m = false := by simp [stepIteration, h.undebugged.2.1]
  have hag : agreed m e (own m) = v := agreed_const h.lanes fun r hr => hv _ (h.quiet r hr).1
  have hi := instrA_ready h (plain .n) 0 0 (fun b => { b with a := BitVec.ofNat 64 v })
    (decodeCheck_any (by decide) h.outside)
  unfold liveRead
  simp only [h.canRun, h.not_stopping, hiter, settle_ready h, hs, hag, Bool.not_false, Bool.and_self, if_true, ite_self,
    Bool.not_true, Bool.false_eq_true, if_false, hi]
  exact feed_run (act_retired h _ _ _ _)

/-! ### The words that are read -/

/-- A number placed above another. -/
theorem or_shiftLeft {x i : Nat} (h : x < 2 ^ i) (y : Nat) : x ||| y <<< i = x + y * 2 ^ i := by
  rw [Nat.or_comm, ← Nat.shiftLeft_add_eq_or_of_lt h, Nat.shiftLeft_eq, Nat.add_comm]

/-- The fields of WHO (R86). -/
theorem toNat_whoWord (m : Mach) (e : BitVec 7) (a : Arch) : (whoWord m e a).toNat =
    e.toNat + a.comp.toNat * 2 ^ 8 + a.ring.toNat * 2 ^ 24 + (liveCode m e).toNat * 2 ^ 28 := by
  have he := e.isLt
  have hc := a.comp.isLt
  have hr := a.ring.isLt
  have hl := (liveCode m e).isLt
  have hput {k : Nat} (x : BitVec k) (lo : Nat) (hk : k ≤ 64) (hx : x.toNat * 2 ^ lo < 2 ^ 64) :
      (put 64 x lo).toNat = x.toNat <<< lo := by
    have hlt : x.toNat < 2 ^ 64 := x.isLt.trans_le (Nat.pow_le_pow_right (by decide) hk)
    rw [put, BitVec.toNat_shiftLeft, BitVec.toNat_setWidth, Nat.mod_eq_of_lt hlt, Nat.shiftLeft_eq, Nat.mod_eq_of_lt hx]
  have hcomp := or_shiftLeft (x := e.toNat) (i := 8) (by omega) a.comp.toNat
  have hring := or_shiftLeft (x := e.toNat + a.comp.toNat * 2 ^ 8) (i := 24) (by omega) a.ring.toNat
  have hlive := or_shiftLeft (x := e.toNat + a.comp.toNat * 2 ^ 8 + a.ring.toNat * 2 ^ 24) (i := 28) (by omega)
    (liveCode m e).toNat
  rw [whoWord, BitVec.toNat_or, BitVec.toNat_or, BitVec.toNat_or, hput e 0 (by decide) (by omega),
    hput a.comp 8 (by decide) (by omega), hput a.ring 24 (by decide) (by omega), hput (liveCode m e) 28 (by decide) (by omega),
    Nat.shiftLeft_zero, hcomp, hring, hlive]

/-- Settles O18: each row reads one value that the lanes take alike (`liveRead_ready`). -/
theorem readsOfTheModule : Obligations.ReadsOfTheModule := by
  unfold Obligations.ReadsOfTheModule
  intro s e a x h hp hx reads
  have hs : struck e x s.m = (true, s.m) := struck_none hp fun hc => (hx hc).2
  have hlate : ∀ r, lateIn x s.m e r = 0 := lateIn_zero fun hc => (hx hc).1
  have go (own : Mach → Replica → Nat) (v : Nat) (hv : ∀ r : Replica, r.arch = a → own s.m r = v) :
      .next { s with m := liveRead e 0 0 x own s.m } = loadsOn s e a { beginArch a with a := BitVec.ofNat 64 v } := by
    rw [liveRead_ready h hs hv, loadsOn]
  refine ⟨go _ _ fun _ _ => rfl, go _ _ fun r _ => ?_, fun r hr => ?_, go _ _ fun r hr => ?_⟩
  · rw [hlate, Nat.add_zero]
  · have hcur : (s.m.engines.get e).cur.isNone = false := by rw [hr]; rfl
    have hw : budgWord s.m e = BitVec.ofNat 64 (r.start + r.slot.budget.toNat * 512 / 5 - s.m.clk) := by
      rw [budgWord, hcur, if_neg Bool.false_ne_true, budgetLeft, hr]
      rfl
    have key := go (fun m r => (budgWord m e).toNat - lateIn x m e r) (budgWord s.m e).toNat fun r _ => by
      rw [hlate, Nat.sub_zero]
    rw [BitVec.ofNat_toNat, BitVec.setWidth_eq, hw] at key
    refine Eq.trans ?_ key
    show Host.Outcome.next { s with m := if (s.m.engines.get e).cur.isNone then _ else _ } = _
    rw [hcur, if_neg Bool.false_ne_true]
  · rw [hr, toNat_whoWord]

end Sys2Proof.Machine
end

section
/-! PROOFS. Loads from the tile's own SRAM that more than the value registers take part in: capabilities, pops, LR (O8, R86,
R92, R106, R112, R116). -/

namespace Sys2Proof.Machine

open Sys2Proof

set_option Elab.async false -- one proof at a time: the threads of many at once exceed the memory of a check

/-! ### The path of a load -/

/-- What a load from the tile's SRAM brings. -/
def brought (m : Mach) (e : BitVec 7) (k : LdOp) (x : Addr) : LoadResult :=
  .data (m.mem.data (granOf (phys (tileOf e) x))) (m.mem.tag (granOf (phys (tileOf e) x)) && k.isCap)

/-- An engine that stands ready is told to run, which changes nothing. -/
theorem Ready.running_eq {m : Mach} {e : BitVec 7} {a : Arch} (h : Ready m e a) : running e m = m := h.modEng_run

/-- Empty buffers neither hold a load back nor answer it (R68). -/
theorem unanswered_empty {m : Mach} {e : BitVec 7} (h : ∀ r ∈ lanesOf m e, (rep m (tileOf e) r).sb = []) (x : Addr) (n : Nat)
    (cap : Bool) : waitCount m e x n cap = 0 ∧ forwards m e x n cap = false := by
  cases hL : lanesOf m e with
  | nil => simp [waitCount, forwards, hL]
  | cons r0 rest =>
    have hsb : (rep m (tileOf e) r0).sb = [] := h r0 (by simp [hL])
    simp [waitCount, forwards, hL, laneHit, hsb, sbLookup_nil]

/-- A load of a ready engine from the tile's SRAM completes with its data, which the path within the tile fed. -/
theorem startLoad_alias {m : Mach} {e : BitVec 7} {a : Arch} (h : Ready m e a) (k : LdOp) (mode : BitVec 4) (opnd : BitVec 20)
    {x : Addr} (hx : region x = .tileAlias) (hc : readsClean m (granOf (phys (tileOf e) x))) :
    startLoad e k mode opnd x m = feed e (finishLoad e k mode opnd x (fun _ => brought m e k x) m) := by
  obtain ⟨hw, hfw⟩ := unanswered_empty h.empty x k.size k.isCap
  have hload := loadAccess_alias (w := engineWho m e) (size := k.size) (cap := k.isCap) (host := 0#128) hx
    (by rw [engineWho_eng]; exact hc)
  rw [engineWho_eng] at hload
  simp only [startLoad, hw, acceptN, h.boundary, Bool.not_true, Bool.or_self, Bool.false_eq_true, if_false, hfw, hx, if_true,
    hload, brought]

/-- What the lanes make of the data, when it takes effect alike on all of them (LR besides sets its reservation). -/
theorem finishLoad_effect {m : Mach} {e : BitVec 7} {a : Arch} (h : Ready m e a) {k : LdOp} (hlr : k ≠ .lr) {mode : BitVec 4}
    {opnd : BitVec 20} {x : Addr} {d : Gran} {t : Bool} {f : Fx} {n : Mach}
    (hf : loadFinish k mode opnd x d t ⟨m, e, []⟩ (beginArch a) = .ok f) (hev : f.ev = .none)
    (hn : applyFx e ((lanesOf m e).map fun r => (r, f)) m = (true, n)) :
    finishLoad e k mode opnd x (fun _ => .data d t) m = n := by
  have hrun := h.running_eq
  refine finishLoad_ready (by rw [hrun]; exact h) (o := .ok f) (by rw [hrun, loadOut, hf]) ?_ fun he => absurd he hlr
  rw [hrun]
  obtain ⟨r0, rest, hL⟩ := List.exists_cons_of_ne_nil h.lanes
  rw [hL] at hn ⊢
  simp only [List.map_cons] at hn ⊢
  simp only [carryOutFx, LaneOut.fx, hn, hev, Bool.not_true, Bool.false_eq_true, if_false, engineEvent]

/-- A LOAD FROM THE TILE'S SRAM, its checks passed: the module after its data has taken effect, `n`. -/
theorem instrE_brings {m : Mach} {e : BitVec 7} {a : Arch} (h : Ready m e a) {sp : InstrSpec} {mode : BitVec 4}
    {opnd : BitVec 20} {k : LdOp} {o : MemOp} {F : Ctx → Arch → Except Exc Fx} (hd : decodeCheck sp mode opnd a = none)
    (hF : F ⟨m, e, []⟩ (beginArch a) = loadSem k o ⟨m, e, []⟩ (beginArch a)) (hl : localOperand m e a o k) {n : Mach}
    (hfin : finishLoad e k mode opnd o.addr (fun _ => brought m e k o.addr) m = n) (hact : (n.engines.get e).act = .run) :
    instrE sp e mode opnd F m = n.fed e := by
  obtain ⟨hchk, hshadow, hreg, hclean⟩ := hl
  have hresv : (if k = .lr then resvRegion o.addr else none) = none := by
    split
    · simp only [resvRegion, hreg]
    · rfl
  have hsem : F ⟨m, e, []⟩ (beginArch a) = .ok { fx (beginArch a) with ev := .load k o.addr } := by
    rw [hF, loadSem, checkOp_beginArch, hchk, hresv, hshadow]
    rfl
  have hstart : startLoad e k mode opnd o.addr m = n.fed e := by
    rw [startLoad_alias h k mode opnd hreg hclean, hfin, feed_run hact]
  unfold instrE
  rw [instr_ready h _ _ _ _ _ hd, hsem]
  obtain ⟨r0, rest, hL⟩ := List.exists_cons_of_ne_nil h.lanes
  rw [hL]
  simp only [List.map_cons, toOut, LaneOut.fx, takeEffect, hstart]
  exact pumped_run (by simp [Mach.fed, hact])

/-- An instruction that completes at once with a load from the tile's SRAM. -/
theorem instrE_loadsOn {s : State} {e : BitVec 7} {a b : Arch} (h : Ready s.m e a) {sp : InstrSpec} {mode : BitVec 4}
    {opnd : BitVec 20} {k : LdOp} (hlr : k ≠ .lr) {o : MemOp} {F : Ctx → Arch → Except Exc Fx}
    (hd : decodeCheck sp mode opnd a = none)
    (hF : F ⟨s.m, e, []⟩ (beginArch a) = loadSem k o ⟨s.m, e, []⟩ (beginArch a)) (hl : localOperand s.m e a o k)
    (hf : loadFinish k mode opnd o.addr (s.m.mem.data (granOf (phys (tileOf e) o.addr)))
      (s.m.mem.tag (granOf (phys (tileOf e) o.addr)) && k.isCap) ⟨s.m, e, []⟩ (beginArch a) = .ok (fx b)) :
    .next { s with m := instrE sp e mode opnd F s.m } = loadsOn s e a b := by
  have hap := applyFx_ready h (fx b) rfl rfl rfl
  simp only [fx_buffer, fx_last, fx_due, issue_retired] at hap
  rw [instrE_brings h hd hF hl (finishLoad_effect h hlr hf rfl hap) (act_retired h _ _ _ _)]
  rfl

/-! ### Capabilities -/

/-- A load of a capability through a memory operand (R86, R116): the register's own step is lost in its new value. -/
theorem instrE_loadCap {s : State} {e : BitVec 7} {a : Arch} (h : Ready s.m e a) {mode : BitVec 4} {opnd : BitVec 20}
    (hc : classCheck .m mode opnd = none) (dst : BitVec 2) (hl : localOperand s.m e a (memOp a mode opnd) (.ldc dst)) :
    let o := memOp a mode opnd
    .next { s with m := instrE (plain .m) e mode opnd (fun c a => loadSem (.ldc dst) (memOp a mode opnd) c a) s.m }
      = loadsOn s e a (setCapReg (if o.reg = dst.setWidth 4 then beginArch a else o.applyStep (beginArch a)) (dst.setWidth 4)
        (Cap.norm ⟨s.m.mem.data (granOf (phys (tileOf e) o.addr)), s.m.mem.tag (granOf (phys (tileOf e) o.addr))⟩)) :=
  instrE_loadsOn (k := .ldc dst) h nofun (decodeCheck_any hc h.outside) (by rw [memOp_beginArch]) hl
    (by simp only [loadFinish, memOp_beginArch, LdOp.isCap, Bool.and_true])

/-- The decode checks of POPC with a register that it may load (R92). -/
theorem decodeCheck_popc (d : BitVec 2) {a : Arch} (ho : inBody a = false) :
    decodeCheck ⟨.i, false, fun o => (rawZero 0 16 o).or (if 3 < (cDst o).toNat then some (excIllegal 0x06) else none), 3⟩
      0 (d.setWidth 4 ++ 0#16) a = none := by
  have hraw : ∀ d : BitVec 2, (rawZero 0 16 (d.setWidth 4 ++ 0#16)).or
      (if 3 < (cDst (d.setWidth 4 ++ 0#16)).toNat then some (excIllegal 0x06) else none) = none := by decide
  exact decodeCheck_none rfl (hraw d) ho (Nat.le_of_lt_succ a.ring.isLt)

theorem fld_popc (d : BitVec 2) : (fld (d.setWidth 4 ++ 0#16 : BitVec 20) 16 2 : BitVec 2) = d := by
  revert d
  decide

/-! ### LR -/

/-- The leading lane after an instruction. -/
theorem leader_retired {m : Mach} {e : BitVec 7} (hne : lanesOf m e ≠ []) (b : Arch) (d : Option W64) (j : Bool)
    (sb : List SbEntry) : ∃ l, leader (m.retired e b d j sb) e = some l ∧ l.arch = b := by
  obtain ⟨r0, rest, hL⟩ := List.exists_cons_of_ne_nil hne
  refine ⟨rep (m.retired e b d j sb) (tileOf e) r0, by rw [leader, lanesOf_retired, hL], ?_⟩
  rw [retired_lane _ _ _ _ _ _ _ (by simp [hL])]

theorem resv_retired (m : Mach) (e : BitVec 7) (b : Arch) (d : Option W64) (j : Bool) (sb : List SbEntry) :
    (m.retired e b d j sb).resv = m.resv := by
  rw [(retired_refilled m e b d j sb).rest]
  simp [Mach.counted, Mach.lanesAfter]

/-- The data of LR takes effect, and the granule is reserved for the engine (R106). -/
theorem finishLoad_lr {m : Mach} {e : BitVec 7} {a b : Arch} (h : Ready m e a) {mode : BitVec 4} {opnd : BitVec 20} {x y : Addr}
    {d : Gran} {t : Bool} (hf : loadFinish .lr mode opnd x d t ⟨m, e, []⟩ (beginArch a) = .ok (fx b)) (hb : b.resv = some y) :
    finishLoad e .lr mode opnd x (fun _ => .data d t) m
      = { m.retired e b.advance a.due false [] with resv := (e, y) :: m.resv.filter fun z => z.1 ≠ e } := by
  have hrun : modEng e (fun g => { g with act := .run }) m = m := h.modEng_run
  have houts : ((lanesOf m e).map fun r => (r, loadOut .lr mode opnd x (.data d t) (Ctx.of m e r) (rep m (tileOf e) r).arch))
      = (lanesOf m e).map fun r => (r, LaneOut.ok (fx b)) :=
    List.map_congr_left fun r hr => by rw [(h.quiet r hr).1, h.ctx r hr, loadOut, hf]
  have hap := applyFx_ready h (fx b) rfl rfl rfl
  simp only [fx_buffer, fx_last, fx_due, issue_retired] at hap
  have hrunOuts : runOuts e ((lanesOf m e).map fun r => (r, LaneOut.ok (fx b))) m = m.retired e b.advance a.due false [] := by
    rw [runOuts_ready h]
    obtain ⟨r0, rest, hL⟩ := List.exists_cons_of_ne_nil h.lanes
    rw [hL] at hap ⊢
    simp only [List.map_cons] at hap ⊢
    simp only [LaneOut.fx, carryOutFx, hap]
    rfl
  have hlead : ∃ l, leader (m.retired e b.advance a.due false []) e = some l ∧ l.arch = b.advance := leader_retired h.lanes ..
  obtain ⟨l, hl, hly⟩ := hlead
  have hly : l.arch.resv = some y := by rw [hly]; exact hb
  unfold finishLoad
  simp only [hrun, houts, hrunOuts, if_true, hl, hly, resv_retired]

/-- The step of an addressing mode is one of a capability register (R85). -/
theorem applyStep_frame (o : MemOp) (b : Arch) : o.applyStep b = { b with
    x := (o.applyStep b).x, y := (o.applyStep b).y, d := (o.applyStep b).d, s := (o.applyStep b).s } := by
  unfold MemOp.applyStep setCapReg
  repeat' split
  all_goals rfl

theorem resv_applyStep (o : MemOp) (b : Arch) : (o.applyStep b).resv = b.resv := (congrArg Arch.resv (applyStep_frame o b) :)

theorem f_applyStep (o : MemOp) (b : Arch) : (o.applyStep b).f = b.f := (congrArg Arch.f (applyStep_frame o b) :)

theorem fed_resv (e : BitVec 7) (l : List (BitVec 7 × Addr)) (m : Mach) : { m with resv := l }.fed e = { m.fed e with resv := l } := rfl

/-- LR on a ready engine (R106). -/
theorem instrE_lr {m : Mach} {e : BitVec 7} {a : Arch} (h : Ready m e a) {mode : BitVec 4} {opnd : BitVec 20}
    (hc : classCheck .m mode opnd = none) (hl : localOperand m e a (memOp a mode opnd) .lr) :
    let o := memOp a mode opnd
    let y := alignG (phys (tileOf e) o.addr)
    let b := o.applyStep { beginArch a with lpend := true, lval := fld (localData m e o.addr) 0 64, resv := some y }
    instrE (plain .m) e mode opnd (fun c a => loadSem .lr (memOp a mode opnd) c a) m
      = { (m.retired e b.advance a.due false []).fed e with resv := (e, y) :: m.resv.filter fun z => z.1 ≠ e } := by
  intro o y b
  have hf : ∀ d t, d = m.mem.data (granOf (phys (tileOf e) o.addr)) →
      loadFinish .lr mode opnd o.addr d t ⟨m, e, []⟩ (beginArch a) = .ok (fx b) := by
    intro d t hd
    rw [hd, loadFinish, memOp_beginArch]
    rfl
  have hfin := finishLoad_lr (y := y) h (hf _ (m.mem.tag (granOf (phys (tileOf e) o.addr)) && LdOp.isCap .lr) rfl)
    (resv_applyStep o _)
  have hi := instrE_brings (sp := plain .m) (F := fun c a => loadSem .lr (memOp a mode opnd) c a) h
    (decodeCheck_any hc h.outside) (by rw [memOp_beginArch]) hl hfin (by dsimp only; exact act_retired h ..)
  exact hi.trans (fed_resv ..)

/-- Settles O8: every row is one load from the tile's SRAM (`instrE_brings`), told apart by what `loadFinish` does with the
granule. -/
theorem capabilityLoadsAndPops : Obligations.CapabilityLoadsAndPops := by
  unfold Obligations.CapabilityLoadsAndPops
  intro s e a mode opnd h b o top cap moved up c16
  refine ⟨fun hc => instrE_loadCap h hc.1 0 hc.2, fun hc => instrE_loadCap h hc.1 1 hc.2, fun hc => instrE_loadCap h hc.1 2 hc.2,
    fun hc => instrE_loadCap h hc.1 3 hc.2, fun hl => ?_, fun d hl => ?_, fun hc hl => ?_⟩
  · refine instrE_loadsOn (k := .pop) h nofun (decodeCheck_any rfl h.outside) (by rw [popOp, s_beginArch]; rfl) hl ?_
    simp only [loadFinish, stackUp, valueEffect, pendLoad, s_beginArch]
    rfl
  · refine instrE_loadsOn (k := .popc d) h nofun (decodeCheck_popc d h.outside) (by rw [popOp, s_beginArch, fld_popc]; rfl) hl ?_
    simp only [loadFinish, stackUp, s_beginArch, LdOp.isCap, Bool.and_true]
    rfl
  · have hlr := instrE_lr h hc hl
    show Host.Outcome.next { s with m := instrE (plain .m) e mode opnd _ s.m } = _
    rw [hlr]

end Sys2Proof.Machine
end

section
/-! PROOFS. The conditional store (O9, R106, R107, R115). -/

namespace Sys2Proof.Machine

open Sys2Proof

set_option Elab.async false -- one proof at a time: the threads of many at once exceed the memory of a check

/-! ### The granule of an address in the tile's own SRAM -/

theorem region_alignG {x : Addr} (h : region x = .tileAlias) : region (alignG x) = .tileAlias := by
  have hx := (region_alias x).mp h
  have ha := toNat_alignG x
  exact (region_alias _).mpr (by omega)

theorem alignG_phys (t : BitVec 5) {x : Addr} (h : region x = .tileAlias) : alignG (phys t x) = phys t (alignG x) := by
  have hx := (region_alias x).mp h
  have ht := t.isLt
  refine BitVec.eq_of_toNat_eq ?_
  rw [toNat_alignG, phys_alias t x h, phys_alias t _ (region_alignG h), toNat_alignG]
  omega

theorem granOf_phys_alignG (t : BitVec 5) {x : Addr} (h : region x = .tileAlias) :
    granOf (phys t (alignG x)) = granOf (phys t x) := by
  have ht := t.isLt
  rw [← alignG_phys t h, granOf, granOf, toNat_alignG]
  omega

/-- An access to the tile's own SRAM asks for no bisque (R214). -/
theorem deviceAccess_alias (e : BitVec 7) {x : Addr} (h : region x = .tileAlias) (m : Mach) : deviceAccess e x m = m := by
  have hd : isDevice x = false := by simp [isDevice, h]
  rw [deviceAccess, hd, Bool.and_false, if_neg Bool.false_ne_true]

/-! ### The store, once the buffers are empty -/

/-- SC is over (R106): Z tells whether it stored, and the engine's reservation is gone. -/
def scDone (e : BitVec 7) (ok : Bool) (m : Mach) : Mach :=
  modDEng e (fun x => { x with waitSc := false }) <|
    mapLanes e (fun r => { r with arch := { r.arch with f := setZ r.arch.f ok, resv := none } })
      { m with resv := m.resv.filter fun z => z.1 ≠ e }

/-- The entry of a conditional store of `v` at `x` by a lane with registers `a`. -/
def scEntry (m : Mach) (e : BitVec 7) (a : Arch) (x : Addr) (v : W64) : SbEntry :=
  (StReq.mk x 8 (put 128 v 0) false false).entry a m.tick.count (runPos m e)

theorem scEntry_mask (m : Mach) (e : BitVec 7) (a : Arch) (x : Addr) (v : W64) : (scEntry m e a x v).mask ≠ 0 := by
  intro h0
  have hbit := (getLsbD_placeMask 8 (x.toNat % 16) (i := x.toNat % 16) (by omega)).mpr (by omega)
  have hm : (scEntry m e a x v).mask = BitVec.ofNat 16 ((2 ^ 8 - 1) * 2 ^ (x.toNat % 16)) := rfl
  rw [← hm, h0] at hbit
  simp at hbit

/-- The reservation of the granule at `x` stands, in the lanes and in the engine's record (R107). -/
def reserves (m : Mach) (e : BitVec 7) (a : Arch) (x : Addr) : Prop :=
  a.resv = some (alignG (phys (tileOf e) x)) ∧ (e, alignG (phys (tileOf e) x)) ∈ m.resv

/-- Without its reservation SC stores nothing. -/
theorem storeConditional_lost {m : Mach} {e : BitVec 7} {l : Replica} (hl : leader m e = some l) {x : Addr} (v : W64)
    (hr : ¬ reserves m e l.arch x) : storeConditional e x v m = scDone e false m := by
  have hh : (decide (l.arch.resv = some (alignG (phys (tileOf e) x))) && decide ((e, alignG (phys (tileOf e) x)) ∈ m.resv))
      = false := by
    rw [← Bool.decide_and]
    exact decide_eq_false hr
  simp only [storeConditional, hl, hh, Bool.not_false, if_true]
  rfl

theorem storeConditional_accepted {m n : Mach} {e : BitVec 7} {l : Replica} (hl : leader m e = some l) {x : Addr} {v : W64}
    (hh : (decide (l.arch.resv = some (alignG (phys (tileOf e) x))) && decide ((e, alignG (phys (tileOf e) x)) ∈ m.resv)) = true)
    (hout : inOutputRecord x = false)
    (hacc : storeAccess ((scEntry m e l.arch x v).who e) (scEntry m e l.arch x v) m = (none, n)) :
    storeConditional e x v m = scDone e true (logUndo e (alignG (phys (tileOf e) x)) m n) := by
  unfold scEntry at hacc
  simp only [storeConditional, hl, hh, hout, Bool.not_true, Bool.and_false, Bool.false_eq_true, if_false, hacc]
  rfl

/-- With it SC stores, as a store from the buffer does (R67). -/
theorem storeConditional_stores {m : Mach} {e : BitVec 7} {l : Replica} (hl : leader m e = some l) {x : Addr} (v : W64)
    (hr : reserves m e l.arch x) (hx : region x = .tileAlias)
    (hs : ¬ (0x3_8000 ≤ x.toNat % 2 ^ 18 ∧ x.toNat % 2 ^ 18 < 0x3_C000)) :
    let y := scEntry m e l.arch x v
    storeConditional e x v m = scDone e true (targetAnswer e y m (storeTarget (y.who e) y m)) := by
  intro y
  have hh : (decide (l.arch.resv = some (alignG (phys (tileOf e) x))) && decide ((e, alignG (phys (tileOf e) x)) ∈ m.resv))
      = true := by
    rw [← Bool.decide_and]
    exact decide_eq_true hr
  have hout : inOutputRecord x = false := by
    have := (region_alias x).mp hx
    exact decide_eq_false (by omega)
  have hgran : y.gran = alignG x := rfl
  have hreg : region y.gran = .tileAlias := region_alignG hx
  have hshadow : ¬ (0x3_8000 ≤ y.gran.toNat % 2 ^ 18 ∧ y.gran.toNat % 2 ^ 18 < 0x3_C000) := by
    rw [hgran, toNat_alignG]
    omega
  have hperm : storePermitted (tileOf e) y m = (true, m) := by simp only [storePermitted, hreg]
  have htarget := storeTarget_alias e y m hreg (scEntry_mask m e l.arch x v)
  rw [if_neg hshadow] at htarget
  have hdev := deviceAccess_alias e hreg (logUndo e (phys (tileOf e) y.gran) m (storeTarget (y.who e) y m).2)
  have hacc : storeAccess (y.who e) y m = (none, (storeTarget (y.who e) y m).2) := by
    rw [storeAccess, show tileOf (y.who e).eng = tileOf e from rfl, hperm, htarget]
    rfl
  have hans : targetAnswer e y m (storeTarget (y.who e) y m)
      = logUndo e (alignG (phys (tileOf e) x)) m (storeTarget (y.who e) y m).2 := by
    rw [targetAnswer, htarget]
    rw [htarget] at hdev
    rw [alignG_phys _ hx, ← hgran]
    exact hdev
  rw [hans]
  exact storeConditional_accepted hl hh hout hacc

/-- What SC leaves of memory and the lanes, when the module before its last step is `k`. -/
theorem scDone_leaves {m k : Mach} {e : BitVec 7} {b : Arch} (ht : k.tiles = m.tiles)
    (hb : ∀ r ∈ lanesOf m e, (rep m (tileOf e) r).arch = b) (ok : Bool) :
    (∀ r ∈ lanesOf m e, (rep (scDone e ok k) (tileOf e) r).arch = { b with f := setZ b.f ok, resv := none }) ∧
      (scDone e ok k).mem = k.mem ∧ (∀ z ∈ (scDone e ok k).resv, z.1 ≠ e) ∧
      (scDone e ok k).engines = k.engines := by
  have hl : lanesOf { k with resv := k.resv.filter fun z => z.1 ≠ e } e = lanesOf m e := by simp only [lanesOf, ht]
  refine ⟨fun r hr => ?_, by simp [scDone], fun z hz => ?_, by simp [scDone]⟩
  · have hrep : rep { k with resv := k.resv.filter fun z => z.1 ≠ e } (tileOf e) r = rep m (tileOf e) r := by simp only [rep, ht]
    have hdone : rep (scDone e ok k) (tileOf e) r = rep (mapLanes e (fun r => { r with arch := { r.arch with
        f := setZ r.arch.f ok, resv := none } }) { k with resv := k.resv.filter fun z => z.1 ≠ e }) (tileOf e) r := rfl
    rw [hdone, rep_mapLanes, hl, if_pos hr, hrep]
    simp only [hb r hr]
  · simp only [scDone, modDEng_resv, mapLanes_resv, List.mem_filter, decide_eq_true_eq] at hz
    exact hz.2

/-! ### The instruction -/

theorem resv_beginArch (a : Arch) : (beginArch a).resv = a.resv := (congrArg Arch.resv (beginArch_frame a) :)

/-- SC passes its checks and asks its engine for the store (R106, R155). -/
theorem scSem_ok {c : Ctx} {a : Arch} {mode : BitVec 4} {opnd : BitVec 20}
    (hc : checkOp c a (memOp a mode opnd) ⟨8, 8, true, false⟩ = none) (hx : region (memOp a mode opnd).addr = .tileAlias)
    (hs : shadowArea c (memOp a mode opnd).addr = false) :
    scSem mode opnd c (beginArch a) = .ok { fx ((memOp a mode opnd).applyStep (beginArch a)) with
      ev := .sc (memOp a mode opnd).addr a.a } := by
  rw [shadowArea, inShadow_phys_alias _ hx, decide_eq_false_iff_not] at hs
  simp only [scSem, memOp_beginArch, checkOp_beginArch, hc, guardE, resvRegion, hx, areaRefusal_alias _ _ _ _ hx, if_neg hs,
    a_beginArch]

/-- An effect without transactions and stores: the lanes take its registers, and nothing is issued. -/
theorem applyFx_storeless {m : Mach} {e : BitVec 7} {a : Arch} (h : Ready m e a) (f : Fx) (ht : f.trans = [])
    (hp : f.part = false) (htrap : f.trap = false) (hst : f.stores = []) :
    applyFx e ((lanesOf m e).map fun r => (r, f)) m = (true, m.retired e f.last (f.due a) f.jump []) := by
  have hb : f.buffer m e a = [] := by simp [Fx.buffer, hst]
  rw [applyFx_ready h f ht hp htrap, hb, issue_retired]

/-- SC on a ready engine: its buffers stand empty, so the store is tried at once. -/
theorem instrE_sc {m : Mach} {e : BitVec 7} {a : Arch} (h : Ready m e a) {sp : InstrSpec} {mode : BitVec 4} {opnd : BitVec 20}
    {F : Ctx → Arch → Except Exc Fx} {f : Fx} {b : Arch} {x : Addr} {v : W64} (hd : decodeCheck sp mode opnd a = none)
    (hF : F ⟨m, e, []⟩ (beginArch a) = .ok f) (hev : f.ev = .sc x v) (ht : f.trans = []) (hp : f.part = false)
    (htrap : f.trap = false) (hst : f.stores = []) (hlast : f.last = b) (hdue : f.due a = a.due) (hj : f.jump = false) :
    instrE sp e mode opnd F m = pumped e (storeConditional e x v (m.retired e b a.due false [])) := by
  have hap := applyFx_storeless h f ht hp htrap hst
  rw [hlast, hdue, hj] at hap
  unfold instrE
  rw [instr_ready h _ _ _ _ _ hd, hF]
  refine congrArg (pumped e) ?_
  obtain ⟨r0, rest, hL⟩ := List.exists_cons_of_ne_nil h.lanes
  rw [hL] at hap ⊢
  simp only [List.map_cons] at hap
  simp only [List.map_cons, toOut, LaneOut.fx, takeEffect, drain_empty h.empty, h.boundary, Bool.and_self, if_true, carryOutFx,
    hap, Bool.not_true, Bool.false_eq_true, if_false, engineEvent, hev]

theorem byteOf_put (v : W64) {i : Nat} (h : i < 8) : byteOf (put 128 v 0) i = byteOf v i := by
  apply BitVec.eq_of_getLsbD_eq
  intro j hj
  have hlt : 8 * i + j < 128 := by omega
  simp only [getLsbD_byteOf _ _ _ hj, put, BitVec.shiftLeft_zero, BitVec.getLsbD_setWidth, hlt, decide_true, Bool.true_and]

/-- WHAT SC LEAVES, `ok` saying whether its reservation stood: memory is written only then, and only the 8 bytes. -/
theorem storeConditional_leaves {m : Mach} {e : BitVec 7} {l : Replica} (hl : leader m e = some l)
    (hlanes : ∀ r ∈ lanesOf m e, (rep m (tileOf e) r).arch = l.arch) {x : Addr} (v : W64) (hx : region x = .tileAlias)
    (hs : shadowArea ⟨m, e, []⟩ x = false) (hclean : readsClean m (granOf (phys (tileOf e) x))) (hfit : x.toNat % 16 + 8 ≤ 16)
    {ok : Bool} (hok : ok = true ↔ reserves m e l.arch x) :
    let n := storeConditional e x v m
    let g := granOf (phys (tileOf e) x)
    (∀ r ∈ lanesOf m e, (rep n (tileOf e) r).arch = { l.arch with f := setZ l.arch.f ok, resv := none }) ∧
      (∀ j, j ≠ g → n.mem.data j = m.mem.data j ∧ n.mem.tag j = m.mem.tag j) ∧
      (∀ i, i < 16 → byteOf (n.mem.data g) i
        = if ok = true ∧ x.toNat % 16 ≤ i ∧ i < x.toNat % 16 + 8 then byteOf v (i - x.toNat % 16)
          else byteOf (m.mem.data g) i) ∧
      n.mem.tag g = (if ok = true then false else m.mem.tag g) ∧ (∀ z ∈ n.resv, z.1 ≠ e) ∧
      (n.engines.get e).act = (m.engines.get e).act := by
  intro n g
  cases ok with
  | false =>
    have hn : n = scDone e false m := storeConditional_lost hl v fun h => Bool.false_ne_true (hok.mpr h)
    obtain ⟨harch, hmem, hresv, heng⟩ := scDone_leaves (m := m) rfl hlanes false
    rw [hn, hmem, heng]
    exact ⟨harch, fun _ _ => ⟨rfl, rfl⟩, fun i _ => (if_neg fun h => Bool.false_ne_true h.1).symm,
      (if_neg Bool.false_ne_true).symm, hresv, rfl⟩
  | true =>
    rw [shadowArea, inShadow_phys_alias _ hx, decide_eq_false_iff_not] at hs
    have hn := storeConditional_stores hl v (hok.mp rfl) hx hs
    obtain ⟨-, hbits, hdata, htag, -⟩ : storedAs (scEntry m e l.arch x v) m e l.arch x 8 (put 128 v 0) false false :=
      storedAs_entry m e l.arch x 8 _ _ false false hfit fun _ _ => rfl
    obtain ⟨htiles, -, hact, -, hput⟩ := storeTarget_answer (m := m) (e := e) (y := scEntry m e l.arch x v) (region_alignG hx)
      (scEntry_mask m e l.arch x v)
    obtain ⟨y, hy⟩ : ∃ y, y = scEntry m e l.arch x v := ⟨_, rfl⟩
    have hyg : y.gran = alignG x := by rw [hy]; rfl
    have hg : granOf (phys (tileOf e) y.gran) = g := by rw [hyg]; exact granOf_phys_alignG (tileOf e) hx
    change n = _ at hn
    rw [← hy] at hbits hdata htag hn htiles hact hput
    replace hput := hput (by rw [hyg, toNat_alignG]; omega) (by rw [hg]; exact hclean)
    rw [hg, htag, Bool.false_and, Bool.and_false] at hput
    generalize targetAnswer e y m (storeTarget (y.who e) y m) = k at *
    obtain ⟨harch, hmem, hresv, heng⟩ := scDone_leaves htiles hlanes true
    rw [hn, hmem, heng, hput]
    refine ⟨harch, fun j hj => by rw [data_putGran, tag_putGran, if_neg hj, if_neg hj]; exact ⟨rfl, rfl⟩, fun i hi => ?_,
      by rw [tag_putGran, if_pos rfl, if_pos rfl], hresv, hact⟩
    rw [data_putGran, if_pos rfl, byteOf_written _ _ _ hi]
    by_cases hr : x.toNat % 16 ≤ i ∧ i < x.toNat % 16 + 8
    · have hd := hdata (i - x.toNat % 16) (by omega)
      rw [Nat.add_sub_cancel' hr.1] at hd
      rw [if_pos ((hbits i hi).mpr hr), if_pos ⟨rfl, hr⟩, hd, byteOf_put v (by omega)]
    · rw [if_neg (mt (hbits i hi).mp hr), if_neg fun h => hr h.2]

/-- Settles O9: SC is carried out on the module that its own step leaves (`instrE_sc`, `storeConditional_leaves`). -/
theorem storeConditionalStores : Obligations.StoreConditional := by
  unfold Obligations.StoreConditional
  intro s e a mode opnd h hc o x g holds hchk hreg hshadow hclean
  set b : Arch := o.applyStep (beginArch a) with hb
  have hsem : instrE (plain .m) e mode opnd (scSem mode opnd) s.m
      = pumped e (storeConditional e o.addr a.a (s.m.retired e b.advance a.due false [])) :=
    instrE_sc h (decodeCheck_any hc h.outside) (scSem_ok hchk hreg hshadow) rfl rfl rfl rfl rfl rfl rfl rfl
  obtain ⟨l, hl, hla⟩ := leader_retired h.lanes b.advance a.due false []
  have hlanes : lanesOf (s.m.retired e b.advance a.due false []) e = lanesOf s.m e := lanesOf_retired ..
  have harch : ∀ r ∈ lanesOf (s.m.retired e b.advance a.due false []) e,
      (rep (s.m.retired e b.advance a.due false []) (tileOf e) r).arch = l.arch := fun r hr => by
    rw [retired_lane _ _ _ _ _ _ _ (hlanes ▸ hr), hla]
  have hmem : (s.m.retired e b.advance a.due false []).mem = s.m.mem := mem_retired ..
  have hres := resv_retired s.m e b.advance a.due false []
  have hact := act_retired h b.advance a.due false []
  have hf : b.advance.f = a.f := (f_applyStep o (beginArch a)).trans (f_beginArch a)
  have hholds : decide holds = true ↔ reserves (s.m.retired e b.advance a.due false []) e l.arch o.addr := by
    have hr : l.arch.resv = a.resv := by rw [hla]; exact (resv_applyStep o (beginArch a)).trans (resv_beginArch a)
    rw [reserves, hr, hres, decide_eq_true_iff]
  have hcl : readsClean (s.m.retired e b.advance a.due false []) g := by rw [readsClean, hmem]; exact hclean
  generalize s.m.retired e b.advance a.due false [] = n at *
  obtain ⟨h1, h2, h3, h4, h5, h6⟩ := storeConditional_leaves hl harch a.a hreg hshadow hcl (checkOp_fits hchk (by decide)) hholds
  rw [pumped_run (by rw [h6, hact]; exact nofun)] at hsem
  rw [hmem] at h2 h3 h4
  rw [hla, hf, hlanes] at h1
  simp only [decide_eq_true_iff] at h3 h4
  refine ⟨{ s with m := storeConditional e o.addr a.a n }, ?_, h1, h2, h3, h4, h5, rfl, rfl⟩
  show Host.Outcome.next { s with m := instrE (plain .m) e mode opnd (scSem mode opnd) s.m } = _
  rw [hsem]

end Sys2Proof.Machine
end

section
/-! PROOFS. CALL with SSP above its area: the return capability reaches no shadow stack (O14, R155, R156). -/

namespace Sys2Proof.Machine

open Sys2Proof

set_option Elab.async false -- one proof at a time: the threads of many at once exceed the memory of a check

/-- Registers of a replica in the boot program, whose SSP points far above the shadow-stack area, at no memory at all. -/
def strayRegs : Arch := { bootArch with s := Cap.root.setCursor 0x1000_4000, ssp := 0xF_0000_0000 }

/-- The module at reset, with these registers on engine 0. -/
def strayState : State := { State.reset with m := mapLanes 0 (fun r => { r with arch := strayRegs }) State.reset.m }

/-- The granule that CALL of this engine would push the return capability to. -/
def strayGran : Nat := granOf (phys (tileOf 0) (strayRegs.ssp - 16))

/-- A command went on, and memory then reads `d` at granule `g`. -/
def leavesData (g : Nat) (d : Gran) : Res → Bool
  | .next t => decide (t.m.mem.data g = d)
  | _ => false

theorem ready_stray : Ready strayState.m 0 strayRegs where
  boundary := by decide +kernel
  lanes := by decide +kernel
  quiet := by
    delta Replica.quiet
    decide +kernel
  notForced := by decide +kernel
  undebugged := by
    delta undebugged
    decide +kernel
  notDue := by decide +kernel
  outside := by decide +kernel
  fetch := by decide +kernel
  word := by decide +kernel

/-- CALL goes on, since SSP is not below the area, but the fabric refuses the write to an address that is not mapped. -/
theorem call_stray : leavesData strayGran 0 (exec (.call 0 0xB 1) strayState) = true := by decide +kernel

/-- Refutes O14: nothing bounds SSP from above in the clause on CALL. With SSP above its area the push is refused (`call_stray`),
so memory does not hold the return capability. -/
theorem not_callAndReturn : ¬ Obligations.CallAndReturn := by
  unfold Obligations.CallAndReturn
  intro h
  obtain ⟨hcall, -⟩ := h strayState 0 strayRegs ready_stray
  have hstore : storeAllowed strayState.m 0 strayRegs ⟨3, strayRegs.s, strayRegs.s.cursor - 16, none⟩ 16 true := by
    delta storeAllowed
    decide +kernel
  obtain ⟨t, -, -, hexec, -, -, hmem, -⟩ := hcall 1 hstore (by decide +kernel) (by decide +kernel)
  have hdata : t.m.mem.data strayGran = 0 := by
    have hleft := call_stray
    rw [hexec, leavesData] at hleft
    exact of_decide_eq_true hleft
  rw [hmem, ← strayGran, data_putGran, if_pos rfl] at hdata
  exact absurd hdata (by decide +kernel)

end Sys2Proof.Machine
end

section
/-! PROOFS. String instructions: their beginning, their end with nothing to do, and a step of one (O20, R98, R99). -/

namespace Sys2Proof.Machine

open Sys2Proof

set_option Elab.async false -- one proof at a time: the threads of many at once exceed the memory of a check

/-! ### The beginning (R98) -/

/-- An instruction on a ready engine that begins a string: RSTATE names it on every lane, and nothing else changes. -/
theorem instrE_begins {m : Mach} {e : BitVec 7} {a : Arch} (h : Ready m e a) {sp : InstrSpec} {mode : BitVec 4} {opnd : BitVec 20}
    {F : Ctx → Arch → Except Exc Fx} {f : Fx} {k : BitVec 8} (hd : decodeCheck sp mode opnd a = none)
    (hF : F ⟨m, e, []⟩ (beginArch a) = .ok f) (hev : f.ev = .string k) :
    instrE sp e mode opnd F m = modEng e (fun g => { g with act := .string k })
      (mapLanes e (fun r => { r with arch := { a with rstate := 0x100 ||| k.setWidth 64 } }) m) := by
  have hword : put 64 k 0 ||| at_ true 8 = (0x100 ||| k.setWidth 64 : W64) := by
    rw [BitVec.or_comm, put, BitVec.shiftLeft_zero]
    rfl
  have hlanes : mapLanes e (fun r => { r with arch := { r.arch with rstate := 0x100 ||| k.setWidth 64 } }) m
      = mapLanes e (fun r => { r with arch := { a with rstate := 0x100 ||| k.setWidth 64 } }) m :=
    mapLanes_congr fun r hr => by rw [(h.quiet r hr).1]
  have hstart : startString e k m = modEng e (fun g => { g with act := .string k })
      (mapLanes e (fun r => { r with arch := { a with rstate := 0x100 ||| k.setWidth 64 } }) m) := by
    rw [startString, hword, hlanes]
  unfold instrE
  rw [instr_ready h _ _ _ _ _ hd, hF]
  obtain ⟨r0, rest, hL⟩ := List.exists_cons_of_ne_nil h.lanes
  rw [hL]
  simp only [List.map_cons, toOut, LaneOut.fx, takeEffect, hev, hstart]
  exact pumped_run (by simp)

/-- A string instruction with something to do. -/
theorem stringSem_begins {k : Str} {a : Arch} (hr : a.rcnt ≠ 0)
    (hm : k = .movc → a.x.cursor.toNat % 16 = 0 ∧ a.y.cursor.toNat % 16 = 0 ∧ a.rcnt.toNat % 16 = 0) :
    stringSem k a = .ok { fx a with ev := .string k.opc } := by
  rw [stringSem, if_neg (show ¬ a.rcnt = 0#64 from hr), if_neg fun h => h.2 (hm h.1)]

/-- A string instruction with nothing to do is complete. -/
theorem stringSem_done (k : Str) {a : Arch} (hr : a.rcnt = 0) :
    stringSem k (beginArch a) = .ok (fx { beginArch a with rstate := 0#64, f := k.emptyFlags a.f }) := by
  have h0 : (beginArch a).rcnt = 0#64 := (rcnt_beginArch a).trans hr
  rw [stringSem, if_pos h0, f_beginArch]

/-! ### An engine in a string instruction -/

/-- Engine `e` is in string instruction `k`, and would stand ready with registers `a` if it ran. -/
structure InString (m : Mach) (e : BitVec 7) (a : Arch) (k : Str) : Prop where
  ready : Ready (running e m) e a
  act : (m.engines.get e).act = .string k.opc

namespace InString

variable {m : Mach} {e : BitVec 7} {a : Arch} {k : Str}

theorem lanes (h : InString m e a k) : lanesOf m e ≠ [] := h.ready.lanes

theorem quiet (h : InString m e a k) : ∀ r ∈ lanesOf m e, (rep m (tileOf e) r).quiet a := h.ready.quiet

theorem empty (h : InString m e a k) : ∀ r ∈ lanesOf m e, (rep m (tileOf e) r).sb = [] := h.ready.empty

theorem undebugged (h : InString m e a k) : Machine.undebugged m e := h.ready.undebugged

theorem ctx (h : InString m e a k) : ∀ r ∈ lanesOf m e, Ctx.of m e r = ⟨m, e, []⟩ := fun r hr => by simp [Ctx.of, h.empty r hr]

theorem leader (h : InString m e a k) : ∃ l, Machine.leader m e = some l ∧ l.arch = a := h.ready.leader

theorem canRun (h : InString m e a k) : Machine.canRun m e = true := by
  have hr := h.ready.canRun
  simpa [running, Machine.canRun, validEngine, liveCode] using hr

theorem not_stopping (h : InString m e a k) : stopping m e = false := by
  simp [stopping, h.undebugged.1]

/-- Nothing is due on it. -/
theorem settle (h : InString m e a k) : settle e m = m := by
  have hm : mapLanes e settleLane m = m := mapLanes_id _ _ _ fun r hr => settleLane_quiet (h.quiet r hr) h.ready.notDue
  have hr : (Machine.leader m e).any Replica.repEnd = false := by
    obtain ⟨r0, rest, hL⟩ := List.exists_cons_of_ne_nil h.lanes
    simp [Machine.leader, hL, (h.quiet r0 (by simp [hL])).2.2.2]
  have hf : forcedOwed m e = false := by
    have hn := h.ready.notForced
    simp only [running, modEng_engines, Tbl.get_upd_same] at hn
    simp only [forcedOwed, hn.1, Bool.false_or, Bool.and_eq_false_iff, decide_eq_false_iff_not]
    right
    omega
  simp [Machine.settle, settleLanes, h.act, hm, hr, hf]

end InString

/-! ### The outcome of a step -/

/-- Outcomes without exceptions are resolved as they are. -/
theorem resolve_ok {m : Mach} {e : BitVec 7} (f : Fx) :
    resolve e ((lanesOf m e).map fun r => (r, LaneOut.ok f)) m = (some ((lanesOf m e).map fun r => (r, f)), m) := by
  have hraise : (((lanesOf m e).map fun r => (r, LaneOut.ok f)).any fun x =>
      x.2.raises && !(rep m (tileOf e) x.1).arch.dfl) = false := by
    rw [List.any_map, List.any_eq_false]
    intro r _
    simp [LaneOut.raises]
  have hfilter : (((lanesOf m e).map fun r => (r, LaneOut.ok f)).filter fun x => x.1 ∈ lanesOf m e)
      = (lanesOf m e).map fun r => (r, LaneOut.ok f) := List.filter_eq_self.mpr (by simp)
  simp only [resolve, hraise, Bool.false_eq_true, if_false, Bool.not_true, hfilter, List.map_map]
  rfl

/-- Empty buffers have room. -/
theorem makeRoom_empty {m : Mach} {e : BitVec 7} (h : ∀ r ∈ lanesOf m e, (rep m (tileOf e) r).sb = []) (f : Fx) :
    makeRoom e ((lanesOf m e).map fun r => (r, f)) m = (true, m) := by
  have hfull : (((lanesOf m e).map fun r => (r, f)).any fun x =>
      decide (8 ≤ (rep m (tileOf e) x.1).sb.length) && x.2.stores.any fun q =>
        !merges (rep m (tileOf e) x.1).sb (alignG q.addr)) = false := by
    rw [List.any_map, List.any_eq_false]
    intro r hr
    simp [h r hr]
  simp only [makeRoom, hfull, Bool.false_eq_true, if_false]

/-- An effect that asks nothing more of its engine. -/
theorem carryOutFx_none {m n : Mach} {e : BitVec 7} {f : Fx} (hne : lanesOf m e ≠ []) (hev : f.ev = .none)
    (hap : applyFx e ((lanesOf m e).map fun r => (r, f)) m = (true, n)) :
    carryOutFx e ((lanesOf m e).map fun r => (r, f)) m = n := by
  obtain ⟨r0, rest, hL⟩ := List.exists_cons_of_ne_nil hne
  rw [hL] at hap ⊢
  simp only [List.map_cons] at hap ⊢
  simp only [carryOutFx, hap, hev, Bool.not_true, Bool.false_eq_true, if_false, engineEvent]

/-- What a lane asks for, when the checks of the step pass. -/
theorem request_ok {k : Str} {c : Ctx} {a : Arch} (hc : k.check (k.stepSize a) c a = none) :
    ∃ f : Fx, k.request c a = .ok f ∧ f.part = true := by
  simp only [Str.request, hc]
  exact ⟨_, rfl, rfl⟩

/-- The module after a step has taken effect: what was read came over the path within the tile. -/
def stepFed (e : BitVec 7) (fed : Bool) (m : Mach) : Mach := pumped e (if fed then feed e m else m)

theorem undebugged_running {m : Mach} {e : BitVec 7} (h : undebugged m e) : undebugged (running e m) e := h

theorem lanesOf_running (e : BitVec 7) (m : Mach) : lanesOf (running e m) e = lanesOf m e := rfl

/-- Outcomes that are alike are voted and carried out, whether the engine has left its string or not. -/
theorem commitFx_alike {m n : Mach} {e : BitVec 7} (h : ∀ r ∈ lanesOf m e, (rep m (tileOf e) r).sb = [])
    (hn : n = m ∨ n = running e m) (f : Fx) :
    commitFx e ((lanesOf m e).map fun r => (r, f)) n = carryOutFx e ((lanesOf m e).map fun r => (r, f)) n := by
  rcases hn with rfl | rfl
  · rw [commitFx, voteFx_const h f]
  · rw [commitFx, ← lanesOf_running, voteFx_const (m := running e m) h f]

section
variable {m : Mach} {e : BitVec 7} {a : Arch} {k : Str} {host : List Gran} {data : List (BitVec 2 → LoadResult)} {f : Fx}

/-- The reads of a step are made without error: the lanes' common outcome `f` is carried out, at a boundary when it completes the
instruction. -/
theorem stepReads_outcome (h : InString m e a k)
    (hread : readParts e (decide (k = .movc)) (k.reads (k.stepSize a) a) host m = (some (.ok data), m))
    (hdev : (k.reads (k.stepSize a) a).foldl (fun m p => deviceAccess e p.1 m) m = m)
    (hf : ∀ r ∈ lanesOf m e, k.step (k.stepSize a) (data.map (partData r)) ⟨m, e, []⟩ (beginArch a) = f) :
    stepReads e k host m = stepFed e (!data.isEmpty)
      (carryOutFx e ((lanesOf m e).map fun r => (r, f)) (if f.part then m else running e m)) := by
  obtain ⟨l, hl, hla⟩ := h.leader
  have hsteps : ((lanesOf m e).map fun r =>
      (r, k.step (k.stepSize a) (data.map (partData r)) (Ctx.of m e r) (beginArch (rep m (tileOf e) r).arch)))
      = (lanesOf m e).map fun r => (r, f) :=
    List.map_congr_left fun r hr => by rw [h.ctx r hr, (h.quiet r hr).1, hf r hr]
  have hfilter : (((lanesOf m e).map fun r => (r, f)).filter fun x => x.1 ∈ lanesOf m e)
      = (lanesOf m e).map fun r => (r, f) := List.filter_eq_self.mpr (by simp)
  have hany : (((lanesOf m e).map fun r => (r, f)).any fun x => !x.2.part) = !f.part := by
    obtain ⟨r0, rest, hL⟩ := List.exists_cons_of_ne_nil h.lanes
    rw [hL, List.map_cons, List.any_cons, List.any_map]
    cases hp : f.part <;> simp [hp]
  have hnext : (if (!f.part) = true then leaveString e m else m) = if f.part then m else running e m := by
    cases f.part <;> rfl
  have hhits : ∀ acc, dataHits e a acc (if f.part then m else running e m) = if f.part then m else running e m := fun acc => by
    split
    · exact dataHits_undebugged h.undebugged a acc
    · exact dataHits_undebugged (undebugged_running h.undebugged) a acc
  have hcommit := commitFx_alike (n := if f.part then m else running e m) h.empty (by cases f.part <;> simp) f
  simp only [stepReads, hl, hla, hread, hdev, hsteps, makeRoom_empty h.empty, Bool.not_true, Bool.false_eq_true, if_false, hfilter,
    hany, hnext, hhits, hcommit, stepFed]
  cases data <;> rfl

/-- ONE STEP, its checks passed and its reads made without error. -/
theorem stringStep_outcome (h : InString m e a k) (hof : Str.ofOpc k.opc = some k)
    (hc : k.check (k.stepSize a) ⟨m, e, []⟩ a = none)
    (hread : readParts e (decide (k = .movc)) (k.reads (k.stepSize a) a) host m = (some (.ok data), m))
    (hdev : (k.reads (k.stepSize a) a).foldl (fun m p => deviceAccess e p.1 m) m = m)
    (hf : ∀ r ∈ lanesOf m e, k.step (k.stepSize a) (data.map (partData r)) ⟨m, e, []⟩ (beginArch a) = f) :
    stringStep e host m = stepFed e (!data.isEmpty)
      (carryOutFx e ((lanesOf m e).map fun r => (r, f)) (if f.part then m else running e m)) := by
  obtain ⟨fr, hreq, hpart⟩ := request_ok hc
  have houts : ((lanesOf m e).map fun r => (r, k.request (Ctx.of m e r) (rep m (tileOf e) r).arch))
      = (lanesOf m e).map fun r => (r, LaneOut.ok fr) :=
    List.map_congr_left fun r hr => by rw [h.ctx r hr, (h.quiet r hr).1, hreq]
  refine Eq.trans ?_ (stepReads_outcome h hread hdev hf)
  have hrun : (canRun m e && !stopping m e) = true := by rw [h.canRun, h.not_stopping]; rfl
  have hres := resolve_ok (m := m) (e := e) fr
  have hvote := voteFx_const h.empty fr
  unfold stringStep
  rw [h.settle]
  simp only [h.act, hrun, hof, houts, hres, hvote]
  obtain ⟨r0, rest, hL⟩ := List.exists_cons_of_ne_nil h.lanes
  simp only [hL, List.map_cons, hpart, if_true]

/-! ### The module after a step -/

theorem pair_of_fst {α β : Type} {p : α × β} {x : α} (h : p.1 = x) : p = (x, p.2) := Prod.ext h rfl

theorem buffer_running (f : Fx) (m : Mach) (e : BitVec 7) (a : Arch) : f.buffer (running e m) e a = f.buffer m e a := by
  have hpos : runPos (running e m) e = runPos m e := by simp [runPos, running]
  rw [Fx.buffer, Fx.buffer, hpos]
  rfl

/-- A step that completes its instruction leaves the module as an instruction does. -/
theorem carryOutFx_completes (h : InString m e a k) (hev : f.ev = .none) (ht : f.trans = []) (hp : f.part = false)
    (htrap : f.trap = false) {b : Arch} (hlast : f.last = b) (hdue : f.due a = a.due) (hj : f.jump = false)
    {sb : List SbEntry} (hbuf : f.buffer m e a = sb) :
    carryOutFx e ((lanesOf m e).map fun r => (r, f)) (running e m)
      = (issueSb e ((running e m).retired e b a.due false sb)).2 := by
  have hap := applyFx_ready h.ready f ht hp htrap
  rw [buffer_running, hlast, hdue, hj, hbuf] at hap
  have hal := issueSb_alike (m := (running e m).retired e b a.due false sb) (e := e) sb
    (fun r hr => by rw [lanesOf_retired] at hr; rw [retired_lane _ _ _ _ _ _ _ hr])
  exact carryOutFx_none h.ready.lanes hev (hap.trans (pair_of_fst hal.1))

/-- The registers `b` with the load that is pending in `a` (R72). -/
def Arch.withLoad (b a : Arch) : Arch := { b with lpend := a.lpend, lval := a.lval }

/-- The lanes after a step that leaves its instruction going. -/
theorem lanes_part (h : InString m e a k) (hp : f.part = true) (hj : f.jump = true) :
    ((lanesOf m e).map fun r => (r, f)).foldl
      (fun m' x => modRep (tileOf e) x.1 (fun r => laneDone m.tick.count (runPos m e) r x.2) m') m
      = mapLanes e (fun r => { r with
          arch := f.arch.withLoad a, ldue := none, sb := f.buffer m e a }) m := by
  rw [List.foldl_map]
  refine foldl_modRep_congr _ _ (fun _ r => laneDone m.tick.count (runPos m e) r f) (fun _ r => { r with
      arch := f.arch.withLoad a, ldue := none, sb := f.buffer m e a })
    _ (lanesOf_nodup m e) fun r hr => ?_
  obtain ⟨ha, hs, hl, hrep⟩ := h.quiet r hr
  simp [laneDone, Arch.withLoad, ha, h.ready.outside, hs, hrep, hp, hj, Fx.buffer]

theorem stepped_refilled (m : Mach) (e : BitVec 7) (b : Arch) (sb : List SbEntry) :
    lanesOf (m.stepped e b sb) e = lanesOf m e ∧
      (∀ r ∈ lanesOf m e, (rep (m.stepped e b sb) (tileOf e) r).sb = sb) ∧
      ((m.stepped e b sb).engines.get e).act = (m.engines.get e).act := by
  have hfill : Refilled e _ (m.stepped e b sb) := refilled_fill e (modEng e (fun g => { g with
    fed := false, reread := false, cur := g.cur.map fun r => { r with count := r.count + 1 } })
    (mapLanes e (fun r => { r with arch := b, ldue := none, sb := sb }) m))
  refine ⟨?_, fun r hr => ?_, ?_⟩
  · rw [hfill.lanesOf]
    exact lanesOf_mapLanes e _ m fun _ => ⟨rfl, rfl⟩
  · have hrep : ∀ (g : Engine → Engine) (n : Mach), rep (modEng e g n) (tileOf e) r = rep n (tileOf e) r := fun _ _ => rfl
    rw [hfill.reps, hrep, rep_mapLanes, if_pos hr]
  · rw [hfill.engines]
    simp

/-- A step that leaves its instruction going. -/
theorem carryOutFx_goesOn (h : InString m e a k) (hev : f.ev = .none) (ht : f.trans = []) (hp : f.part = true)
    (hj : f.jump = true) (htrap : f.trap = false) {b : Arch} (hb : f.arch = b) {sb : List SbEntry} (hbuf : f.buffer m e a = sb) :
    carryOutFx e ((lanesOf m e).map fun r => (r, f)) m
      = (issueSb e (m.stepped e (b.withLoad a) sb)).2 := by
  subst hb hbuf
  obtain ⟨hlanes, hsb, -⟩ := stepped_refilled m e (f.arch.withLoad a) (f.buffer m e a)
  have hal := issueSb_alike (m := m.stepped e (f.arch.withLoad a) (f.buffer m e a)) (e := e)
    (f.buffer m e a) (fun r hr => hsb r (hlanes ▸ hr))
  have hfold := lanes_part h hp hj
  have hstep : ∀ n : Mach, n.dbg = m.dbg → stepDone e n = n := fun n hn => by
    simp [stepDone, hn, h.undebugged.2.1]
  refine carryOutFx_none h.lanes hev (Eq.trans ?_ (pair_of_fst hal.1))
  obtain ⟨r0, rest, hL⟩ := List.exists_cons_of_ne_nil h.lanes
  rw [hL] at hfold ⊢
  simp only [List.map_cons] at hfold ⊢
  simp only [applyFx, ht, List.foldl_nil, htrap, Bool.false_eq_true, if_false, hfold]
  rw [hstep _ (by simp [countOne]), Mach.stepped, countOne, modEng, modEng, Tbl.upd_upd]
  rfl

end

/-! ### The effect of a step -/

section
variable {m : Mach} {e : BitVec 7} {a : Arch} {k : Str} {b : Arch}

/-- A step that completes its instruction with registers `b`, and stores nothing. -/
theorem carryOutFx_ends (h : InString m e a k) (b : Arch) :
    carryOutFx e ((lanesOf m e).map fun r => (r, stepEnd true [] .none b)) (running e m)
      = (running e m).retired e { b with rstate := 0 }.advance a.due false [] := by
  rw [carryOutFx_completes (f := stepEnd true [] .none b) (b := { b with rstate := 0 }.advance) (sb := []) h rfl rfl rfl rfl rfl rfl
    rfl rfl, issue_retired]

/-- The same with one store. -/
theorem carryOutFx_endsStoring (h : InString m e a k) (b : Arch) (q : StReq) :
    carryOutFx e ((lanesOf m e).map fun r => (r, stepEnd true [q] .none b)) (running e m)
      = (issueSb e ((running e m).retired e { b with rstate := 0 }.advance a.due false [q.entry a m.tick.count (runPos m e)])).2 := by
  rw [carryOutFx_completes (f := stepEnd true [q] .none b) (b := { b with rstate := 0 }.advance)
    (sb := [q.entry a m.tick.count (runPos m e)]) h rfl rfl rfl rfl rfl rfl rfl rfl]

/-- A step that leaves its instruction going with registers `b`, and stores nothing. -/
theorem carryOutFx_continues (h : InString m e a k) (b : Arch) :
    carryOutFx e ((lanesOf m e).map fun r => (r, stepEnd false [] .none b)) m
      = m.stepped e (b.withLoad a) [] := by
  obtain ⟨hlanes, hsb, -⟩ := stepped_refilled m e (b.withLoad a) []
  have hissue := issueSb_empty (m := m.stepped e (b.withLoad a) []) (e := e)
    fun r hr => hsb r (hlanes ▸ hr)
  rw [carryOutFx_goesOn (f := stepEnd false [] .none b) (b := b) (sb := []) h rfl rfl rfl rfl rfl rfl rfl, hissue]

/-- The same with one store. -/
theorem carryOutFx_continuesStoring (h : InString m e a k) (b : Arch) (q : StReq) :
    carryOutFx e ((lanesOf m e).map fun r => (r, stepEnd false [q] .none b)) m
      = (issueSb e (m.stepped e (b.withLoad a) [q.entry a m.tick.count (runPos m e)])).2 :=
  carryOutFx_goesOn (f := stepEnd false [q] .none b) (b := b) h rfl rfl rfl rfl rfl rfl rfl

/-- A step whose engine goes on running, or goes on with its string, and read nothing. -/
theorem stepFed_false {n : Mach} (h : (n.engines.get e).act ≠ .bisque) : stepFed e false n = n := pumped_run h

/-- The same of a step that read. -/
theorem stepFed_true {n : Mach} (h : (n.engines.get e).act = .run ∨ ∃ c, (n.engines.get e).act = .string c) :
    stepFed e true n = n.fed e := by
  have hfeed : feed e n = n.fed e := by
    unfold feed Mach.fed modEng
    rw [Tbl.upd_congr]
    rcases h with h | ⟨c, h⟩ <;> simp [h]
  have hact : ((n.fed e).engines.get e).act ≠ .bisque := by
    rcases h with h | ⟨c, h⟩ <;> simp [Mach.fed, h]
  rw [stepFed, if_pos rfl, hfeed, pumped_run hact]

/-- A step whose outcome completes the instruction. -/
theorem stringStep_ends {host : List Gran} {data : List (BitVec 2 → LoadResult)} {stores : List StReq} (h : InString m e a k)
    (hof : Str.ofOpc k.opc = some k) (hc : k.check (k.stepSize a) ⟨m, e, []⟩ a = none)
    (hread : readParts e (decide (k = .movc)) (k.reads (k.stepSize a) a) host m = (some (.ok data), m))
    (hdev : (k.reads (k.stepSize a) a).foldl (fun m p => deviceAccess e p.1 m) m = m)
    (hf : ∀ r ∈ lanesOf m e, k.step (k.stepSize a) (data.map (partData r)) ⟨m, e, []⟩ (beginArch a)
      = stepEnd true stores .none b) :
    stringStep e host m = stepFed e (!data.isEmpty)
      (carryOutFx e ((lanesOf m e).map fun r => (r, stepEnd true stores .none b)) (running e m)) := by
  have hp : ¬ (stepEnd true stores .none b).part = true := Bool.false_ne_true
  rw [stringStep_outcome h hof hc hread hdev hf, if_neg hp]

/-- A step whose outcome leaves the instruction going. -/
theorem stringStep_continues {host : List Gran} {data : List (BitVec 2 → LoadResult)} {stores : List StReq}
    (h : InString m e a k) (hof : Str.ofOpc k.opc = some k) (hc : k.check (k.stepSize a) ⟨m, e, []⟩ a = none)
    (hread : readParts e (decide (k = .movc)) (k.reads (k.stepSize a) a) host m = (some (.ok data), m))
    (hdev : (k.reads (k.stepSize a) a).foldl (fun m p => deviceAccess e p.1 m) m = m)
    (hf : ∀ r ∈ lanesOf m e, k.step (k.stepSize a) (data.map (partData r)) ⟨m, e, []⟩ (beginArch a)
      = stepEnd false stores .none b) :
    stringStep e host m = stepFed e (!data.isEmpty)
      (carryOutFx e ((lanesOf m e).map fun r => (r, stepEnd false stores .none b)) m) := by
  have hp : (stepEnd false stores .none b).part = true := rfl
  rw [stringStep_outcome h hof hc hread hdev hf, if_pos hp]

end

/-! ### Bytes -/

theorem toNat_byteOf {n : Nat} (v : BitVec n) (i : Nat) : (byteOf v i).toNat = v.toNat / 2 ^ (8 * i) % 256 := by
  simp [byteOf, Nat.shiftRight_eq_div_pow]

theorem leNat_lt (l : List Byte) : leNat l < 2 ^ (8 * l.length) := by
  induction l with
  | nil => simp [leNat]
  | cons b l ih =>
    have hb := b.isLt
    have hp : (2 : Nat) ^ (8 * (l.length + 1)) = 256 * 2 ^ (8 * l.length) := by rw [Nat.mul_succ, Nat.pow_add]; omega
    rw [leNat, List.length_cons, hp]
    omega

theorem leNat_div (l : List Byte) (i : Nat) (h : i < l.length) : leNat l / 2 ^ (8 * i) % 256 = l[i].toNat := by
  induction l generalizing i with
  | nil => simp at h
  | cons b l ih =>
    have hb := b.isLt
    cases i with
    | zero =>
      simp only [leNat, Nat.mul_zero, Nat.pow_zero, Nat.div_one, List.getElem_cons_zero]
      omega
    | succ i =>
      have hp : (2 : Nat) ^ (8 * (i + 1)) = 256 * 2 ^ (8 * i) := by rw [Nat.mul_succ, Nat.pow_add]; omega
      have hd : (b.toNat + 256 * leNat l) / 256 = leNat l := by omega
      rw [leNat, hp, ← Nat.div_div_eq_div_mul, hd, List.getElem_cons_succ]
      exact ih i (by simpa using h)

/-- The bytes of a granule that is put together of bytes. -/
theorem byteOf_packBytes {l : List Byte} (hl : l.length ≤ 16) {i : Nat} (h : i < l.length) : byteOf (packBytes l) i = l[i] := by
  have hlt : leNat l < 2 ^ 128 := (leNat_lt l).trans_le (Nat.pow_le_pow_right (by decide) (by omega))
  apply BitVec.eq_of_toNat_eq
  rw [toNat_byteOf, packBytes, BitVec.toNat_ofNat, Nat.mod_eq_of_lt hlt, leNat_div l i h]

theorem byteOf_ushiftRight {n : Nat} (v : BitVec n) (o i : Nat) : byteOf (v >>> (8 * o)) i = byteOf v (o + i) := by
  apply BitVec.eq_of_getLsbD_eq
  intro j hj
  rw [getLsbD_byteOf _ _ _ hj, getLsbD_byteOf _ _ _ hj, BitVec.getLsbD_ushiftRight]
  congr 1
  omega

/-- The bytes of a granule from an address on. -/
theorem takeBytes_one (d : Gran) (x : Addr) {n : Nat} (h : x.toNat % 16 + n ≤ 16) :
    takeBytes [d] x n = (List.range n).map fun i => byteOf (d >>> (8 * (x.toNat % 16))) i := by
  have hl : (takeBytes [d] x n).length = n := by
    simp [takeBytes, granBytes, length_bytesOf]
    omega
  refine List.ext_getElem (by simp [hl]) fun i h1 h2 => ?_
  simp only [takeBytes, granBytes, List.flatMap_cons, List.flatMap_nil, List.append_nil, List.getElem_take, List.getElem_drop,
    getElem_bytesOf, List.getElem_map, List.getElem_range, byteOf_ushiftRight, Nat.zero_add]

/-- The first index is that of the library. -/
theorem firstIdx_eq {α : Type} (p : α → Bool) (l : List α) (k : Nat) : firstIdx p l k = (l.findIdx? p).map (· + k) := by
  induction l generalizing k with
  | nil => rfl
  | cons x l ih =>
    rw [firstIdx, List.findIdx?_cons, ih]
    split
    · simp
    · rw [Option.map_map]
      congr 1
      funext i
      simp only [Function.comp_apply]
      omega

end Sys2Proof.Machine
end

section
/-! PROOFS. One step of FILLS and of SCANS (O20, R98, R99). -/

namespace Sys2Proof.Machine

open Sys2Proof

set_option Elab.async false -- one proof at a time: the threads of many at once exceed the memory of a check

theorem lval_beginArch (a : Arch) : (beginArch a).lval = a.lval := (congrArg Arch.lval (beginArch_frame a) :)

theorem withLoad_eq {a b : Arch} (h : b.lval = a.lval) : b.withLoad a = { b with lpend := a.lpend } := by
  rw [Arch.withLoad, ← h]

/-- RCNT is used up just when it names the bytes that the step handled. -/
theorem rcnt_left {c : W64} {n : Nat} (h : n ≤ c.toNat) : (c - BitVec.ofNat 64 n = 0#64) ↔ c.toNat = n := by
  have hc := c.isLt
  rw [BitVec.sub_eq_iff_eq_add, BitVec.zero_add]
  constructor
  · intro he
    rw [he, BitVec.toNat_ofNat, Nat.mod_eq_of_lt (by omega)]
  · intro he
    rw [← he, BitVec.ofNat_toNat, BitVec.setWidth_eq]

/-! ### FILLS -/

/-- The registers after `n` bytes of FILLS. -/
def filled (a : Arch) (n : Nat) : Arch :=
  { beginArch a with x := a.x.setCursor (a.x.cursor + BitVec.ofNat 36 n), rcnt := a.rcnt - BitVec.ofNat 64 n }

/-- The store of a step of FILLS: the bytes of A, each at its place (R99). -/
def fillStore (a : Arch) (n : Nat) : StReq :=
  ⟨a.x.cursor, n, packBytes ((range 0 n).map fun i => byteOf a.a ((a.x.cursor.toNat + i) % 8)), false, false⟩

theorem advance_fills (a : Arch) (n : Nat) : Str.fills.advance n (beginArch a) = filled a n := by
  have hb : ∀ b : Arch, Str.fills.advance n b
      = { b with x := b.x.setCursor (b.x.cursor + BitVec.ofNat 36 n), rcnt := b.rcnt - BitVec.ofNat 64 n } := fun _ => rfl
  rw [hb, x_beginArch, rcnt_beginArch, filled]

theorem step_fills {c : Ctx} {a : Arch} {n : Nat} (hs : (c.span && inOutputRecord a.x.cursor) = false)
    (hn : n ≤ a.rcnt.toNat) :
    Str.fills.step n [] c (beginArch a) = stepEnd (decide (a.rcnt.toNat = n)) [fillStore a n] .none (filled a n) := by
  have hdone : decide ((filled a n).rcnt = 0#64) = decide (a.rcnt.toNat = n) := decide_eq_decide.mpr (rcnt_left hn)
  simp only [Str.step, advance_fills, hdone, storeFx, x_beginArch, a_beginArch, hs, Bool.false_eq_true, if_false, fx]
  rfl

theorem byteOf_fillStore (a : Arch) {n i : Nat} (hn : n ≤ 16) (hi : i < n) :
    byteOf (fillStore a n).data i = byteOf a.a ((a.x.cursor.toNat + i) % 8) := by
  have hl : ((range 0 n).map fun i => byteOf a.a ((a.x.cursor.toNat + i) % 8)).length = n := by simp [range_eq]
  rw [fillStore, byteOf_packBytes (by omega) (by omega)]
  simp [range_eq]

/-- ONE STEP OF FILLS (R98, R99). -/
theorem stringStep_fills {m : Mach} {e : BitVec 7} {a : Arch} (h : InString m e a .fills) (host : List Gran)
    (hc : checkOp ⟨m, e, []⟩ a ⟨0, a.x, a.x.cursor, none⟩ ⟨Str.fills.stepSize a, 1, true, false⟩ = none)
    (hs : (Ctx.span ⟨m, e, []⟩ && inOutputRecord a.x.cursor) = false) :
    let n := Str.fills.stepSize a
    let y := (fillStore a n).entry a m.tick.count (runPos m e)
    (a.rcnt.toNat = n → stringStep e host m
      = (issueSb e ((running e m).retired e { filled a n with rstate := 0 }.advance a.due false [y])).2) ∧
    (n < a.rcnt.toNat → stringStep e host m
      = (issueSb e (m.stepped e { filled a n with lpend := a.lpend } [y])).2) := by
  intro n y
  have hn : n ≤ a.rcnt.toNat := Nat.min_le_left ..
  have hstep : ∀ r ∈ lanesOf m e, Str.fills.step n (([] : List (BitVec 2 → LoadResult)).map (partData r)) ⟨m, e, []⟩ (beginArch a)
      = stepEnd (decide (a.rcnt.toNat = n)) [fillStore a n] .none (filled a n) := fun r _ => step_fills hs hn
  refine ⟨fun hlast => ?_, fun hmore => ?_⟩
  · rw [decide_eq_true hlast] at hstep
    have hact : ((issueSb e ((running e m).retired e { filled a n with rstate := 0 }.advance a.due false [y])).2.engines.get e).act
        = .run := by
      rw [(issueSb_alike [y] fun r hr => by rw [lanesOf_retired] at hr; rw [retired_lane _ _ _ _ _ _ _ hr]).2]
      exact act_retired h.ready ..
    rw [stringStep_ends h rfl hc rfl rfl hstep, carryOutFx_endsStoring h]
    exact stepFed_false (by rw [hact]; exact nofun)
  · rw [decide_eq_false (by omega)] at hstep
    have hload : (filled a n).withLoad a = { filled a n with lpend := a.lpend } := withLoad_eq (lval_beginArch a)
    obtain ⟨hlanes, hsb, hact⟩ := stepped_refilled m e { filled a n with lpend := a.lpend } [y]
    have hact : ((issueSb e (m.stepped e { filled a n with lpend := a.lpend } [y])).2.engines.get e).act = .string Str.fills.opc := by
      rw [(issueSb_alike [y] fun r hr => hsb r (hlanes ▸ hr)).2, hact, h.act]
    rw [stringStep_continues h rfl hc rfl rfl hstep, carryOutFx_continuesStoring h, hload]
    exact stepFed_false (by rw [hact]; exact nofun)

/-! ### SCANS -/

/-- The registers after `j` bytes of SCANS. -/
def scanned (a : Arch) (j : Nat) : Arch :=
  { beginArch a with y := a.y.setCursor (a.y.cursor + BitVec.ofNat 36 j), rcnt := a.rcnt - BitVec.ofNat 64 j }

theorem advance_scans (a : Arch) (j : Nat) : Str.scans.advance j (beginArch a) = scanned a j := by
  have hb : ∀ b : Arch, Str.scans.advance j b
      = { b with y := b.y.setCursor (b.y.cursor + BitVec.ofNat 36 j), rcnt := b.rcnt - BitVec.ofNat 64 j } := fun _ => rfl
  rw [hb, y_beginArch, rcnt_beginArch, scanned]

theorem cover_one {x : Addr} {n : Nat} (h : x.toNat % 16 + n ≤ 16) : cover x n = [(x, n)] := if_pos (by omega)

/-- Byte `i` of those that SCANS reads is the one that it looks for. -/
def scanHit (d : Gran) (a : Arch) (i : Nat) : Bool :=
  decide (byteOf (d >>> (8 * (a.y.cursor.toNat % 16))) i = byteOf a.a 0)

/-- The place of the first such byte. -/
def scanFind (d : Gran) (a : Arch) (n : Nat) : Option Nat := (List.range n).findIdx? (scanHit d a)

theorem firstIdx_scan {d : Gran} {a : Arch} {n : Nat} (h : a.y.cursor.toNat % 16 + n ≤ 16) :
    firstIdx (fun b => decide (b = fld a.a 0 8)) (takeBytes [d] a.y.cursor n) 0 = scanFind d a n := by
  rw [firstIdx_eq, takeBytes_one d _ h, List.findIdx?_map]
  simp only [Nat.add_zero, Option.map_id']
  rfl

theorem scanFind_some {d : Gran} {a : Arch} {n j : Nat} (hj : j < n) (hit : scanHit d a j = true)
    (hmiss : ∀ i, i < j → scanHit d a i = false) : scanFind d a n = some j := by
  rw [scanFind, List.findIdx?_eq_some_iff_getElem]
  exact ⟨by simpa using hj, by simpa using hit, fun i hi => by simpa using hmiss i hi⟩

theorem scanFind_none {d : Gran} {a : Arch} {n : Nat} (hmiss : ∀ i, i < n → scanHit d a i = false) : scanFind d a n = none := by
  rw [scanFind, List.findIdx?_eq_none_iff]
  intro i hi
  exact hmiss i (List.mem_range.mp hi)

section
variable {c : Ctx} {a : Arch} {d : Gran} {t : Bool} {n j : Nat}

theorem step_scans_found (h : a.y.cursor.toNat % 16 + n ≤ 16) (hj : scanFind d a n = some j) :
    Str.scans.step n [(d, t)] c (beginArch a) = stepEnd true [] .none { scanned a j with f := setZ a.f true } := by
  rw [← firstIdx_scan h] at hj
  have hf : (scanned a j).f = a.f := f_beginArch a
  simp only [Str.step, y_beginArch, a_beginArch, cover_one h, List.length_singleton, List.take_one, List.head?_cons,
    Option.toList_some, List.map_cons, List.map_nil, hj, advance_scans, hf]

theorem step_scans_none (h : a.y.cursor.toNat % 16 + n ≤ 16) (hn : n ≤ a.rcnt.toNat) (hj : scanFind d a n = none) :
    Str.scans.step n [(d, t)] c (beginArch a) = if a.rcnt.toNat = n then
        stepEnd true [] .none { scanned a n with f := setZ a.f false }
      else stepEnd false [] .none (scanned a n) := by
  rw [← firstIdx_scan h] at hj
  have hf : (scanned a n).f = a.f := f_beginArch a
  have hdone : decide ((scanned a n).rcnt = 0#64) = decide (a.rcnt.toNat = n) := decide_eq_decide.mpr (rcnt_left hn)
  simp only [Str.step, y_beginArch, a_beginArch, cover_one h, List.length_singleton, List.take_one, List.head?_cons,
    Option.toList_some, List.map_cons, List.map_nil, hj, advance_scans, hf, hdone]
  by_cases hr : a.rcnt.toNat = n
  · simp only [decide_eq_true hr, if_true, if_pos hr]
  · simp only [decide_eq_false hr, Bool.false_eq_true, if_false, if_neg hr]

end

/-- The part of SCANS in the tile's SRAM is read without error, and changes nothing (R64, R98). -/
theorem readParts_alias {m : Mach} {e : BitVec 7} {a : Arch} {k : Str} (h : InString m e a k) {x : Addr} (n : Nat)
    (hx : region x = .tileAlias) (hc : readsClean m (granOf (phys (tileOf e) x))) (host : List Gran) :
    readParts e false [(x, n)] host m
      = (some (.ok [forwarded m e x n false (.data (m.mem.data (granOf (phys (tileOf e) x))) false)]), m) := by
  obtain ⟨hw, hfw⟩ := unanswered_empty h.empty x n false
  have hload := loadAccess_alias (w := engineWho m e) (size := 16) (cap := false) (host := host.headD 0#128) hx
    (by rw [engineWho_eng]; exact hc)
  rw [engineWho_eng, Bool.and_false] at hload
  simp only [readParts, hw, acceptN, hfw, Bool.not_true, Bool.false_eq_true, if_false, hload]

theorem partData_alias {m : Mach} {e : BitVec 7} {r : BitVec 2} (h : (rep m (tileOf e) r).sb = []) (x : Addr) (n : Nat) (d : Gran) :
    partData r (forwarded m e x n false (.data d false)) = (d, false) := by
  simp only [partData, forwarded, laneHit, h, sbLookup_nil]

section
variable {m : Mach} {e : BitVec 7} {a : Arch}

/-- ONE STEP OF SCANS (R98, R99) that leaves registers `b`, and ends the instruction or not. -/
theorem stringStep_scans (h : InString m e a .scans) (host : List Gran)
    (hc : checkOp ⟨m, e, []⟩ a ⟨1, a.y, a.y.cursor, none⟩ ⟨Str.scans.stepSize a, 1, false, false⟩ = none)
    (hs : shadowArea ⟨m, e, []⟩ a.y.cursor = false) (hx : region a.y.cursor = .tileAlias)
    (hclean : readsClean m (granOf (phys (tileOf e) a.y.cursor))) {b : Arch} {done : Bool}
    (hf : Str.scans.step (Str.scans.stepSize a) [(m.mem.data (granOf (phys (tileOf e) a.y.cursor)), false)] ⟨m, e, []⟩ (beginArch a)
      = stepEnd done [] .none b) :
    stringStep e host m = if done then ((running e m).retired e { b with rstate := 0 }.advance a.due false []).fed e
      else (m.stepped e (b.withLoad a) []).fed e := by
  have hfit : a.y.cursor.toNat % 16 + Str.scans.stepSize a ≤ 16 := by
    have hle : Str.scans.stepSize a ≤ 16 - a.y.cursor.toNat % 16 := Nat.min_le_right ..
    omega
  have hreads : Str.scans.reads (Str.scans.stepSize a) a = [(a.y.cursor, Str.scans.stepSize a)] := cover_one hfit
  have hcheck : Str.scans.check (Str.scans.stepSize a) ⟨m, e, []⟩ a = none := by
    simp only [Str.check, hs, Bool.false_eq_true, if_false, Option.or_none]
    exact hc
  have hread := readParts_alias h (Str.scans.stepSize a) hx hclean host
  rw [← hreads] at hread
  have hdev : (Str.scans.reads (Str.scans.stepSize a) a).foldl (fun m p => deviceAccess e p.1 m) m = m := by
    rw [hreads, List.foldl_cons, List.foldl_nil, deviceAccess_alias e hx]
  have hstep : ∀ r ∈ lanesOf m e, Str.scans.step (Str.scans.stepSize a)
      ([forwarded m e a.y.cursor (Str.scans.stepSize a) false (.data (m.mem.data (granOf (phys (tileOf e) a.y.cursor))) false)].map
        (partData r)) ⟨m, e, []⟩ (beginArch a) = stepEnd done [] .none b := fun r hr => by
    rw [List.map_singleton, partData_alias (h.empty r hr), hf]
  cases done with
  | true =>
    rw [stringStep_ends h rfl hcheck hread hdev hstep, carryOutFx_ends h, if_pos rfl]
    exact stepFed_true (.inl (act_retired h.ready ..))
  | false =>
    obtain ⟨-, -, hact⟩ := stepped_refilled m e (b.withLoad a) []
    rw [stringStep_continues h rfl hcheck hread hdev hstep, carryOutFx_continues h, if_neg Bool.false_ne_true]
    exact stepFed_true (.inr ⟨_, hact.trans h.act⟩)

end

/-- A string instruction with something to do begins (R98). -/
theorem string_begins {s : State} {e : BitVec 7} {a : Arch} (h : Ready s.m e a) (hr : a.rcnt ≠ 0) (k : Str)
    (hm : k = .movc → a.x.cursor.toNat % 16 = 0 ∧ a.y.cursor.toNat % 16 = 0 ∧ a.rcnt.toNat % 16 = 0) :
    .next { s with m := instrE ⟨.n, true, fun _ => none, 3⟩ e 0 0 (fun _ a => stringSem k a) s.m }
      = (.next { s with
          m := modEng e (fun g => { g with act := .string k.opc })
            (mapLanes e (fun r => { r with arch := { a with rstate := 0x100 ||| k.opc.setWidth 64 } }) s.m) } : Res) := by
  have hsem : stringSem k (beginArch a) = .ok { fx (beginArch a) with ev := .string k.opc } :=
    stringSem_begins (by rw [rcnt_beginArch]; exact hr) (by rw [x_beginArch, y_beginArch, rcnt_beginArch]; exact hm)
  rw [instrE_begins h (decodeCheck_any rfl h.outside) hsem rfl]

/-- A string instruction with nothing to do is complete (R98). -/
theorem string_done {s : State} {e : BitVec 7} {a : Arch} (h : Ready s.m e a) (hr : a.rcnt = 0) (k : Str) :
    .next { s with m := instrE ⟨.n, true, fun _ => none, 3⟩ e 0 0 (fun _ a => stringSem k a) s.m }
      = goesOn s e a { beginArch a with rstate := 0, f := k.emptyFlags a.f } :=
  instrE_goesOn h (decodeCheck_any rfl h.outside) (stringSem_done k hr)

/-- Settles O20: the beginnings and ends by `stringSem`, the steps of FILLS and SCANS by their common outcome on every lane
(`stringStep_outcome`). -/
theorem stringInstructions : Obligations.StringInstructions := by
  unfold Obligations.StringInstructions
  constructor
  · intro s e a h begins done
    have hno {k : Str} (hk : k ≠ .movc) : k = .movc → a.x.cursor.toNat % 16 = 0 ∧ a.y.cursor.toNat % 16 = 0 ∧
        a.rcnt.toNat % 16 = 0 := fun h => absurd h hk
    exact ⟨fun hr => ⟨string_begins h hr .movs (hno nofun), string_begins h hr .fills (hno nofun),
        string_begins h hr .cmps (hno nofun), string_begins h hr .scans (hno nofun), string_begins h hr .crcs (hno nofun),
        fun hx hy hc => string_begins h hr .movc fun _ => ⟨hx, hy, hc⟩⟩,
      fun hr => ⟨string_done h hr .movs, string_done h hr .fills, string_done h hr .movc, string_done h hr .crcs,
        string_done h hr .cmps, string_done h hr .scans⟩⟩
  · intro s e a h0 h1 h2 h3 h hpos b ran steps
    have carried {m : Mach} (hm : stringStep e [h0, h1, h2, h3] s.m = m) : steps m := by
      show Host.Outcome.next { s with m := stringStep e [h0, h1, h2, h3] s.m } = _
      rw [hm]
    constructor
    · intro n o left hact hc hs
      obtain ⟨hends, hgoes⟩ := stringStep_fills ⟨h, hact⟩ [h0, h1, h2, h3] hc hs
      have hfit : a.x.cursor.toNat % 16 + n ≤ 16 := by
        have hle : n ≤ 16 - a.x.cursor.toNat % 16 := Nat.min_le_right ..
        omega
      exact ⟨_, _, storedAs_entry s.m e a a.x.cursor n _ (fillStore a n).data false false hfit fun _ _ => rfl,
        fun i hi => byteOf_fillStore a (by omega) hi, fun hl => carried (hends hl), fun hl => carried (hgoes hl)⟩
    · intro n o at' same hact hc hs hx hclean
      have hfit : a.y.cursor.toNat % 16 + n ≤ 16 := by
        have hle : n ≤ 16 - a.y.cursor.toNat % 16 := Nat.min_le_right ..
        omega
      have hn : n ≤ a.rcnt.toNat := Nat.min_le_left ..
      have scan {c : Arch} {done : Bool} := stringStep_scans (b := c) (done := done) ⟨h, hact⟩ [h0, h1, h2, h3] hc hs hx hclean
      refine ⟨fun j hj hit hmiss => ?_, fun hmiss => ?_⟩
      · have hfind := scanFind_some hj (decide_eq_true hit) fun i hi => decide_eq_false (hmiss i hi)
        have hends := scan (step_scans_found hfit hfind)
        rw [if_pos rfl] at hends
        exact carried hends
      · have hstep := step_scans_none (c := ⟨s.m, e, []⟩) (t := false) hfit hn
          (scanFind_none fun i hi => decide_eq_false (hmiss i hi))
        refine ⟨fun hl => ?_, fun hl => ?_⟩
        · rw [if_pos hl] at hstep
          have hends := scan hstep
          rw [if_pos rfl] at hends
          exact carried hends
        · rw [if_neg (by omega)] at hstep
          have hgoes := scan hstep
          have hload : (scanned a n).withLoad a = { scanned a n with lpend := a.lpend } := withLoad_eq (lval_beginArch a)
          rw [if_neg Bool.false_ne_true, hload] at hgoes
          exact carried hgoes

end Sys2Proof.Machine
end

section
/-! PROOFS. The fields of a capability, and what each capability instruction gives (R109, R110, R112, R118, R129, R541). -/

namespace Sys2Proof.Machine

open Sys2Proof

set_option Elab.async false -- one proof at a time: the threads of many at once exceed the memory of a check

/-! ### Fields of a word -/

theorem getLsbD_fld {n : Nat} (v : BitVec n) (lo len i : Nat) :
    (fld v lo len).getLsbD i = (decide (i < len) && v.getLsbD (lo + i)) := BitVec.getLsbD_extractLsb' ..

/-- A field replaced, bit by bit. -/
theorem getLsbD_setFld {n lo len : Nat} (v : BitVec n) (x : BitVec len) (h : lo + len ≤ n) (i : Nat) :
    (setFld v lo len x).getLsbD i = if lo ≤ i ∧ i < lo + len then x.getLsbD (i - lo) else v.getLsbD i := by
  simp only [setFld, BitVec.getLsbD_or, BitVec.getLsbD_and, BitVec.getLsbD_not, BitVec.getLsbD_shiftLeft,
    BitVec.getLsbD_setWidth, BitVec.getLsbD_allOnes]
  by_cases hn : i < n
  · by_cases hlo : i < lo
    · simp [hn, hlo, not_le.mpr hlo]
    · by_cases hin : i < lo + len
      · simp [hn, hlo, hin, not_lt.mp hlo, show i - lo < n by omega, show i - lo < len by omega]
      · simp [hn, hlo, hin, show ¬ i - lo < len by omega, BitVec.getLsbD_of_ge x (i - lo) (by omega)]
  · simp [hn, show ¬ (lo ≤ i ∧ i < lo + len) by omega, BitVec.getLsbD_of_ge v i (by omega)]

theorem fld_setFld_same {n lo len : Nat} (v : BitVec n) (x : BitVec len) (h : lo + len ≤ n) :
    fld (setFld v lo len x) lo len = x := by
  apply BitVec.eq_of_getLsbD_eq
  intro i hi
  rw [getLsbD_fld, getLsbD_setFld v x h, if_pos (by omega), Nat.add_sub_cancel_left, decide_eq_true hi, Bool.true_and]

theorem fld_setFld_apart {n lo len lo' len' : Nat} (v : BitVec n) (x : BitVec len) (h : lo + len ≤ n)
    (hd : lo' + len' ≤ lo ∨ lo + len ≤ lo') : fld (setFld v lo len x) lo' len' = fld v lo' len' := by
  apply BitVec.eq_of_getLsbD_eq
  intro i hi
  rw [getLsbD_fld, getLsbD_fld, getLsbD_setFld v x h, if_neg (by omega)]

/-- A field of a word of two parts that lies in the lower one. -/
theorem fld_append_low {k n lo len : Nat} (x : BitVec k) (y : BitVec n) (h : lo + len ≤ n) :
    fld (x ++ y) lo len = fld y lo len := BitVec.extractLsb'_append_eq_of_add_le h

/-- A field of a word of two parts that lies in the upper one. -/
theorem fld_append_high {k n lo len : Nat} (x : BitVec k) (y : BitVec n) (h : n ≤ lo) :
    fld (x ++ y) lo len = fld x (lo - n) len := BitVec.extractLsb'_append_eq_of_le h

theorem fld_whole {n : Nat} (v : BitVec n) : fld v 0 n = v := by rw [fld_zero, BitVec.setWidth_eq]

/-! ### Fields of a capability -/

theorem Cap.limit_le (c : Cap) : c.limit ≤ 2 ^ 36 := by
  unfold Cap.limit
  split
  · exact Nat.le_refl _
  · exact Nat.le_of_lt c.limitField.isLt

/-- `d` has the bounds and the owner of `c`. -/
def Cap.sameBounds (d c : Cap) : Prop := d.base = c.base ∧ d.limit = c.limit ∧ d.owner = c.owner

/-- A field replaced that is none of BASE, LIMIT and OWNER. -/
theorem Cap.sameBounds_setFld (c : Cap) {lo len : Nat} (x : BitVec len) (h : lo + len ≤ 128) (hb : lo + len ≤ 36 ∨ 108 ≤ lo)
    (ho : lo + len ≤ 116 ∨ 126 ≤ lo) : { c with bits := setFld c.bits lo len x }.sameBounds c := by
  have hlimit : Cap.limitField { c with bits := setFld c.bits lo len x } = c.limitField := fld_setFld_apart _ _ h (by omega)
  exact ⟨fld_setFld_apart _ _ h (by omega), by rw [Cap.limit, Cap.limit, hlimit], fld_setFld_apart _ _ h (by omega)⟩

theorem Cap.sameBounds_setCursor (c : Cap) (n : Addr) : (c.setCursor n).sameBounds c :=
  c.sameBounds_setFld n (by decide) (by decide) (by decide)

theorem Cap.sameBounds_setRights (c : Cap) (r : BitVec 8) : (c.setRights r).sameBounds c :=
  c.sameBounds_setFld r (by decide) (by decide) (by decide)

theorem Cap.sameBounds_setKind (c : Cap) (k : BitVec 2) : (c.setKind k).sameBounds c :=
  c.sameBounds_setFld k (by decide) (by decide) (by decide)

theorem Cap.rights_setCursor (c : Cap) (n : Addr) : (c.setCursor n).rights = c.rights :=
  fld_setFld_apart _ _ (by decide) (by decide)

theorem Cap.rights_setRights (c : Cap) (r : BitVec 8) : (c.setRights r).rights = r := fld_setFld_same _ _ (by decide)

theorem Cap.rights_setKind (c : Cap) (k : BitVec 2) : (c.setKind k).rights = c.rights :=
  fld_setFld_apart _ _ (by decide) (by decide)

/-- The fields of a capability that is made of them. -/
theorem Cap.make_fields (cursor base limit : Addr) (r : BitVec 8) (o : BitVec 10) (k : BitVec 2) (t : Bool) :
    let c := Cap.make cursor base limit r o k t
    c.base = base ∧ c.limitField = limit ∧ c.rights = r ∧ c.owner = o := by
  refine ⟨?_, ?_, ?_, ?_⟩
  · rw [Cap.make, Cap.base, fld_append_high _ _ (by decide), fld_append_low _ _ (by decide)]
    exact fld_whole _
  · rw [Cap.make, Cap.limitField, fld_append_high _ _ (by decide), fld_append_high _ _ (by decide), fld_append_low _ _ (by decide)]
    exact fld_whole _
  · rw [Cap.make, Cap.rights, fld_append_high _ _ (by decide), fld_append_high _ _ (by decide), fld_append_high _ _ (by decide),
      fld_append_low _ _ (by decide)]
    exact fld_whole _
  · rw [Cap.make, Cap.owner, fld_append_high _ _ (by decide), fld_append_high _ _ (by decide), fld_append_high _ _ (by decide),
      fld_append_high _ _ (by decide), fld_append_low _ _ (by decide)]
    exact fld_whole _

/-! ### What each instruction gives -/

theorem guardE_eq_ok {α : Type} {x : Option Exc} {k : Except Exc α} {r : α} : guardE x k = .ok r ↔ x = none ∧ k = .ok r := by
  cases x <;> simp [guardE]

/-- A check that stands before a result. -/
theorem ite_error_eq_ok {α : Type} {p : Prop} [Decidable p] {x : Exc} {k : Except Exc α} {r : α} :
    (if p then .error x else k) = .ok r ↔ ¬ p ∧ k = .ok r := by
  by_cases h : p <;> simp [h]

/-- A check that stands before others. -/
theorem ite_some_eq_none {p : Prop} [Decidable p] {x : Exc} {q : Option Exc} :
    (if p then some x else q) = none ↔ ¬ p ∧ q = none := by
  by_cases h : p <;> simp [h]

theorem derive_eq_ok {opnd : BitVec 20} {a : Arch} {c : Cap} {f : Fx} :
    derive opnd a c = .ok f ↔ f = fx (setCapReg a (cDst opnd) c.norm) := by
  rw [derive, Except.ok.injEq, eq_comm]

/-- What PTRIM makes of a source: the bounds `lo` and `hi`, without a right where they are empty at an end of the addresses. -/
def Cap.trimmed (c : Cap) (lo hi : W64) : Cap :=
  Cap.make (lo.setWidth 36) (lo.setWidth 36) (hi.setWidth 36)
    (if lo = hi ∧ (lo = 0 ∨ lo.toNat = 2 ^ 36) then 0 else c.rights) c.owner 0 true

theorem ptrim_eq_ok {opnd : BitVec 20} {a : Arch} {f : Fx} : ptrim opnd a = .ok f ↔
    (cSrc opnd a).tag = true ∧ (cSrc opnd a).kind = 0 ∧ (cSrc opnd a).has rDRV = true ∧
      ((cSrc opnd a).base.toNat ≤ a.a.toNat ∧ a.a.toNat ≤ a.e.toNat ∧ a.e.toNat ≤ (cSrc opnd a).limit) ∧
      f = fx (setCapReg a (cDst opnd) ((cSrc opnd a).trimmed a.a a.e).norm) := by
  rw [← derive_eq_ok]
  simp only [ptrim, ite_error_eq_ok]
  simp [Cap.trimmed, and_assoc]

theorem pmask_eq_ok {opnd : BitVec 20} {a : Arch} {f : Fx} : pmask opnd a = .ok f ↔
    f = fx (setCapReg a (cDst opnd) { (cSrc opnd a).setRights ((cSrc opnd a).rights &&& fld opnd 0 8) with
      tag := (cSrc opnd a).tag && decide ((cSrc opnd a).kind = 0) }.norm) := by
  rw [← derive_eq_ok]
  rfl

theorem moveCursor_eq_ok {opnd : BitVec 20} {n : Addr} {a : Arch} {f : Fx} : moveCursor opnd n a = .ok f ↔
    ((cSrc opnd a).tag = false ∨ (cSrc opnd a).kind = 0) ∧
      f = fx (setCapReg a (cDst opnd) ((cSrc opnd a).setCursor n).norm) := by
  rw [← derive_eq_ok]
  simp only [moveCursor, ite_error_eq_ok]
  simp [or_iff_not_imp_left]

theorem authority_eq_none {a : Arch} {c : Cap} : authority a c = none ↔ a.y.tag = true ∧ a.y.kind = 0 ∧
    (keeperCtx a.comp a.ring = true ∨ a.y.owner = a.comp) ∧ a.y.has rSEAL = true ∧
    a.y.base.toNat ≤ c.base.toNat ∧ c.limit ≤ a.y.limit := by
  simp only [authority, ite_some_eq_none]
  simp [or_iff_not_imp_left]

theorem sealSource_eq_none {a : Arch} {c : Cap} {k : BitVec 4} {kind : BitVec 2} {cause : BitVec 8} :
    sealSource a c k kind cause = none ↔
      c.tag = true ∧ c.kind = kind ∧ (keeperCtx a.comp a.ring = true ∨ c.owner = a.comp) := by
  simp only [sealSource, ite_some_eq_none]
  simp [or_iff_not_imp_left]

theorem Cap.tagged_eq {c : Cap} (h : c.tag = true) : { c with tag := true } = c := by rw [← h]

theorem pwrap_eq_ok {opnd : BitVec 20} {a : Arch} {f : Fx} : pwrap opnd a = .ok f ↔
    authority a (cSrc opnd a) = none ∧ sealSource a (cSrc opnd a) (cSrcNo opnd) 0 cSEALED = none ∧
      f = fx (setCapReg a (cDst opnd) ((cSrc opnd a).setKind (if bit opnd 0 then 2 else 1)).norm) := by
  rw [pwrap, guardE_eq_ok, guardE_eq_ok, derive_eq_ok]
  refine and_congr_right fun _ => and_congr_right fun hs => ?_
  obtain ⟨htag, -⟩ := sealSource_eq_none.mp hs
  rw [Cap.tagged_eq (c := (cSrc opnd a).setKind _) htag]
  rfl

theorem punwrap_eq_ok {opnd : BitVec 20} {a : Arch} {f : Fx} : punwrap opnd a = .ok f ↔
    authority a (cSrc opnd a) = none ∧ sealSource a (cSrc opnd a) (cSrcNo opnd) 2 cKIND = none ∧
      f = fx (setCapReg a (cDst opnd) ((cSrc opnd a).setKind 0).norm) := by
  rw [punwrap, guardE_eq_ok, guardE_eq_ok, derive_eq_ok]
  refine and_congr_right fun _ => and_congr_right fun hs => ?_
  obtain ⟨htag, -⟩ := sealSource_eq_none.mp hs
  rw [Cap.tagged_eq (c := (cSrc opnd a).setKind _) htag]
  rfl

end Sys2Proof.Machine
end

section
/-! PROOFS. No capability instruction makes authority (O11, R118, R541). -/

namespace Sys2Proof.Machine

open Sys2Proof

set_option Elab.async false -- one proof at a time: the threads of many at once exceed the memory of a check

/-- `d` holds no more authority than `c`: the same owner, no right beside those of `c`, and no right at all or bounds within
those of `c`. -/
def Cap.atMost (d c : Cap) : Prop :=
  d.owner = c.owner ∧ (∀ i, i < 8 → d.has i = true → c.has i = true) ∧
    (d.rights = 0 ∨ (c.base.toNat ≤ d.base.toNat ∧ d.limit ≤ c.limit))

/-- Within the same bounds, authority is a matter of the rights. -/
theorem Cap.sameBounds.atMost {d c : Cap} (h : d.sameBounds c) (hr : ∀ i, d.has i = true → c.has i = true) : d.atMost c := by
  obtain ⟨hbase, hlimit, howner⟩ := h
  exact ⟨howner, fun i _ => hr i, .inr ⟨by rw [hbase], hlimit.le⟩⟩

theorem Cap.atMost_setCursor (c : Cap) (n : Addr) : (c.setCursor n).atMost c :=
  (c.sameBounds_setCursor n).atMost fun i h => by rwa [Cap.has, c.rights_setCursor] at h

theorem Cap.atMost_setKind (c : Cap) (k : BitVec 2) : (c.setKind k).atMost c :=
  (c.sameBounds_setKind k).atMost fun i h => by rwa [Cap.has, c.rights_setKind] at h

theorem Cap.atMost_setRights_and (c : Cap) (k : BitVec 8) : (c.setRights (c.rights &&& k)).atMost c :=
  (c.sameBounds_setRights _).atMost fun i h => by
    rw [Cap.has, c.rights_setRights, bit, BitVec.getLsbD_and, Bool.and_eq_true] at h
    exact h.1

/-- Bounds that PTRIM takes give no more authority; only the empty ones at an end of the addresses, of which a field of 36 bits
tells nothing, need the loss of all rights (R118). -/
theorem Cap.atMost_trimmed {c : Cap} {lo hi : W64} (hlo : c.base.toNat ≤ lo.toNat) (hle : lo.toNat ≤ hi.toNat)
    (hhi : hi.toNat ≤ c.limit) : (c.trimmed lo hi).atMost c := by
  obtain ⟨hbase, hlimit, hrights, howner⟩ := Cap.make_fields (lo.setWidth 36) (lo.setWidth 36) (hi.setWidth 36)
    (if lo = hi ∧ (lo = 0 ∨ lo.toNat = 2 ^ 36) then 0 else c.rights) c.owner 0 true
  have htop := c.limit_le
  by_cases hempty : lo = hi ∧ (lo = 0 ∨ lo.toNat = 2 ^ 36)
  · have hnone : (c.trimmed lo hi).rights = 0 := hrights.trans (if_pos hempty)
    refine ⟨howner, fun i _ h => ?_, .inl hnone⟩
    rw [Cap.has, hnone] at h
    exact absurd h (by simp [bit])
  · have hsame : (c.trimmed lo hi).rights = c.rights := hrights.trans (if_neg hempty)
    have hends : lo.toNat < 2 ^ 36 ∧ hi.toNat ≠ 0 := by
      rw [← BitVec.toNat_inj, ← BitVec.toNat_inj, show (0 : W64).toNat = 0 from rfl] at hempty
      omega
    obtain ⟨hlt, hne⟩ := hends
    refine ⟨howner, fun i _ h => by rwa [Cap.has, hsame] at h, .inr ⟨?_, ?_⟩⟩
    · rw [Cap.trimmed, hbase, BitVec.toNat_setWidth, Nat.mod_eq_of_lt hlt]
      exact hlo
    · rw [Cap.trimmed, Cap.limit, hlimit]
      by_cases hz : hi.setWidth 36 = 0#36
      · have hn := congrArg BitVec.toNat hz
        rw [BitVec.toNat_setWidth, BitVec.toNat_zero] at hn
        rw [if_pos hz]
        omega
      · rw [if_neg hz, BitVec.toNat_setWidth]
        exact (Nat.mod_le _ _).trans hhi

/-- A capability is placed with a tag only where the instruction gives it one (R112). -/
theorem Cap.tag_of_norm {d : Cap} (h : d.norm.tag = true) : d.tag = true := by
  unfold Cap.norm at h
  split at h
  · exact absurd h Bool.false_ne_true
  · exact h

/-- Taking a tag away is nothing to the fields. -/
theorem Cap.atMost_norm {d c : Cap} (h : d.atMost c) : d.norm.atMost c := by
  unfold Cap.norm
  split
  · exact h
  · exact h

/-- Settles O11: each instruction is taken apart into its checks and the capability that it places (`ptrim_eq_ok` and its like),
which holds no more authority than the source. -/
theorem noAuthorityIsMade : Obligations.NoAuthorityIsMade := by
  unfold Obligations.NoAuthorityIsMade
  intro a opnd f k n h c
  have placed {d : Cap} (hf : f = fx (setCapReg a (cDst opnd) d.norm)) (hd : d.atMost c)
      (ht : d.tag = true → c.tag = true ∧ (c.kind ≠ 0 → k = 4 ∧ c.kind = 2)) :
      ∃ d, f.arch = setCapReg a (cDst opnd) d ∧
        (d.tag = true → c.tag = true ∧ d.owner = c.owner ∧ (∀ i, i < 8 → d.has i = true → c.has i = true) ∧
          (d.rights = 0 ∨ (c.base.toNat ≤ d.base.toNat ∧ d.limit ≤ c.limit)) ∧ (c.kind ≠ 0 → k = 4 ∧ c.kind = 2)) := by
    refine ⟨d.norm, by rw [hf]; rfl, fun hn => ?_⟩
    obtain ⟨htag, hkind⟩ := ht (Cap.tag_of_norm hn)
    obtain ⟨howner, hrights, hbounds⟩ := Cap.atMost_norm hd
    exact ⟨htag, howner, hrights, hbounds, hkind⟩
  rcases h with ⟨rfl, h⟩ | ⟨rfl, h⟩ | ⟨rfl, h⟩ | ⟨rfl, h⟩ | ⟨rfl, h⟩
  · obtain ⟨htag, hkind, -, ⟨hlo, hle, hhi⟩, hf⟩ := ptrim_eq_ok.mp h
    exact placed hf (Cap.atMost_trimmed hlo hle hhi) fun _ => ⟨htag, fun hne => absurd hkind hne⟩
  · refine placed (pmask_eq_ok.mp h) (c.atMost_setRights_and (fld opnd 0 8)) fun ht => ?_
    obtain ⟨htag, hkind⟩ := Bool.and_eq_true_iff.mp ht
    exact ⟨htag, fun hne => absurd (of_decide_eq_true hkind) hne⟩
  · obtain ⟨hopen, hf⟩ := moveCursor_eq_ok.mp h
    refine placed hf (c.atMost_setCursor n) fun htag => ⟨htag, fun hne => ?_⟩
    rcases hopen with hno | hkind
    · exact absurd (htag.symm.trans hno) Bool.false_ne_true.symm
    · exact absurd hkind hne
  · obtain ⟨-, hsource, hf⟩ := pwrap_eq_ok.mp h
    obtain ⟨htag, hkind, -⟩ := sealSource_eq_none.mp hsource
    exact placed hf (c.atMost_setKind _) fun _ => ⟨htag, fun hne => absurd hkind hne⟩
  · obtain ⟨-, hsource, hf⟩ := punwrap_eq_ok.mp h
    obtain ⟨htag, hkind, -⟩ := sealSource_eq_none.mp hsource
    exact placed hf (c.atMost_setKind 0) fun _ => ⟨htag, fun _ => ⟨rfl, hkind⟩⟩

end Sys2Proof.Machine
end

section
/-! PROOFS. The results of the capability instructions (O10, R84, R118). -/

namespace Sys2Proof.Machine

open Sys2Proof

set_option Elab.async false -- one proof at a time: the threads of many at once exceed the memory of a check

/-! ### Operands of class C -/

theorem capReg_beginArch (a : Arch) (k : BitVec 4) : capReg (beginArch a) k = capReg a k := by
  rw [beginArch_frame, capReg, capReg]

/-- The parts of the operand field (R84). -/
theorem operand_c (dst src : BitVec 4) (imm : BitVec 12) :
    cDst (dst ++ src ++ imm) = dst ∧ cSrcNo (dst ++ src ++ imm) = src ∧ cImm (dst ++ src ++ imm) = imm := by
  refine ⟨?_, ?_, ?_⟩
  · rw [cDst, fld_append_high _ _ (by decide), fld_append_high _ _ (by decide)]
    exact fld_whole _
  · rw [cSrcNo, fld_append_high _ _ (by decide), fld_append_low _ _ (by decide)]
    exact fld_whole _
  · rw [cImm, fld_append_low _ _ (by decide)]
    exact fld_whole _

/-- The registers of an operand exist (R84). -/
theorem classCheck_c {dst src : BitVec 4} {imm : BitVec 12} (hd : dst.toNat ≤ 3) (hs : src.toNat ≤ 6) :
    classCheck .c 3 (dst ++ src ++ imm) = none := by
  obtain ⟨hdst, hsrc, -⟩ := operand_c dst src imm
  rw [cDst] at hdst
  rw [cSrcNo] at hsrc
  simp [classCheck, hdst, hsrc, not_lt.mpr hd, not_lt.mpr hs]

/-- A part of the immediate that must be 0, and is (R84). -/
theorem rawZero_imm {dst src : BitVec 4} {imm : BitVec 12} {lo len : Nat} (h : lo + len ≤ 12) (hz : fld imm lo len = 0#len) :
    rawZero lo len (dst ++ src ++ imm) = none := by
  rw [rawZero, fld_append_low _ _ h]
  exact if_pos hz

/-- The mask of PMASK stands in the low byte of the immediate. -/
theorem imm_mask : ∀ k : BitVec 8, fld (k.setWidth 12) 8 4 = 0#4 ∧ fld (k.setWidth 12) 0 8 = k := by decide

/-- The fields that PFLD reads, as numbers (R118). -/
theorem pfldValue_toNat {c : Cap} {k : BitVec 12} {v : Nat}
    (h : ([(0, c.cursor.toNat), (1, c.base.toNat), (2, c.limit), (3, c.rights.toNat), (4, c.owner.toNat), (5, c.kind.toNat),
      (6, if c.tag then 1 else 0), (7, (c.limit + (2 ^ 64 - c.base.toNat)) % 2 ^ 64)] : List (BitVec 12 × Nat)).contains (k, v)
      = true) : k.toNat ≤ 7 ∧ (pfldValue c k.toNat).toNat = v := by
  have hl := c.limit_le
  have hb := c.base.isLt
  have hwide {n : Nat} (x : BitVec n) (hn : n ≤ 64) : (x.setWidth 64).toNat = x.toNat := by
    rw [BitVec.toNat_setWidth, Nat.mod_eq_of_lt (x.isLt.trans_le (Nat.pow_le_pow_right (by decide) hn))]
  have hlim : (BitVec.ofNat 64 c.limit).toNat = c.limit := by
    rw [BitVec.toNat_ofNat, Nat.mod_eq_of_lt (by omega)]
  simp only [List.contains_iff_mem, List.mem_cons, List.not_mem_nil, or_false, Prod.mk.injEq] at h
  rcases h with ⟨rfl, rfl⟩ | ⟨rfl, rfl⟩ | ⟨rfl, rfl⟩ | ⟨rfl, rfl⟩ | ⟨rfl, rfl⟩ | ⟨rfl, rfl⟩ | ⟨rfl, rfl⟩ | ⟨rfl, rfl⟩
  · exact ⟨by decide, hwide _ (by decide)⟩
  · exact ⟨by decide, hwide _ (by decide)⟩
  · exact ⟨by decide, hlim⟩
  · exact ⟨by decide, hwide _ (by decide)⟩
  · exact ⟨by decide, hwide _ (by decide)⟩
  · exact ⟨by decide, hwide _ (by decide)⟩
  · refine ⟨by decide, ?_⟩
    show (if c.tag then 1#64 else 0#64).toNat = _
    split <;> rfl
  · refine ⟨by decide, ?_⟩
    show (BitVec.ofNat 64 c.limit - c.base.setWidth 64).toNat = _
    rw [BitVec.toNat_sub, hlim, hwide _ (by decide), Nat.add_comm]

/-- Settles O10: each row by what its operation gives on operands that pass its checks (`ptrim_eq_ok` and its like). -/
theorem capabilityResults : Obligations.CapabilityResults := by
  unfold Obligations.CapabilityResults
  intro s e a dst src imm h hdst hsrc b c op put' mine hasAuthority
  have hring : a.ring.toNat ≤ 3 := Nat.le_of_lt_succ a.ring.isLt
  have hS (d : BitVec 4) (i : BitVec 12) : cSrc (d ++ src ++ i) b = c := by
    rw [cSrc, ← cSrcNo, (operand_c d src i).2.1, capReg_beginArch]
  have hD (i : BitVec 12) : cDst (op i) = dst := (operand_c dst src i).1
  have hA : b.a = a.a := a_beginArch a
  have hE : b.e = a.e := e_beginArch a
  have go (raw : BitVec 20 → Option Exc) (F : BitVec 20 → Arch → Except Exc Fx) {i : BitVec 12} {r : Cap}
      (hraw : raw (op i) = none) (hF : F (op i) b = .ok (fx (setCapReg b dst r.norm))) :
      .next { s with m := instrE ⟨.c, false, raw, 3⟩ e 3 (op i) (fun _ a => F (op i) a) s.m } = put' r :=
    instrE_goesOn h (decodeCheck_none (classCheck_c hdst hsrc) hraw h.outside hring) hF
  have sealed {k : BitVec 2} (i : BitVec 12) (cause : BitVec 8) (hauth : hasAuthority) (ht : c.tag = true) (hk : c.kind = k)
      (hm : mine c) : authority b (cSrc (op i) b) = none ∧ sealSource b (cSrc (op i) b) (cSrcNo (op i)) k cause = none := by
    rw [hS, authority_eq_none, sealSource_eq_none, y_beginArch, comp_beginArch, ring_beginArch]
    obtain ⟨hy, hkind, howner, hright, hbase, hlimit⟩ := hauth
    exact ⟨⟨hy, hkind, howner, hright, hbase, hlimit⟩, ht, hk, hm⟩
  have wraps {i : BitVec 12} {k : BitVec 2} (hz : fld i 1 11 = 0#11) (hi : (if bit i 0 then 2 else 1) = k)
      (hauth : hasAuthority) (ht : c.tag = true) (hk : c.kind = 0) (hm : mine c) :
      exec (.pwrap e 3 (op i)) s = put' (c.setKind k) := by
    obtain ⟨hy, hs⟩ := sealed i cSEALED hauth ht hk hm
    have hbit : bit (op i) 0 = bit i 0 := BitVec.getLsbD_append
    exact go (rawZero 1 11) pwrap (rawZero_imm (by decide) hz) (pwrap_eq_ok.mpr ⟨hy, hs, by rw [hS, hD, hbit, hi]⟩)
  have unwraps {i : BitVec 12} (hz : fld i 1 11 = 0#11) (hauth : hasAuthority) (ht : c.tag = true) (hk : c.kind = 2)
      (hm : mine c) : exec (.punwrap e 3 (op i)) s = put' (c.setKind 0) := by
    obtain ⟨hy, hs⟩ := sealed i cKIND hauth ht hk hm
    exact go (rawZero 1 11) punwrap (rawZero_imm (by decide) hz) (punwrap_eq_ok.mpr ⟨hy, hs, by rw [hS, hD]⟩)
  refine ⟨?_, fun ht hk hr hlo hle hhi => ?_, fun mask => ?_, fun hopen => ⟨?_, ?_⟩,
    fun hauth ht hk hm => ⟨wraps rfl rfl hauth ht hk hm, wraps rfl rfl hauth ht hk hm⟩,
    fun hauth ht hk hm => ⟨unwraps rfl hauth ht hk hm, unwraps rfl hauth ht hk hm⟩, fun v k hv => ?_⟩
  · exact go (fun _ => none) (fun o a => derive o a (cSrc o a)) rfl (derive_eq_ok.mpr (by rw [hS, hD]))
  · refine go (rawZero 0 12) ptrim (rawZero_imm (by decide) rfl) (ptrim_eq_ok.mpr ?_)
    rw [hS, hD, hA, hE]
    exact ⟨ht, hk, hr, ⟨hlo, hle, hhi⟩, rfl⟩
  · obtain ⟨hz, hmask⟩ := imm_mask mask
    refine go (rawZero 8 4) pmask (rawZero_imm (by decide) hz) (pmask_eq_ok.mpr ?_)
    rw [hS, hD, fld_append_low _ _ (by decide), hmask]
  · refine go (fun _ => none) (fun o a => moveCursor o ((cSrc o a).cursor + a.a.setWidth 36 + (cImm o).setWidth 36) a) rfl
      (moveCursor_eq_ok.mpr ?_)
    rw [hS, hD, hA, (operand_c dst src imm).2.2]
    exact ⟨hopen, rfl⟩
  · refine go (fun _ => none) (fun o a => moveCursor o (a.a.setWidth 36) a) rfl (moveCursor_eq_ok.mpr ?_)
    rw [hS, hD, hA]
    exact ⟨hopen, rfl⟩
  · obtain ⟨hle, hval⟩ := pfldValue_toNat hv
    obtain ⟨hzero, -, himm⟩ := operand_c 0#4 src k
    have hraw : (rawZero 16 4 (0#4 ++ src ++ k)).or
        (if 7 < (cImm (0#4 ++ src ++ k)).toNat then some (excIllegal 0x04) else none) = none := by
      rw [himm, if_neg (by omega), Option.or_none]
      exact if_pos hzero
    have hv64 : BitVec.ofNat 64 v = pfldValue c k.toNat := by rw [← hval, BitVec.ofNat_toNat, BitVec.setWidth_eq]
    have hz : decide (pfldValue c k.toNat = 0#64) = decide (v = 0) := by
      rw [decide_eq_decide, ← BitVec.toNat_inj, hval, BitVec.toNat_zero]
    refine instrE_goesOn h (decodeCheck_none (classCheck_c (by decide) hsrc) hraw h.outside hring) ?_
    rw [pfld, hS, himm, hv64, f_beginArch, hz]

end Sys2Proof.Machine
end

section
/-! PROOFS. The capability mint (O40, R135, R136, R234). -/

namespace Sys2Proof.Machine

open Sys2Proof

set_option Elab.async false -- one proof at a time: the threads of many at once exceed the memory of a check

/-! ### The mint's checks -/

theorem region_tile_iff (a : Addr) : (∃ t, region a = .tile t) ↔ 0x20000000 ≤ a.toNat ∧ a.toNat < 0x20800000 := by
  unfold region
  dsimp only
  repeat' split
  all_goals
    simp only [Region.tile.injEq, exists_eq', reduceCtorEq, exists_false, true_iff, false_iff]
    omega

theorem region_shared_iff (a : Addr) : region a = .shared ↔ 0x40000000 ≤ a.toNat ∧ a.toNat < 0x41000000 := by
  unfold region
  dsimp only
  repeat' split
  all_goals
    simp only [reduceCtorEq, true_iff, false_iff]
    omega

/-- The mint stores into the SRAM of tiles by its fabric address, into shared SRAM and into DRAM. -/
theorem mintRegion_iff (a : Addr) : ((region a).isMem = false ∨ region a = .tileAlias) ↔
    ¬ ((0x20000000 ≤ a.toNat ∧ a.toNat < 0x20800000) ∨ (0x40000000 ≤ a.toNat ∧ a.toNat < 0x41000000) ∨ 0x800000000 ≤ a.toNat) := by
  unfold region
  dsimp only
  repeat' split
  all_goals
    simp only [Region.isMem, reduceCtorEq, Bool.true_eq_false, or_self, or_true, or_false, true_iff, false_iff, not_not]
    omega

theorem isSome_ite {α : Type} {p : Prop} [Decidable p] {x y : Option α} :
    (if p then x else y).isSome = true ↔ (p → x.isSome = true) ∧ (¬ p → y.isSome = true) := by
  by_cases h : p <;> simp [h]

/-- The areas that the mint may not store into: the shadow stacks, and the areas of shared SRAM whose rule refuses it. -/
theorem mintArea_iff (a : Addr) : mintArea a = true ↔
    (0x20000000 ≤ a.toNat ∧ a.toNat < 0x20800000 ∧ 0x38000 ≤ a.toNat % 0x40000 ∧ a.toNat % 0x40000 < 0x3C000) ∨
      (0x40F40000 ≤ a.toNat ∧ a.toNat < 0x40F44000) ∨ (0x40F48000 ≤ a.toNat ∧ a.toNat < 0x40F49400) ∨
      (0x40F50000 ≤ a.toNat ∧ a.toNat < 0x40F50400) ∨ (0x40F80000 ≤ a.toNat ∧ a.toNat < 0x41000000) := by
  have hoff : (tileOff a).toNat = a.toNat % 0x40000 := by rw [tileOff, fld_zero, BitVec.toNat_setWidth]
  by_cases ht : ∃ t, region a = .tile t
  · have hrange := (region_tile_iff a).mp ht
    obtain ⟨t, hr⟩ := ht
    simp only [mintArea, areaRefusal, inShadow, hr, hoff]
    split
    · next h =>
      simp only [Option.isSome_some, Bool.true_and, Bool.not_eq_true', decide_eq_false_iff_not]
      simp only [decide_eq_true_eq] at h
      omega
    · next h =>
      simp only [Option.isSome_none, Bool.false_and, Bool.false_eq_true, false_iff]
      simp only [decide_eq_true_eq] at h
      omega
  · by_cases hr : region a = .shared
    · have hrange := (region_shared_iff a).mp hr
      simp only [mintArea, areaRefusal, hr, inOwnership, inSpanTable, Bool.and_true, Bool.and_self, Bool.false_eq_true, if_false,
        if_true, and_false, decide_eq_true_eq]
      simp only [Bool.and_eq_true, isSome_ite, Option.isSome_some, Option.isSome_none, Bool.not_eq_true', decide_eq_false_iff_not,
        Bool.false_eq_true, implies_true, imp_false, true_and]
      omega
    · have hnone : areaRefusal false false true a = none := by
        unfold areaRefusal
        split
        · next t h => exact absurd ⟨t, h⟩ ht
        · next h => exact absurd h hr
        · rfl
      rw [region_tile_iff] at ht
      rw [region_shared_iff] at hr
      simp only [mintArea, hnone, Option.isSome_none, Bool.false_and, Bool.false_eq_true, false_iff]
      omega

/-! ### The mint's store -/

/-- A store that the keeper makes to a register of its own, and that touches neither a reset nor HARDPAN. -/
theorem busWrite_keeper {w : Who} {a : Addr} {o : Nat} {v : W32} {m n : Mach} (hm : m.live) (hk : byKeeper w)
    (hb : blockOf a = some (.sys o)) (hc : sysCode o = .k ∨ sysCode o = .kw) (hn : sysWrite w o v m = n)
    (hw : n.watch = m.watch) (hf : n.faults = m.faults) : busWrite w a v m = n := by
  obtain ⟨hwho, hrep⟩ := whoKeeper_of_byKeeper hk
  subst hn
  exact busWrite_taken hm hb (by rcases hc with h | h <;> rw [h] <;> exact hwho) (by simp [keeperReplica, hrep]) hw hf

theorem exec_cmintGo {s : State} {w : Who} (v : W32) (hm : s.m.live) (hk : byKeeper w) :
    exec (.cmintGo w v) s = leaves s (mintGo s.m) := by
  have hbit : bit (v ||| 1#32) 0 = true := by
    rw [bit, BitVec.getLsbD_or]
    exact Bool.or_true _
  have hgo : sysWrite w 0x218 (v ||| 1#32) s.m = mintGo s.m :=
    (if_pos hbit : (if bit (v ||| 1#32) 0 then mintGo s.m else s.m) = mintGo s.m)
  have hkeep : (mintGo s.m).watch = s.m.watch ∧ (mintGo s.m).faults = s.m.faults := by
    unfold mintGo
    split <;> exact ⟨rfl, rfl⟩
  exact congrArg (leaves s) (busWrite_keeper (o := 0x218) hm hk rfl (.inl rfl) hgo hkeep.1 hkeep.2)

theorem mintGo_busy {m : Mach} (h : m.mint.busy = true) : mintGo m = { m with mint := { m.mint with err := 1 } } := if_pos h

theorem mintGo_idle {m : Mach} (h : m.mint.busy = false) : mintGo m = { m with mint := { m.mint with
    err := mintCheck m.mint, busy := decide (mintCheck m.mint = 0)
    target := if mintCheck m.mint = 0 then m.mint.addr else m.mint.target
    value := if mintCheck m.mint = 0 then m.mint.cap.bits else m.mint.value } } := if_neg (by rw [h]; exact Bool.false_ne_true)

/-- A check by a port without a region cache leaves the module as it is (R263). -/
theorem fenceCheck_direct (i : FenceId) (a : Addr) (write : Bool) (m : Mach) : (fenceCheck .direct i a write m).2 = m := by
  unfold fenceCheck setPortCache
  dsimp only
  repeat' split
  all_goals rfl

/-- The mint's store ends: in memory, with its tag, where the fence map permits it (R136). -/
theorem mintStore_memory {m : Mach} {ok : Bool} (h : m.mint.busy = true)
    (hok : (fenceCheck .direct (.ring 0 0) m.mint.target true m).1 = ok) :
    (mintStore m).mint = { m.mint with busy := false, err := if ok then m.mint.err else 5 } ∧
      (∀ g, (mintStore m).mem.data g
        = if ok = true ∧ g = m.mint.target.toNat / 16 then m.mint.value else m.mem.data g) ∧
      (∀ g, (mintStore m).mem.tag g = if ok = true ∧ g = m.mint.target.toNat / 16 then true else m.mem.tag g) := by
  have hstore : mintStore m = if ok = true then
      modMint (fun x => { x with busy := false }) (writeGran Acc.other (granOf m.mint.target) m.mint.value 0xFFFF#16 true m)
    else modMint (fun x => { x with busy := false, err := 5#3 }) m := by
    rw [mintStore, if_pos h]
    dsimp only
    rw [fenceCheck_direct, ← hok]
    rfl
  rw [hstore]
  cases ok with
  | true =>
    rw [if_pos rfl, writeGran_whole]
    have hone (g : Nat) : g = granOf m.mint.target ↔ true = true ∧ g = m.mint.target.toNat / 16 :=
      ⟨fun h => ⟨rfl, h⟩, And.right⟩
    exact ⟨rfl, fun g => (data_putGran ..).trans (if_congr (hone g) rfl rfl),
      fun g => (tag_putGran ..).trans (if_congr (hone g) rfl rfl)⟩
  | false => simp

end Sys2Proof.Machine
end

section
/-! PROOFS. The fence store and the counters of memory (O40, R257, R258, R266). -/

namespace Sys2Proof.Machine

open Sys2Proof

set_option Elab.async false -- one proof at a time: the threads of many at once exceed the memory of a check

/-! ### Entries (R257) -/

theorem fld_eq_zero_iff (v : W32) (lo len : Nat) : fld v lo len = 0#len ↔ v.toNat / 2 ^ lo % 2 ^ len = 0 := by
  rw [← BitVec.toNat_inj, toNat_fld, BitVec.toNat_zero]

theorem FenceEntry.lo_eq (f : FenceEntry) : f.lo = f.w0.toNat % 2 ^ 24 := by
  rw [FenceEntry.lo, toNat_fld, Nat.pow_zero, Nat.div_one]

theorem FenceEntry.hi_eq (f : FenceEntry) : f.hi = if f.w1.toNat % 2 ^ 24 = 0 then 2 ^ 24 else f.w1.toNat % 2 ^ 24 := by
  simp only [FenceEntry.hi, fld_eq_zero_iff, toNat_fld, Nat.pow_zero, Nat.div_one]

theorem FenceEntry.reserved_eq (f : FenceEntry) : f.reserved = decide (f.w0.toNat / 2 ^ 24 ≠ 0 ∨ f.w1.toNat / 2 ^ 24 ≠ 0 ∨
    f.w2.getLsbD 11 = true ∨ f.w2.toNat / 2 ^ 22 ≠ 0 ∨ f.w3.toNat / 2 ^ 8 ≠ 0) := by
  have h0 := f.w0.isLt
  have h1 := f.w1.isLt
  have h2 := f.w2.isLt
  have h3 := f.w3.isLt
  have hmod {n k : Nat} (h : n < 2 ^ 32) (hk : k ≤ 32) : n / 2 ^ k % 2 ^ (32 - k) = n / 2 ^ k :=
    Nat.mod_eq_of_lt (Nat.div_lt_of_lt_mul (by rwa [← pow_add, Nat.add_sub_cancel' hk]))
  simp only [FenceEntry.reserved, ne_eq, fld_eq_zero_iff, bit, hmod h0 (k := 24) (by decide), hmod h1 (k := 24) (by decide),
    hmod h2 (k := 22) (by decide), hmod h3 (k := 8) (by decide)]
  simp [Bool.or_assoc]

theorem FenceEntry.clash_iff (f g : FenceEntry) : f.clash g = true ↔ f.valid = true ∧ g.valid = true ∧ f.lo < g.hi ∧
    g.lo < f.hi ∧ (f.cmatch && g.cmatch && decide (f.w2.toNat / 2 ^ 12 % 2 ^ 10 ≠ g.w2.toNat / 2 ^ 12 % 2 ^ 10)) = false := by
  have hcomp : f.comp ≠ g.comp ↔ f.w2.toNat / 2 ^ 12 % 2 ^ 10 ≠ g.w2.toNat / 2 ^ 12 % 2 ^ 10 := by
    rw [← toNat_fld, ← toNat_fld, ne_eq, ne_eq, BitVec.toNat_inj]
    rfl
  simp only [FenceEntry.clash, Bool.and_eq_true, decide_eq_true_eq, Bool.not_eq_true', hcomp, and_assoc]

/-- Another entry of the fence store stands against `f` (R258). -/
theorem fenceClash_iff (c : MemCtl) (i : BitVec 6) (f : FenceEntry) :
    ((range 0 64).any fun k => decide (BitVec.ofNat 6 k ≠ i) && f.clash (c.fence.get (BitVec.ofNat 6 k))) = true ↔
      ∃ j, j ≠ i ∧ f.clash (c.fence.get j) = true := by
  simp only [List.any_eq_true, mem_range, Bool.and_eq_true, decide_eq_true_eq]
  constructor
  · rintro ⟨k, -, h⟩
    exact ⟨_, h⟩
  · rintro ⟨j, h⟩
    exact ⟨j.toNat, ⟨Nat.zero_le _, by have := j.isLt; omega⟩, by rwa [BitVec.ofNat_toNat, BitVec.setWidth_eq]⟩

/-! ### Writes and reads of an entry (R258) -/

/-- A write to FENCE_CTL by the keeper. -/
theorem busWrite_fenceCtl {w : Who} {m : Mach} (v : W32) (hm : m.live) (hk : byKeeper w) :
    busWrite w 0x8000_0314#36 v m = fenceCtl v m := by
  have hkeep : (fenceCtl v m).watch = m.watch ∧ (fenceCtl v m).faults = m.faults := by
    unfold fenceCtl
    dsimp only
    repeat' split
    all_goals exact ⟨rfl, rfl⟩
  exact busWrite_keeper (o := 0x314) hm hk rfl (.inr rfl) rfl hkeep.1 hkeep.2

theorem exec_fenceWrite {s : State} {w : Who} {v : W32} {k : BitVec 3} (hm : s.m.live) (hk : byKeeper w)
    (hv : v.getLsbD 1 = false) (hr : fenceRefusal s.m.mc s.m.clk s.m.mc.sel s.m.mc.fw = k) :
    exec (.fenceWrite w v) s = leaves s { s.m with mc := { s.m.mc with
      ferr := k, fence := if k = 0 then s.m.mc.fence.set s.m.mc.sel s.m.mc.fw else s.m.mc.fence
      fbusyUntil := if k = 1 then s.m.mc.fbusyUntil else s.m.clk + (Config.entryBusy s.m.clk).val } } := by
  have hbits : bit (v ||| 1#32) 0 = true ∧ bit (v ||| 1#32) 1 = false := by
    simp only [bit, BitVec.getLsbD_or, hv]
    exact ⟨Bool.or_true _, rfl⟩
  refine congrArg (leaves s) ((busWrite_fenceCtl _ hm hk).trans ?_)
  simp only [fenceCtl, hbits, hr, if_true, Bool.false_eq_true, if_false]
  rfl

theorem exec_fenceRead {s : State} {w : Who} {v : W32} (hm : s.m.live) (hk : byKeeper w) (hv : v.getLsbD 0 = false) :
    exec (.fenceRead w v) s = leaves s { s.m with mc := { s.m.mc with
      fw := s.m.mc.fence.get s.m.mc.sel
      fbusyUntil := max s.m.mc.fbusyUntil (s.m.clk + (Config.entryBusy s.m.clk).val) } } := by
  have hbits : bit (v ||| 2#32) 0 = false ∧ bit (v ||| 2#32) 1 = true := by
    simp only [bit, BitVec.getLsbD_or, hv]
    exact ⟨rfl, Bool.or_true _⟩
  refine congrArg (leaves s) ((busWrite_fenceCtl _ hm hk).trans ?_)
  simp only [fenceCtl, hbits, if_true, Bool.false_eq_true, if_false]
  rfl

/-! ### The counters (R266) -/

/-- A load from the system block that its code answers, by a master that is no debug session. -/
theorem busRead_sys {w : Who} {a : Addr} {o : Nat} {m : Mach} (hm : m.live) (hd : w.master ≠ .debug)
    (hb : blockOf a = some (.sys o)) (hc : (sysCode o).reads w = true) :
    busRead w a m = (sysReadFx o m).read (sysRead o m) := by
  obtain ⟨hmode, -, -⟩ := hm
  have hr : regRead w a m = (some (sysRead o m), sysReadFx o m) := by simp only [regRead, hb, hc, if_true]
  simp [busRead, powered, hmode, hd, hr, onBus, Mach.read]

theorem exec_memCnt0Read {s : State} {w : Who} (hm : s.m.live) (hd : w.master ≠ .debug) : exec (.memCnt0Read w) s
    = leaves s ({ s.m with mc := { s.m.mc with sramc := 0, dramc := 0 } }.read (s.m.mc.dramc ++ s.m.mc.sramc)) := by
  have hword : sysRead 0x330 s.m = s.m.mc.dramc ++ s.m.mc.sramc := by
    have h := BitVec.setWidth_append_eq_shiftLeft_setWidth_or (b := s.m.mc.dramc) (b' := s.m.mc.sramc) (w'' := 16 + 16)
    rw [BitVec.setWidth_eq] at h
    show put 32 s.m.mc.sramc 0 ||| put 32 s.m.mc.dramc 16 = _
    rw [h, put, put, BitVec.shiftLeft_zero, BitVec.or_comm]
  rw [← hword]
  exact congrArg (leaves s) (busRead_sys (o := 0x330) hm hd rfl rfl)

theorem exec_memCnt1Read {s : State} {w : Who} (hm : s.m.live) (hd : w.master ≠ .debug) : exec (.memCnt1Read w) s
    = leaves s ({ s.m with mc := { s.m.mc with chkc := 0, icpar := 0, ueSram := 0, ueDram := 0 } }.read
        (s.m.mc.ueDram ++ s.m.mc.ueSram ++ s.m.mc.icpar ++ s.m.mc.chkc)) := by
  have hword : sysRead 0x334 s.m = s.m.mc.ueDram ++ s.m.mc.ueSram ++ s.m.mc.icpar ++ s.m.mc.chkc := by
    have h := BitVec.setWidth_append_append_append_eq_shiftLeft_setWidth_or (b := s.m.mc.ueDram) (b' := s.m.mc.ueSram)
      (b'' := s.m.mc.icpar) (b''' := s.m.mc.chkc) (w'''' := 4 + 4 + 8 + 16)
    have hrev (p q r t : W32) : p ||| q ||| r ||| t = t ||| r ||| q ||| p := by ac_rfl
    rw [BitVec.setWidth_eq] at h
    show put 32 s.m.mc.chkc 0 ||| put 32 s.m.mc.icpar 16 ||| put 32 s.m.mc.ueSram 24 ||| put 32 s.m.mc.ueDram 28 = _
    rw [hrev, h, put, put, put, put, BitVec.shiftLeft_zero]
  rw [← hword]
  exact congrArg (leaves s) (busRead_sys (o := 0x334) hm hd rfl rfl)

/-- Settles O40: the mint by the first of its checks that fails and by what its store leaves, the fence store by the first cause
that refuses a write. -/
theorem mintAndFence : Obligations.MintAndFence := by
  unfold Obligations.MintAndFence
  constructor
  · intro s w v hm x a c n memory area k
    have hcheck : mintCheck x = k := by
      have hmem : ((region a).isMem = false ∨ region a = .tileAlias) ↔ memory = false :=
        (mintRegion_iff a).trans decide_eq_false_iff_not.symm
      have harea : mintArea a = true ↔ area = true := (mintArea_iff a).trans decide_eq_true_iff.symm
      exact if_congr .rfl rfl (if_congr .rfl rfl (if_congr hmem rfl (if_congr harea rfl rfl)))
    refine ⟨fun hk hb => ?_, fun hk hb hne => ?_, fun hk hb hz => ?_, ?_⟩
    · rw [exec_cmintGo v hm hk, mintGo_busy hb]
    · rw [exec_cmintGo v hm hk, mintGo_idle hb, hcheck, if_neg hne, if_neg hne, decide_eq_false hne, ← hb]
    · rw [exec_cmintGo v hm hk, mintGo_idle hb, hcheck, if_pos hz, if_pos hz, hz]
      rfl
    · intro hb ok
      obtain ⟨hmode, -, -⟩ := hm
      exact ⟨_, congrArg (leaves s) (if_pos (decide_eq_true hmode)), mintStore_memory hb rfl⟩
  · intro s w v hm c f on base top spare apart clash gets ready
    have hbad : (f.valid && (f.reserved || decide (f.hi ≤ f.lo))) = true ↔ on f = true ∧ (spare = true ∨ top f ≤ base f) := by
      rw [Bool.and_eq_true, Bool.or_eq_true, decide_eq_true_eq, f.reserved_eq, f.hi_eq, f.lo_eq]
      rfl
    have hclash : ((range 0 64).any fun k => decide (BitVec.ofNat 6 k ≠ c.sel) && f.clash (c.fence.get (BitVec.ofNat 6 k)))
        = true ↔ on f = true ∧ clash := by
      simp only [fenceClash_iff, FenceEntry.clash_iff, FenceEntry.lo_eq, FenceEntry.hi_eq]
      constructor
      · rintro ⟨j, hj, hf, hg, hlo, hhi, ha⟩
        exact ⟨hf, j, hj, hg, hlo, hhi, ha⟩
      · rintro ⟨hf, j, hj, hg, hlo, hhi, ha⟩
        exact ⟨j, hj, hf, hg, hlo, hhi, ha⟩
    refine ⟨fun hk hv hbusy => exec_fenceWrite hm hk hv (if_pos hbusy), fun hready hv => ?_, exec_fenceRead hm,
      exec_memCnt0Read hm, exec_memCnt1Read hm⟩
    obtain ⟨hk, hfree⟩ := hready
    intro e refused
    -- the causes of R258 in their order: each is judged where those before it do not hold
    have hnow : ¬ s.m.clk < c.fbusyUntil := not_lt.mpr hfree
    have hopen (hl : e.w2.getLsbD 9 = false) : ¬ e.locked = true := Bool.eq_false_iff.mp hl
    have hfit (hgo : on f = false ∨ (spare = false ∧ base f < top f)) : ¬ (on f = true ∧ (spare = true ∨ top f ≤ base f)) := by
      rintro ⟨hon, hs⟩
      rcases hgo with hoff | ⟨hspare, hlt⟩
      · exact Bool.false_ne_true (hoff.symm.trans hon)
      · exact hs.elim (fun h => Bool.false_ne_true (hspare.symm.trans h)) (not_le.mpr hlt)
    refine ⟨fun hl => ?_, fun hl hon hs => ?_, fun hl hon hspare hlt hc => ?_, fun hl hgo => ?_⟩
    · exact exec_fenceWrite hm hk hv ((if_neg hnow).trans (if_pos hl))
    · exact exec_fenceWrite hm hk hv ((if_neg hnow).trans ((if_neg (hopen hl)).trans (if_pos (hbad.mpr ⟨hon, hs⟩))))
    · exact exec_fenceWrite hm hk hv ((if_neg hnow).trans ((if_neg (hopen hl)).trans
        ((if_neg (mt hbad.mp (hfit (.inr ⟨hspare, hlt⟩)))).trans (if_pos (hclash.mpr ⟨hon, hc⟩)))))
    · have hno : ¬ (on f = true ∧ clash) := fun h =>
        hgo.elim (fun hoff => Bool.false_ne_true (hoff.symm.trans h.1)) fun hgo => hgo.2.2 h.2
      exact exec_fenceWrite hm hk hv ((if_neg hnow).trans ((if_neg (hopen hl)).trans
        ((if_neg (mt hbad.mp (hfit (hgo.imp_right fun hgo => ⟨hgo.1, hgo.2.1⟩)))).trans (if_neg (mt hclash.mp hno)))))

end Sys2Proof.Machine
end

section
/-! PROOFS. Stores and loads of a channel's registers (O44, R139, R327, R328, R332, R335, R340). -/

namespace Sys2Proof.Machine

open Sys2Proof

set_option Elab.async false -- one proof at a time: the threads of many at once exceed the memory of a check

/-! ### The block of a channel (R532, R535) -/

theorem blockOf_chan (c : BitVec 8) {o : Addr} (ho : o.toNat < 0x40) : blockOf (chanBlock c + o) = some (.chan c o.toNat) := by
  have hc := c.isLt
  have hn : (chanBlock c + o).toNat = 0x8004_0000 + 64 * c.toNat + o.toNat := by
    simp only [chanBlock, put, BitVec.toNat_add, BitVec.toNat_shiftLeft, BitVec.toNat_setWidth, Nat.shiftLeft_eq,
      BitVec.toNat_ofNat]
    omega
  have hnum : fld (chanBlock c + o) 6 8 = c := by
    apply BitVec.eq_of_toNat_eq
    rw [fld_eq, BitVec.toNat_setWidth, BitVec.toNat_ushiftRight, Nat.shiftRight_eq_div_pow, hn]
    omega
  have hoff : (chanBlock c + o).toNat % 0x40 = o.toNat := by omega
  unfold blockOf
  dsimp only
  rw [if_neg (by omega), if_neg (by omega), if_pos (by omega), hnum, hoff]

/-- The keeper, and a replica of the compartment that owns the channel, may (R139). -/
theorem chanAccess_of_may {w : Who} {c : BitVec 8} {m : Mach} (h : byKeeper w ∨ (w.master = .replica ∧ m.owner.get c = w.comp)) :
    chanAccess w c m = true := by
  rw [chanAccess, Bool.or_eq_true]
  rcases h with hk | ⟨hr, ho⟩
  · exact .inl (whoKeeper_of_byKeeper hk).1
  · exact .inr (by simp [hr, ho])

/-- No other replica may. -/
theorem chanAccess_of_not {w : Who} {c : BitVec 8} {m : Mach} (hr : w.master = .replica)
    (h : ¬ (byKeeper w ∨ (w.master = .replica ∧ m.owner.get c = w.comp))) : chanAccess w c m = false := by
  rw [not_or] at h
  obtain ⟨hk, ho⟩ := h
  have hwho : whoKeeper w = false := whoKeeper_of_not fun hc => hk ⟨hr, hc⟩
  rw [chanAccess, hwho, Bool.false_or, decide_eq_false (fun h => ho ⟨hr, h⟩), Bool.and_false]

/-- A store by one who may does what its register does. -/
theorem busWrite_chan {w : Who} {c : BitVec 8} {o : Addr} {m : Mach} (v : W32) (hm : m.live) (ha : chanAccess w c m = true)
    (ho : o.toNat < 0x40) :
    busWrite w (chanBlock c + o) v m = modChan c (fun _ => chanWrite m.mode.mode o.toNat v (m.chans.get c)) m := by
  obtain ⟨-, hreset, hdue⟩ := id hm
  refine busWrite_eq hm ?_ hreset hdue
  simp only [regWrite, blockOf_chan c ho, chanBusWrite, ha, if_true, orNotice]
  rfl

/-- A store by another replica is dropped with a notice (R4, R139). -/
theorem busWrite_chan_foreign {w : Who} {c : BitVec 8} {o : Addr} {m : Mach} (v : W32) (hm : m.live) (hroom : m.hasRoom)
    (hr : w.master = .replica) (ha : chanAccess w c m = false) (ho : o.toNat < 0x40) :
    (busWrite w (chanBlock c + o) v m).chans = m.chans ∧
      ∃ f, (busWrite w (chanBlock c + o) v m).faults.queue = m.faults.queue ++ [f] ∧ f.code = 0x0205 := by
  obtain ⟨-, hreset, hdue⟩ := id hm
  let y : SbEntry :=
    ⟨chanBlock c + o, 0#128, 0#16, false, false, false, false, none, w.comp, w.ring, w.pc, w.tick, w.pos, false⟩
  have hdrop : orNotice w (chanBlock c + o) (regWrite w (chanBlock c + o) v m) = notice w.eng y 3#4 m := by
    simp only [regWrite, blockOf_chan c ho, chanBusWrite, ha, Bool.false_eq_true, if_false, orNotice, hr, if_true]
    rfl
  obtain ⟨-, -, hwatch, hpd, hlog⟩ := notice_logs w.eng y hroom
  have hchans : (notice w.eng y 3#4 m).chans = m.chans := by
    unfold notice
    dsimp only
    repeat' split
    all_goals simp
  rw [busWrite_eq hm hdrop (by rw [hwatch, hreset]) (by rw [hpd, hdue])]
  exact ⟨hchans, hlog⟩

/-! ### CH_CTLSTAT (R328, R332, R335, R340) -/

/-- What a write to CH_CTLSTAT does beside LIVE and COMMIT. -/
def Chan.withCtl (k : Mode) (v : W32) (x : Chan) : Chan :=
  { x with
    comEn := if decide (k = .commission) then v.getLsbD 1 else x.comEn
    evtEn := (v >>> 16).setWidth 8
    outfail := x.outfail && !v.getLsbD 13
    strmErr := x.strmErr && !v.getLsbD 14 }

theorem ctlstatWrite_eq (k : Mode) (v : W32) (x : Chan) : ctlstatWrite k v x
    = if v.getLsbD 0 then requestCommit k (setLive k (v.getLsbD 2) (x.withCtl k v)) else setLive k (v.getLsbD 2) (x.withCtl k v) := by
  simp only [ctlstatWrite, Chan.withCtl, bit, fld_eq, decide_eq_true_eq]

theorem setLive_same {k : Mode} {b : Bool} {x : Chan} (h : x.live = b) : setLive k b x = x := if_pos h

/-- COMMIT set, with LIVE as it is. -/
theorem ctlstatWrite_commit {k : Mode} {v : W32} {x : Chan} (h : v.getLsbD 2 = x.live) :
    ctlstatWrite k (v ||| 1#32) x = requestCommit k (x.withCtl k v) := by
  have hbit (i : Nat) (hi : i ≠ 0) : (v ||| 1#32).getLsbD i = v.getLsbD i := by
    rw [BitVec.getLsbD_or, BitVec.getLsbD_one, decide_eq_false hi, Bool.and_false, Bool.or_false]
  have hevt : ((v ||| 1#32) >>> 16).setWidth 8 = (v >>> 16).setWidth 8 := by
    rw [BitVec.ushiftRight_or_distrib]
    exact congrArg _ BitVec.or_zero
  have hctl : x.withCtl k (v ||| 1#32) = x.withCtl k v := by
    simp only [Chan.withCtl, hbit 1 (by decide), hbit 13 (by decide), hbit 14 (by decide), hevt]
  have hgo : (v ||| 1#32).getLsbD 0 = true := by
    rw [BitVec.getLsbD_or]
    exact Bool.or_true _
  rw [ctlstatWrite_eq, hgo, if_pos rfl, hctl, hbit 2 (by decide), setLive_same (x := x.withCtl k v) h.symm]

/-- COMMIT left alone. -/
theorem ctlstatWrite_plain {k : Mode} {v : W32} {x : Chan} (h : v.getLsbD 0 = false) :
    ctlstatWrite k v x = setLive k (v.getLsbD 2) (x.withCtl k v) := by
  rw [ctlstatWrite_eq, h, if_neg Bool.false_ne_true]

theorem setLive_on {k : Mode} {x : Chan} (h : x.live = false) (hk : k = .commission) : setLive k true x = { x with
    live := true, liveBad := 0, stProc := x.cfg.proc, stLim := x.cfg.lim, stSafe := x.cfg.safe } := by
  simp [setLive, h, hk]

theorem setLive_shut {k : Mode} {x : Chan} (h : x.live = false) (hk : k ≠ .commission) : setLive k true x = x := by
  simp [setLive, h, hk]

theorem setLive_off {k : Mode} {x : Chan} (h : x.live = true) : setLive k false x = { x with live := false, liveBad := 0 } := by
  simp [setLive, h]

theorem commitMode_iff (k : Mode) : commitMode k = true ↔ k = .commission ∨ k = .operate := by simp [commitMode]

theorem requestCommit_standing {k : Mode} {x : Chan} (h : x.cpend = true) : requestCommit k x = x := if_pos h

theorem requestCommit_next {k : Mode} {x : Chan} (h : x.cpend = false) (hk : k = .commission ∨ k = .operate)
    (hr : x.ramping = false) (hd : x.rampDue = false) : requestCommit k x = { x with cpend := true } := by
  simp [requestCommit, h, (commitMode_iff k).mpr hk, hr, hd]

theorem requestCommit_held {k : Mode} {x : Chan} (h : x.cpend = false) (hk : k = .commission ∨ k = .operate)
    (hr : x.ramping = true ∨ x.rampDue = true) : requestCommit k x = { x with
      cpend := true, held := true, holdAt := none, reenPend := decide (x.stMode.toNat % 16 ≠ 0) } := by
  have hmode : fld x.stMode 0 4 ≠ 0#4 ↔ x.stMode.toNat % 16 ≠ 0 := by
    rw [ne_eq, fld_eq_zero_iff, Nat.pow_zero, Nat.div_one]
    rfl
  simp only [requestCommit, h, (commitMode_iff k).mpr hk, Bool.or_eq_true, hr, hmode, Bool.false_eq_true, Bool.not_true, if_false,
    if_true]

theorem requestCommit_refused {k : Mode} {x : Chan} (h : x.cpend = false) (hc : k ≠ .commission) (ho : k ≠ .operate) :
    requestCommit k x = { x with
      cres := 3, held := false, holdAt := none, reenPend := false, evtNow := x.evtNow ||| 0x10 } := by
  have hk : commitMode k = false := Bool.eq_false_iff.mpr fun hk => ((commitMode_iff k).mp hk).elim hc ho
  simp [requestCommit, commitResult, h, hk]

/-! ### The bits of CH_CTLSTAT (R340) -/

theorem fld_or {n : Nat} (x y : BitVec n) (lo len : Nat) : fld (x ||| y) lo len = fld x lo len ||| fld y lo len :=
  BitVec.extractLsb'_or

/-- A bit outside a field. -/
theorem fld_at_apart {n : Nat} (b : Bool) {i lo len : Nat} (hi : i < n) (h : i < lo ∨ lo + len ≤ i) :
    fld (at_ b i : BitVec n) lo len = 0#len := by
  apply BitVec.eq_of_getLsbD_eq
  intro j hj
  rw [getLsbD_fld, getLsbD_at_ _ _ _ _ hi, decide_eq_false (p := lo + j = i) (by omega), Bool.and_false, Bool.and_false,
    BitVec.getLsbD_zero]

theorem getLsbD_put_of_ge {n k : Nat} (x : BitVec k) {lo i : Nat} (h : lo + k ≤ i) : (put n x lo).getLsbD i = false := by
  simp only [put, BitVec.getLsbD_shiftLeft, BitVec.getLsbD_setWidth, BitVec.getLsbD_of_ge x (i - lo) (by omega), Bool.and_false]

/-- A field outside another. -/
theorem fld_put_apart {n k : Nat} (x : BitVec k) {p lo len : Nat} (h : lo + len ≤ p ∨ p + k ≤ lo) :
    fld (put n x p) lo len = 0#len := by
  apply BitVec.eq_of_getLsbD_eq
  intro j hj
  have hz : (put n x p).getLsbD (lo + j) = false := by
    rcases h with h | h
    · exact getLsbD_put_of_lt x (by omega)
    · exact getLsbD_put_of_ge x (by omega)
  rw [getLsbD_fld, hz, Bool.and_false, BitVec.getLsbD_zero]

theorem fld_put_same {n k : Nat} (x : BitVec k) {p : Nat} (h : p + k ≤ n) : fld (put n x p) p k = x := by
  apply BitVec.eq_of_getLsbD_eq
  intro j hj
  rw [getLsbD_fld, getLsbD_put x (by omega), decide_eq_true hj, Bool.true_and]

theorem ctlstatWord_bits (x : Chan) : (ctlstatWord x).getLsbD 1 = x.comEn ∧ (ctlstatWord x).getLsbD 2 = x.live ∧
    (ctlstatWord x).getLsbD 3 = x.cpend ∧ (ctlstatWord x).getLsbD 4 = x.reenPend ∧ (ctlstatWord x).getLsbD 5 = x.ramping ∧
    (ctlstatWord x).getLsbD 13 = x.outfail ∧ (ctlstatWord x).getLsbD 14 = x.strmErr := by
  simp (disch := omega) only [ctlstatWord, BitVec.getLsbD_or, getLsbD_at_, getLsbD_put_of_lt, getLsbD_put_of_ge]
  simp

theorem ctlstatWord_fields (x : Chan) : fld (ctlstatWord x) 6 2 = x.cres ∧ fld (ctlstatWord x) 8 5 = x.cfail ∧
    fld (ctlstatWord x) 16 8 = x.evtEn ∧ fld (ctlstatWord x) 24 8 = x.evt := by
  simp (disch := omega) only [ctlstatWord, fld_or, fld_at_apart, fld_put_apart, fld_put_same, BitVec.zero_or, BitVec.or_zero,
    and_self]

/-! ### The clauses of O44 -/

theorem exec_chCtlstatRead {s : State} {w : Who} {c : BitVec 8} (hm : s.m.live) (hr : w.master = .replica)
    (ha : chanAccess w c s.m = true) : exec (.chCtlstatRead w c) s = leaves s
      ((modChan c (fun x => { x with evt := 0 }) s.m).read (ctlstatWord (s.m.chans.get c))) := by
  obtain ⟨hmode, -, -⟩ := hm
  have hb : blockOf (chanBlock c + 0x10#36) = some (.chan c 0x10) := blockOf_chan c (by decide)
  have hread : regRead w (chanBlock c + 0x10#36) s.m
      = (some (ctlstatWord (s.m.chans.get c)), modChan c (fun x => { x with evt := 0 }) s.m) := by
    simp only [regRead, hb, chanBusRead, ha, if_true]
    rfl
  have hbus : busRead w (chanBlock c + 0x10#36) s.m
      = (modChan c (fun x => { x with evt := 0 }) s.m).read (ctlstatWord (s.m.chans.get c)) := by
    simp [busRead, powered, hmode, hr, hread, onBus, Mach.read]
  exact congrArg (leaves s) hbus

/-- The channel at its event: the causes that are enabled are recorded (R336). -/
def Chan.eventTold (x : Chan) : Chan := { x with evt := x.evt ||| (x.evtNow &&& x.evtEn), evtNow := 0 }

/-- The event is raised for the latched owner where an enabled cause stands. -/
theorem channelEvent_eq (c : BitVec 8) (m : Mach) : channelEvent c m
    = if (m.chans.get c).evtNow &&& (m.chans.get c).evtEn = 0 then modChan c (fun _ => (m.chans.get c).eventTold) m
      else pend (m.owner.get c) 1 (modChan c (fun _ => (m.chans.get c).eventTold) m) := rfl

theorem channelEvent_tells (c : BitVec 8) (m : Mach) : (channelEvent c m).chans.get c = (m.chans.get c).eventTold ∧
    (channelEvent c m).ints.get (m.owner.get c) = m.ints.get (m.owner.get c) |||
      (if (m.chans.get c).evtNow &&& (m.chans.get c).evtEn = 0 then 0 else 2) := by
  rw [channelEvent_eq]
  by_cases h : (m.chans.get c).evtNow &&& (m.chans.get c).evtEn = 0
  · rw [if_pos h, if_pos h]
    exact ⟨Tbl.get_upd_same .., BitVec.or_zero.symm⟩
  · rw [if_neg h, if_neg h]
    exact ⟨Tbl.get_upd_same .., Tbl.get_upd_same ..⟩

theorem advanceTo_past {t : Nat} {m : Mach} (h : t ≤ m.clk) : advanceTo t m = m := if_neg (not_lt.mpr h)

/-- Settles O44: each register by what its store or load does to the channel (`busWrite_chan`), CH_CTLSTAT by its parts. -/
theorem channelRegisters : Obligations.ChannelRegisters := by
  unfold Obligations.ChannelRegisters
  intro s w c v hm x may becomes commission y commit
  have access (h : may) : chanAccess w c s.m = true := chanAccess_of_may h
  have write (h : may) {o : Addr} {u : W32} {z : Chan} (ho : o.toNat < 0x40)
      (hz : chanWrite s.m.mode.mode o.toNat u x = z) :
      .next { s with m := busWrite w (chanBlock c + o) u s.m } = leaves s (modChan c (fun _ => z) s.m) :=
    congrArg (leaves s) (by rw [busWrite_chan u hm (access h) ho, ← hz])
  have commits (h : may) (hl : v.getLsbD 2 = x.live) {z : Chan} (hz : requestCommit s.m.mode.mode y = z) : commit z :=
    write h (o := 0x10#36) (by decide) ((ctlstatWrite_commit hl).trans hz)
  have lives (h : may) (hv : v.getLsbD 0 = false) {b : Bool} (hb : v.getLsbD 2 = b) {z : Chan}
      (hz : setLive s.m.mode.mode b y = z) : becomes (.liveSet w c v) z :=
    write h (o := 0x10#36) (by decide) ((ctlstatWrite_plain hv).trans (by rw [hb]; exact hz))
  refine ⟨fun h => ⟨?_, ?_, ?_, ?_⟩, fun h hl => ⟨fun hp => ?_, fun hp hmode => ⟨fun hr hd => ?_, fun hr => ?_⟩,
    fun hp hc ho => ?_⟩, fun h hv => ?_, fun h => ?_, fun hr h hroom => ?_, fun hpast => ?_⟩
  · exact write h (o := put 36 0#2 2) (by decide) rfl
  · exact write h (o := put 36 1#2 2) (by decide) rfl
  · exact write h (o := put 36 2#2 2) (by decide) rfl
  · exact write h (o := put 36 3#2 2) (by decide) rfl
  · exact commits h hl (requestCommit_standing hp)
  · exact commits h hl (requestCommit_next hp hmode hr hd)
  · exact commits h hl (requestCommit_held hp hmode hr)
  · exact commits h hl (requestCommit_refused hp hc ho)
  · exact ⟨fun hl => lives h hv hl (setLive_same rfl), fun hl hx hk => lives h hv hl (setLive_on hx hk),
      fun hl hx hk => lives h hv hl (setLive_shut hx hk), fun hl hx => lives h hv hl (setLive_off hx)⟩
  · have hrep : w.master = .replica := h.elim (fun hk => hk.1) And.left
    obtain ⟨h1, h2, h3, h4, h5, h13, h14⟩ := ctlstatWord_bits x
    obtain ⟨h6, h8, h16, h24⟩ := ctlstatWord_fields x
    have htop : (ctlstatWord x).toNat / 2 ^ 24 = x.evt.toNat := by
      have hlt := (ctlstatWord x).isLt
      rw [← h24, toNat_fld]
      omega
    exact ⟨ctlstatWord x, exec_chCtlstatRead hm hrep (access h), h1, h2, h3, h4, h5, by rw [← toNat_fld, h6],
      by rw [← toNat_fld, h8], h13, h14, by rw [← toNat_fld, h16], htop⟩
  · have dropped {i : Instr} {o : Addr} {u : W32} (hi : exec i s = .next { s with m := busWrite w (chanBlock c + o) u s.m })
        (ho : o.toNat < 0x40) : ∃ t f, exec i s = .next t ∧ t.m.chans = s.m.chans ∧
          t.m.faults.queue = s.m.faults.queue ++ [f] ∧ f.code = 0x0205 := by
      obtain ⟨hchans, f, hf, hcode⟩ := busWrite_chan_foreign u hm hroom hr (chanAccess_of_not hr h) ho
      exact ⟨_, f, hi, hchans, hf, hcode⟩
    intro i hi
    simp only [List.mem_cons, List.not_mem_nil, or_false] at hi
    rcases hi with rfl | rfl | rfl | rfl | rfl
    · exact dropped (o := 0x10#36) rfl (by decide)
    · exact dropped (o := put 36 0#2 2) rfl (by decide)
    · exact dropped (o := 0x10#36) rfl (by decide)
    · exact dropped (o := 0x14#36) rfl (by decide)
    · exact dropped (o := 0x18#36) rfl (by decide)
  · obtain ⟨hmode, -, -⟩ := hm
    have hdue : s.m.tick.edgeAt + usClk 2 ≤ s.m.clk := hpast
    have hnow : channelEvent c (if powered s.m then advanceTo (s.m.tick.edgeAt + usClk 2) s.m else s.m) = channelEvent c s.m := by
      rw [powered, if_pos (decide_eq_true hmode), advanceTo_past hdue]
    obtain ⟨hchan, hint⟩ := channelEvent_tells c s.m
    exact ⟨_, congrArg (leaves s) hnow, hchan, hint⟩

end Sys2Proof.Machine
end

section
/-! PROOFS. GCALL with SSP above its area: the gate frame reaches no shadow stack (O15, R147, R148, R155). -/

namespace Sys2Proof.Machine

open Sys2Proof

set_option Elab.async false -- one proof at a time: the threads of many at once exceed the memory of a check

/-- The registers of `strayRegs`, whose SSP points far above the shadow-stack area, with a gate into ring 1 of compartment 2. -/
def strayCaller : Arch := { strayRegs with x := Cap.make 0x200 0 0x1_0000 0x0D 2 1 true }

/-- The granule that holds the stack of the gate's compartment and ring, and a stack capability of that compartment. -/
def gateStackGran : Nat := granOf (phys (tileOf 0) (stkGran strayCaller.x.owner (gateRing strayCaller.x)))
def gateStack : Cap := Cap.make 0x1000_5000 0 0x8000_0000 0x03 2 0 true

/-- The module at reset with these registers on engine 0, and the stack in its place in the compartment table. -/
def strayGate : State := { State.reset with m := { mapLanes 0 (fun r => { r with arch := strayCaller }) State.reset.m with
  mem := State.reset.m.mem.putGran gateStackGran gateStack.bits gateStack.tag false } }

/-- The granule to which GCALL of this engine would push the gate frame. -/
def strayFrameGran : Nat := granOf (phys (tileOf 0) (strayCaller.ssp - 32))

theorem ready_strayGate : Ready strayGate.m 0 strayCaller where
  boundary := by decide +kernel
  lanes := by decide +kernel
  quiet := by
    delta Replica.quiet
    decide +kernel
  notForced := by decide +kernel
  undebugged := by
    delta undebugged
    decide +kernel
  notDue := by decide +kernel
  outside := by decide +kernel
  fetch := by decide +kernel
  word := by decide +kernel

/-- No entry of the fence map is valid after reset, and no region cache holds one. -/
theorem sharedOpen_strayGate : sharedOpen strayGate.m 0 strayCaller.comp := by
  have hcache : (strayGate.m.tiles.get (tileOf 0)).rcache = [] := by decide +kernel
  have hvalid : ∀ i, (strayGate.m.mc.fence.get i).valid = false := by decide +kernel
  refine ⟨?_, fun i x write _ hmatch => ?_⟩
  · rw [hcache]
    exact List.forall_mem_nil _
  · rw [FenceEntry.matches, hvalid, Bool.false_and, Bool.false_and, Bool.false_and] at hmatch
    exact absurd hmatch Bool.false_ne_true

/-- GCALL goes on, since SSP leaves room above the area's base, but the fabric refuses the write of the frame. -/
theorem gcall_strayGate : leavesData strayFrameGran 0 (exec (.gcall 0 0 0) strayGate) = true := by decide +kernel

/-- Refutes O15: nothing bounds SSP from above in the clause on GCALL. With SSP above its area the pushes are refused
(`gcall_strayGate`), so memory does not hold the gate frame. -/
theorem not_gateCallAndReturn : ¬ Obligations.GateCallAndReturn := by
  unfold Obligations.GateCallAndReturn
  intro h
  obtain ⟨hcall, -⟩ := h strayGate 0 strayCaller ready_strayGate
  have hclean : readsClean strayGate.m gateStackGran := by
    delta readsClean
    decide +kernel
  obtain ⟨u, hexec, -, hmem⟩ := hcall (by decide +kernel) sharedOpen_strayGate (by decide +kernel) (by decide +kernel) hclean
    (by decide +kernel) (by decide +kernel) (by decide +kernel)
  have hdata : u.m.mem.data strayFrameGran = 0 := by
    have hleft := gcall_strayGate
    rw [hexec, leavesData] at hleft
    exact of_decide_eq_true hleft
  rw [hmem, ← strayFrameGran, data_putGran, if_pos rfl] at hdata
  exact absurd hdata (by decide +kernel)

end Sys2Proof.Machine
end

section
/-! PROOFS. What instructions and interrupts that enter an exception have in common: the effect of the entry, carried out on
every lane (R166, R167). -/

namespace Sys2Proof.Machine

open Sys2Proof

set_option Elab.async false -- one proof at a time: the threads of many at once exceed the memory of a check

/-- The writes of an entry: the granules of the block, with the state before it (R163). -/
def entryWrites (m : Mach) (a : Arch) (k : Exc) : List Trans :=
  granWrites .taskState a a.tsbr (tsbGranules (idleLatches m.free a) k.info m.tick.count)

theorem entryWrites_local {m : Mach} {e : BitVec 7} {a : Arch} (hc : canEnter m e a) (k : Exc) :
    ∀ x ∈ entryWrites m a k, x.localWrite := by
  obtain ⟨-, -, htsb, -, -⟩ := hc
  exact granWrites_local a a.tsbr _ fun i hi => region_tsb _ htsb i (Nat.lt_succ_of_lt hi)

/-- The read of an entry: ESTACK, which reads clean. -/
theorem entryRead_local {m : Mach} {e : BitVec 7} {a : Arch} (hc : canEnter m e a) :
    ∀ x ∈ [load16 (a.tsbr + 0xF0#36) a], x.kind.isLoad = true ∧ region x.addr = .tileAlias ∧
      m.mem.err (granOf (phys (tileOf e) x.addr)) = 0#152 := by
  obtain ⟨-, -, htsb, ⟨herr, -⟩, -⟩ := hc
  intro x hx
  have hg : granOf (phys (tileOf e) (a.tsbr + 0xF0#36)) = granOf (phys (tileOf e) a.tsbr) + 15 :=
    tsb_granule (tileOf e) a.tsbr htsb 15 (by omega)
  rw [List.mem_singleton.mp hx]
  exact ⟨rfl, region_tsb _ htsb 15 (by omega), by rw [load16, trans16, hg]; exact herr⟩

/-- An instruction whose outcome is an exception leaves what its entry leaves. -/
theorem instr_entry {m : Mach} {e : BitVec 7} {a : Arch} (h : Ready m e a) (hc : canEnter m e a) {sp : InstrSpec}
    {mode : BitVec 4} {opnd : BitVec 20} {b : Before} {sem : Ctx → Arch → Bool → LaneOut} {k : Exc}
    (ho : laneOut sp mode opnd none sem ⟨m, e, []⟩ a = .exc k) :
    instr sp e mode opnd b sem m = prefetchFill e (m.trapped e (entryFx m e a k) a (entryWrites m a k)) :=
  instr_trap h sp mode opnd b sem (entryFx m e a k) _ _ (by rw [ho, exc_fx hc]) rfl rfl rfl rfl rfl (entryRead_local hc)
    (entryWrites_local hc k)

/-- The entry on every lane, carried out as an outcome that the vote has left. -/
theorem carryOut_entry {m : Mach} {e : BitVec 7} {a : Arch} (h : Ready m e a) (hc : canEnter m e a) (k : Exc) :
    carryOutFx e ((lanesOf m e).map fun r => (r, entryFx m e a k)) m
      = prefetchFill e (m.trapped e (entryFx m e a k) a (entryWrites m a k)) := by
  obtain ⟨happ, -, -⟩ := applyFx_trap h (entryFx m e a k) _ _ rfl rfl rfl rfl (entryRead_local hc) (entryWrites_local hc k)
  have hev : (entryFx m e a k).ev = .none := rfl
  obtain ⟨r0, rest, hL⟩ := List.exists_cons_of_ne_nil h.lanes
  rw [hL] at happ ⊢
  simp only [List.map_cons] at happ ⊢
  simp only [carryOutFx, happ, hev, Bool.not_true, Bool.false_eq_true, if_false, engineEvent, entryWrites]

end Sys2Proof.Machine
end

section
/-! PROOFS. An exception and the return from it (O17, R163, R164, R168, R169). -/

namespace Sys2Proof.Machine

open Sys2Proof

set_option Elab.async false -- one proof at a time: the threads of many at once exceed the memory of a check

/-! ### Lines without an error (R60, R61) -/

/-- No line that stands in the engine's line buffer or in its tile's cache met an error as it was fetched. -/
def linesClean (m : Mach) (e : BitVec 7) : Prop :=
  (∀ y ∈ (m.engines.get e).lineBuf, y.bad = Tbl.all 2 0) ∧ ∀ y ∈ (m.tiles.get (tileOf e)).icache, y.bad = Tbl.all 2 0

theorem mem_cacheLine {x y : ICLine} {c : List ICLine} (h : y ∈ cacheLine x c) : y = x ∨ y ∈ c := by
  rcases List.mem_cons.mp h with rfl | h
  · exact .inl rfl
  · exact .inr (List.mem_of_mem_filter (List.mem_of_mem_filter h))

theorem mem_bufferLine {x y : ICLine} {b : List ICLine} (h : y ∈ bufferLine x b) : y = x ∨ y ∈ b := by
  rcases List.mem_cons.mp (List.mem_of_mem_take h) with rfl | h
  · exact .inl rfl
  · exact .inr (List.mem_of_mem_filter h)

/-- A line that comes from the cache to the line buffer met no error either. -/
theorem linesClean_bufferNext {m : Mach} {e : BitVec 7} (h : linesClean m e) : linesClean (bufferNext e m) e := by
  obtain ⟨hbuf, hcache⟩ := h
  unfold bufferNext
  dsimp only
  split
  · exact ⟨hbuf, hcache⟩
  · split
    · exact ⟨hbuf, hcache⟩
    · split
      · next x hx =>
        have hxc := hcache x (List.mem_of_find?_eq_some hx)
        refine ⟨fun y hy => ?_, fun y hy => ?_⟩
        · simp only [modEng_engines, modTile_engines, Tbl.get_upd_same] at hy
          rcases mem_bufferLine hy with rfl | hy
          · exact hxc
          · exact hbuf y hy
        · simp only [modEng_tiles, modTile_tiles, Tbl.get_upd_same] at hy
          rcases mem_cacheLine hy with rfl | hy
          · exact hxc
          · exact hcache y hy
      · exact ⟨hbuf, hcache⟩

theorem linesClean_mapLanes {m : Mach} {e : BitVec 7} (h : linesClean m e) (f : Replica → Replica) :
    linesClean (mapLanes e f m) e := by
  unfold linesClean
  rw [mapLanes_engines, tile_mapLanes]
  exact h

theorem linesClean_fill {m : Mach} {e : BitVec 7} (h : linesClean m e) : linesClean (prefetchFill e m) e :=
  linesClean_mapLanes (linesClean_bufferNext (linesClean_mapLanes (linesClean_bufferNext h) _)) _

/-- The fetch of a word from such a line meets nothing. -/
theorem wordFault_of_linesClean {m : Mach} {e : BitVec 7} (h : linesClean m e) (x : Addr) : wordFault m e x = none := by
  unfold wordFault
  split
  · next y hy =>
    have hget : ∀ i : BitVec 2, (Tbl.all 2 (0 : BitVec 4)).get i = 0 := by decide
    rw [h.1 y (List.mem_of_find?_eq_some hy), hget]
    rfl
  · rfl

/-- After an exception the engine's lines are as clean as before it. -/
theorem linesClean_entry {m : Mach} {e : BitVec 7} {a : Arch} (h : linesClean m e) (hc : canEnter m e a) (k : Exc) :
    linesClean (prefetchFill e (m.trapped e (entryFx m e a k) a (entryWrites m a k))) e := by
  obtain ⟨-, htiles, heng, -⟩ := trapped_eq m e (entryFx m e a k) a _ (entryWrites_local hc k)
  refine linesClean_fill ?_
  unfold linesClean
  rw [htiles, heng, Mach.lanesAfter, tile_mapLanes]
  exact h

/-! ### STATE (R164) -/

theorem bit_or {n : Nat} (x y : BitVec n) (i : Nat) : bit (x ||| y) i = (bit x i || bit y i) := BitVec.getLsbD_or ..

theorem bit_at (b : Bool) {i : Nat} (hi : i < 64) (j : Nat) : bit (at_ b i : W64) j = (b && decide (j = i)) :=
  getLsbD_at_ 64 b i j hi

theorem bit_put_apart {k : Nat} (x : BitVec k) {p i : Nat} (h : i < p ∨ p + k ≤ i) : bit (put 64 x p) i = false := by
  rcases h with h | h
  · exact getLsbD_put_of_lt x h
  · exact getLsbD_put_of_ge x h

/-- CHAIN is written 0 (R164, R171). -/
theorem packState_chain (a : Arch) : bit (packState a) 23 = false := by
  simp [packState, bit_or, bit_at, bit_put_apart]

/-- A return restores what an entry wrote to STATE. -/
theorem unpackState_packState (a b : Arch) : unpackState (packState a) b = { b with
    ring := a.ring, ib := a.ib, exl := a.exl, fast := a.fast, fring := a.fring, lpend := a.lpend, lop := a.lop
    ldist := a.ldist, lrm := a.lrm, fib := a.fib } := by
  simp [unpackState, packState, bit_or, bit_at, bit_put_apart, fld_or, fld_at_apart, fld_put_apart, fld_put_same]

/-! ### The block (R163, R169) -/

/-- What a return reads of granules that read clean. -/
def cleanReads (l : List (Gran × Bool)) (k : Nat) : GranRead := ⟨(l.getD k (0, false)).1, (l.getD k (0, false)).2, none⟩

/-- A return reads the granules 0 to 13 of the block. -/
theorem restore_congr {g g' : Nat → GranRead} (h : ∀ k, k < 15 → g k = g' k) (a : Arch) : restore g a = restore g' a := by
  simp [restore, h]

theorem firstBad_none {g : Nat → GranRead} {l : List Nat} (h : ∀ k ∈ l, (g k).bad = none) : firstBad g l = none := by
  induction l with
  | nil => rfl
  | cons k l ih =>
    rw [firstBad, h k (.head _), Option.isSome_none, if_neg Bool.false_ne_true]
    exact ih fun j hj => h j (.tail _ hj)

/-- THE BLOCK OF AN ENTRY RESTORES THE REGISTERS, but for the latches in which nothing was pending. -/
theorem restore_entry {a : Arch} (hdfl : a.dfl = false)
    (hcaps : ∀ c ∈ [a.pcc, a.s, a.x, a.y, a.d, a.link, a.slink], c.norm = c) (hf : a.f &&& fMask = a.f)
    (hrs : a.rstate &&& rstateMask = a.rstate) (n : Nat) (i : EntryInfo) (tick : BitVec 64) (stack : Cap) :
    restore (cleanReads (tsbGranules (idleLatches n a) i tick)) (handlerState a i a.tsbr stack false)
      = { idleLatches n a with resv := none } := by
  simp only [List.forall_mem_cons] at hcaps
  obtain ⟨hpcc, hs, hx, hy, hd, hlink, hslink, -⟩ := hcaps
  have hssp : fld (a.ssp.setWidth 64) 0 36 = a.ssp := by
    rw [fld_zero]
    exact BitVec.setWidth_setWidth_of_le _ (by decide)
  simp only [restore, cleanReads, tsbGranules, idleLatches, GranRead.toCap, List.getD_cons_zero, List.getD_cons_succ,
    fld_append_hi, fld_append_lo, hpcc, hs, hx, hy, hd, hlink, hslink, hf, hrs, hssp, unpackState_packState]
  rw [← hdfl]
  rfl

/-- What the hardware of an instruction reads of a granule of the block that reads clean, with empty buffers. -/
theorem read_block {m : Mach} {e : BitVec 7} (b : Arch) {x : Addr} (htsb : tsbrOk x = true) {i : Nat} (hi : i < 16)
    (hc : readsClean m (granOf (phys (tileOf e) x) + i)) :
    (Ctx.mk m e []).read b (x + BitVec.ofNat 36 (16 * i))
      = ⟨m.mem.data (granOf (phys (tileOf e) x) + i), m.mem.tag (granOf (phys (tileOf e) x) + i), none⟩ := by
  obtain ⟨herr, hpois⟩ := hc
  simp [Ctx.read, Ctx.readMem, sbLookup_nil, Ctx.tile, tsb_granule _ _ htsb i hi, readGran_clean _ _ _ herr, hpois]

/-- The granules 0 to 14 of the block at `x` read clean, and hold what `l` lists. -/
def holdsBlock (m : Mach) (e : BitVec 7) (x : Addr) (l : List (Gran × Bool)) : Prop :=
  ∀ i, i < 15 → readsClean m (granOf (phys (tileOf e) x) + i) ∧
    m.mem.data (granOf (phys (tileOf e) x) + i) = (l.getD i (0, false)).1 ∧
    m.mem.tag (granOf (phys (tileOf e) x) + i) = (l.getD i (0, false)).2

theorem read_holdsBlock {m : Mach} {e : BitVec 7} {x : Addr} {l : List (Gran × Bool)} (h : holdsBlock m e x l)
    (htsb : tsbrOk x = true) (b : Arch) (i : Nat) (hi : i < 15) :
    (Ctx.mk m e []).read b (x + BitVec.ofNat 36 (16 * i)) = cleanReads l i := by
  obtain ⟨hclean, hdata, htag⟩ := h i hi
  rw [read_block b htsb (by omega) hclean, hdata, htag]
  rfl

/-- ERET THROUGH A BLOCK that reads clean and holds a legal PCC, in ring 0 and with no interrupt to chain to (R169, R171). -/
theorem eretOut_block {m : Mach} {e : BitVec 7} {b : Arch} {l : List (Gran × Bool)} (hdfl : b.dfl = false) (hring : b.ring = 0)
    (hmode : m.mode.mode ≠ .wake ∧ m.mode.mode ≠ .hardpan)
    (hread : ∀ k, k < 15 → (Ctx.mk m e []).read b (b.tsbr + BitVec.ofNat 36 (16 * k)) = cleanReads l k)
    (hchain : bit (fld (cleanReads l 11).data 64 64) 23 = false)
    (htag : (cleanReads l 0).toCap.tag = true) (hkind : (cleanReads l 0).toCap.kind = 0) :
    eretOut ⟨m, e, []⟩ b = .ok { fxJump (restore (cleanReads l) b) with
      settled := true, trans := (range 0 15).map fun k => load16 (b.tsbr + BitVec.ofNat 36 (16 * k)) b } := by
  have hblock : eretBlock ⟨m, e, []⟩ b = b.tsbr := by rw [eretBlock, hdfl]; rfl
  have hrest := restore_congr hread b
  have hlow : ∀ k ∈ range 0 15, k < 15 := by decide
  have hgood : ∀ js : List Nat, (∀ k ∈ js, k < 15) →
      firstBad (fun k => (Ctx.mk m e []).read b (b.tsbr + BitVec.ofNat 36 (16 * k))) js = none := fun js hjs =>
    firstBad_none fun k hk => by rw [hread k (hjs k hk)]; rfl
  have hvec : ∀ pcc, chainVector ⟨m, e, []⟩ pcc (fld (cleanReads l 11).data 64 64) = none := fun pcc => by
    simp [chainVector, hmode, hchain]
  unfold eretOut
  simp only [hblock]
  rw [hgood [0, 11] (by decide), hread 0 (by decide), hread 11 (by decide), hgood _ hlow, hring, hvec, hrest]
  simp [htag, hkind]

/-! ### An instruction that only reads granules -/

/-- An effect whose hardware reads granules of its tile that are clean, and writes none, leaves what it would leave without
them. -/
theorem applyFx_reads {m : Mach} {e : BitVec 7} {a : Arch} (h : Ready m e a) {f : Fx} (hst : f.stores = [])
    (hp : f.part = false) (htrap : f.trap = false)
    (hr : ∀ x ∈ f.trans, x.kind.isLoad = true ∧ region x.addr = .tileAlias ∧
      m.mem.err (granOf (phys (tileOf e) x.addr)) = 0#152) :
    applyFx e ((lanesOf m e).map fun r => (r, f)) m = (true, m.retired e f.last (f.due a) f.jump []) := by
  have hfold := lanes_done h f hp
  have hbuf : f.buffer m e a = [] := by simp [Fx.buffer, hst]
  have hread : f.trans.foldl (doTrans e) (modEng e (fun g => { g with fed := false, reread := false })
      (m.lanesAfter e f.last (f.due a) f.jump [])) = modEng e (fun g => { g with fed := false, reread := false })
      (m.lanesAfter e f.last (f.due a) f.jump []) :=
    foldl_doTrans_read _ _ _ fun x hx => by simpa [Mach.lanesAfter] using hr x hx
  have hstep : ∀ m' : Mach, m'.dbg = m.dbg → stepDone e m' = m' := fun m' hd => by
    simp [stepDone, hd, h.undebugged.2.1]
  obtain ⟨r0, rest, hL⟩ := List.exists_cons_of_ne_nil h.lanes
  rw [hL, hbuf] at hfold
  simp only [List.map_cons] at hfold
  simp only [hL, applyFx, List.map_cons, htrap, Bool.false_eq_true, if_false, hfold, hread]
  rw [hstep _ (by simp [countOne]), countOne_counted]
  exact issue_retired _ _ _

/-- AN INSTRUCTION THAT READS GRANULES OF ITS TILE and asks nothing of its engine. -/
theorem instr_reads {m : Mach} {e : BitVec 7} {a : Arch} (h : Ready m e a) {sp : InstrSpec} {mode : BitVec 4}
    {opnd : BitVec 20} {b : Before} {sem : Ctx → Arch → Bool → LaneOut} {f : Fx} (hd : decodeCheck sp mode opnd a = none)
    (hs : sem ⟨m, e, []⟩ (beginArch a) a.lpend = .ok f) (hst : f.stores = []) (hp : f.part = false) (htrap : f.trap = false)
    (hev : f.ev = .none)
    (hr : ∀ x ∈ f.trans, x.kind.isLoad = true ∧ region x.addr = .tileAlias ∧
      m.mem.err (granOf (phys (tileOf e) x.addr)) = 0#152) :
    instr sp e mode opnd b sem m = m.retired e f.last (f.due a) f.jump [] := by
  have happ := applyFx_reads h hst hp htrap hr
  have hrun := act_retired h f.last (f.due a) f.jump []
  rw [instr_ready h sp mode opnd b sem hd, hs]
  obtain ⟨r0, rest, hL⟩ := List.exists_cons_of_ne_nil h.lanes
  rw [hL] at happ ⊢
  simp only [List.map_cons] at happ ⊢
  simp only [takeEffect, LaneOut.fx, hev, carryOutFx, happ, Bool.not_true, Bool.false_eq_true, if_false, engineEvent]
  exact pumped_run (by rw [hrun]; exact nofun)

/-! ### The exception and the return -/

/-- The PCC of an instruction that may be fetched is a capability as it is kept (R112, R121). -/
theorem checkFetch_pcc {comp : BitVec 10} {ring : BitVec 2} {c : Cap} {reg : BitVec 4} {x : Addr}
    (h : checkFetch comp ring c reg x = none) : c.tag = true ∧ c.kind = 0 := by
  unfold checkFetch at h
  split at h
  · exact nomatch h
  · next htag =>
    split at h
    · exact nomatch h
    · next hkind => exact ⟨by simpa using htag, not_not.mp hkind⟩

theorem Cap.norm_of_kind {c : Cap} (h : c.kind = 0) : c.norm = c := by
  rw [Cap.norm, if_neg (by rw [h]; decide)]

/-- ERET at the handler of an exception brings every register back, but for the latches in which nothing was pending. -/
theorem eret_handler {t : Mach} {e : BitVec 7} {a : Arch} {i : EntryInfo} {stack : Cap} {n : Nat} {tick : BitVec 64}
    (ht : Ready t e (handlerState a i a.tsbr stack false)) (hdfl : a.dfl = false) (htsb : tsbrOk a.tsbr = true)
    (hmode : t.mode.mode ≠ .wake ∧ t.mode.mode ≠ .hardpan) (hpcc : a.pcc.tag = true ∧ a.pcc.kind = 0)
    (hcaps : ∀ c ∈ [a.s, a.x, a.y, a.d, a.link, a.slink], c.norm = c) (hf : a.f &&& fMask = a.f)
    (hrs : a.rstate &&& rstateMask = a.rstate)
    (hblock : holdsBlock t e a.tsbr (tsbGranules (idleLatches n a) i tick)) :
    instr ⟨.n, true, fun _ => none, 1⟩ e 0 0 (.reads eretReads) (fun c a _ => eretOut c a) t
      = t.retired e { idleLatches n a with resv := none } none true [] := by
  obtain ⟨htag, hkind⟩ := hpcc
  have hnorm := Cap.norm_of_kind hkind
  have hchain : bit (fld (cleanReads (tsbGranules (idleLatches n a) i tick) 11).data 64 64) 23 = false := by
    show bit (fld (packState a ++ (idleLatches n a).lopb) 64 64) 23 = false
    rw [fld_append_hi, packState_chain]
  have hcap : (cleanReads (tsbGranules (idleLatches n a) i tick) 0).toCap = a.pcc := hnorm
  have hout := eretOut_block (b := handlerState a i a.tsbr stack false) rfl rfl hmode (read_holdsBlock hblock htsb _) hchain
    (by rw [hcap, htag]) (by rw [hcap, hkind])
  rw [restore_entry hdfl (List.forall_mem_cons.mpr ⟨hnorm, hcaps⟩) hf hrs] at hout
  rw [instr_reads ht (decodeCheck_none rfl rfl ht.outside (Nat.zero_le _)) hout rfl rfl rfl rfl fun x hx => ?_]
  · rfl
  · obtain ⟨j, hj, rfl⟩ := List.mem_map.mp hx
    have hlt : j < 15 := (by decide : ∀ j ∈ range 0 15, j < 15) j hj
    obtain ⟨⟨herr, -⟩, -⟩ := hblock j hlt
    refine ⟨rfl, region_tsb _ htsb j (by omega), ?_⟩
    rw [← tsb_granule _ _ htsb j (by omega)] at herr
    exact herr

/-- The exception of TRAP with a code (R86, R158), and the module after it. -/
def trapExc (code : BitVec 8) : Exc := ⟨0x09#6, fld (code.setWidth 20 : BitVec 20) 0 8, 0#4, 0#36⟩
def afterTrap (e : BitVec 7) (code : BitVec 8) (m : Mach) : Mach :=
  instr ⟨.i, false, rawZero 8 12, 3⟩ e 0 (code.setWidth 20) .nothing (fun _ _ _ => .exc (trapExc code)) m

theorem exec_trap (s : State) (e : BitVec 7) (code : BitVec 8) :
    exec (.trap e 0 (code.setWidth 20)) s = .next { s with m := afterTrap e code s.m } := rfl

theorem exec_eret (s : State) (e : BitVec 7) : exec (.eret e 0 0) s
    = .next { s with m := instr ⟨.n, true, fun _ => none, 1⟩ e 0 0 (.reads eretReads) (fun c a _ => eretOut c a) s.m } := rfl

theorem laneOut_trap {m : Mach} {e : BitVec 7} {a : Arch} (h : Ready m e a) (code : BitVec 8) :
    laneOut ⟨.i, false, rawZero 8 12, 3⟩ 0 (code.setWidth 20) none (fun _ _ _ => .exc (trapExc code)) ⟨m, e, []⟩ a
      = .exc (trapExc code) := by
  have hraw : ∀ code : BitVec 8, rawZero 8 12 (code.setWidth 20) = none := by decide
  exact laneOut_ready h _ _ _ _ _ (decodeCheck_none rfl (hraw code) h.outside (Nat.le_of_lt_succ a.ring.isLt))

/-- Settles O17: the entry leaves the engine ready at its handler (`ready_handler`) with the block written, and ERET restores
from the block what it holds (`eret_handler`). -/
theorem exceptionThenReturn : Obligations.ExceptionThenReturn := by
  unfold Obligations.ExceptionThenReturn
  intro s e a code h hc hwake hhard hundo hbuf hcache _ hcaps hf hrs
  have ho := laneOut_trap h code
  have hword := wordFault_of_linesClean (linesClean_entry ⟨hbuf, hcache⟩ hc (trapExc code))
  rw [← instr_entry (b := .nothing) h hc ho] at hword
  have ht := ready_handler h _ _ _ .nothing _ _ ho hc hundo (hword _)
  obtain ⟨hexl, hdfl, htsb, hclean, htag⟩ := hc
  obtain ⟨hrest, ⟨hlanes, -, -⟩, -, -, hmem, hreads⟩ := instr_exception h _ _ _ .nothing _ _ ho ⟨hexl, hdfl⟩ htsb hclean htag
  refine ⟨_, _, { idleLatches s.m.free a with resv := none }, exec_trap s e code, exec_eret _ e, fun r hr => ?_, rfl,
    fun hl => if_pos hl, fun hl => ⟨if_neg hl, if_neg hl⟩⟩
  rw [← afterTrap] at hrest hlanes hmem hreads ht
  generalize afterTrap e code s.m = t at *
  have hmode : t.mode = s.m.mode := by rw [hrest]
  have hblock : holdsBlock t e a.tsbr (tsbGranules (idleLatches s.m.free a) (trapExc code).info s.m.tick.count) := fun i hi => by
    have hat := hmem (granOf (phys (tileOf e) a.tsbr) + i)
    rw [if_pos ⟨Nat.le_add_right .., Nat.add_lt_add_left hi _⟩, if_pos ⟨Nat.le_add_right .., Nat.add_lt_add_left hi _⟩,
      Nat.add_sub_cancel_left] at hat
    exact ⟨hreads i hi, hat⟩
  have heret := eret_handler ht hdfl htsb (hmode ▸ ⟨hwake, hhard⟩) (checkFetch_pcc h.fetch) hcaps hf hrs hblock
  rw [heret, retired_lane t e _ _ _ _ r (hlanes ▸ hr)]

end Sys2Proof.Machine
end

section
/-! PROOFS. Interrupts at a boundary, and the end of a WFI (O24, R166, R167, R176, R177, R179). -/

namespace Sys2Proof.Machine

open Sys2Proof

set_option Elab.async false -- one proof at a time: the threads of many at once exceed the memory of a check

/-! ### An engine that would stand ready if it ran -/

/-- Nothing is due on an engine that runs or waits, and would stand ready if it ran. -/
theorem settle_running {m : Mach} {e : BitVec 7} {a : Arch} (h : Ready (running e m) e a)
    (hact : (m.engines.get e).act = .run ∨ (m.engines.get e).act = .wfi) : settle e m = m := by
  have hquiet : mapLanes e settleLane m = m := mapLanes_id _ _ _ fun r hr => settleLane_quiet (h.quiet r hr) h.notDue
  have hend : (leader m e).any Replica.repEnd = false := by
    obtain ⟨r0, rest, hL⟩ := List.exists_cons_of_ne_nil (show lanesOf m e ≠ [] from h.lanes)
    have hq := h.quiet r0 (show r0 ∈ lanesOf m e by rw [hL]; exact .head _)
    obtain ⟨-, -, -, hrep⟩ := hq
    rw [leader, hL]
    exact hrep
  have hforced : forcedOwed m e = false := by
    obtain ⟨hdue, hundo⟩ := h.notForced
    simp only [running, modEng_engines, Tbl.get_upd_same] at hdue hundo
    simp only [forcedOwed, hdue, Bool.false_or, Bool.and_eq_false_iff, decide_eq_false_iff_not]
    right; omega
  rcases hact with hact | hact <;> simp [settle, settleLanes, hact, hquiet, hend, hforced]

theorem canRun_running {m : Mach} {e : BitVec 7} {a : Arch} (h : Ready (running e m) e a) : canRun m e = true := by
  have hrun := h.canRun
  unfold canRun validEngine liveCode at hrun ⊢
  simpa only [running, modEng_engines, modEng_tiles, modEng_pwr, modEng_watch, Tbl.get_upd_same] using hrun

theorem stopping_running {m : Mach} {e : BitVec 7} {a : Arch} (h : Ready (running e m) e a) : stopping m e = false := by
  obtain ⟨hwant, -, -, -⟩ := h.undebugged
  have hwant' : (m.dbg.engs.get e).want = false := hwant
  simp only [stopping, hwant', Bool.false_and]

theorem leader_running {m : Mach} {e : BitVec 7} {a : Arch} (h : Ready (running e m) e a) :
    ∃ l, leader m e = some l ∧ l.arch = a := h.leader

/-- What an engine remembers of the interrupts that it has taken, and what is pending, is nothing that it stands on. -/
theorem Ready.withTaken {m : Mach} {e : BitVec 7} {a : Arch} (h : Ready m e a)
    (f : List (BitVec 6 × BitVec 10) → List (BitVec 6 × BitVec 10)) (p : Tbl 10 (BitVec 4)) :
    Ready (modEng e (fun g => { g with taken := f g.taken }) { m with ints := p }) e a where
  boundary := by
    have hb := h.boundary
    unfold atBoundary Machine.canRun validEngine Machine.liveCode at hb ⊢
    simpa only [modEng_engines, modEng_tiles, modEng_pwr, modEng_watch, Tbl.get_upd_same] using hb
  lanes := h.lanes
  quiet := h.quiet
  notForced := by simpa only [modEng_engines, Tbl.get_upd_same] using h.notForced
  undebugged := h.undebugged
  notDue := h.notDue
  outside := h.outside
  fetch := h.fetch
  word := by
    have hw := h.word
    unfold wordFault at hw ⊢
    simpa only [modEng_engines, Tbl.get_upd_same] using hw

/-! ### The interrupt that an engine would take (R177, R178) -/

/-- The vector of an interrupt that is pending for a compartment (R158, R176). -/
def intVec (b : Nat) : BitVec 6 := if b = 3 then 0x15#6 else BitVec.ofNat 6 (0x11 + b)

theorem intVec_toNat {b : Nat} (hb : b < 4) : BitVec.ofNat 6 (intVec b).toNat = intVec b ∧ (intVec b).toNat ≠ 0x3F ∧
    intVec b ≠ 0x10#6 := by
  revert b
  decide

/-- Interrupt `b` is the lowest that is pending for a compartment. -/
def lowestPending (m : Mach) (comp : BitVec 10) (b : Nat) : Prop :=
  (m.ints.get comp).getLsbD b = true ∧ ∀ k, k < b → (m.ints.get comp).getLsbD k = false

/-- Nothing but an interrupt of its compartment could be taken by the engine, which runs a slot that is no span's, or as the
keeper. -/
structure OnlyInts (m : Mach) (e : BitVec 7) : Prop where
  notices : (m.engines.get e).notices = []
  budget : (m.engines.get e).budgetPend = false
  span : ∀ r, (m.engines.get e).cur = some r → r.slot.span = false
  runs : ((m.engines.get e).cur.isSome || (m.engines.get e).keeper && decide (m.mode.mode = .wake ∨ m.mode.mode = .hardpan)) = true

/-- The lowest of the pending interrupts is the one that the engine could take (R177). -/
theorem eligible_lowest {m : Mach} {e : BitVec 7} {comp : BitVec 10} {b : Nat} (ho : OnlyInts m e) (hb : b < 4)
    (hlow : lowestPending m comp b) : eligible m e comp false false false = some (intVec b) := by
  obtain ⟨hnotices, hbudget, hspan, hruns⟩ := ho
  obtain ⟨hset, hclear⟩ := hlow
  have hvec : (if bit (m.ints.get comp) 0 then some 0x11#6 else if bit (m.ints.get comp) 1 then some 0x12#6
      else if bit (m.ints.get comp) 2 then some 0x13#6 else if bit (m.ints.get comp) 3 then some 0x15#6 else none)
      = some (intVec b) := by
    unfold bit
    match b, hb with
    | 0, _ => rw [hset]; rfl
    | 1, _ => rw [hclear 0 (by decide), hset]; rfl
    | 2, _ => rw [hclear 0 (by decide), hclear 1 (by decide), hset]; rfl
    | 3, _ => rw [hclear 0 (by decide), hclear 1 (by decide), hclear 2 (by decide), hset]; rfl
  rw [← hvec]
  unfold eligible
  cases hcur : (m.engines.get e).cur with
  | none =>
    rw [hcur] at hruns
    simp only [hcur, hnotices, hbudget, hruns]
    rfl
  | some r =>
    simp only [hcur, hnotices, hbudget, hspan r hcur]
    rfl

/-- Every lane offers that interrupt, and so the engine could take it (R178, R191). -/
theorem takeable_lowest {m : Mach} {e : BitVec 7} {a : Arch} {b : Nat} {ignoreIb : Bool} (h : Ready (running e m) e a)
    (hfree : a.exl = false ∧ a.dfl = false) (hib : (a.ib && !ignoreIb) = false) (ho : OnlyInts m e) (hb : b < 4)
    (hlow : lowestPending m a.comp b) : takeable m e ignoreIb = some (intVec b) := by
  obtain ⟨hexl, hdfl⟩ := hfree
  obtain ⟨hvec, hsome, -⟩ := intVec_toNat hb
  have hagreed : agreed m e (offer m e ignoreIb) = (intVec b).toNat := agreed_const h.lanes fun r hr => by
    have harch : (rep m (tileOf e) r).arch = a := (h.quiet r hr).1
    rw [offer, harch, hib, hexl, hdfl, eligible_lowest ho hb hlow, Option.getD_some]
  have hlanes : (lanesOf m e).isEmpty = false := List.isEmpty_eq_false_iff.mpr h.lanes
  simp only [takeable, hagreed, hlanes, hsome, hvec, decide_false, Bool.or_self, Bool.false_eq_true, if_false]

theorem leader_eq (m : Mach) (e : BitVec 7) : leader m e = (lanesOf m e).head?.map (rep m (tileOf e)) := by
  unfold leader
  cases lanesOf m e <;> rfl

/-- The engines that come before one have lower numbers. -/
theorem lt_of_mem_take_allEngines {e x : BitVec 7} (h : x ∈ allEngines.take e.toNat) : x < e := by
  have he := e.isLt
  rw [allEngines, range_eq, ← List.map_take, ← List.map_take, List.take_range, List.map_map, List.mem_map] at h
  obtain ⟨i, hi, rfl⟩ := h
  rw [List.mem_range] at hi
  rw [BitVec.lt_def, Function.comp_apply, BitVec.toNat_ofNat]
  omega

/-- No engine of a lower number takes the interrupt, if none runs in the compartment (R177). -/
theorem lowerTakes_false {m : Mach} {e : BitVec 7} {comp : BitVec 10} (hl : (leader m e).map (·.arch.comp) = some comp)
    (hlow : ∀ k : BitVec 7, k < e → ∀ r, (lanesOf m k).head? = some r → (rep m (tileOf k) r).arch.comp ≠ comp) (v : BitVec 6) :
    lowerTakes m e v = false := by
  have hnone : ∀ x ∈ allEngines.take e.toNat, (leader m x).map (·.arch.comp) ≠ (leader m e).map (·.arch.comp) := by
    intro x hx heq
    rw [hl, leader_eq, Option.map_map, Option.map_eq_some_iff] at heq
    obtain ⟨r, hr, hcomp⟩ := heq
    exact hlow x (lt_of_mem_take_allEngines hx) r hr hcomp
  unfold lowerTakes
  rw [List.any_eq_false.mpr fun x hx => ?_, Bool.and_false]
  simp only [hnone x hx, decide_false, Bool.and_false, Bool.false_and, Bool.false_eq_true, not_false_eq_true]

/-! ### Taking it (R166, R167, R176) -/

theorem takePending_int (e : BitVec 7) (comp : BitVec 10) {b : Nat} (hb : b < 4) (m : Mach) :
    takePending e comp (intVec b) m = modEng e (fun g => { g with taken := (intVec b, comp) :: g.taken })
      { m with ints := m.ints.upd comp fun x => x &&& ~~~((1 : BitVec 4) <<< b) } := by
  match b, hb with
  | 0, _ | 1, _ | 2, _ | 3, _ => rfl

theorem ready_takePending {m : Mach} {e : BitVec 7} {a : Arch} (h : Ready m e a) (comp : BitVec 10) {b : Nat} (hb : b < 4) :
    Ready (takePending e comp (intVec b) m) e a := by
  rw [takePending_int e comp hb]
  exact h.withTaken ((intVec b, comp) :: ·) _

theorem canEnter_takePending {m : Mach} {e : BitVec 7} {a : Arch} (h : canEnter m e a) (comp : BitVec 10) {b : Nat}
    (hb : b < 4) : canEnter (takePending e comp (intVec b) (running e m)) e a := by
  rw [takePending_int e comp hb]
  exact h

/-- An interrupt records nothing but its vector (R165). -/
theorem asyncInfo_int (m : Mach) (e : BitVec 7) {b : Nat} (hb : b < 4) :
    asyncInfo m e (intVec b) 0#8 = (⟨intVec b, 0, 0, 0⟩ : Exc).info := by
  obtain ⟨-, -, hne⟩ := intVec_toNat hb
  unfold asyncInfo
  rw [decide_eq_false hne]
  rfl

/-- What every lane does as it takes an interrupt is what it would do once that is pending no more. -/
theorem entryFx_takePending (m : Mach) (e : BitVec 7) (a : Arch) (k : Exc) (comp : BitVec 10) {b : Nat} (hb : b < 4) :
    entryFx (takePending e comp (intVec b) (running e m)) e a k = entryFx m e a k ∧
      lanesOf (takePending e comp (intVec b) (running e m)) e = lanesOf m e := by
  rw [takePending_int e comp hb]
  exact ⟨rfl, rfl⟩

/-- TAKING AN INTERRUPT is entering an exception of its vector, once it is pending no more. -/
theorem takeInterrupt_eq {m : Mach} {e : BitVec 7} {a : Arch} {b : Nat} (h : Ready (running e m) e a) (hc : canEnter m e a)
    (hb : b < 4) : takeInterrupt e (intVec b) m = instr (plain .h) e 0 0 .nothing (fun _ _ _ => .exc ⟨intVec b, 0, 0, 0⟩)
      (takePending e a.comp (intVec b) (running e m)) := by
  obtain ⟨l, hl, hla⟩ := leader_running h
  obtain ⟨-, -, htsb, hclean, htag⟩ := id hc
  have hent := enterThrough_ok a (⟨intVec b, 0, 0, 0⟩ : Exc).info a.tsbr htsb hclean htag
  have hr := ready_takePending h a.comp hb
  have hcn := canEnter_takePending hc a.comp hb
  obtain ⟨hfx, hlanes⟩ := entryFx_takePending m e a ⟨intVec b, 0, 0, 0⟩ a.comp hb
  have ho := laneOut_ready hr (plain .h) 0 0 (fun _ _ _ => .exc ⟨intVec b, 0, 0, 0⟩)
    ⟨takePending e a.comp (intVec b) (running e m), e, []⟩ (decodeCheck_outside .h false 0 0 a rfl h.outside)
  unfold takeInterrupt
  dsimp only
  rw [List.map_congr_left (g := fun r => (r, entryFx m e a ⟨intVec b, 0, 0, 0⟩)) fun r hlane => ?_, hl]
  · show commitFx e _ (takePending e l.arch.comp (intVec b) (running e m)) = _
    rw [hla, instr_entry hr hcn ho, commitFx, ← hfx, ← hlanes, voteFx_const hr.empty]
    exact carryOut_entry hr hcn _
  · obtain ⟨harch, hsb, -, -⟩ := h.quiet r hlane
    have hctx : Ctx.of m e r = ⟨m, e, []⟩ := congrArg (Ctx.mk m e) hsb
    have harch' : (rep m (tileOf e) r).arch = a := harch
    rw [harch', hctx, asyncInfo_int m e hb, hent]
    rfl

/-- Of an entry only the engines as it finds them may differ (R167). -/
theorem Entered.ofEngines {s t : State} {e : BitVec 7} {a : Arch} {k : Exc} {g : Tbl 7 Engine}
    (h : Entered { s with m := { s.m with engines := g } } e a k t) : Entered s e a k t where
  lanes := h.lanes
  caps := h.caps
  words := h.words
  pending := h.pending
  cause := h.cause
  others := h.others
  rest := h.rest

/-- The state in which interrupt `b` of a compartment is pending no more and engine `e` runs. -/
def intCleared (s : State) (e : BitVec 7) (comp : BitVec 10) (b : Nat) : State := { s with m := { running e s.m with
  ints := s.m.ints.upd comp fun x => x &&& ~~~((1 : BitVec 4) <<< b) } }

/-- AN INTERRUPT THAT IS TAKEN enters its vector, and is pending no more. -/
theorem takeInterrupt_entered {s : State} {e : BitVec 7} {a : Arch} {b : Nat} (h : Ready (running e s.m) e a)
    (hc : canEnter s.m e a) (hb : b < 4) :
    Entered (intCleared s e a.comp b) e a ⟨intVec b, 0, 0, 0⟩ { s with m := takeInterrupt e (intVec b) s.m } := by
  have hr := ready_takePending h a.comp hb
  have hent := entered_of (s := { s with m := takePending e a.comp (intVec b) (running e s.m) }) hr
    (canEnter_takePending hc a.comp hb) (plain .h) 0 0 .nothing _ ⟨intVec b, 0, 0, 0⟩
    (laneOut_ready hr (plain .h) 0 0 (fun _ _ _ => .exc ⟨intVec b, 0, 0, 0⟩) _ (decodeCheck_outside .h false 0 0 a rfl h.outside))
  rw [takeInterrupt_eq h hc hb]
  rw [takePending_int e a.comp hb] at hent ⊢
  exact hent.ofEngines

/-! ### The two events (R177, R179) -/

/-- An engine that runs takes the lowest of the pending interrupts at a boundary (R177). -/
theorem interruptEntry_takes {m : Mach} {e : BitVec 7} {a : Arch} {x : Exchange} {v : BitVec 6} (h : Ready (running e m) e a)
    (hact : (m.engines.get e).act = .run) (hx : exchangeAt m e id = true) (hs : struck e x m = (true, m))
    (ht : takeable m e false = some v) (hlow : lowerTakes m e v = false) : interruptEntry e x m = takeInterrupt e v m := by
  obtain ⟨-, hstep, -, -⟩ := h.undebugged
  have hstop := stopping_running h
  have hint : interruptible m e = true := by
    have hstep' : (m.dbg.engs.get e).step = false := hstep
    simp only [interruptible, hact, canRun_running h, hstop, hstep', hx]
    rfl
  unfold interruptEntry
  simp only [settle_running h (.inl hact), hint, hs, ht, hlow, Bool.not_true, Bool.false_eq_true, if_false, ite_self]

/-- A WFI ends as an interrupt becomes pending, which IB = 0 lets it take at once (R179). -/
theorem wfiWake_ends {m : Mach} {e : BitVec 7} {a : Arch} {x : Exchange} {v : BitVec 6} (h : Ready (running e m) e a)
    (hact : (m.engines.get e).act = .wfi) (hs : struck e x m = (true, m)) (ht : takeable m e true = some v)
    (hv : v ≠ 0x10#6) (hlow : lowerTakes m e v = false) :
    wfiWake e x m = if a.ib then running e m else takeInterrupt e v m := by
  obtain ⟨l, hl, rfl⟩ := leader_running h
  have hstop := stopping_running h
  have hne : (v != 0x10#6) = true := bne_iff_ne.mpr hv
  unfold wfiWake
  simp only [settle_running h (.inr hact), hact, canRun_running h, hstop, hs, ite_self, hl, ht, hlow, hne]
  cases l.arch.ib <;> rfl

/-- Settles O24: the lowest of the pending interrupts is the one that the engine could take (`takeable_lowest`), no lower engine
takes it (`lowerTakes_false`), and taking it is an entry (`takeInterrupt_entered`). -/
theorem interruptsAreTaken : Obligations.InterruptsAreTaken := by
  unfold Obligations.InterruptsAreTaken
  intro s e a x h hc hnotices hbudget hspan hparity hagr hruns hother run cleared first vec enters
  have hrun : Ready (running e s.m) e a := h
  have hs : struck e x s.m = (true, s.m) := struck_none hparity fun hcode => (hagr hcode).1
  have hslot : ((s.m.engines.get e).cur.isSome || (s.m.engines.get e).keeper &&
      decide (s.m.mode.mode = .wake ∨ s.m.mode.mode = .hardpan)) = true := by
    have hcan := canRun_running hrun
    simp only [canRun, Bool.and_eq_true, Bool.or_eq_true] at hcan
    obtain ⟨-, hcur | hkeep⟩ := hcan
    · rw [hcur, Bool.true_or]
    · rcases hruns with hcur | hmode
      · rw [Option.isSome_iff_ne_none.mpr hcur, Bool.true_or]
      · rw [hkeep, decide_eq_true hmode, Bool.true_and, Bool.or_true]
  have honly : OnlyInts s.m e := ⟨hnotices, hbudget, hspan, hslot⟩
  have hfree : a.exl = false ∧ a.dfl = false := ⟨hc.1, hc.2.1⟩
  have hlead : (leader s.m e).map (·.arch.comp) = some a.comp := by
    obtain ⟨l, hl, rfl⟩ := leader_running hrun
    rw [hl]
    rfl
  have hlow := lowerTakes_false hlead hother
  have hexch : exchangeAt s.m e id = true := by
    unfold exchangeAt
    split
    · next hcode =>
      obtain ⟨-, hcount⟩ := hagr hcode
      cases hcur : (s.m.engines.get e).cur with
      | none => rfl
      | some r => simp [hcount r hcur]
    · rfl
  refine ⟨fun b hb hfirst hib => ⟨fun hact => ?_, fun hact => ?_⟩, fun b hb hfirst hib hact => ?_⟩
  · have ht := takeable_lowest (ignoreIb := false) hrun hfree (by rw [hib]; rfl) honly hb hfirst
    exact ⟨_, congrArg (leaves s) (interruptEntry_takes hrun hact hexch hs ht (hlow _)), takeInterrupt_entered hrun hc hb⟩
  · have ht := takeable_lowest (ignoreIb := true) hrun hfree (by rw [hib]; rfl) honly hb hfirst
    have hwake := wfiWake_ends hrun hact hs ht (intVec_toNat hb).2.2 (hlow _)
    rw [hib, if_neg Bool.false_ne_true] at hwake
    exact ⟨_, congrArg (leaves s) hwake, takeInterrupt_entered hrun hc hb⟩
  · have ht := takeable_lowest (ignoreIb := true) hrun hfree (by rw [hib]; rfl) honly hb hfirst
    have hwake := wfiWake_ends hrun hact hs ht (intVec_toNat hb).2.2 (hlow _)
    rw [hib, if_pos rfl] at hwake
    exact congrArg (leaves s) hwake

end Sys2Proof.Machine
end

section
/-! PROOFS. The registers of a tile: a commit of a staged grouping, and the tile's status (O38, R185, R205). -/

namespace Sys2Proof.Machine

open Sys2Proof

set_option Elab.async false -- one proof at a time: the threads of many at once exceed the memory of a check

/-! ### Changes of one tile -/

theorem modTile_modTile (t : BitVec 5) (f g : Tile → Tile) (m : Mach) :
    modTile t g (modTile t f m) = modTile t (fun x => g (f x)) m := by
  simp only [modTile, Tbl.upd_upd]

theorem modRep_modRep (t : BitVec 5) (r : BitVec 2) (f g : Replica → Replica) (m : Mach) :
    modRep t r g (modRep t r f m) = modRep t r (fun x => g (f x)) m := by
  simp only [modRep, modTile_modTile, Tbl.upd_upd]

/-! ### A commit (R185) -/

/-- The tile with the code and the sweep period of a word staged in its TILE_GROUP (R205). -/
def Tile.staged (v : W32) (x : Tile) : Tile :=
  let sw : Byte := (v >>> 8).setWidth 8
  { x with code := v.setWidth 3, sweep := if sw = 0 then x.sweep else sw, werr := x.werr || decide (sw = 0) }

theorem isVoted_setWidth (v : W32) : isVoted (v.setWidth 3) = decide (v.toNat % 8 = 0 ∨ v.toNat % 8 = 4) := by
  simp only [isVoted, ← BitVec.toNat_inj, BitVec.toNat_setWidth, BitVec.toNat_ofNat, Nat.reducePow, Nat.reduceMod, Bool.decide_or]

/-- How a commit is judged once its code is staged: by R185's causes in their order. -/
theorem commitReject_staged (v : W32) (t : BitVec 5) (m : Mach) :
    let x := m.tiles.get t
    commitReject (modTile t (Tile.staged v) m) t false = if 5 ≤ v.toNat % 8 then 1#3
      else if t = 0 ∧ isVoted (v.setWidth 3) = false then 2#3
      else if admitted x < (if isVoted (v.setWidth 3) then 3 else 4) then 3#3
      else if m.mode.mode ≠ .commission ∧ m.mode.mode ≠ .operate then 4#3
      else if x.pend = true then 5#3 else 0#3 := by
  have hcode : (v.setWidth 3).toNat = v.toNat % 8 := BitVec.toNat_setWidth ..
  simp only [commitReject, modTile_tiles, Tbl.get_upd_same, modTile_mode, Tile.staged, hcode, Bool.not_false, Bool.and_true]
  rfl

/-- The keeper's commit stages the word and then leaves its code, 0 for a request that is taken (R185). -/
theorem tileGroupWrite_commit {w : Who} (hk : byKeeper w) (t : BitVec 5) (v : W32) (m : Mach) :
    let k := commitReject (modTile t (Tile.staged v) m) t false
    tileGroupWrite w t (v ||| 8#32) m
      = (true, modTile t (fun y => { y.staged v with rej := k, pend := y.pend || decide (k = 0) }) m) := by
  obtain ⟨hwho, -⟩ := whoKeeper_of_byKeeper hk
  have hcode : (fld (v ||| 8#32) 0 3 : BitVec 3) = v.setWidth 3 := by
    rw [fld_or, show (fld 8#32 0 3 : BitVec 3) = 0#3 from rfl, BitVec.or_zero, fld_zero]
  have hsweep : (fld (v ||| 8#32) 8 8 : Byte) = (v >>> 8).setWidth 8 := by
    rw [fld_or, show (fld 8#32 8 8 : Byte) = 0#8 from rfl, BitVec.or_zero, fld_eq]
  have hcommit : bit (v ||| 8#32) 3 = true := by
    rw [bit, BitVec.getLsbD_or, show (8#32).getLsbD 3 = true from rfl, Bool.or_true]
  have hstage : modTile t (fun y => { y with
      code := (v.setWidth 3), sweep := if ((v >>> 8).setWidth 8 : Byte) = 0#8 then y.sweep else (v >>> 8).setWidth 8
      werr := y.werr || decide (((v >>> 8).setWidth 8 : Byte) = 0#8) }) m = modTile t (Tile.staged v) m := rfl
  simp only [tileGroupWrite, hwho, hcode, hsweep, hcommit, hstage, Bool.not_true, Bool.false_eq_true, if_false, if_true,
    modTile_modTile]
  rfl

section
variable {s : State} {w : Who} (hm : s.m.live)
include hm

theorem exec_tileGroupCommit (t : BitVec 5) (v : W32) : exec (.tileGroupCommit w t v) s
    = leaves s (orNotice w (tileAddr t) (tileGroupWrite w t (v ||| 8#32) s.m)) :=
  congrArg (leaves s) (if_pos (decide_eq_true hm.1))

theorem exec_tileGroupCommit_keeper (hk : byKeeper w) (t : BitVec 5) (v : W32) :
    let k := commitReject (modTile t (Tile.staged v) s.m) t false
    exec (.tileGroupCommit w t v) s
      = leaves s (modTile t (fun y => { y.staged v with rej := k, pend := y.pend || decide (k = 0) }) s.m) := by
  rw [exec_tileGroupCommit hm, tileGroupWrite_commit hk]
  rfl

omit hm in
theorem notice_tiles (e : BitVec 7) (y : SbEntry) (cause : BitVec 4) (m : Mach) : (notice e y cause m).tiles = m.tiles := by
  unfold notice
  dsimp only
  repeat' split
  all_goals simp

/-- Another replica's commit is dropped with a notice (R4, R205). -/
theorem exec_tileGroupCommit_foreign (hr : w.master = .replica) (hk : ¬(w.comp = 0 ∧ w.ring = 0)) (hroom : s.m.hasRoom)
    (t : BitVec 5) (v : W32) : ∃ u f, exec (.tileGroupCommit w t v) s = .next u ∧ u.m.tiles = s.m.tiles ∧
      u.m.faults.queue = s.m.faults.queue ++ [f] ∧ f.code = 0x0205 := by
  let y : SbEntry := ⟨tileAddr t, 0#128, 0#16, false, false, false, false, none, w.comp, w.ring, w.pc, w.tick, w.pos, false⟩
  have hdrop : orNotice w (tileAddr t) (tileGroupWrite w t (v ||| 8#32) s.m) = notice w.eng y 3#4 s.m := by
    simp only [tileGroupWrite, whoKeeper_of_not hk, orNotice, hr, Bool.not_false, Bool.false_eq_true, if_false, if_true]
    rfl
  obtain ⟨-, -, -, -, f, hf, hcode⟩ := notice_logs w.eng y hroom
  exact ⟨_, f, (exec_tileGroupCommit hm t v).trans (congrArg (leaves s) hdrop), notice_tiles .., hf, hcode⟩

/-! ### TILE_STAT (R205) -/

theorem exec_tileStatRead (hd : w.master ≠ .debug) (t : BitVec 5) : exec (.tileStatRead w t) s
    = leaves s ((modTile t (fun y => { y with mism := 0, drop := 0 }) s.m).read (tileStatWord (s.m.tiles.get t))) := by
  have hp : powered s.m = true := decide_eq_true hm.1
  exact congrArg (leaves s) ((if_neg (by rw [hp]; decide)).trans (if_neg hd))

end

theorem tileStatWord_bits (x : Tile) : (tileStatWord x).getLsbD 3 = x.pend ∧ (tileStatWord x).getLsbD 7 = x.degraded ∧
    (tileStatWord x).getLsbD 8 = x.werr := by
  simp (disch := omega) only [tileStatWord, BitVec.getLsbD_or, getLsbD_at_, getLsbD_put_of_lt, getLsbD_put_of_ge]
  simp

theorem tileStatWord_fields (x : Tile) : fld (tileStatWord x) 0 3 = x.live ∧ fld (tileStatWord x) 4 3 = x.rej ∧
    fld (tileStatWord x) 16 8 = x.mism ∧ fld (tileStatWord x) 24 8 = x.drop := by
  simp (disch := omega) only [tileStatWord, fld_or, fld_at_apart, fld_put_apart, fld_put_same, BitVec.zero_or, BitVec.or_zero,
    and_self]

/-- TILE_STAT's fields as parts of its value. -/
theorem tileStatWord_toNat (x : Tile) : let d := (tileStatWord x).toNat
    d % 2 ^ 3 = x.live.toNat ∧ d / 2 ^ 4 % 2 ^ 3 = x.rej.toNat ∧ d / 2 ^ 16 % 2 ^ 8 = x.mism.toNat ∧ d / 2 ^ 24 = x.drop.toNat := by
  have hlt := (tileStatWord x).isLt
  obtain ⟨hlive, hrej, hmism, hdrop⟩ := tileStatWord_fields x
  simp only [← BitVec.toNat_inj, toNat_fld] at hlive hrej hmism hdrop
  refine ⟨?_, hrej, hmism, ?_⟩ <;> omega

end Sys2Proof.Machine
end

section
/-! PROOFS. What a tile keeps when its replicas change, and the faults that the collector takes (O38, R182, R199, R201, R439). -/

namespace Sys2Proof.Machine

open Sys2Proof

set_option Elab.async false -- one proof at a time: the threads of many at once exceed the memory of a check

/-! ### The lanes of a voted group (R183, R199) -/

theorem inLane_congr {x y : Tile} (h : ∀ r, (y.reps.get r).state = (x.reps.get r).state ∧ (y.reps.get r).lane = (x.reps.get r).lane)
    (l : BitVec 2) : inLane y l = inLane x l := by
  simp only [inLane, fun r => (h r).1, fun r => (h r).2]

theorem Tile.degraded_congr {x y : Tile} (hl : y.live = x.live)
    (h : ∀ r, (y.reps.get r).state = (x.reps.get r).state ∧ (y.reps.get r).lane = (x.reps.get r).lane) :
    y.degraded = x.degraded := by
  simp only [Tile.degraded, hl, inLane_congr h]

/-- A replica that stops being active leaves its lane. -/
theorem inLane_fenced {x y : Tile} {c : BitVec 2} (hc : (y.reps.get c).state ≠ .active)
    (h : ∀ r, r ≠ c → y.reps.get r = x.reps.get r) (l : BitVec 2) : inLane y l = (inLane x l).filter (· ≠ c) := by
  rw [inLane, inLane, List.filter_filter]
  refine List.filter_congr fun r _ => ?_
  by_cases hr : r = c
  · simp [hr, hc]
  · simp [hr, h r hr]

/-- Three lanes are those of a voted group. -/
theorem isVoted_of_three {m : Mach} {e : BitVec 7} (h : (lanesOf m e).length = 3) : isVoted (liveCode m e) = true := by
  cases hv : isVoted (liveCode m e) with
  | true => rfl
  | false =>
    have hl : lanesOf m e = if isPair (liveCode m e) (posOf e) then [posOf e, posOf e + 1#2]
        else if validPos (liveCode m e) (posOf e) then [posOf e] else [] := if_neg (by rw [← liveCode, hv]; decide)
    rw [hl] at h
    revert h
    repeat' split
    all_goals simp

/-- A voted group goes on with the lanes that remain. -/
theorem lanesOf_fenced {m n : Mach} {e : BitVec 7} {c : BitVec 2} (hv : isVoted (liveCode m e) = true)
    (hl : liveCode n e = liveCode m e) (hc : (rep n (tileOf e) c).state ≠ .active)
    (h : ∀ r, r ≠ c → rep n (tileOf e) r = rep m (tileOf e) r) : lanesOf n e = (lanesOf m e).filter (· ≠ c) := by
  rw [liveCode] at hv hl
  rw [liveCode] at hl
  simp only [lanesOf, hl, hv, if_true, inLane_fenced hc h, apply_ite (List.filter (· ≠ c)), List.filter_append, List.filter_nil]

/-! ### The collector's queue (R439) -/

theorem queue_beginHardpan (code : BitVec 16) (m : Mach) : (beginHardpan code m).faults.queue = m.faults.queue := by
  unfold beginHardpan
  split <;> rfl

/-- A fault is taken into the queue where that has room, whatever its reaction. -/
theorem queue_reportC (code : BitVec 16) (arg : W64) (cont : List (BitVec 224)) (m : Mach) :
    ∃ f : FaultEvent, f.code = code ∧ (reportC code arg cont m).faults.queue
      = if m.faults.queue.length < 64 then m.faults.queue ++ [f] else m.faults.queue := by
  have hq : ∀ n : Mach, n.faults.queue = m.faults.queue → ∃ f : FaultEvent, f.code = code ∧
      (queueFault code arg cont n).faults.queue
        = if m.faults.queue.length < 64 then m.faults.queue ++ [f] else m.faults.queue := fun n hn => by
    unfold queueFault
    rw [hn]
    split
    · exact ⟨_, rfl, rfl⟩
    · exact ⟨⟨code, 0, 0, 0, []⟩, rfl, hn⟩
  unfold reportC
  split
  · exact hq _ (queue_beginHardpan code m)
  · exact hq m rfl

theorem reportC_logs (code : BitVec 16) (arg : W64) (cont : List (BitVec 224)) {m : Mach} (h : m.faults.queue.length < 64) :
    ∃ f ∈ (reportC code arg cont m).faults.queue, f.code = code := by
  obtain ⟨f, hcode, hq⟩ := queue_reportC code arg cont m
  exact ⟨f, by rw [hq, if_pos h]; exact List.mem_append_right _ (.head _), hcode⟩

/-- A later fault takes none out. -/
theorem reportC_keeps (code : BitVec 16) (arg : W64) (cont : List (BitVec 224)) {m : Mach} {f : FaultEvent}
    (h : f ∈ m.faults.queue) : f ∈ (reportC code arg cont m).faults.queue := by
  obtain ⟨g, -, hq⟩ := queue_reportC code arg cont m
  rw [hq]
  split
  · exact List.mem_append_left _ h
  · exact h

/-! ### The report of a missing grog (R201) -/

/-- It is told once, and of a degraded engine only. -/
theorem noGrogReport_told {e : BitVec 7} {m : Mach}
    (h : (m.tiles.get (tileOf e)).degraded = false ∨ (m.tiles.get (tileOf e)).noGrog = true) : noGrogReport e m = m := by
  refine if_neg ?_
  rcases h with h | h <;> simp [h]

/-- It logs a fault, and marks the tile. -/
theorem noGrogReport_cases (e : BitVec 7) (m : Mach) : noGrogReport e m = m ∨ noGrogReport e m
    = report 0x0306 (ecOf m e) (modTile (tileOf e) (fun x => { x with noGrog := true }) m) := by
  unfold noGrogReport
  dsimp only
  split
  · exact .inr rfl
  · exact .inl rfl

/-- A tile that is marked holds the replicas that it held. -/
theorem tile_noGrogReport (e : BitVec 7) (m : Mach) (t : BitVec 5) :
    ((noGrogReport e m).tiles.get t).live = (m.tiles.get t).live ∧ ∀ r, rep (noGrogReport e m) t r = rep m t r := by
  rcases noGrogReport_cases e m with h | h
  · rw [h]
    exact ⟨rfl, fun _ => rfl⟩
  · simp only [h, rep, report_tiles, modTile_tiles, Tbl.get_upd]
    split
    · next ht => exact ht ▸ ⟨rfl, fun _ => rfl⟩
    · exact ⟨rfl, fun _ => rfl⟩

theorem noGrogReport_engines (e : BitVec 7) (m : Mach) : (noGrogReport e m).engines = m.engines := by
  rcases noGrogReport_cases e m with h | h <;> simp [h]

theorem noGrogReport_keeps {e : BitVec 7} {m : Mach} {f : FaultEvent} (h : f ∈ m.faults.queue) :
    f ∈ (noGrogReport e m).faults.queue := by
  rcases noGrogReport_cases e m with hn | hn <;> rw [hn]
  · exact h
  · exact reportC_keeps _ _ _ h

end Sys2Proof.Machine
end

section
/-! PROOFS. The end of a replica's self-test (O38, R198, R202 to R204). -/

namespace Sys2Proof.Machine

open Sys2Proof

set_option Elab.async false -- one proof at a time: the threads of many at once exceed the memory of a check

/-- The engine by which a tile's own faults are told stands in that tile. -/
theorem tileOf_first (t : BitVec 5) : tileOf (put 7 t 2) = t := by
  revert t
  decide

/-- A change of a replica that keeps its state and lane gives no cause to report a missing grog. -/
theorem noGrogReport_modRep {m : Mach} {t : BitVec 5} {r : BitVec 2} {f : Replica → Replica}
    (hf : ∀ x, (f x).state = x.state ∧ (f x).lane = x.lane)
    (h : (m.tiles.get t).degraded = false ∨ (m.tiles.get t).noGrog = true) :
    noGrogReport (put 7 t 2) (modRep t r f m) = modRep t r f m := by
  have hdeg : ((modRep t r f m).tiles.get t).degraded = (m.tiles.get t).degraded := by
    rw [modRep_tiles, Tbl.get_upd_same]
    refine Tile.degraded_congr rfl fun r' => ?_
    rw [Tbl.get_upd]
    split
    · next he => exact he ▸ hf _
    · exact ⟨rfl, rfl⟩
  have hmark : ((modRep t r f m).tiles.get t).noGrog = (m.tiles.get t).noGrog := by rw [modRep_tiles, Tbl.get_upd_same]
  exact noGrogReport_told (by rwa [tileOf_first, hdeg, hmark])

/-! ### A pass by the replica's state and its counts (R202 to R204) -/

section
variable {m : Mach} {t : BitVec 5} {r : BitVec 2} (hb : (rep m t r).bist = true)
include hb

theorem bistEnd_fenced_clean (hs : (rep m t r).state = .fenced) (hp : (rep m t r).pass ≠ 2#2) : bistEnd t r true m
    = noGrogReport (put 7 t 2) (modRep t r (fun x => { x with bist := false, pass := x.pass + 1 }) m) := by
  simp [bistEnd, hb, hs, hp, modRep_modRep]

theorem bistEnd_fenced_third (hs : (rep m t r).state = .fenced) (hp : (rep m t r).pass = 2#2) : bistEnd t r true m
    = noGrogReport (put 7 t 2) (leftFenced t r 1 (modTile t (fun y => { y with noGrog := false }) (modRep t r (fun x => { x with
        bist := false, state := .grog, pass := 0#2, bistTick := m.tick.count + 500 }) m))) := by
  simp [bistEnd, hb, hs, hp, modRep_modRep]

theorem bistEnd_fenced_failed (hs : (rep m t r).state = .fenced) (hf : (rep m t r).fail ≠ 2#2) : bistEnd t r false m
    = noGrogReport (put 7 t 2) (modRep t r (fun x => { x with bist := false, pass := 0, fail := x.fail + 1 }) m) := by
  simp [bistEnd, hb, hs, hf, modRep_modRep]

theorem bistEnd_fenced_retires (hs : (rep m t r).state = .fenced) (hf : (rep m t r).fail = 2#2) : bistEnd t r false m
    = noGrogReport (put 7 t 2) (leftFenced t r 3 (retire t r
        (modRep t r (fun x => { x with bist := false, pass := 0, fail := x.fail + 1 }) m))) := by
  simp [bistEnd, hb, hs, hf, modRep_modRep]

theorem bistEnd_grog_clean (hs : (rep m t r).state = .grog) : bistEnd t r true m
    = noGrogReport (put 7 t 2) (modRep t r (fun x => { x with bist := false }) m) := by
  simp [bistEnd, hb, hs]

theorem bistEnd_grog_failed (hs : (rep m t r).state = .grog) (hf : (rep m t r).fail ≠ 2#2) : bistEnd t r false m
    = noGrogReport (put 7 t 2) (modRep t r (fun x => { x with
        bist := false, fail := x.fail + 1, state := .fenced, pass := 0, drops := 0, bistTick := x.bistTick - 499 }) m) := by
  simp [bistEnd, hb, hs, hf, modRep_modRep]

theorem bistEnd_grog_retires (hs : (rep m t r).state = .grog) (hf : (rep m t r).fail = 2#2) : bistEnd t r false m
    = noGrogReport (put 7 t 2) (retire t r (modRep t r (fun x => { x with bist := false, fail := x.fail + 1 }) m)) := by
  simp [bistEnd, hb, hs, hf, modRep_modRep]

end

/-! ### The faults that a move logs (R198, R202) -/

/-- A replica stands in state `k` with no pass counted or in progress, and a fault `code` waits in the collector. -/
structure Mach.Moved (m : Mach) (t : BitVec 5) (r : BitVec 2) (k : RepState) (code : BitVec 16) : Prop where
  state : (rep m t r).state = k
  pass : (rep m t r).pass = 0#2
  bist : (rep m t r).bist = false
  told : ∃ f ∈ m.faults.queue, f.code = code

section
variable {m : Mach} {t : BitVec 5} {r : BitVec 2} {k : RepState} {code : BitVec 16}

theorem Mach.Moved.noGrogReport (h : m.Moved t r k code) (e : BitVec 7) : (noGrogReport e m).Moved t r k code := by
  obtain ⟨-, hrep⟩ := tile_noGrogReport e m t
  obtain ⟨f, hf, hcode⟩ := h.told
  exact ⟨(hrep r).symm ▸ h.state, (hrep r).symm ▸ h.pass, (hrep r).symm ▸ h.bist, f, noGrogReport_keeps hf, hcode⟩

theorem rep_leftFenced (t : BitVec 5) (r c : BitVec 2) (m : Mach) :
    rep (leftFenced t r c m) t r = { rep m t r with drops := 0 } := by
  simp only [leftFenced, rep, report_tiles, modRep_tiles, Tbl.get_upd_same]

theorem Mach.Moved.leftFenced (h : m.Moved t r k code) (c : BitVec 2) : (leftFenced t r c m).Moved t r k code := by
  have hrep := rep_leftFenced t r c m
  obtain ⟨f, hf, hcode⟩ := h.told
  exact ⟨by rw [hrep, h.state], by rw [hrep, h.pass], by rw [hrep, h.bist], f, reportC_keeps _ _ _ hf, hcode⟩

/-- A replica that leaves FENCED is told with the count of what its gate dropped (R198). -/
theorem leftFenced_moved (c : BitVec 2) (hroom : m.faults.queue.length < 64) (hs : (rep m t r).state = k)
    (hp : (rep m t r).pass = 0#2) (hb : (rep m t r).bist = false) : (leftFenced t r c m).Moved t r k 0x030C := by
  have hrep := rep_leftFenced t r c m
  exact ⟨by rw [hrep, hs], by rw [hrep, hp], by rw [hrep, hb], reportC_logs _ _ _ hroom⟩

theorem retire_moved (hroom : m.faults.queue.length < 64) (hb : (rep m t r).bist = false) :
    (retire t r m).Moved t r .retired 0x0307 := by
  have hrep : rep (retire t r m) t r = { rep m t r with state := .retired, pass := 0#2 } := by
    simp only [retire, rep, report_tiles, modRep_tiles, Tbl.get_upd_same]
  exact ⟨by rw [hrep], by rw [hrep], by rw [hrep, hb], reportC_logs _ _ _ hroom⟩

/-! ### The moves (R202, R203) -/

/-- The third clean pass of a fenced replica makes it the grog. -/
theorem bistEnd_graduates (hb : (rep m t r).bist = true) (hroom : m.faults.queue.length < 64) (hs : (rep m t r).state = .fenced)
    (hp : (rep m t r).pass = 2#2) : (bistEnd t r true m).Moved t r .grog 0x030C := by
  rw [bistEnd_fenced_third hb hs hp]
  refine (leftFenced_moved 1 (by exact hroom) ?_ ?_ ?_).noGrogReport _
  all_goals simp only [rep, modTile_tiles, modRep_tiles, Tbl.get_upd_same]

/-- The third failure retires a replica, fenced or grog. -/
theorem bistEnd_retires (hb : (rep m t r).bist = true) (hroom : m.faults.queue.length < 64)
    (hs : (rep m t r).state = .fenced ∨ (rep m t r).state = .grog) (hf : (rep m t r).fail = 2#2) :
    (bistEnd t r false m).Moved t r .retired 0x0307 := by
  rcases hs with hs | hs
  · rw [bistEnd_fenced_retires hb hs hf]
    exact ((retire_moved (by exact hroom) (by rw [rep_modRep, if_pos rfl])).leftFenced 3).noGrogReport _
  · rw [bistEnd_grog_retires hb hs hf]
    exact (retire_moved (by exact hroom) (by rw [rep_modRep, if_pos rfl])).noGrogReport _

/-- An earlier failure fences the grog. -/
theorem bistEnd_fences (hb : (rep m t r).bist = true) (hs : (rep m t r).state = .grog) (hf : (rep m t r).fail ≠ 2#2) :
    let y := rep (bistEnd t r false m) t r
    y.state = .fenced ∧ y.fail = (rep m t r).fail + 1 ∧ y.pass = 0 := by
  obtain ⟨-, hrep⟩ := tile_noGrogReport (put 7 t 2) (modRep t r (fun x => { x with
    bist := false, fail := x.fail + 1, state := .fenced, pass := 0, drops := 0, bistTick := x.bistTick - 499 }) m) t
  have hy := (hrep r).trans ((rep_modRep ..).trans (if_pos rfl))
  rw [← bistEnd_grog_failed hb hs hf] at hy
  intro y
  exact ⟨congrArg Replica.state hy, congrArg Replica.fail hy, congrArg Replica.pass hy⟩

/-- A pass that keeps the replica's state changes its counts and nothing else, where no missing grog is to be told. -/
theorem exec_bistEnd_counts {s : State} {clean : Bool} {f : Replica → Replica}
    (he : bistEnd t r clean s.m = noGrogReport (put 7 t 2) (modRep t r f s.m))
    (hf : ∀ x, (f x).state = x.state ∧ (f x).lane = x.lane)
    (h : (s.m.tiles.get t).degraded = false ∨ (s.m.tiles.get t).noGrog = true) :
    exec (.grogBistPassEnd t r clean) s = leaves s (modRep t r (fun _ => f (rep s.m t r)) s.m) := by
  refine congrArg (leaves s) ?_
  rw [he, noGrogReport_modRep hf h]
  exact modRep_congr _ _ _ _ _ rfl

end

end Sys2Proof.Machine
end

section
/-! PROOFS. The state sweep (O38, R194, R196, R198). -/

namespace Sys2Proof.Machine

open Sys2Proof

set_option Elab.async false -- one proof at a time: the threads of many at once exceed the memory of a check

/-- Nothing is due on an engine at a boundary whose lanes, each with its own registers, wait for nothing: what a sweep finds. -/
theorem settle_undue {m : Mach} {e : BitVec 7} (hact : (m.engines.get e).act = .run) (hforced : forcedOwed m e = false)
    (hq : ∀ r ∈ lanesOf m e, let x := rep m (tileOf e) r; x.sb = [] ∧ x.ldue = none ∧ x.repEnd = false ∧ x.arch.lop = 0) :
    settle e m = m := by
  have hlanes : mapLanes e settleLane m = m := mapLanes_id _ _ _ fun r hr => by
    obtain ⟨hsb, hdue, hend, hlop⟩ := hq r hr
    exact settleLane_quiet ⟨rfl, hsb, hdue, hend⟩ (.inl hlop)
  have hend : (leader m e).any Replica.repEnd = false := by
    unfold leader
    cases hl : lanesOf m e with
    | nil => rfl
    | cons r l =>
      obtain ⟨-, -, hend, -⟩ := hq r (hl ▸ .head _)
      exact hend
  simp [settle, settleLanes, hact, hlanes, hend, hforced]

/-! ### What a sweep finds (R194) -/

section
variable {m : Mach} {e : BitVec 7}

/-- A sweep is not due, or it reacts to the vote over the lanes' states; it is due for two lanes or more, in a tick of its
period, at an exchange point where the grouping asks for one. -/
theorem sweep_reacts (hset : settle e m = m) (hclk : m.tick.edgeAt + m.tick.period.toNat * 512 / 10 ≤ m.clk) :
    let n := pumped e (react e (vote (laneStates m e)) ⟨false, true, misMoment m e, [], none⟩ m).2
    (sweep e m = m ∨ sweep e m = n) ∧
    (canRun m e = true → 2 ≤ (lanesOf m e).length → m.tick.count.toNat % (m.tiles.get (tileOf e)).sweep.toNat = 0 →
      exchangeAt m e id = true → sweep e m = n) := by
  have hpast : advanceTo (m.tick.edgeAt + usClk m.tick.period.toNat / 2) m = m :=
    advanceTo_past (by unfold usClk; omega)
  unfold sweep
  dsimp only
  rw [hpast, hset]
  refine ⟨ite_eq_or_eq .., fun hrun htwo htick hexch => if_neg ?_⟩
  simp only [canRun, Bool.and_eq_true, Bool.not_eq_true'] at hrun
  obtain ⟨⟨⟨⟨hvalid, hhalt⟩, -⟩, -⟩, -⟩ := hrun
  simp [hvalid, hhalt, htick, hexch, not_lt.mpr htwo]

/-- Lanes that agree go on as they are. -/
theorem sweep_agrees (hact : (m.engines.get e).act = .run) (hset : settle e m = m)
    (hclk : m.tick.edgeAt + m.tick.period.toNat * 512 / 10 ≤ m.clk) {a : Arch}
    (h : ∀ r ∈ lanesOf m e, (rep m (tileOf e) r).arch = a) : sweep e m = m := by
  have hvote : vote (laneStates m e) = .agree := vote_const _ a.compared fun x hx => by
    obtain ⟨r, hr, rfl⟩ := List.mem_map.mp hx
    exact congrArg Arch.compared (h r hr)
  obtain ⟨hs | hs, -⟩ := sweep_reacts hset hclk
  · exact hs
  · rw [hs, hvote]
    exact pumped_run (by rw [react, hact]; decide)

/-- The last of three lanes is voted out by the two before it. -/
theorem vote_last {κ : Type} [DecidableEq κ] {a b c : BitVec 2} {x z : κ} (h : x ≠ z) :
    vote [(a, x), (b, x), (c, z)] = .minority c false := by
  simp [vote, h]

/-! ### A lane that is fenced (R196, R198) -/

/-- The module with a mismatch noted and replica `c` fenced (R198, R205); what its buffer held is gone. -/
def Mach.withFenced (m : Mach) (e : BitVec 7) (c : BitVec 2) (repl case : BitVec 4) : Mach :=
  modRep (tileOf e) c (fun x => { x with
    state := .fenced, lane := 0#2, sb := [], prefetch := [], pass := 0#2, drops := 0, bist := false
    bistTick := m.tick.count + 1#64 }) (noteMismatch e repl case m)

theorem rep_withFenced (m : Mach) (e : BitVec 7) (c : BitVec 2) (repl case : BitVec 4) :
    (rep (m.withFenced e c repl case) (tileOf e) c).state = .fenced ∧
      ∀ r, r ≠ c → rep (m.withFenced e c repl case) (tileOf e) r = rep m (tileOf e) r := by
  have hnote (r : BitVec 2) : rep (noteMismatch e repl case m) (tileOf e) r = rep m (tileOf e) r := by
    simp only [noteMismatch, rep, modTile_tiles, Tbl.get_upd_same]
  unfold Mach.withFenced
  exact ⟨by rw [rep_modRep, if_pos rfl], fun r hr => by rw [rep_modRep, if_neg hr, hnote]⟩

theorem liveCode_withFenced (m : Mach) (e : BitVec 7) (c : BitVec 2) (repl case : BitVec 4) :
    liveCode (m.withFenced e c repl case) e = liveCode m e := by
  simp only [liveCode, Mach.withFenced, noteMismatch, modRep_tiles, modTile_tiles, Tbl.get_upd_same]

/-- With an empty buffer nothing is dropped at the gate, and the fault is told. -/
theorem fenceLane_empty {c : BitVec 2} (h : (rep m (tileOf e) c).sb = []) (row case repl : BitVec 4) (copies : List Gran) :
    ∃ arg, fenceLane e c row case repl copies none m
      = noGrogReport e (reportC 0x0301 arg (contOf copies) (m.withFenced e c repl case)) := by
  refine ⟨ecOf (m.withFenced e c repl case) e ||| put 64 row 32 ||| put 64 c 36, ?_⟩
  simp only [fenceLane, h, List.foldl_nil]
  rfl

/-- FENCING with an empty buffer: the lane stops and the others go on, the engine as it was, and the fault is told. -/
theorem fenceLane_leaves {c : BitVec 2} (h : (rep m (tileOf e) c).sb = []) (hv : isVoted (liveCode m e) = true)
    (hroom : m.faults.queue.length < 64) (row case repl : BitVec 4) (copies : List Gran) :
    let n := fenceLane e c row case repl copies none m
    lanesOf n e = (lanesOf m e).filter (· ≠ c) ∧ (rep n (tileOf e) c).state = .fenced ∧
      (∀ r, r ≠ c → rep n (tileOf e) r = rep m (tileOf e) r) ∧ n.engines = m.engines ∧ ∃ f ∈ n.faults.queue, f.code = 0x0301 := by
  intro n
  obtain ⟨arg, hn⟩ := fenceLane_empty h row case repl copies
  obtain ⟨hfenced, hothers⟩ := rep_withFenced m e c repl case
  obtain ⟨hlive, hrep⟩ := tile_noGrogReport e (reportC 0x0301 arg (contOf copies) (m.withFenced e c repl case)) (tileOf e)
  rw [← hn] at hlive hrep
  simp only [reportC_tiles] at hlive
  have hrep' (r : BitVec 2) : rep n (tileOf e) r = rep (m.withFenced e c repl case) (tileOf e) r :=
    (hrep r).trans (by simp only [rep, reportC_tiles])
  have hstate : (rep n (tileOf e) c).state = .fenced := by rw [hrep', hfenced]
  have hrest (r : BitVec 2) (hr : r ≠ c) : rep n (tileOf e) r = rep m (tileOf e) r := by rw [hrep', hothers r hr]
  obtain ⟨f, hf, hcode⟩ := reportC_logs 0x0301 arg (contOf copies) (m := m.withFenced e c repl case) hroom
  refine ⟨lanesOf_fenced hv (hlive.trans (liveCode_withFenced ..)) (by rw [hstate]; decide) hrest, hstate, hrest, ?_, f, ?_, hcode⟩
  · rw [show n = _ from hn, noGrogReport_engines, reportC_engines]
    rfl
  · rw [show n = _ from hn]
    exact noGrogReport_keeps hf

/-- A sweep fences the last of three lanes, when the two before it agree and it differs. -/
theorem sweep_fences (hact : (m.engines.get e).act = .run) (hset : settle e m = m)
    (hclk : m.tick.edgeAt + m.tick.period.toNat * 512 / 10 ≤ m.clk) (hrun : canRun m e = true)
    (htick : m.tick.count.toNat % (m.tiles.get (tileOf e)).sweep.toNat = 0) (hexch : exchangeAt m e id = true)
    {a b c : BitVec 2} (hl : lanesOf m e = [a, b, c]) (hsb : (rep m (tileOf e) c).sb = [])
    (hab : (rep m (tileOf e) a).arch = (rep m (tileOf e) b).arch)
    (hc : (rep m (tileOf e) c).arch.compared ≠ (rep m (tileOf e) a).arch.compared) (hroom : m.faults.queue.length < 64) :
    let n := sweep e m
    lanesOf n e = [a, b] ∧ (rep n (tileOf e) c).state = .fenced ∧ rep n (tileOf e) a = rep m (tileOf e) a ∧
      rep n (tileOf e) b = rep m (tileOf e) b ∧ ∃ f ∈ n.faults.queue, f.code = 0x0301 := by
  have hac : a ≠ c := fun h => hc (h ▸ rfl)
  have hbc : b ≠ c := fun h => hc (by rw [hab, h])
  have hvote : vote (laneStates m e) = .minority c false := by
    rw [laneStates, hl, List.map_cons, List.map_cons, List.map_cons, List.map_nil, ← hab]
    exact vote_last hc.symm
  have hvoted : isVoted (liveCode m e) = true := isVoted_of_three (by rw [hl]; rfl)
  obtain ⟨hlanes, hstate, hrest, heng, hlog⟩ := fenceLane_leaves hsb hvoted hroom 6#4 6#4 (replBits [c]) []
  have hsweep : sweep e m = fenceLane e c 6#4 6#4 (replBits [c]) [] none m := by
    obtain ⟨-, hs⟩ := sweep_reacts hset hclk
    have hreact : (react e (.minority c false) ⟨false, true, misMoment m e, [], none⟩ m).2
      = fenceLane e c 6#4 6#4 (replBits [c]) [] none m := rfl
    rw [hs hrun (by simp [hl]) htick hexch, hvote, hreact]
    exact pumped_run (by rw [heng, hact]; decide)
  intro n
  rw [show n = _ from hsweep]
  refine ⟨?_, hstate, hrest a hac, hrest b hbc, hlog⟩
  rw [hlanes, hl]
  simp [hac, hbc]

end

/-- Settles O38: a commit by R185's causes in their order, a self-test by one equation for each state and count of the replica,
a sweep by the vote over the lanes' states. -/
theorem tilesAndReplicas : Obligations.TilesAndReplicas := by
  unfold Obligations.TilesAndReplicas
  refine ⟨fun s w t v hm => ?_, fun s t r hroom hb htold => ?_, fun s e hbound hforced hq htick hclk => ?_⟩
  · intro x voted sw k
    have hk : commitReject (modTile t (Tile.staged v) s.m) t false = k := by
      rw [commitReject_staged, isVoted_setWidth]
      rfl
    obtain ⟨hpend, hdeg, hwerr⟩ := tileStatWord_bits x
    obtain ⟨hlive, hrej, hmism, hdrop⟩ := tileStatWord_toNat x
    exact ⟨fun hkeep => hk ▸ exec_tileGroupCommit_keeper hm hkeep t v,
      fun hr hn hroom => exec_tileGroupCommit_foreign hm hr hn hroom t v,
      fun hd => ⟨_, exec_tileStatRead hm hd t, hlive, hpend, hrej, hdeg, hwerr, hmism, hdrop⟩⟩
  · intro x ends moves
    obtain ⟨-, hlen⟩ := hroom
    have moved {clean : Bool} {k : RepState} {code : BitVec 16} (h : (bistEnd t r clean s.m).Moved t r k code) :
        moves clean k code := by
      obtain ⟨hstate, hpass, hbist, f, hf, hcode⟩ := h
      exact ⟨_, f, rfl, hstate, hpass, hbist, hf, hcode⟩
    exact ⟨fun hs hp => exec_bistEnd_counts (bistEnd_fenced_clean hb hs hp) (fun _ => ⟨rfl, rfl⟩) htold,
      fun hs hp => moved (bistEnd_graduates hb hlen hs hp),
      fun hs hf => exec_bistEnd_counts (bistEnd_fenced_failed hb hs hf) (fun _ => ⟨rfl, rfl⟩) htold,
      fun hs hf => moved (bistEnd_retires hb hlen hs hf),
      fun hs => exec_bistEnd_counts (bistEnd_grog_clean hb hs) (fun _ => ⟨rfl, rfl⟩) htold,
      fun hs hf => ⟨_, rfl, bistEnd_fences hb hs hf⟩⟩
  · simp only [atBoundary, Bool.and_eq_true, decide_eq_true_eq] at hbound
    obtain ⟨hrun, hact⟩ := hbound
    have hset := settle_undue hact hforced hq
    refine ⟨fun a ha => congrArg (leaves s) (sweep_agrees hact hset hclk ha), fun a b c hl hab hc hroom hcount => ?_⟩
    have hexch : exchangeAt s.m e id = true := by
      unfold exchangeAt
      split
      · next hcode =>
        obtain ⟨r, hr, hpos, hmod⟩ := hcount hcode
        simp [hr, hpos, hmod]
      · rfl
    obtain ⟨hsb, -⟩ := hq c (by rw [hl]; simp)
    obtain ⟨-, hlen⟩ := hroom
    obtain ⟨hlanes, hstate, hrepa, hrepb, f, hf, hcode⟩ :=
      sweep_fences hact hset hclk hrun htick hexch hl hsb hab hc hlen
    exact ⟨_, f, rfl, hlanes, hstate, hrepa, hrepb, hf, hcode⟩

end Sys2Proof.Machine
end

section
/-! PROOFS. The decision at the end of an unwind: the slot goes on, or it has failed and its outputs are withheld (O27, R35,
R215 to R217, R222). -/

namespace Sys2Proof.Machine

open Sys2Proof

set_option Elab.async false -- one proof at a time: the threads of many at once exceed the memory of a check

/-! ### A fault with its argument -/

/-- A fault joins the queue where that has room, whatever its reaction (R439). -/
theorem queue_report {m : Mach} (h : m.faults.queue.length < 64) (code : BitVec 16) (arg : W64) :
    ∃ f : FaultEvent, f.code = code ∧ f.arg = arg ∧ (report code arg m).faults.queue = m.faults.queue ++ [f] := by
  have hq {n : Mach} (hn : n.faults.queue = m.faults.queue) : ∃ f : FaultEvent, f.code = code ∧ f.arg = arg ∧
      (queueFault code arg [] n).faults.queue = m.faults.queue ++ [f] := by
    rw [queueFault, hn, if_pos h]
    exact ⟨_, rfl, rfl, rfl⟩
  rw [report, reportC]
  split
  · exact hq (queue_beginHardpan code m)
  · exact hq rfl

/-! ### A slot that fails -/

@[simp] theorem withhold_mem (e : BitVec 7) (p : BitVec 6) (m : Mach) : (withhold e p m).mem = m.mem := rfl
@[simp] theorem withhold_faults (e : BitVec 7) (p : BitVec 6) (m : Mach) : (withhold e p m).faults = m.faults := rfl
@[simp] theorem clearRun_mem (e : BitVec 7) (m : Mach) : (clearRun e m).mem = m.mem := rfl
@[simp] theorem clearRun_faults (e : BitVec 7) (m : Mach) : (clearRun e m).faults = m.faults := rfl
@[simp] theorem clearRun_marks (e : BitVec 7) (m : Mach) : (clearRun e m).marks = m.marks := rfl

/-- What a member brings to its span touches the compare of spans alone. -/
theorem spanResult_eq (e : BitVec 7) (s : Slot) (x : MemberResult) (m : Mach) :
    spanResult e s x m = { m with spanRuns := (spanResult e s x m).spanRuns } := by
  unfold spanResult
  repeat' split
  all_goals rfl

@[simp] theorem spanResult_mem (e : BitVec 7) (s : Slot) (x : MemberResult) (m : Mach) : (spanResult e s x m).mem = m.mem := by
  rw [spanResult_eq]
@[simp] theorem spanResult_faults (e : BitVec 7) (s : Slot) (x : MemberResult) (m : Mach) :
    (spanResult e s x m).faults = m.faults := by rw [spanResult_eq]
@[simp] theorem spanResult_marks (e : BitVec 7) (s : Slot) (x : MemberResult) (m : Mach) :
    (spanResult e s x m).marks = m.marks := by rw [spanResult_eq]

/-- No mark of the slot stands (R35). -/
theorem marks_withhold (e : BitVec 7) (p : BitVec 6) (m : Mach) (c : BitVec 8) :
    ((withhold e p m).marks.get c).1 ≠ some (e, p) ∧ ((withhold e p m).marks.get c).2 ≠ some (e, p) := by
  have hmine (x : Option (BitVec 7 × BitVec 6)) : (if x = some (e, p) then none else x) ≠ some (e, p) := by
    split
    · exact nofun
    · assumption
  simp only [withhold, Tbl.get, Vector.getElem_map]
  exact ⟨hmine _, hmine _⟩

/-- An abandoned run leaves its engine cleared, memory and the collector as they stood, and none of its marks (R35). -/
theorem abandonRun_leaves {e : BitVec 7} {m : Mach} {r : Run} (h : (m.engines.get e).cur = some r) :
    (abandonRun e m).engines.get e = (m.engines.get e).cleared ∧ (abandonRun e m).mem = m.mem ∧
      (abandonRun e m).faults = m.faults ∧ ∀ c, ((abandonRun e m).marks.get c).1 ≠ some (e, r.slot.pos) ∧
        ((abandonRun e m).marks.get c).2 ≠ some (e, r.slot.pos) := by
  have heng : (abandonRun e m).engines.get e = (m.engines.get e).cleared := by
    rw [(kept_abandonRun h).engines, modEng_engines, Tbl.get_upd_same]
  refine ⟨heng, ?_⟩
  rw [abandonRun, h]
  simp only [clearRun_mem, mapLanes_mem, spanResult_mem, withhold_mem, clearRun_faults, mapLanes_faults, spanResult_faults,
    withhold_faults, clearRun_marks, mapLanes_marks, spanResult_marks, true_and]
  exact marks_withhold e r.slot.pos m

/-- The engine has ended the slot at `pos` as failed and runs no other: its log is empty, memory stands, and no commit mark of
the slot is left (R35, R215). -/
def FailedSlot (e : BitVec 7) (pos : BitVec 6) (m n : Mach) : Prop :=
  (n.engines.get e).cur = none ∧ (n.engines.get e).act = .idle ∧ (n.engines.get e).undo = [] ∧ n.mem = m.mem ∧
    ∀ c, (n.marks.get c).1 ≠ some (e, pos) ∧ (n.marks.get c).2 ≠ some (e, pos)

/-- The last slot of a list fails, and no slot follows it (R29, R35). -/
theorem pumped_failSlot {e : BitVec 7} {m : Mach} {r : Run} (h : (m.engines.get e).cur = some r)
    (ht : (m.engines.get e).todo = []) :
    FailedSlot e r.slot.pos m (pumped e (failSlot e m)) ∧ (pumped e (failSlot e m)).faults = m.faults := by
  obtain ⟨heng, hmem, hfaults, hmarks⟩ := abandonRun_leaves h
  have hfail : failSlot e m = abandonRun e m := startNext_nil (by rw [heng]; exact ht)
  rw [hfail, pumped_run (by rw [heng]; exact nofun)]
  exact ⟨⟨by rw [heng]; rfl, by rw [heng]; rfl, by rw [heng]; rfl, hmem, hmarks⟩, hfaults⟩

/-! ### The decision (R217) -/

section
variable {e : BitVec 7} {m : Mach} {r : Run} {t : Nat}
variable (hact : (m.engines.get e).act = .recovery t) (hcur : (m.engines.get e).cur = some r)
include hact hcur

/-- A first recovery with time enough goes on from a forced bisque where that interrupted the slot. -/
theorem recoveryDecision_goes_on (hfirst : r.recovered = false)
    (htime : t - r.bisqueAt ≤ r.start + r.slot.budget.toNat * 512 / 5 - m.clk)
    (hgood : (m.engines.get e).copy0.bad = false) (hforced : (m.engines.get e).copy0.forced = true) :
    recoveryDecision e false m = modEng e (fun g => { g with act := .run, cur := some { r with recovered := true } }) m := by
  have hleft : t - r.bisqueAt ≤ budgetLeft m e := by rw [budgetLeft, hcur]; exact htime
  have hrecord : bisqueRecord (m.engines.get e) = some (m.engines.get e).copy0 := by simp [bisqueRecord, hgood]
  have hruns : recoveryDecision e false m
      = pumped e (modEng e (fun g => { g with act := .run, cur := g.cur.map fun r => { r with recovered := true } }) m) := by
    simp [recoveryDecision, hact, hcur, hleft, hfirst, hrecord, hforced]
  rw [hruns, pumped_run (by simp)]
  simp only [modEng, Tbl.upd, hcur, Option.map_some]

/-- A second recovery, and one that has lost more time than is left, fails the slot. -/
theorem recoveryDecision_fails (h : r.recovered = true ∨ r.start + r.slot.budget.toNat * 512 / 5 - m.clk < t - r.bisqueAt) :
    recoveryDecision e false m = pumped e (failSlot e m) := by
  have hno : ¬(t - r.bisqueAt ≤ budgetLeft m e ∧ r.recovered = false) := by
    rintro ⟨htime, hfirst⟩
    rcases h with h | h
    · exact absurd (h.symm.trans hfirst) nofun
    · rw [budgetLeft, hcur] at htime
      exact Nat.not_lt.mpr htime h
  simp only [recoveryDecision, hact, hcur, hno, Bool.false_eq_true, if_false]

/-- A difference in the state read back fails the slot, whatever time is left (R216, R218). -/
theorem recoveryDecision_differs : recoveryDecision e true m = pumped e (failSlot e (readBackDiffers e m)) := by
  simp only [recoveryDecision, hact, hcur, if_true]

end

/-- Settles O27: the three branches of the decision, of which two end in `failSlot`. -/
theorem recoveryDecides : Obligations.RecoveryDecides := by
  unfold Obligations.RecoveryDecides
  intro s e r t hact hcur failed left
  refine ⟨fun hfirst htime hgood hforced => congrArg (leaves s) (recoveryDecision_goes_on hact hcur hfirst htime hgood hforced),
    fun hlate htodo => ?_, fun htodo hroom => ?_⟩
  · have h := recoveryDecision_fails hact hcur hlate
    exact ⟨_, congrArg (leaves s) h, (pumped_failSlot hcur htodo).1⟩
  · obtain ⟨-, hlen⟩ := hroom
    obtain ⟨f, hcode, -, hq⟩ := queue_report hlen 0x0304 (ecOf s.m e)
    have h := recoveryDecision_differs hact hcur
    have heng : (readBackDiffers e s.m).engines = s.m.engines := report_engines ..
    obtain ⟨⟨hnone, hidle, hundo, hmem, hmarks⟩, hfaults⟩ :=
      pumped_failSlot (e := e) (m := readBackDiffers e s.m) (heng ▸ hcur) (heng ▸ htodo)
    refine ⟨_, f, [], congrArg (leaves s) h, ⟨hnone, hidle, hundo, ?_, hmarks⟩, ?_, hcode⟩
    · exact hmem.trans (report_mem ..)
    · exact (congrArg Faults.queue hfaults).trans hq

end Sys2Proof.Machine
end

section
/-! PROOFS. What a span's compare comes to, and the records of output commands in memory (O39, R227, R228, R316). -/

namespace Sys2Proof.Machine

open Sys2Proof

set_option Elab.async false -- one proof at a time: the threads of many at once exceed the memory of a check

/-! ### The table of R227, row by row -/

section
variable {g0 g1 g2 : Option (BitVec 128)}

theorem spanOutcome_two_agree (h0 : g0 ≠ none) (h : g0 = g1) : spanOutcome false g0 g1 g2 = ⟨some 0, false, false, 0#3⟩ := by
  obtain ⟨a, rfl⟩ := Option.ne_none_iff_exists'.mp h0
  simp [spanOutcome, ← h]

theorem spanOutcome_two_differ (h0 : g0 ≠ none) (h1 : g1 ≠ none) (h : g0 ≠ g1) :
    spanOutcome false g0 g1 g2 = ⟨none, true, false, 3#3⟩ := by
  obtain ⟨a, rfl⟩ := Option.ne_none_iff_exists'.mp h0
  obtain ⟨b, rfl⟩ := Option.ne_none_iff_exists'.mp h1
  have hab : a ≠ b := fun hab => h (congrArg some hab)
  simp [spanOutcome, hab]

theorem spanOutcome_two_without_first (h0 : g0 = none) (h1 : g1 ≠ none) :
    spanOutcome false g0 g1 g2 = ⟨none, false, true, 1#3⟩ := by
  obtain ⟨b, rfl⟩ := Option.ne_none_iff_exists'.mp h1
  simp [spanOutcome, h0, at_]

theorem spanOutcome_three_agree (h0 : g0 ≠ none) (h01 : g0 = g1) (h12 : g1 = g2) :
    spanOutcome true g0 g1 g2 = ⟨some 0, false, false, 0#3⟩ := by
  obtain ⟨a, rfl⟩ := Option.ne_none_iff_exists'.mp h0
  simp [spanOutcome, ← h12, ← h01]

theorem spanOutcome_third_odd (h0 : g0 ≠ none) (h01 : g0 = g1) (h2 : g2 ≠ none) (h12 : g1 ≠ g2) :
    spanOutcome true g0 g1 g2 = ⟨some 0, true, false, 4#3⟩ := by
  obtain ⟨a, rfl⟩ := Option.ne_none_iff_exists'.mp h0
  obtain ⟨c, rfl⟩ := Option.ne_none_iff_exists'.mp h2
  subst h01
  have hac : a ≠ c := fun hac => h12 (congrArg some hac)
  simp [spanOutcome, hac]

theorem spanOutcome_second_odd (h0 : g0 ≠ none) (h02 : g0 = g2) (h1 : g1 ≠ none) (h01 : g0 ≠ g1) :
    spanOutcome true g0 g1 g2 = ⟨some 0, true, false, 2#3⟩ := by
  obtain ⟨a, rfl⟩ := Option.ne_none_iff_exists'.mp h0
  obtain ⟨b, rfl⟩ := Option.ne_none_iff_exists'.mp h1
  subst h02
  have hab : a ≠ b := fun hab => h01 (congrArg some hab)
  simp [spanOutcome, hab]

theorem spanOutcome_first_odd (h1 : g1 ≠ none) (h12 : g1 = g2) (h0 : g0 ≠ none) (h01 : g0 ≠ g1) :
    spanOutcome true g0 g1 g2 = ⟨some 1, true, false, 1#3⟩ := by
  obtain ⟨a, rfl⟩ := Option.ne_none_iff_exists'.mp h0
  obtain ⟨b, rfl⟩ := Option.ne_none_iff_exists'.mp h1
  subst h12
  have hab : a ≠ b := fun hab => h01 (congrArg some hab)
  simp [spanOutcome, hab]

/-- All three differ, and all three are odd. -/
theorem spanOutcome_three_differ (h0 : g0 ≠ none) (h1 : g1 ≠ none) (h2 : g2 ≠ none) (h01 : g0 ≠ g1) (h02 : g0 ≠ g2)
    (h12 : g1 ≠ g2) : spanOutcome true g0 g1 g2 = ⟨none, true, false, 7#3⟩ := by
  obtain ⟨a, rfl⟩ := Option.ne_none_iff_exists'.mp h0
  obtain ⟨b, rfl⟩ := Option.ne_none_iff_exists'.mp h1
  obtain ⟨c, rfl⟩ := Option.ne_none_iff_exists'.mp h2
  have hab : a ≠ b := fun h => h01 (congrArg some h)
  have hac : a ≠ c := fun h => h02 (congrArg some h)
  have hbc : b ≠ c := fun h => h12 (congrArg some h)
  simp [spanOutcome, hab, hac, hbc]

theorem spanOutcome_without_second (h0 : g0 ≠ none) (h02 : g0 = g2) (h1 : g1 = none) :
    spanOutcome true g0 g1 g2 = ⟨some 0, false, true, 2#3⟩ := by
  obtain ⟨a, rfl⟩ := Option.ne_none_iff_exists'.mp h0
  simp [spanOutcome, ← h02, h1]

theorem spanOutcome_without_first (h1 : g1 ≠ none) (h12 : g1 = g2) (h0 : g0 = none) :
    spanOutcome true g0 g1 g2 = ⟨some 1, false, true, 1#3⟩ := by
  obtain ⟨b, rfl⟩ := Option.ne_none_iff_exists'.mp h1
  simp [spanOutcome, ← h12, h0]

theorem spanOutcome_without_third (h0 : g0 ≠ none) (h01 : g0 = g1) (h2 : g2 = none) :
    spanOutcome true g0 g1 g2 = ⟨some 0, false, true, 4#3⟩ := by
  obtain ⟨a, rfl⟩ := Option.ne_none_iff_exists'.mp h0
  simp [spanOutcome, ← h01, h2]

/-- With two absent, nothing can agree. -/
theorem spanOutcome_without_two (h0 : g0 = none) (h1 : g1 = none) :
    spanOutcome true g0 g1 g2 = ⟨none, false, true, if g2 = none then 7#3 else 3#3⟩ := by
  cases g2 <;> simp [spanOutcome, h0, h1, at_]

end

/-! ### Where records and status stand (R228, R316) -/

/-- The granule of a record in the output command buffers. -/
def recordGran (x : SpanRec) : Nat := (0x40F8_0040 + 128 * x.chan.toNat + (if x.buf then 16 else 0)) / 16

/-- The granule of a span's status. -/
def statusGran (i : BitVec 6) : Nat := (0x40F4_9000 + 16 * i.toNat) / 16

theorem granOf_record (x : SpanRec) :
    granOf (0x40F8_0040#36 + put 36 x.chan 7 + (if x.buf then 16#36 else 0#36)) = recordGran x := by
  have hc := x.chan.isLt
  have hb : (if x.buf then 16#36 else 0#36).toNat = if x.buf then 16 else 0 := by split <;> rfl
  have hle : (if x.buf then 16 else 0) ≤ 16 := by split <;> omega
  simp only [granOf, recordGran, put, BitVec.toNat_add, BitVec.toNat_shiftLeft, BitVec.toNat_setWidth, Nat.shiftLeft_eq,
    BitVec.toNat_ofNat, hb]
  omega

theorem granOf_spanStatus (i : BitVec 6) : granOf (spanStatus i) = statusGran i := by
  have hi := i.isLt
  simp only [granOf, spanStatus, statusGran, put, BitVec.toNat_add, BitVec.toNat_shiftLeft, BitVec.toNat_setWidth,
    Nat.shiftLeft_eq, BitVec.toNat_ofNat]
  omega

/-- Records of different channels stand in different granules. -/
theorem recordGran_ne {x y : SpanRec} (h : x.chan ≠ y.chan) : recordGran x ≠ recordGran y := by
  have hc : x.chan.toNat ≠ y.chan.toNat := fun hc => h (BitVec.eq_of_toNat_eq hc)
  unfold recordGran
  split <;> split <;> omega

theorem recordGran_ne_statusGran (x : SpanRec) (i : BitVec 6) : recordGran x ≠ statusGran i := by
  have hi := i.isLt
  unfold recordGran statusGran
  omega

/-! ### Records that are committed (R227) -/

/-- Memory with these records in the output command buffers. -/
def recordedMem (l : List SpanRec) (mem : Memory) : Memory :=
  l.foldl (fun mem x => mem.putGran (recordGran x) x.data false false) mem

theorem data_recordedMem_other {g : Nat} {l : List SpanRec} (h : ∀ x ∈ l, g ≠ recordGran x) (mem : Memory) :
    (recordedMem l mem).data g = mem.data g := by
  induction l generalizing mem with
  | nil => rfl
  | cons x l ih =>
    have htail := ih (fun y hy => h y (List.mem_cons_of_mem _ hy)) (mem.putGran (recordGran x) x.data false false)
    rw [data_putGran, if_neg (h x (.head _))] at htail
    exact htail

/-- With one record a channel, no record overwrites another. -/
theorem data_recordedMem_record {l : List SpanRec} (hl : l.Pairwise fun x y => x.chan ≠ y.chan) {x : SpanRec} (hx : x ∈ l)
    (mem : Memory) : (recordedMem l mem).data (recordGran x) = x.data := by
  induction l generalizing mem with
  | nil => exact absurd hx nofun
  | cons y l ih =>
    obtain ⟨hy, htail⟩ := List.pairwise_cons.mp hl
    rcases List.mem_cons.mp hx with rfl | hx
    · have hrest := data_recordedMem_other (fun z hz => recordGran_ne (hy z hz)) (mem.putGran (recordGran x) x.data false false)
      rw [data_putGran, if_pos rfl] at hrest
      exact hrest
    · exact ih htail hx _

/-- A commit of records writes them, and touches neither the collector nor the tick nor the compare. -/
theorem commitRecords_leaves (e : BitVec 7) (pos : BitVec 6) (l : List SpanRec) (m : Mach) :
    (commitRecords e pos l m).mem = recordedMem l m.mem ∧ (commitRecords e pos l m).faults = m.faults ∧
      (commitRecords e pos l m).tick = m.tick ∧ (commitRecords e pos l m).spanRuns = m.spanRuns := by
  induction l generalizing m with
  | nil => exact ⟨rfl, rfl, rfl, rfl⟩
  | cons x l ih =>
    let a : Addr := 0x40F8_0040#36 + put 36 x.chan 7 + (if x.buf then 16#36 else 0#36)
    have hone : (markWrite a e pos false (hwWriteGran a x.data m)).mem = m.mem.putGran (recordGran x) x.data false false ∧
        (markWrite a e pos false (hwWriteGran a x.data m)).faults = m.faults ∧
        (markWrite a e pos false (hwWriteGran a x.data m)).tick = m.tick ∧
        (markWrite a e pos false (hwWriteGran a x.data m)).spanRuns = m.spanRuns := by
      rw [markWrite_eq, hwWriteGran, writeGran_whole, granOf_record]
      exact ⟨rfl, rfl, rfl, rfl⟩
    obtain ⟨hmem, hfaults, htick, hruns⟩ := hone
    obtain ⟨hmem', hfaults', htick', hruns'⟩ := ih (markWrite a e pos false (hwWriteGran a x.data m))
    exact ⟨hmem'.trans (congrArg (recordedMem l) hmem), hfaults'.trans hfaults, htick'.trans htick, hruns'.trans hruns⟩

end Sys2Proof.Machine
end

section
/-! PROOFS. A span is compared: the records that it commits, its status and its fault (O39, R227, R228). -/

namespace Sys2Proof.Machine

open Sys2Proof

set_option Elab.async false -- one proof at a time: the threads of many at once exceed the memory of a check

/-! ### The parts of a compare -/

/-- The records of the member that the outcome takes, committed. -/
def spanCommitted (i : BitVec 6) (o : SpanOutcome) (m : Mach) : Mach :=
  match o.commit with
  | some k => commitRecords ((m.spans.get i).member k) (posOfResult ((m.spanRuns.get i).get k))
      (recsOf ((m.spanRuns.get i).get k)) m
  | none => m

/-- The argument of a span's fault: its number, the members named, and the tick (R434). -/
def spanArg (i : BitVec 6) (odd : BitVec 3) (tick : BitVec 64) : W64 :=
  put 64 i 0 ||| put 64 odd 8 ||| put 64 (fld tick 0 32) 32

/-- The fault of an outcome that is not plain agreement. -/
def spanReported (i : BitVec 6) (o : SpanOutcome) (m : Mach) : Mach :=
  let n := if o.disagree then report 0x030A (spanArg i o.odd m.tick.count) m else m
  if o.absent then report 0x030B (spanArg i o.odd m.tick.count) n else n

/-- How the status names an outcome (R228). -/
def SpanOutcome.code (o : SpanOutcome) : Byte := if o.disagree then 2#8 else if o.absent then 3#8 else 1#8

/-- The outcome that the status names so (R228). -/
def SpanOutcome.ofCode (code : Byte) (odd : BitVec 3) (take : Option Nat) : SpanOutcome :=
  ⟨take, decide (code = 2), decide (code = 3), odd⟩

theorem code_ofCode {code : Byte} (h : code = 1 ∨ code = 2 ∨ code = 3) (odd : BitVec 3) (take : Option Nat) :
    (SpanOutcome.ofCode code odd take).code = code := by
  rcases h with rfl | rfl | rfl
  · rfl
  · rfl
  · rfl

theorem disagree_ofCode {code : Byte} (h : code = 2 ∨ code = 3) (odd : BitVec 3) (take : Option Nat) :
    (SpanOutcome.ofCode code odd take).disagree = !(SpanOutcome.ofCode code odd take).absent := by
  rcases h with rfl | rfl
  · rfl
  · rfl

/-- The status of a span (R228), with the count of its disagreements. -/
def spanWord (o : SpanOutcome) (tick : BitVec 64) (count : BitVec 16) : Gran :=
  put 128 tick 0 ||| put 128 o.code 64 ||| put 128 o.odd 72 ||| put 128 count 80

/-- The status written, and the compare done. -/
def spanRecorded (i : BitVec 6) (o : SpanOutcome) (m : Mach) : Mach :=
  let old := m.mem.data (granOf (spanStatus i))
  let n := hwWriteGran (spanStatus i)
    (spanWord o m.tick.count (if o.disagree then satInc (fld old 80 16) else fld old 80 16)) m
  { n with spanRuns := n.spanRuns.upd i fun r => { r with compared := true } }

/-- The clock at which the last of the first `n` members has ended. -/
def SpanRun.lastEnd (r : SpanRun) (n : Nat) : Nat := (range 0 n).foldl (fun t k => max t (endTime (r.get k))) 0

/-- What comes `d` clocks after the end of each member comes `d` clocks after the last. -/
theorem lastEnd_within {r : SpanRun} {n d b : Nat} (hn : 0 < n) (h : ∀ k, k < n → endTime (r.get k) + d ≤ b) :
    r.lastEnd n + d ≤ b := by
  have hlast : r.lastEnd n ≤ b - d :=
    List.foldlRecOn _ _ (motive := fun t => t ≤ b - d) (Nat.zero_le _) fun t ht k hk =>
      Nat.max_le.mpr ⟨ht, Nat.le_sub_of_add_le (h k (by have := (mem_range _ _ _).mp hk; omega))⟩
  have hfirst := h 0 hn
  omega

/-- A compare 1 µs or more after the last of its members has ended, not kept for the close. -/
theorem spanCompare_due {i : BitVec 6} {m : Mach} {o : SpanOutcome} (hvalid : spanValid m.spans i = true)
    (hn : (m.spans.get i).members ≠ 0) (hrun : (m.spanRuns.get i).compared = false)
    (hended : ∀ k, k < (m.spans.get i).members → (m.spanRuns.get i).get k ≠ .waiting ∧
      endTime ((m.spanRuns.get i).get k) + 103 ≤ m.clk)
    (hopen : m.tick.phase = .closed ∨
      ∀ k, k < (m.spans.get i).members → endTime ((m.spanRuns.get i).get k) + 103 < closeAt m.tick)
    (ho : spanOutcome (decide ((m.spans.get i).members = 3)) (sigOf (m.spanRuns.get i).m0) (sigOf (m.spanRuns.get i).m1)
      (sigOf (m.spanRuns.get i).m2) = o) :
    spanCompare i m = spanRecorded i o (spanReported i o (spanCommitted i o m)) := by
  have hpos : 0 < (m.spans.get i).members := Nat.pos_of_ne_zero hn
  have hwait : ((range 0 (m.spans.get i).members).any fun k => decide ((m.spanRuns.get i).get k = .waiting)) = false :=
    List.any_eq_false.mpr fun k hk => by simpa using (hended k (by have := (mem_range _ _ _).mp hk; omega)).1
  have hpast : (m.spanRuns.get i).lastEnd (m.spans.get i).members + 103 ≤ m.clk :=
    lastEnd_within hpos fun k hk => (hended k hk).2
  have hclose : (!decide (m.tick.phase = .closed)
      && decide (closeAt m.tick ≤ (m.spanRuns.get i).lastEnd (m.spans.get i).members + 103)) = false := by
    rcases hopen with hphase | hopen
    · simp [hphase]
    · have hlt := lastEnd_within (d := 104) hpos fun k hk => Nat.succ_le_of_lt (hopen k hk)
      rw [decide_eq_false (Nat.not_le_of_lt hlt), Bool.and_false]
  rw [SpanRun.lastEnd] at hpast hclose
  subst ho
  unfold spanCompare
  simp only [hwait, hclose, hvalid, hrun, decide_eq_false hn, Bool.not_true, Bool.or_self, Bool.false_and, Bool.false_eq_true,
    if_false, advanceTo_past hpast]
  rfl

/-! ### What each part does -/

/-- The records that an outcome commits. -/
def SpanOutcome.records (o : SpanOutcome) (r : SpanRun) : List SpanRec := (o.commit.map fun k => recsOf (r.get k)).getD []

theorem spanCommitted_leaves (i : BitVec 6) (o : SpanOutcome) (m : Mach) :
    (spanCommitted i o m).mem = recordedMem (o.records (m.spanRuns.get i)) m.mem ∧ (spanCommitted i o m).faults = m.faults ∧
      (spanCommitted i o m).tick = m.tick ∧ (spanCommitted i o m).spanRuns = m.spanRuns := by
  unfold spanCommitted SpanOutcome.records
  cases o.commit with
  | none => exact ⟨rfl, rfl, rfl, rfl⟩
  | some k => exact commitRecords_leaves _ _ _ m

theorem spanReported_leaves (i : BitVec 6) (o : SpanOutcome) (m : Mach) :
    (spanReported i o m).mem = m.mem ∧ (spanReported i o m).tick = m.tick ∧ (spanReported i o m).spanRuns = m.spanRuns := by
  unfold spanReported
  dsimp only
  repeat' split
  all_goals simp

theorem spanReported_agree {o : SpanOutcome} (hd : o.disagree = false) (ha : o.absent = false) (i : BitVec 6) (m : Mach) :
    spanReported i o m = m := by
  simp [spanReported, hd, ha]

/-- Members that disagree, or one that is absent, are told to the collector. -/
theorem spanReported_logs {o : SpanOutcome} (h : o.disagree = !o.absent) (i : BitVec 6) {m : Mach}
    (hlen : m.faults.queue.length < 64) : ∃ f : FaultEvent, f.code = (if o.disagree then 0x030A else 0x030B) ∧
      f.arg = spanArg i o.odd m.tick.count ∧ (spanReported i o m).faults.queue = m.faults.queue ++ [f] := by
  cases ha : o.absent with
  | false =>
    have hd : o.disagree = true := by rw [h, ha]; rfl
    simp only [spanReported, hd, ha, Bool.false_eq_true, if_true, if_false]
    exact queue_report hlen _ _
  | true =>
    have hd : o.disagree = false := by rw [h, ha]; rfl
    simp only [spanReported, hd, ha, Bool.false_eq_true, if_true, if_false]
    exact queue_report hlen _ _

theorem spanRecorded_leaves (i : BitVec 6) (o : SpanOutcome) (m : Mach) :
    ((spanRecorded i o m).spanRuns.get i).compared = true ∧ (spanRecorded i o m).faults = m.faults ∧
      ∃ count, (spanRecorded i o m).mem = m.mem.putGran (statusGran i) (spanWord o m.tick.count count) false false := by
  unfold spanRecorded
  dsimp only
  rw [hwWriteGran, writeGran_whole, granOf_spanStatus]
  exact ⟨by simp, rfl, _, rfl⟩

/-! ### The fields of the status and of the fault's argument -/

theorem toNat_fieldOf {n : Nat} (v : BitVec n) (lo len : Nat) : (fld v lo len).toNat = v.toNat / 2 ^ lo % 2 ^ len := by
  rw [fld, BitVec.extractLsb'_toNat, Nat.shiftRight_eq_div_pow]

theorem spanWord_fields (o : SpanOutcome) (tick : BitVec 64) (count : BitVec 16) :
    (spanWord o tick count).toNat % 2 ^ 64 = tick.toNat ∧ (spanWord o tick count).toNat / 2 ^ 64 % 2 ^ 8 = o.code.toNat ∧
      (spanWord o tick count).toNat / 2 ^ 72 % 2 ^ 8 = o.odd.toNat := by
  have hodd : put 128 o.odd 72 = put 128 (o.odd.setWidth 8) 72 := by
    rw [put, put, BitVec.setWidth_setWidth (x := o.odd) (by decide)]
  have htick : fld (spanWord o tick count) 0 64 = tick := by
    simp (disch := omega) only [spanWord, fld_or, fld_put_apart, fld_put_same, BitVec.or_zero]
  have hcode : fld (spanWord o tick count) 64 8 = o.code := by
    simp (disch := omega) only [spanWord, fld_or, fld_put_apart, fld_put_same, BitVec.zero_or, BitVec.or_zero]
  have hnamed : fld (spanWord o tick count) 72 8 = o.odd.setWidth 8 := by
    rw [spanWord, hodd]
    simp (disch := omega) only [fld_or, fld_put_apart, fld_put_same, BitVec.zero_or, BitVec.or_zero]
  have ho := o.odd.isLt
  refine ⟨?_, ?_, ?_⟩
  · rw [← congrArg BitVec.toNat htick, toNat_fieldOf, Nat.pow_zero, Nat.div_one]
  · rw [← toNat_fieldOf, hcode]
  · rw [← toNat_fieldOf, hnamed, BitVec.toNat_setWidth]
    omega

theorem spanArg_fields (i : BitVec 6) (odd : BitVec 3) (tick : BitVec 64) :
    (spanArg i odd tick).toNat % 2 ^ 6 = i.toNat ∧ (spanArg i odd tick).toNat / 2 ^ 8 % 2 ^ 3 = odd.toNat := by
  have hspan : fld (spanArg i odd tick) 0 6 = i := by
    simp (disch := omega) only [spanArg, fld_or, fld_put_apart, fld_put_same, BitVec.or_zero]
  have hnamed : fld (spanArg i odd tick) 8 3 = odd := by
    simp (disch := omega) only [spanArg, fld_or, fld_put_apart, fld_put_same, BitVec.zero_or, BitVec.or_zero]
  constructor
  · rw [← congrArg BitVec.toNat hspan, toNat_fieldOf, Nat.pow_zero, Nat.div_one]
  · rw [← toNat_fieldOf, hnamed]

/-! ### The whole compare -/

/-- A span that is compared where the fault would find room: its status, the records taken, memory beside them, the fault. -/
theorem spanCompare_settles {i : BitVec 6} {m n : Mach} {o : SpanOutcome} (hlen : m.faults.queue.length < 64)
    (hn : n = spanRecorded i o (spanReported i o (spanCommitted i o m))) :
    (n.spanRuns.get i).compared = true ∧
      (∃ count, n.mem.data (statusGran i) = spanWord o m.tick.count count) ∧
      ((o.records (m.spanRuns.get i)).Pairwise (fun x y => x.chan ≠ y.chan) → ∀ x ∈ o.records (m.spanRuns.get i),
        n.mem.data (recordGran x) = x.data) ∧
      (∀ g, g ≠ statusGran i → (∀ x ∈ o.records (m.spanRuns.get i), g ≠ recordGran x) → n.mem.data g = m.mem.data g) ∧
      (o.disagree = false → o.absent = false → n.faults = m.faults) ∧
      (o.disagree = !o.absent → ∃ f : FaultEvent, n.faults.queue = m.faults.queue ++ [f] ∧
        f.code = (if o.disagree then 0x030A else 0x030B) ∧ f.arg = spanArg i o.odd m.tick.count) := by
  obtain ⟨hmem1, hfaults1, htick1, -⟩ := spanCommitted_leaves i o m
  generalize spanCommitted i o m = m1 at *
  obtain ⟨hmem2, htick2, -⟩ := spanReported_leaves i o m1
  obtain ⟨hdone, hfaults3, count, hmem3⟩ := spanRecorded_leaves i o (spanReported i o m1)
  rw [← hn, hmem2, hmem1, htick2, htick1] at hmem3
  rw [← hn] at hdone hfaults3
  have hdata (g : Nat) (hg : g ≠ statusGran i) :
      n.mem.data g = (recordedMem (o.records (m.spanRuns.get i)) m.mem).data g := by
    rw [hmem3, data_putGran, if_neg hg]
  refine ⟨hdone, ⟨count, by rw [hmem3, data_putGran, if_pos rfl]⟩, fun hl x hx => ?_, fun g hg hl => ?_, fun hd ha => ?_,
    fun h => ?_⟩
  · rw [hdata _ (recordGran_ne_statusGran x i)]
    exact data_recordedMem_record hl hx _
  · rw [hdata g hg]
    exact data_recordedMem_other hl _
  · rw [hfaults3, spanReported_agree hd ha, hfaults1]
  · obtain ⟨f, hcode, harg, hq⟩ := spanReported_logs h i (m := m1) (by rw [hfaults1]; exact hlen)
    exact ⟨f, by rw [hfaults3, hq, hfaults1], hcode, by rw [harg, htick1]⟩

/-- Settles O39: the row of R227's table gives the outcome, and the compare of a span with that outcome gives the rest. -/
theorem spansAreCompared : Obligations.SpansAreCompared := by
  unfold Obligations.SpansAreCompared
  intro s i n r outcome odd take hvalid hn hrun hr hended hroom hopen sig here table htable mine place st
  obtain ⟨-, hlen⟩ := hroom
  have ho : spanOutcome (decide (n = 3)) (sig 0) (sig 1) (sig 2) = .ofCode outcome odd take ∧
      n ≠ 0 ∧ (outcome = 1 ∨ outcome = 2 ∨ outcome = 3) := by
    rcases htable with ⟨rfl, h0, h01, rfl, rfl, rfl⟩ | ⟨rfl, h0, h1, h01, rfl, rfl, rfl⟩ | ⟨rfl, h0, h1, rfl, rfl, rfl⟩ |
      ⟨rfl, h0, h01, h12, rfl, rfl, rfl⟩ | ⟨rfl, h0, h01, h2, h12, rfl, rfl, rfl⟩ | ⟨rfl, h0, h02, h1, h01, rfl, rfl, rfl⟩ |
      ⟨rfl, h1, h12, h0, h01, rfl, rfl, rfl⟩ | ⟨rfl, h0, h1, h2, h01, h02, h12, rfl, rfl, rfl⟩ |
      ⟨rfl, h0, h02, h1, rfl, rfl, rfl⟩ | ⟨rfl, h1, h12, h0, rfl, rfl, rfl⟩ | ⟨rfl, h0, h01, h2, rfl, rfl, rfl⟩ |
      ⟨rfl, h0, h1, rfl, rfl, rfl⟩
    · exact ⟨spanOutcome_two_agree h0 h01, by decide, by decide⟩
    · exact ⟨spanOutcome_two_differ h0 h1 h01, by decide, by decide⟩
    · exact ⟨spanOutcome_two_without_first (not_not.mp h0) h1, by decide, by decide⟩
    · exact ⟨spanOutcome_three_agree h0 h01 h12, by decide, by decide⟩
    · exact ⟨spanOutcome_third_odd h0 h01 h2 h12, by decide, by decide⟩
    · exact ⟨spanOutcome_second_odd h0 h02 h1 h01, by decide, by decide⟩
    · exact ⟨spanOutcome_first_odd h1 h12 h0 h01, by decide, by decide⟩
    · exact ⟨spanOutcome_three_differ h0 h1 h2 h01 h02 h12, by decide, by decide⟩
    · exact ⟨spanOutcome_without_second h0 h02 (not_not.mp h1), by decide, by decide⟩
    · exact ⟨spanOutcome_without_first h1 h12 (not_not.mp h0), by decide, by decide⟩
    · exact ⟨spanOutcome_without_third h0 h01 (not_not.mp h2), by decide, by decide⟩
    · exact ⟨spanOutcome_without_two (not_not.mp h0) (not_not.mp h1), by decide, by decide⟩
  obtain ⟨ho, hn0, hcases⟩ := ho
  subst hr hn
  have hcompare := spanCompare_due hvalid hn0 hrun hended hopen ho
  obtain ⟨hdone, ⟨count, hword⟩, hrecords, hothers, hagree, hfault⟩ := spanCompare_settles hlen hcompare
  obtain ⟨htick, hcode, hodd⟩ := spanWord_fields (.ofCode outcome odd take) s.m.tick.count count
  have htaken {k : Nat} (hk : take = some k) :
      (SpanOutcome.ofCode outcome odd take).records (s.m.spanRuns.get i) = mine k := by
    subst hk
    rfl
  refine ⟨_, _, rfl, hdone, hword, htick, by rw [hcode, code_ofCode hcases], hodd, fun k hk => ?_,
    fun g hg hl => hothers g hg fun x hx => ?_, fun h1 => ?_, fun h1 => ?_⟩
  · rw [← htaken hk]
    exact hrecords
  · cases take with
    | none => exact absurd hx nofun
    | some k => exact hl k x rfl hx
  · subst h1
    exact hagree rfl rfl
  · obtain ⟨f, hq, hfcode, harg⟩ := hfault (disagree_ofCode (hcases.resolve_left h1) odd take)
    obtain ⟨hspan, hnamed⟩ := spanArg_fields i odd s.m.tick.count
    exact ⟨f, hq, hfcode.trans (by simp [SpanOutcome.ofCode]), (congrArg (·.toNat % 2 ^ 6) harg).trans hspan,
      (congrArg (·.toNat / 2 ^ 8 % 2 ^ 3) harg).trans hnamed⟩

end Sys2Proof.Machine
end

section
/-! PROOFS. The scrubbers and the write-backs: what a granule's correction leaves in memory and in the counters (O41, R243, R245
to R251). -/

namespace Sys2Proof.Machine

open Sys2Proof

set_option Elab.async false -- one proof at a time: the threads of many at once exceed the memory of a check

/-! ### Flipped bits -/

/-- The module with this memory. -/
def withMem (mem : Memory) (m : Mach) : Mach := { m with mem := mem }

/-- Memory with this list of flipped bits. -/
def Memory.withErrs (e : List (Nat × BitVec 152)) (mem : Memory) : Memory := { mem with errs := e }


@[simp] theorem Memory.data_flip (mem : Memory) (g : Nat) (x : BitVec 152) (j : Nat) : (mem.flip g x).data j = mem.data j := rfl
@[simp] theorem Memory.tag_flip (mem : Memory) (g : Nat) (x : BitVec 152) (j : Nat) : (mem.flip g x).tag j = mem.tag j := rfl

theorem Memory.err_flip (mem : Memory) (g : Nat) (x : BitVec 152) (j : Nat) :
    (mem.flip g x).err j = if j = g then mem.err g ^^^ x else mem.err j := by
  simp only [Memory.err, Memory.flip, look_store]

/-- Memory `b` holds a whole codeword in granule `g`, and elsewhere the data, tags and flipped bits of `a`. -/
def Memory.Corrected (g : Nat) (d : Gran) (t p : Bool) (a b : Memory) : Prop :=
  (b.data g = d ∧ b.tag g = t ∧ b.poison g = p ∧ b.err g = 0) ∧
    ∀ j, j ≠ g → b.data j = a.data j ∧ b.tag j = a.tag j ∧ b.err j = a.err j

/-- A granule written over flipped bits leaves none of them (R239, R245). -/
theorem corrected_putGran_flip (a : Memory) (g : Nat) (x : BitVec 152) (d : Gran) (t p : Bool) :
    a.Corrected g d t p ((a.flip g x).putGran g d t p) := by
  refine ⟨?_, fun j hj => ?_⟩
  · simp [data_putGran, tag_putGran, poison_putGran, err_putGran]
  · simp [data_putGran, tag_putGran, err_putGran, Memory.err_flip, hj]

theorem corrected_putGran (a : Memory) (g : Nat) (d : Gran) (t p : Bool) : a.Corrected g d t p (a.putGran g d t p) := by
  refine ⟨?_, fun j hj => ?_⟩
  · simp [data_putGran, tag_putGran, poison_putGran, err_putGran]
  · simp [data_putGran, tag_putGran, err_putGran, hj]

/-! ### The counts of a correction -/

/-- The devices' counts and the candidate rows touch no counter of words and not the scrubber's place (R247, R253). -/
theorem counters_countDevice (g : Nat) (dev : BitVec 5) (m : Mach) :
    (countDevice g dev m).mc.dramc = m.mc.dramc ∧ (countDevice g dev m).mc.chkc = m.mc.chkc ∧
      (countDevice g dev m).mc.scrubLine = m.mc.scrubLine := by
  unfold countDevice
  dsimp only
  repeat' split
  all_goals simp

/-- A word of DRAM counts as corrected in its data or in its check symbols, by the symbol that was wrong (R243, R248). -/
theorem counters_countCorrected_dram {g : Nat} (hg : isDram g = true) (k : BitVec 5) (m : Mach) :
    (countCorrected g k m).mc.scrubLine = m.mc.scrubLine ∧
      (countCorrected g k m).mc.dramc = (if k = 17#5 ∨ k = 18#5 then m.mc.dramc else satInc m.mc.dramc) ∧
      (countCorrected g k m).mc.chkc = (if k = 17#5 ∨ k = 18#5 then satInc m.mc.chkc else m.mc.chkc) := by
  simp only [countCorrected, hg, if_true, counters_countDevice]
  split <;> exact ⟨rfl, rfl, rfl⟩

/-- A word of SRAM counts in SRAMC (R238, R248). -/
theorem sramc_countCorrected {g : Nat} (hg : isDram g = false) (k : BitVec 5) (m : Mach) :
    (countCorrected g k m).mc.sramc = satInc m.mc.sramc := by
  simp [countCorrected, hg]

/-! ### One granule -/

/-- A codeword in which no bit has flipped gives the scrubber nothing to do. -/
theorem scrubDram_clean {g : Nat} {m : Mach} (h : m.mem.err g = 0) : scrubDram g m = m := by
  simp [scrubDram, decodeGran, h]

/-- A corrected codeword is counted, and written back at once with its tag and poison (R249). -/
theorem scrubDram_corrected {g : Nat} {m : Mach} {d : Gran} {t p : Bool} {k : BitVec 5}
    (h : decodeGran m.mc m.mem g = .corrected d t p k) :
    scrubDram g m = { countCorrected g k m with
      mem := m.mem.putGran g d t p
      mc := { (countCorrected g k m).mc with
        writeBack := (countCorrected g k m).mc.writeBack.filter (· ≠ g) } } := by
  simp [scrubDram, h]

/-- The scrub of SRAM takes a granule as that of DRAM does (R249, R250). -/
theorem scrubSram_eq (g : Nat) (m : Mach) : scrubSram g m = scrubDram g m := rfl

/-- An uncorrectable word of SRAM is counted and reported, and stays as it is (R245, R250). -/
theorem scrubSram_bad {g : Nat} {m : Mach} {d : Gran} (hg : isDram g = false) (h : decodeGran m.mc m.mem g = .bad d)
    (hroom : m.faults.queue.length < 64) : ∃ f : FaultEvent, f.code = 0x0401 ∧ (scrubSram g m).mem = m.mem ∧
      (scrubSram g m).mc.ueSram = satInc m.mc.ueSram ∧ (scrubSram g m).faults.queue = m.faults.queue ++ [f] := by
  simp only [scrubSram, readGran, h, hg, Bool.false_eq_true, if_false]
  obtain ⟨f, hcode, -, hqueue⟩ := queue_report (m := modMc (fun c => { c with ueSram := satInc c.ueSram }) m) hroom 0x0401
    (argAD (granAddr g) Acc.other.eng Acc.other.ring Acc.other.comp)
  exact ⟨f, hcode, by rw [report_mem, modMc_mem], by rw [report_mc, modMc_mc], hqueue⟩

/-- The oldest write-back writes the corrected word and leaves the queue (R251). -/
theorem writeBackNext_corrected {g : Nat} {l : List Nat} {m : Mach} {d : Gran} {t p : Bool} {k : BitVec 5}
    (hl : m.mc.writeBack = g :: l) (h : decodeGran m.mc m.mem g = .corrected d t p k) :
    writeBackNext m = withMem (m.mem.putGran g d t p) (modMc (fun c => { c with writeBack := l }) m) := by
  have hd : decodeGran (modMc (fun c => { c with writeBack := l }) m).mc (modMc (fun c => { c with writeBack := l }) m).mem g
      = .corrected d t p k := h
  unfold writeBackNext
  split
  · next hnil => rw [hnil] at hl; nomatch hl
  · next g' r hcons =>
    rw [hcons] at hl
    cases hl
    dsimp only
    rw [hd]
    rfl

/-! ### One line of the patrol scrub -/

/-- The scrubber reads one granule, in which it finds these bits flipped. -/
def patrolGran (m : Mach) (x : BitVec 152 × Nat) : Mach := scrubDram x.2 (withMem (m.mem.flip x.2 x.1) m)

/-- Granules without flipped bits leave memory as it reads, and everything else as it is. -/
theorem patrolGran_clean (l : List Nat) {m : Mach} (h : ∀ g ∈ l, m.mem.err g = 0) :
    ∃ e, (l.map (0#152, ·)).foldl patrolGran m = withMem (m.mem.withErrs e) m ∧
      ∀ j, look 0#152 e j = m.mem.err j := by
  induction l generalizing m with
  | nil => exact ⟨m.mem.errs, rfl, fun _ => rfl⟩
  | cons g l ih =>
    have herr : ∀ j, (m.mem.flip g 0#152).err j = m.mem.err j := fun j => by
      rw [Memory.err_flip]
      split
      · next hj => rw [hj, BitVec.xor_zero]
      · rfl
    have hstep : patrolGran m (0#152, g) = withMem (m.mem.flip g 0#152) m :=
      scrubDram_clean ((herr g).trans (h g (.head _)))
    obtain ⟨e, he, hlook⟩ := ih (m := withMem (m.mem.flip g 0#152) m) fun j hj => (herr j).trans (h j (.tail _ hj))
    refine ⟨e, ?_, fun j => (hlook j).trans (herr j)⟩
    rw [List.map_cons, List.foldl_cons, hstep, he]
    rfl

/-- The first granule of the line that the scrubber reads next. -/
def patrolFirst (m : Mach) : Nat := 0x8000_0000 + 4 * m.mc.scrubLine.toNat

/-- The scrubber after a line: one further, and at the end of a pass with its counts anew (R249). -/
def lineEnd (c : MemCtl) : MemCtl :=
  { (if c.scrubLine = BitVec.allOnes 29 then passEnd c else c) with scrubLine := c.scrubLine + 1#29 }

theorem lineEnd_last {c : MemCtl} (h : c.scrubLine = BitVec.allOnes 29) :
    lineEnd c = { passEnd c with scrubLine := c.scrubLine + 1#29 } := by
  rw [lineEnd, if_pos h]

theorem lineEnd_other {c : MemCtl} (h : c.scrubLine ≠ BitVec.allOnes 29) :
    lineEnd c = { c with scrubLine := c.scrubLine + 1#29 } := by
  rw [lineEnd, if_neg h]

/-- A line is read granule by granule. -/
theorem scrubLine_eq {m : Mach} (h : scrubbing m = true) (l : List (BitVec 152)) :
    scrubLine l m = modMc lineEnd ((l.zip (range (patrolFirst m) 4)).foldl patrolGran m) := by
  have hfold : scrubLine l m = modMc (fun c => { c with scrubLine := c.scrubLine + 1#29 })
      (if ((l.zip (range (patrolFirst m) 4)).foldl patrolGran m).mc.scrubLine = BitVec.allOnes 29 then
        modMc passEnd ((l.zip (range (patrolFirst m) 4)).foldl patrolGran m)
      else (l.zip (range (patrolFirst m) 4)).foldl patrolGran m) := if_pos h
  rw [hfold]
  split
  · next hl => rw [modMc, modMc, modMc, lineEnd_last hl]; rfl
  · next hl => rw [modMc, modMc, lineEnd_other hl]

/-- The granules of a line, of which the first alone may be found with flipped bits. -/
theorem zip_line (x : BitVec 152) (g : Nat) :
    [x, 0#152, 0#152, 0#152].zip (range g 4) = (x, g) :: (range (g + 1) 3).map (0#152, ·) := rfl

/-- A line without flipped bits (R249). -/
theorem scrubLine_clean {m : Mach} (h : scrubbing m = true)
    (hclean : ∀ j, patrolFirst m ≤ j → j < patrolFirst m + 4 → m.mem.err j = 0) :
    ∃ e, (∀ j, look 0#152 e j = m.mem.err j) ∧
      scrubLine [0#152, 0#152, 0#152, 0#152] m = modMc lineEnd (withMem (m.mem.withErrs e) m) := by
  obtain ⟨e, he, hlook⟩ := patrolGran_clean (range (patrolFirst m) 4) (m := m) fun j hj => by
    obtain ⟨hlo, hhi⟩ := (mem_range _ _ _).mp hj
    exact hclean j hlo hhi
  refine ⟨e, hlook, ?_⟩
  rw [scrubLine_eq h, zip_line, ← he]
  rfl

/-- A line whose first granule alone has flipped bits, which its code corrects (R249). -/
theorem scrubLine_corrected {m : Mach} (h : scrubbing m = true)
    (hclean : ∀ j, patrolFirst m ≤ j → j < patrolFirst m + 4 → m.mem.err j = 0) {x : BitVec 152} {d : Gran} {t p : Bool}
    {k : BitVec 5} (hd : decodeGran m.mc (m.mem.flip (patrolFirst m) x) (patrolFirst m) = .corrected d t p k) :
    ∃ n, scrubLine [x, 0#152, 0#152, 0#152] m = modMc lineEnd n ∧ m.mem.Corrected (patrolFirst m) d t p n.mem ∧
      n.mc.scrubLine = m.mc.scrubLine ∧
      n.mc.dramc = (if k = 17#5 ∨ k = 18#5 then m.mc.dramc else satInc m.mc.dramc) ∧
      n.mc.chkc = (if k = 17#5 ∨ k = 18#5 then satInc m.mc.chkc else m.mc.chkc) := by
  have hline := scrubLine_eq h [x, 0#152, 0#152, 0#152]
  rw [zip_line, List.foldl_cons] at hline
  have hdram : isDram (patrolFirst m) = true := by simp [isDram, patrolFirst]
  generalize patrolFirst m = g at *
  have hscrub := scrubDram_corrected (m := withMem (m.mem.flip g x) m) hd
  obtain ⟨hplace, hdramc, hchkc⟩ := counters_countCorrected_dram hdram k (withMem (m.mem.flip g x) m)
  have hmem : (patrolGran m (x, g)).mem = (m.mem.flip g x).putGran g d t p := by
    rw [patrolGran, hscrub]
    rfl
  obtain ⟨hgran, hothers⟩ := corrected_putGran_flip m.mem g x d t p
  rw [← hmem] at hgran hothers
  obtain ⟨e, he, hlook⟩ := patrolGran_clean (range (g + 1) 3) (m := patrolGran m (x, g)) fun j hj => by
    obtain ⟨hlo, hhi⟩ := (mem_range _ _ _).mp hj
    obtain ⟨-, -, herr⟩ := hothers j (by omega)
    exact herr.trans (hclean j (by omega) (by omega))
  rw [he] at hline
  refine ⟨_, hline, ⟨?_, fun j hj => ?_⟩, ?_⟩
  · obtain ⟨hdata, htag, hpois, herr⟩ := hgran
    exact ⟨hdata, htag, hpois, (hlook g).trans herr⟩
  · obtain ⟨hdata, htag, herr⟩ := hothers j hj
    exact ⟨hdata, htag, (hlook j).trans herr⟩
  · rw [patrolGran, hscrub]
    exact ⟨hplace, hdramc, hchkc⟩

/-! ### A pass over SRAM -/

theorem sramHere_of_shared {g : Nat} (h1 : 0x40000000 ≤ 16 * g) (h2 : 16 * g < 0x41000000) (m : Mach) :
    sramHere m g = true := by
  have hg : (granAddr g).toNat = 16 * g := Nat.mod_eq_of_lt (by omega)
  have hr : region (granAddr g) = .shared := (region_shared_iff _).mpr ⟨by omega, by omega⟩
  simp [sramHere, hr]

/-- A pass that finds one granule of shared SRAM with flipped bits, where none stood before (R250). -/
theorem sramPass_one {m : Mach} (h : scrubbing m = true) (hnone : m.mem.errs = []) {g : Nat} (h1 : 0x40000000 ≤ 16 * g)
    (h2 : 16 * g < 0x41000000) {x : BitVec 152} (hx : x ≠ 0) :
    sramPass [(g, x)] m = scrubSram g (withMem (m.mem.flip g x) m) := by
  have herrs : (m.mem.flip g x).errs = [(g, x)] := by
    have hx' : x ≠ 0#152 := hx
    simp [Memory.flip, Memory.err, hnone, look, store, hx']
  simp [sramPass, h, sramHere_of_shared h1 h2, herrs, withMem]

theorem exec_patrol {s : State} {n : Mach} {x : BitVec 152} (h : scrubLine [x, 0#152, 0#152, 0#152] s.m = n) :
    exec (.patrolScrubLine x 0 0 0) s = .next { s with m := n } := by
  subst h
  rfl

theorem exec_sramScrub {s : State} {n : Mach} {l : List (Nat × BitVec 152)} (h : sramPass l s.m = n) :
    exec (.sramScrubPass l) s = .next { s with m := n } := by
  subst h
  rfl

theorem exec_writeBack {s : State} (hmode : s.m.mode.mode ≠ .dormant) :
    exec .demandWriteBack s = .next { s with m := writeBackNext s.m } := by
  have hp : powered s.m = true := decide_eq_true hmode
  exact congrArg (fun n => Host.Outcome.next { s with m := n }) (if_pos hp)

/-! ### The obligation -/

/-- Settles O41: a line of the patrol scrub by its granules one after another, a pass over SRAM by the one granule that it finds,
a write-back by its correction. -/
theorem memoryIsScrubbed : Obligations.MemoryIsScrubbed := by
  unfold Obligations.MemoryIsScrubbed
  intro s g x d t p k c scrubs whole first
  have hscrubs : scrubs → scrubbing s.m = true := fun ⟨hon, hmode⟩ => by
    rw [scrubbing, decide_eq_true hmode, Bool.and_true]
    exact hon
  refine ⟨fun h hclean hline => ⟨?_, fun hg hd => ?_⟩, fun h hline hclean => ?_,
    fun h hnone h1 h2 hx => ⟨fun hd => ?_, fun hd hroom => ?_⟩, fun l hmode hl hd => ?_⟩
  · obtain ⟨e, hlook, hrun⟩ := scrubLine_clean (hscrubs h) hclean
    exact ⟨_, exec_patrol hrun, lineEnd_other hline, fun j => ⟨rfl, hlook j⟩⟩
  · subst hg
    obtain ⟨n, hrun, hmem, hplace, hdramc, hchkc⟩ := scrubLine_corrected (hscrubs h) hclean hd
    have hend := lineEnd_other (c := n.mc) (by rw [hplace]; exact hline)
    refine ⟨_, exec_patrol hrun, hmem, ?_, fun hk => ?_, fun hk hk' => ?_⟩
    · exact (congrArg MemCtl.scrubLine hend).trans (congrArg (· + 1#29) hplace)
    · have hk : ¬ (k = 17#5 ∨ k = 18#5) := by rintro (rfl | rfl) <;> exact absurd hk (by decide)
      rw [if_neg hk] at hdramc hchkc
      exact ⟨(congrArg MemCtl.dramc hend).trans hdramc, (congrArg MemCtl.chkc hend).trans hchkc⟩
    · have hk : k = 17#5 ∨ k = 18#5 := by bv_omega
      rw [if_pos hk] at hdramc hchkc
      exact ⟨(congrArg MemCtl.chkc hend).trans hchkc, (congrArg MemCtl.dramc hend).trans hdramc⟩
  · obtain ⟨e, -, hrun⟩ := scrubLine_clean (hscrubs h) hclean
    have hend := lineEnd_last hline
    refine ⟨_, exec_patrol hrun, ?_, congrArg MemCtl.passes hend, congrArg MemCtl.rowCnt hend, fun i => ?_⟩
    · refine (congrArg MemCtl.scrubLine hend).trans ?_
      show s.m.mc.scrubLine + 1#29 = 0
      rw [hline]
      decide
    · exact (congrArg (fun c : MemCtl => c.devCnt.get i) hend).trans (Vector.getElem_replicate ..)
  · have hrun := sramPass_one (hscrubs h) hnone h1 h2 hx
    rw [scrubSram_eq, scrubDram_corrected hd] at hrun
    refine ⟨_, exec_sramScrub hrun, corrected_putGran_flip s.m.mem g x d t p, ?_⟩
    exact sramc_countCorrected (decide_eq_false (by omega)) k _
  · obtain ⟨f, hcode, hmem, hcount, hqueue⟩ :=
      scrubSram_bad (m := withMem (s.m.mem.flip g x) s.m) (decide_eq_false (by omega)) hd hroom.2
    have herr : (s.m.mem.flip g x).err g = x := by
      rw [Memory.err_flip, if_pos rfl, Memory.err, hnone]
      exact BitVec.zero_xor
    exact ⟨_, f, exec_sramScrub (sramPass_one (hscrubs h) hnone h1 h2 hx),
      (congrArg (Memory.data · g) hmem).trans (Memory.data_flip ..), (congrArg (Memory.err · g) hmem).trans herr, hcount, hqueue,
      hcode⟩
  · rw [exec_writeBack hmode, writeBackNext_corrected hl hd]
    exact ⟨_, rfl, corrected_putGran s.m.mem g d t p, rfl⟩

end Sys2Proof.Machine
end

section
/-! PROOFS. Why O60 fails: a HART frame that ends within the millisecond after which the partner counts as lost (R293, R508). -/

namespace Sys2Proof.Machine

open Sys2Proof

set_option Elab.async false -- one proof at a time: the threads of many at once exceed the memory of a check

/-! ### Time in which one modem alone acts -/

theorem allChans_tail_ne {c : BitVec 8} (h : c ∈ allChans.tail) : c ≠ 0 := by
  have htail : allChans.tail = (range 1 255).map (BitVec.ofNat 8) := rfl
  rw [htail, List.mem_map] at h
  obtain ⟨n, hn, rfl⟩ := h
  obtain ⟨hlo, hhi⟩ := (mem_range _ _ _).mp hn
  bv_omega

/-- A modem touches no other channel. -/
theorem chan_hartWaits_ne {c d : BitVec 8} (h : d ≠ c) (m : Mach) : (hartWaits c m).chans.get d = m.chans.get d := by
  unfold hartWaits
  dsimp only
  split
  · rw [modHart, putHstat, hwWrite32, writeGran_chans, modChan_chans, Tbl.get_upd_ne _ _ h]
  · rfl

/-- Time moves on in a module whose slot lists are copied, in which no engine is halted, no channel ramps or counts and no modem but
that of channel 0 sends. -/
theorem advanceTo_of_calm {t : Nat} {m : Mach} (hlt : m.clk < t) (hcopied : m.tick.copied = 128) (hfed : backupFed m = true)
    (hhalt : m.engines.toList.any Engine.halted = false)
    (hstill : ∀ c, (m.chans.get c).ramping = false ∧ (m.chans.get c).timer.run = false)
    (hsend : ∀ c, c ≠ 0 → (m.chans.get c).hart.state ≠ 2) :
    advanceTo t m = hartWaits 0 { modBkp (rtcAdvance m.watch.bkpLost (t - m.clk)) m with clk := t } := by
  have hchans : ∀ n : Mach, n.chans = m.chans → allChans.foldl (fun n c => advanceChan m.clk t c n) n = n := fun n hn =>
    foldl_fixed _ _ _ fun c _ => by
      obtain ⟨hr, ht⟩ := hstill c
      exact advanceChan_of_still (by rw [hn]; exact hr) (by rw [hn]; exact ht)
  have hrest : ∀ n : Mach, n.chans = m.chans → allChans.foldl (fun n c => hartWaits c n) n = hartWaits 0 n := fun n hn => by
    rw [allChans_eq_cons, List.foldl_cons]
    exact foldl_fixed _ _ _ fun c hc => hartWaits_of_not_sending (by
      rw [chan_hartWaits_ne (allChans_tail_ne hc), hn]
      exact hsend c (allChans_tail_ne hc))
  have hhalted : haltedTime (t - m.clk) (modBkp (rtcAdvance m.watch.bkpLost (t - m.clk)) m)
      = modBkp (rtcAdvance m.watch.bkpLost (t - m.clk)) m := haltedTime_none hhalt
  rw [advanceTo_of_lt hlt, copier_done hcopied, if_pos hfed]
  change allChans.foldl (fun n c => hartWaits c n) { allChans.foldl (fun n c => advanceChan m.clk t c n)
    (haltedTime (t - m.clk) (modBkp (rtcAdvance m.watch.bkpLost (t - m.clk)) m)) with clk := t } = _
  rw [hhalted, hchans (modBkp _ m) rfl]
  exact hrest _ rfl

/-! ### The counterexample -/

/-- The granule of parameter RAM that holds HSTAT of channel 0 (R292). -/
def hstatGran : Nat := granOf (parAddr 0 0x204)

/-- Channel 0 in mode 10, its modem sending until clock 100. -/
def sendingChan (x : Chan) : Chan :=
  { x with term := 10, cfg := { x.cfg with mode := 10 }, hart := { x.hart with state := 2, txEnd := 100 } }

/-- The module in COMMISSION at clock 0 with its slot lists copied, and a partner that has just been heard. The modem of channel 0
is sending, and two bits of the granule that holds its HSTAT have flipped. -/
def partnered : State :=
  let m := modTick (fun t => { t with copied := 128 }) (modMode (fun x => { x with mode := .commission }) State.reset.m)
  let m := modYl (fun y => { y with pres := true }) { m with mem := m.mem.flip hstatGran 3 }
  { State.reset with m := modChan 0 sendingChan m }

/-- That module 1 ms later, before the modems are looked at. -/
def partneredLater : Mach :=
  { modBkp (rtcAdvance partnered.m.watch.bkpLost (102400 - partnered.m.clk)) partnered.m with clk := 102400 }

theorem chan_partnered (c : BitVec 8) :
    partnered.m.chans.get c = if c = 0 then sendingChan Chan.reset else Chan.reset := by
  have hreset : ∀ c : BitVec 8, State.reset.m.chans.get c = Chan.reset := fun c => Vector.getElem_replicate ..
  show (modChan 0 sendingChan _).chans.get c = _
  rw [modChan_chans, Tbl.get_upd]
  split
  · exact congrArg sendingChan (hreset 0)
  · exact hreset c

/-- Of the whole module the modem of channel 0 alone acts within the millisecond. -/
theorem advanceTo_partnered : advanceTo 102400 partnered.m = hartWaits 0 partneredLater :=
  advanceTo_of_calm (by decide +kernel) (by decide +kernel) (by decide +kernel) (by decide +kernel)
    (fun c => by rw [chan_partnered]; split <;> exact ⟨rfl, rfl⟩)
    (fun c hc => by rw [chan_partnered, if_neg hc]; decide)

/-- The end of the frame changes HSTAT, in a word that the code of SRAM does not correct: 0x0401 (R238, R245, R292). The partner
counts as lost then, and its fault is the second (R508). -/
theorem faults_partnerLost : (partnerLost partnered.m).faults.queue.map FaultEvent.code = [0x0401, 0x0902] := by
  have hdue : ¬ (!powered partnered.m || !partnered.m.yl.pres) = true := by decide
  have hwhen : partnered.m.yl.lastHb + usClk 1000 = 102400 := rfl
  rw [partnerLost, if_neg hdue, hwhen, advanceTo_partnered]
  decide +kernel

/-- Refutes O60: its clause on a lost partner has the fault 0x0902 alone join the queue. But the millisecond passes for the rest of
the module too, and a HART frame that ends within it has HSTAT written, in a word that here cannot be corrected: 0x0401 is
reported as well. -/
theorem not_yunalLink : ¬ Obligations.YunalLink := by
  unfold Obligations.YunalLink
  rintro ⟨h, -⟩
  obtain ⟨-, -, -, hlost, -⟩ := h partnered (by decide)
  obtain ⟨t, f, ht, -, -, hqueue, -⟩ := hlost rfl ⟨by decide, by decide⟩
  have hm : t.m = partnerLost partnered.m := machine_of_leaves ht
  have hempty : partnered.m.faults.queue = [] := rfl
  have htwo := congrArg List.length faults_partnerLost
  rw [← hm, hqueue, hempty] at htwo
  simp at htwo

end Sys2Proof.Machine
end

section
/-! PROOFS. Words and bytes that hardware writes into memory as part of granules that read clean, and reads back (R2, R115,
R238, R241, R315). -/

namespace Sys2Proof.Machine

open Sys2Proof

set_option Elab.async false -- one proof at a time: the threads of many at once exceed the memory of a check

/-! ### Granules that read clean -/

theorem readsClean_of_mem {m n : Mach} {g : Nat} (h : readsClean m g) (hn : n.mem = m.mem) : readsClean n g := by
  rw [readsClean, hn]
  exact h

/-- A write leaves a clean granule clean, that which it writes or another. -/
theorem readsClean_writeGran {w : Acc} {g g' : Nat} {d : Gran} {k : BitVec 16} {t : Bool} {m : Mach} (h : readsClean m g)
    (h' : readsClean m g') : readsClean (writeGran w g d k t m) g' := by
  obtain ⟨herr, hpois⟩ := h'
  rw [readsClean, mem_writeGran_clean h, err_putGran, poison_putGran, herr, hpois, ite_self, ite_self]
  exact ⟨rfl, rfl⟩

/-- Reading clean granules leaves nothing behind (R238). -/
theorem hwTouch_clean {l : List Nat} {m : Mach} (h : ∀ g ∈ l, readsClean m g) : hwTouch l m = m :=
  foldl_fixed _ _ _ fun g hg => by rw [readGran_clean _ _ _ (h g hg).1]

/-- A clean granule is taken as it stands. -/
theorem hwData_clean {g : Nat} {m : Mach} (h : readsClean m g) : hwData g m = m.mem.data g := by
  obtain ⟨herr, hpois⟩ := h
  simp [hwData, decodeGran, herr, hpois]

/-! ### Memory by its bytes -/

theorem byteOf_data (mem : Memory) (g : Nat) {i : Nat} (h : i < 16) : byteOf (mem.data g) i = mem.byte (16 * g + i) := by
  have hl : ((range (16 * g) 16).map mem.byte).length = 16 := rfl
  exact (byteOf_packBytes hl.le (hl ▸ h)).trans (by simp [range_eq])

theorem hwRead8_clean {a : Addr} {m : Mach} (h : readsClean m (granOf a)) : hwRead8 a m = m.mem.byte a.toNat := by
  have ha : 16 * granOf a + a.toNat % 16 = a.toNat := Nat.div_add_mod ..
  rw [hwRead8, hwData_clean h]
  exact (byteOf_data m.mem _ (by omega)).trans (by rw [ha])

/-- A word of 32 bits by its bytes. -/
theorem eq_of_byteOf {x y : W32} (h : ∀ i, i < 4 → byteOf x i = byteOf y i) : x = y := by
  apply BitVec.eq_of_getLsbD_eq
  intro k hk
  have hb : k % 8 < 8 := by omega
  have hd : 8 * (k / 8) + k % 8 = k := by omega
  have := congrArg (·.getLsbD (k % 8)) (h (k / 8) (by omega))
  simpa only [getLsbD_byteOf _ _ _ hb, hd] using this

theorem byteOf_fld (v : Gran) (o : Nat) {i : Nat} (h : i < 4) : byteOf (fld v (8 * o) 32) i = byteOf v (o + i) := by
  apply BitVec.eq_of_getLsbD_eq
  intro j hj
  have hlt : 8 * i + j < 32 := by omega
  have hsum : 8 * o + (8 * i + j) = 8 * (o + i) + j := by omega
  rw [getLsbD_byteOf _ _ _ hj, getLsbD_byteOf _ _ _ hj, getLsbD_fld, decide_eq_true hlt, Bool.true_and, hsum]

theorem byteOf_hwRead32 {a : Addr} {m : Mach} (h : readsClean m (granOf a)) (ha : a.toNat % 16 + 4 ≤ 16) {i : Nat} (hi : i < 4) :
    byteOf (hwRead32 a m) i = m.mem.byte (a.toNat + i) := by
  have hsum : 16 * granOf a + (a.toNat % 16 + i) = a.toNat + i := by
    rw [granOf]
    omega
  rw [hwRead32, hwData_clean h, byteOf_fld _ _ hi, byteOf_data m.mem _ (by omega), hsum]

/-- A word is what its four bytes are. -/
theorem hwRead32_eq {a : Addr} {m : Mach} {v : W32} (h : readsClean m (granOf a)) (ha : a.toNat % 16 + 4 ≤ 16)
    (hv : ∀ i, i < 4 → m.mem.byte (a.toNat + i) = byteOf v i) : hwRead32 a m = v :=
  eq_of_byteOf fun i hi => by rw [byteOf_hwRead32 h ha hi, hv i hi]

/-! ### Writes by their bytes -/

/-- A write changes the bytes of its mask alone (R115). -/
theorem byte_writeGran {w : Acc} {g : Nat} {d : Gran} {k : BitVec 16} {t : Bool} {m : Mach} (h : readsClean m g) (j : Nat) :
    (writeGran w g d k t m).mem.byte j
      = if j / 16 = g ∧ k.getLsbD (j % 16) = true then byteOf d (j % 16) else m.mem.byte j := by
  have hj : j % 16 < 16 := by omega
  have hold : j / 16 = g → byteOf (m.mem.data g) (j % 16) = m.mem.byte j := fun hg => by
    rw [byteOf_data _ _ hj, ← hg, Nat.div_add_mod]
  rw [mem_writeGran_clean h, byte_putGran, byteOf_written _ _ _ hj]
  by_cases hg : j / 16 = g
  · simp only [hg, hold hg, if_true, true_and]
  · simp only [hg, if_false, false_and]

/-- A value placed in its granule. -/
theorem byteOf_placed {k : Nat} (v : BitVec k) {o i : Nat} (h : o + i < 16) :
    byteOf (put 128 v (8 * o)) (o + i) = byteOf v i := by
  rw [put, byteOf_shiftLeft _ h]
  apply BitVec.eq_of_getLsbD_eq
  intro j hj
  have hlt : 8 * i + j < 128 := by omega
  rw [getLsbD_byteOf _ _ _ hj, getLsbD_byteOf _ _ _ hj, BitVec.getLsbD_setWidth, decide_eq_true hlt, Bool.true_and]

/-- The mask of the `n` bytes from byte `o` of a granule on. -/
theorem getLsbD_ones_shiftLeft {n o i : Nat} (hi : i < 16) :
    ((BitVec.ofNat 16 (2 ^ n - 1)) <<< o).getLsbD i = true ↔ o ≤ i ∧ i < o + n := by
  have hlt : i - o < 16 := by omega
  rw [BitVec.getLsbD_shiftLeft, BitVec.getLsbD_ofNat, Nat.testBit_two_pow_sub_one]
  simp only [hi, hlt, decide_true, Bool.true_and, Bool.and_eq_true, Bool.not_eq_true', decide_eq_true_eq, decide_eq_false_iff_not]
  omega

/-- The `n` low bytes of a value written within a granule. -/
theorem byte_written {k n : Nat} (v : BitVec k) {a : Addr} {m : Mach} (h : readsClean m (granOf a))
    (ha : a.toNat % 16 + n ≤ 16) (j : Nat) :
    (writeGran Acc.other (granOf a) (put 128 v (8 * (a.toNat % 16))) ((BitVec.ofNat 16 (2 ^ n - 1)) <<< (a.toNat % 16)) false
      m).mem.byte j = if a.toNat ≤ j ∧ j < a.toNat + n then byteOf v (j - a.toNat) else m.mem.byte j := by
  have hj : j % 16 < 16 := by omega
  have hin : (j / 16 = granOf a ∧ a.toNat % 16 ≤ j % 16 ∧ j % 16 < a.toNat % 16 + n) ↔ (a.toNat ≤ j ∧ j < a.toNat + n) := by
    rw [granOf]
    omega
  simp only [byte_writeGran h, getLsbD_ones_shiftLeft hj, hin]
  split
  · have hmod : j % 16 = a.toNat % 16 + (j - a.toNat) := by omega
    rw [hmod, byteOf_placed v (by omega)]
  · rfl

theorem byte_hwWrite32 {a : Addr} {m : Mach} (v : W32) (h : readsClean m (granOf a)) (ha : a.toNat % 16 + 4 ≤ 16) (j : Nat) :
    (hwWrite32 a v m).mem.byte j = if a.toNat ≤ j ∧ j < a.toNat + 4 then byteOf v (j - a.toNat) else m.mem.byte j :=
  byte_written (n := 4) v h ha j

theorem byte_hwWrite8 {a : Addr} {m : Mach} (v : Byte) (h : readsClean m (granOf a)) (j : Nat) :
    (hwWrite8 a v m).mem.byte j = if j = a.toNat then v else m.mem.byte j := by
  refine (byte_written (n := 1) v h (by omega) j).trans ?_
  have hone : (a.toNat ≤ j ∧ j < a.toNat + 1) ↔ j = a.toNat := by omega
  rw [if_congr hone rfl rfl]
  split
  · next hj =>
    rw [hj, Nat.sub_self]
    exact BitVec.extractLsb'_eq_self
  · rfl

theorem hwRead32_hwWrite32_same {a : Addr} {m : Mach} (v : W32) (h : readsClean m (granOf a)) (ha : a.toNat % 16 + 4 ≤ 16) :
    hwRead32 a (hwWrite32 a v m) = v :=
  hwRead32_eq (readsClean_writeGran h h) ha fun i hi => by
    rw [byte_hwWrite32 v h ha, if_pos (by omega), Nat.add_sub_cancel_left]

theorem hwRead32_hwWrite32_apart {a b : Addr} {m : Mach} (v : W32) (h : readsClean m (granOf a)) (ha : a.toNat % 16 + 4 ≤ 16)
    (hb : readsClean m (granOf b)) (hb4 : b.toNat % 16 + 4 ≤ 16) (hapart : b.toNat + 4 ≤ a.toNat ∨ a.toNat + 4 ≤ b.toNat) :
    hwRead32 b (hwWrite32 a v m) = hwRead32 b m :=
  hwRead32_eq (readsClean_writeGran h hb) hb4 fun i hi => by
    rw [byte_hwWrite32 v h ha, if_neg (by omega), byteOf_hwRead32 hb hb4 hi]

/-! ### The parameter block of a channel (R315) -/

theorem toNat_parAddr (c : BitVec 8) {o : Nat} (ho : o < 0x400) : (parAddr c o).toNat = 0x40FC_0000 + 1024 * c.toNat + o := by
  have hc := c.isLt
  simp only [parAddr, put, BitVec.toNat_add, BitVec.toNat_shiftLeft, BitVec.toNat_setWidth, Nat.shiftLeft_eq, BitVec.toNat_ofNat]
  omega

theorem granOf_parAddr (c : BitVec 8) {o : Nat} (ho : o < 0x400) : granOf (parAddr c o) = 0x40F_C000 + 64 * c.toNat + o / 16 := by
  rw [granOf, toNat_parAddr c ho]
  omega

end Sys2Proof.Machine
end

section
/-! PROOFS. A HART modem and its mailbox in parameter RAM: what a change of the modem and the end of a transaction leave (O43,
R291 to R293). -/

namespace Sys2Proof.Machine

open Sys2Proof

set_option Elab.async false -- one proof at a time: the threads of many at once exceed the memory of a check

/-! ### The modem -/

theorem isHart_iff (x : Chan) : isHart x = true ↔ x.mode = 10 ∨ x.mode = 11 := by simp [isHart]

@[simp] theorem send_outbox (o : Out) (m : Mach) : (send o m).outbox = m.outbox ++ [o] := rfl
@[simp] theorem send_chans (o : Out) (m : Mach) : (send o m).chans = m.chans := rfl

/-- The modem of a channel changed, with its mailbox as it was. -/
def turnHart (c : BitVec 8) (f : Hart → Hart) (m : Mach) : Mach := modChan c (fun x => { x with hart := f x.hart }) m

@[simp] theorem chan_turnHart (c : BitVec 8) (f : Hart → Hart) (m : Mach) :
    (turnHart c f m).chans.get c = { m.chans.get c with hart := f (m.chans.get c).hart } := Tbl.get_upd_same ..
theorem hart_turnHart (c : BitVec 8) (f : Hart → Hart) (m : Mach) :
    ((turnHart c f m).chans.get c).hart = f (m.chans.get c).hart := by rw [chan_turnHart]
@[simp] theorem turnHart_mem (c : BitVec 8) (f : Hart → Hart) (m : Mach) : (turnHart c f m).mem = m.mem := rfl
@[simp] theorem turnHart_outbox (c : BitVec 8) (f : Hart → Hart) (m : Mach) : (turnHart c f m).outbox = m.outbox := rfl

/-- A change of the modem, and of its status in the mailbox with it. -/
theorem modHart_eq (c : BitVec 8) (f : Hart → Hart) (m : Mach) :
    modHart c f m = hwWrite32 (parAddr c 0x204) (f (m.chans.get c).hart).word (turnHart c f m) := by
  rw [modHart, ← turnHart, putHstat, chan_turnHart]

@[simp] theorem hart_modHart (c : BitVec 8) (f : Hart → Hart) (m : Mach) :
    ((modHart c f m).chans.get c).hart = f (m.chans.get c).hart := by
  rw [modHart_eq, hwWrite32, writeGran_chans, chan_turnHart]

@[simp] theorem modHart_outbox (c : BitVec 8) (f : Hart → Hart) (m : Mach) : (modHart c f m).outbox = m.outbox := by
  rw [modHart_eq, hwWrite32, writeGran_outbox, turnHart_outbox]

/-- The end of a transaction is a change of the modem that the owner is told of (R293, R336). -/
theorem endHart_eq (c : BitVec 8) (st : BitVec 3) (m : Mach) :
    endHart c st m = pend (m.owner.get c) 1 (modHart c (fun h => { h with state := st }) m) := rfl

@[simp] theorem hart_endHart (c : BitVec 8) (st : BitVec 3) (m : Mach) :
    ((endHart c st m).chans.get c).hart = { (m.chans.get c).hart with state := st } := by
  rw [endHart_eq, pend_chans, hart_modHart]

@[simp] theorem endHart_outbox (c : BitVec 8) (st : BitVec 3) (m : Mach) : (endHart c st m).outbox = m.outbox := by
  rw [endHart_eq, pend_outbox, modHart_outbox]

theorem mem_endHart (c : BitVec 8) (st : BitVec 3) (m : Mach) :
    (endHart c st m).mem = (modHart c (fun h => { h with state := st }) m).mem := by
  rw [endHart_eq, pend_mem]

/-- An interrupt that has become pending. -/
theorem getLsbD_pend (o : BitVec 10) {b : Nat} (hb : b < 4) (m : Mach) : ((pend o b m).ints.get o).getLsbD b = true := by
  rw [pend, Tbl.get_upd_same, BitVec.getLsbD_or, getLsbD_at_ _ _ _ _ hb]
  simp

theorem told_endHart {c : BitVec 8} (st : BitVec 3) {m n : Mach} (h : n.owner = m.owner) :
    ((endHart c st n).ints.get (m.owner.get c)).getLsbD 1 = true := by
  rw [← h, endHart_eq]
  exact getLsbD_pend _ (by decide) _

/-- An attempt that fails is the last at the third try (R291, R293). -/
theorem hart_hartFailed (c : BitVec 8) (st : BitVec 3) (m : Mach) : ((hartFailed c st m).chans.get c).hart
    = { (m.chans.get c).hart with state := if (m.chans.get c).hart.tries = 3 then st else 1 } := by
  by_cases h : (m.chans.get c).hart.tries = 3
  · have hlast : hartFailed c st m = endHart c st m := if_pos h
    simp only [hlast, hart_endHart, if_pos h]
  · have hnext : hartFailed c st m = modHart c (fun h => { h with state := 1#3 }) m := if_neg h
    simp only [hnext, hart_modHart, if_neg h]
    rfl

theorem told_hartFailed {c : BitVec 8} (st : BitVec 3) {m n : Mach} (h : n.owner = m.owner)
    (ht : (n.chans.get c).hart.tries = 3) : ((hartFailed c st n).ints.get (m.owner.get c)).getLsbD 1 = true := by
  have hlast : hartFailed c st n = endHart c st n := if_pos ht
  rw [hlast]
  exact told_endHart st h

/-! ### The mailbox (R292) -/

/-- The mailbox of channel `c` reads clean. -/
def MailClean (c : BitVec 8) (m : Mach) : Prop := ∀ o, 0x200 ≤ o → o < 0x400 → readsClean m (granOf (parAddr c o))

/-- The mailbox is the 32 granules from its control word on. -/
theorem mailClean_of_granules {c : BitVec 8} {m : Mach} (h : ∀ k, k < 32 → readsClean m (granOf (parAddr c 0x200) + k)) :
    MailClean c m := fun o hlo hhi => by
  have hg : granOf (parAddr c 0x200) + (o / 16 - 0x20) = granOf (parAddr c o) := by
    rw [granOf_parAddr c hhi, granOf_parAddr c (by decide)]
    omega
  exact hg ▸ h _ (by omega)

theorem mailClean_of_mem {c : BitVec 8} {m n : Mach} (h : MailClean c m) (hn : n.mem = m.mem) : MailClean c n :=
  fun o hlo hhi => readsClean_of_mem (h o hlo hhi) hn

theorem mailClean_writeGran {c : BitVec 8} {m : Mach} (h : MailClean c m) {w : Acc} {o : Nat} {d : Gran} {k : BitVec 16}
    {t : Bool} (hlo : 0x200 ≤ o) (hhi : o < 0x400) : MailClean c (writeGran w (granOf (parAddr c o)) d k t m) :=
  fun o' hlo' hhi' => readsClean_writeGran (h o hlo hhi) (h o' hlo' hhi')

/-- What stands at offset `o` of the parameter block of channel `c`. -/
def Memory.mail (mem : Memory) (c : BitVec 8) (o : Nat) : Byte := mem.byte (0x40FC_0000 + 1024 * c.toNat + o)

section
variable {c : BitVec 8} {m : Mach} (h : MailClean c m) {o : Nat} (hlo : 0x200 ≤ o) (hhi : o < 0x400)
include h hlo hhi

theorem hwRead8_mail : hwRead8 (parAddr c o) m = m.mem.mail c o := by
  rw [hwRead8_clean (h o hlo hhi), toNat_parAddr c hhi, Memory.mail]

theorem mail_hwWrite8 (v : Byte) (j : Nat) :
    (hwWrite8 (parAddr c o) v m).mem.mail c j = if j = o then v else m.mem.mail c j := by
  have hj : (0x40FC_0000 + 1024 * c.toNat + j = 0x40FC_0000 + 1024 * c.toNat + o) ↔ j = o := by omega
  rw [Memory.mail, byte_hwWrite8 v (h o hlo hhi), toNat_parAddr c hhi, if_congr hj rfl rfl, Memory.mail]

variable (ho : o % 16 + 4 ≤ 16)
include ho

theorem mail_hwWrite32 (v : W32) (j : Nat) :
    (hwWrite32 (parAddr c o) v m).mem.mail c j = if o ≤ j ∧ j < o + 4 then byteOf v (j - o) else m.mem.mail c j := by
  have ha := toNat_parAddr c hhi
  have hin : ((parAddr c o).toNat ≤ 0x40FC_0000 + 1024 * c.toNat + j ∧ 0x40FC_0000 + 1024 * c.toNat + j < (parAddr c o).toNat + 4)
      ↔ (o ≤ j ∧ j < o + 4) := by omega
  have hsub : 0x40FC_0000 + 1024 * c.toNat + j - (parAddr c o).toNat = j - o := by omega
  rw [Memory.mail, byte_hwWrite32 v (h o hlo hhi) (by omega), if_congr hin rfl rfl, hsub, Memory.mail]

/-- A word of the mailbox by its bytes. -/
theorem par_eq_iff (v : W32) : par m c o = v ↔ ∀ i, i < 4 → m.mem.mail c (o + i) = byteOf v i := by
  have ha := toNat_parAddr c hhi
  have hbyte (i : Nat) (hi : i < 4) : byteOf (par m c o) i = m.mem.mail c (o + i) := by
    rw [par, byteOf_hwRead32 (h o hlo hhi) (by omega) hi, ha, Memory.mail, Nat.add_assoc]
  constructor
  · rintro rfl i hi
    exact (hbyte i hi).symm
  · exact fun hv => eq_of_byteOf fun i hi => by rw [hbyte i hi, hv i hi]

theorem par_hwWrite32 (v : W32) : par (hwWrite32 (parAddr c o) v m) c o = v :=
  hwRead32_hwWrite32_same v (h o hlo hhi) (by rw [toNat_parAddr c hhi]; omega)

end

theorem mailClean_hwWrite32 {c : BitVec 8} {m : Mach} (h : MailClean c m) {o : Nat} (hlo : 0x200 ≤ o) (hhi : o < 0x400)
    (v : W32) : MailClean c (hwWrite32 (parAddr c o) v m) := mailClean_writeGran h hlo hhi

theorem mailClean_hwWrite8 {c : BitVec 8} {m : Mach} (h : MailClean c m) {o : Nat} (hlo : 0x200 ≤ o) (hhi : o < 0x400)
    (v : Byte) : MailClean c (hwWrite8 (parAddr c o) v m) := mailClean_writeGran h hlo hhi

/-- A change of the modem writes HSTAT alone. -/
theorem mail_modHart {c : BitVec 8} {m : Mach} (h : MailClean c m) (f : Hart → Hart) {o : Nat} (ho : o < 0x204 ∨ 0x208 ≤ o) :
    (modHart c f m).mem.mail c o = m.mem.mail c o := by
  have hturned : MailClean c (turnHart c f m) := mailClean_of_mem h rfl
  rw [modHart_eq, mail_hwWrite32 hturned (by decide) (by decide) (by decide), if_neg (by omega), turnHart_mem]

theorem mailClean_modHart {c : BitVec 8} {m : Mach} (h : MailClean c m) (f : Hart → Hart) : MailClean c (modHart c f m) := by
  have hturned : MailClean c (turnHart c f m) := mailClean_of_mem h rfl
  rw [modHart_eq]
  exact mailClean_hwWrite32 hturned (by decide) (by decide) _

theorem par_status_modHart {c : BitVec 8} {m : Mach} (h : MailClean c m) (f : Hart → Hart) :
    par (modHart c f m) c 0x204 = (f (m.chans.get c).hart).word := by
  have hturned : MailClean c (turnHart c f m) := mailClean_of_mem h rfl
  rw [modHart_eq]
  exact par_hwWrite32 hturned (by decide) (by decide) (by decide) _

/-- The control word keeps its value as the modem changes. -/
theorem par_control_modHart {c : BitVec 8} {m : Mach} (h : MailClean c m) (f : Hart → Hart) :
    par (modHart c f m) c 0x200 = par m c 0x200 := by
  have hold := (par_eq_iff h (o := 0x200) (by decide) (by decide) (by decide) _).mp rfl
  exact (par_eq_iff (mailClean_modHart h f) (by decide) (by decide) (by decide) _).mpr fun i hi => by
    rw [mail_modHart h f (by omega), hold i hi]

@[simp] theorem par_pend (i : BitVec 10) (b : Nat) (m : Mach) (c : BitVec 8) (o : Nat) : par (pend i b m) c o = par m c o := by
  simp only [par, hwRead32, hwData, pend_mem, pend_mc, pend_free]

/-- HSTAT begins with the state (R292). -/
theorem state_of_word (h : Hart) : h.word.toNat % 8 = h.state.toNat := by
  have hfld : fld h.word 0 3 = h.state := by
    simp (disch := omega) only [Hart.word, fld_or, fld_put_apart, fld_put_same, BitVec.or_zero]
  have hnat := toNat_fld h.word 0 3
  rw [hfld, Nat.pow_zero, Nat.div_one] at hnat
  exact hnat.symm

end Sys2Proof.Machine
end

section
/-! PROOFS. The transactions of a HART modem: a request is taken, sent, answered or given up, and the device's address is learnt
(O43, R291 to R295). -/

namespace Sys2Proof.Machine

open Sys2Proof

set_option Elab.async false -- one proof at a time: the threads of many at once exceed the memory of a check

/-! ### A request is taken (R293) -/

/-- The module once GO is cleared. -/
def goCleared (c : BitVec 8) (m : Mach) : Mach := hwWrite32 (parAddr c 0x200) (par m c 0x200 - 1) m

@[simp] theorem goCleared_chans (c : BitVec 8) (m : Mach) : (goCleared c m).chans = m.chans := by
  rw [goCleared, hwWrite32, writeGran_chans]
@[simp] theorem goCleared_owner (c : BitVec 8) (m : Mach) : (goCleared c m).owner = m.owner := by
  rw [goCleared, hwWrite32, writeGran_owner]

theorem mailClean_goCleared {c : BitVec 8} {m : Mach} (h : MailClean c m) : MailClean c (goCleared c m) :=
  mailClean_hwWrite32 h (by decide) (by decide) _

theorem par_goCleared {c : BitVec 8} {m : Mach} (h : MailClean c m) : par (goCleared c m) c 0x200 = par m c 0x200 - 1 :=
  par_hwWrite32 h (by decide) (by decide) (by decide) _

/-- To clear a bit 0 that is set is to subtract 1. -/
theorem and_not_one_of_odd {v : W32} (h : v.getLsbD 0 = true) : v &&& ~~~1#32 = v - 1 := by
  have hdisjoint : (v &&& ~~~1#32) &&& 1#32 = 0#32 := by
    rw [BitVec.and_assoc, BitVec.and_comm (~~~1#32), BitVec.and_not_self]
    exact BitVec.and_zero
  have hor : (v &&& ~~~1#32) ||| 1#32 = v := by
    apply BitVec.eq_of_getLsbD_eq
    intro i hi
    rw [BitVec.getLsbD_or, BitVec.getLsbD_and, BitVec.getLsbD_not, BitVec.getLsbD_one]
    by_cases h0 : i = 0
    · simp [h0, h]
    · simp [h0, hi]
  have hadd := BitVec.add_eq_or_of_and_eq_zero _ _ hdisjoint
  rw [hor] at hadd
  exact BitVec.eq_sub_iff_add_eq.mpr hadd

/-- A GO that is set is cleared, and what follows rests on the state and on TX_LEN. -/
theorem hartGo_set {c : BitVec 8} {m : Mach} (hx : isHart (m.chans.get c) = true) (h : MailClean c m)
    (hgo : (par m c 0x200).getLsbD 0 = true) : hartGo c m
      = let st := (m.chans.get c).hart.state
        let len : BitVec 8 := fld (par m c 0x200) 8 8
        if st = 1 ∨ st = 2 ∨ st = 3 then goCleared c m
        else if len = 0 ∨ 240 < len.toNat then endHart c 6 (goCleared c m)
        else modHart c (fun h => { h with state := 1, tries := 0 }) (goCleared c m) := by
  have htouch : hwTouch [granOf (parAddr c 0x200)] m = m :=
    hwTouch_clean fun g hg => List.mem_singleton.mp hg ▸ h 0x200 (by decide) (by decide)
  simp only [hartGo, hx, bit, hgo, htouch, and_not_one_of_odd hgo, if_true, Bool.not_true, Bool.or_self, Bool.false_eq_true,
    if_false, goCleared]
  rfl

/-! ### A request is sent (R293) -/

theorem lineQuiet_iff (m : Mach) (h : Hart) : lineQuiet m h = true ↔ h.quiet = 0 ∨ h.quiet + 2048000 ≤ m.clk := by
  simp [lineQuiet]

/-- The request in the mailbox (R292). -/
def requestBytes (c : BitVec 8) (n : Nat) (m : Mach) : List Byte := (range 0 n).map fun i => hwRead8 (parAddr c (0x210 + i)) m

/-- A queued request whose modem is free to send is sent, or ended for its length. -/
theorem hartTransmit_queued {c : BitVec 8} {m : Mach} (hx : isHart (m.chans.get c) = true) (h : MailClean c m)
    (hst : (m.chans.get c).hart.state = 1) (hid : (m.chans.get c).hart.idValid = true) (hrun : (m.chans.get c).hart.idRun = false)
    (hq : lineQuiet m (m.chans.get c).hart = true) : hartTransmit c m
      = let len : BitVec 8 := fld (par m c 0x200) 8 8
        if len = 0 ∨ 240 < len.toNat then endHart c 6 m
        else send (.hart c (requestBytes c len.toNat m)) (modHart c (fun h => { h with
          state := 2, tries := h.tries + 1, txEnd := m.clk + hartChars (5 + len.toNat + 1) }) m) := by
  have htouch : hwTouch (range (granOf (parAddr c 0x200)) (1 + ((fld (par m c 0x200) 8 8 : BitVec 8).toNat + 15) / 16)) m = m :=
    hwTouch_clean fun g hg => by
      have hlen := (fld (par m c 0x200) 8 8 : BitVec 8).isLt
      have hin := (mem_range _ _ _).mp hg
      have hfirst := granOf_parAddr c (show 0x200 < 0x400 by decide)
      have hg : g = granOf (parAddr c (0x200 + 16 * (g - granOf (parAddr c 0x200)))) := by
        rw [granOf_parAddr c (o := 0x200 + _) (by omega)]
        omega
      exact hg ▸ h _ (by omega) (by omega)
  have hst' : (m.chans.get c).hart.state = 1#3 := hst
  simp only [hartTransmit, hx, hst', hid, hrun, hq, htouch, decide_true, Bool.not_false, Bool.and_self, if_true, requestBytes]
  rfl

/-! ### A frame is received (R293 to R295) -/

/-- The modem once a carrier has ended. -/
def carrierEnded (c : BitVec 8) (m : Mach) : Mach := turnHart c (fun h => { h with quiet := m.clk }) m

theorem hart_carrierEnded (c : BitVec 8) (m : Mach) :
    ((carrierEnded c m).chans.get c).hart = { (m.chans.get c).hart with quiet := m.clk } := hart_turnHart ..

/-- A frame taken into the mailbox, byte by byte. -/
def frameStored (c : BitVec 8) (frame : List Byte) (n : Nat) (m : Mach) : Mach :=
  (range 0 n).foldl (fun m i => hwWrite8 (parAddr c (0x300 + i)) (frame.getD i 0#8) m) m

@[simp] theorem frameStored_chans (c : BitVec 8) (frame : List Byte) (n : Nat) (m : Mach) :
    (frameStored c frame n m).chans = m.chans :=
  foldl_keeps Mach.chans (fun _ _ => by rw [hwWrite8, writeGran_chans]) _ _
@[simp] theorem frameStored_owner (c : BitVec 8) (frame : List Byte) (n : Nat) (m : Mach) :
    (frameStored c frame n m).owner = m.owner :=
  foldl_keeps Mach.owner (fun _ _ => by rw [hwWrite8, writeGran_owner]) _ _

theorem frameStored_succ (c : BitVec 8) (frame : List Byte) (n : Nat) (m : Mach) : frameStored c frame (n + 1) m
    = hwWrite8 (parAddr c (0x300 + n)) (frame.getD n 0#8) (frameStored c frame n m) := by
  have hr : range 0 (n + 1) = range 0 n ++ [n] := by simp [range_eq, List.range_succ]
  rw [frameStored, hr, List.foldl_append, List.foldl_cons, List.foldl_nil, ← frameStored]

theorem mail_frameStored {c : BitVec 8} {m : Mach} (h : MailClean c m) (frame : List Byte) {n : Nat} (hn : n ≤ 256) :
    MailClean c (frameStored c frame n m) ∧ ∀ i, i < n → (frameStored c frame n m).mem.mail c (0x300 + i) = frame.getD i 0 := by
  induction n with
  | zero => exact ⟨h, fun i hi => absurd hi (Nat.not_lt_zero i)⟩
  | succ n ih =>
    obtain ⟨hclean, hbytes⟩ := ih (by omega)
    rw [frameStored_succ]
    refine ⟨mailClean_hwWrite8 hclean (by omega) (by omega) _, fun i hi => ?_⟩
    rw [mail_hwWrite8 hclean (by omega) (by omega)]
    by_cases hin : i = n
    · rw [hin, if_pos rfl]
      rfl
    · rw [if_neg (by omega), hbytes i (by omega)]

section
variable {c : BitVec 8} {m : Mach} (hx : isHart (m.chans.get c) = true)
include hx

/-- What a frame does to a modem that is not sending. -/
theorem hartFrame_idle (hst : (m.chans.get c).hart.state ≠ 2) (frame : List Byte) (answers good : Bool) (id : BitVec 40) :
    hartFrame frame answers good id c m
      = if answers && (m.chans.get c).hart.idWait then
          if good && decide (frame.length ≤ 256) then
            putDevid c id true
              (turnHart c (fun h => { h with idRun := false, idWait := false, idValid := true }) (carrierEnded c m))
          else idFailed c (carrierEnded c m)
        else if answers && decide ((m.chans.get c).hart.state = 3) then
          if good && decide (frame.length ≤ 256) then
            endHart c 4 (turnHart c (fun h => { h with rxLen := BitVec.ofNat 8 frame.length })
              (frameStored c frame frame.length (carrierEnded c m)))
          else hartFailed c 6 (carrierEnded c m)
        else modHart c (fun h => { h with discard := satInc h.discard }) (carrierEnded c m) := by
  have hheard : (carrierEnded c m).chans.get c = { m.chans.get c with hart := { (m.chans.get c).hart with quiet := m.clk } } :=
    chan_turnHart ..
  have hended : modChan c (fun x => { x with hart := { x.hart with quiet := m.clk } }) m = carrierEnded c m := rfl
  simp only [hartFrame, hx, hartWaits_of_not_sending hst, Bool.not_true, Bool.false_eq_true, if_false, hended, hheard]
  rfl

end

/-- DEVID as the module writes it (R292). -/
theorem mail_putDevid {c : BitVec 8} {m : Mach} (h : MailClean c m) (id : BitVec 40) {i : Nat} (hi : i < 5) :
    (putDevid c id true m).mem.mail c (0x208 + i) = byteOf id i := by
  have hc := c.isLt
  have hg := granOf_parAddr c (show 0x208 < 0x400 by decide)
  have hdiv : (0x40FC_0000 + 1024 * c.toNat + (0x208 + i)) / 16 = granOf (parAddr c 0x208) := by omega
  have hmod : (0x40FC_0000 + 1024 * c.toNat + (0x208 + i)) % 16 = 8 + i := by omega
  have hmask : ∀ j < 5, (0xFF00#16).getLsbD (8 + j) = true := by decide
  have hvalid : byteOf (at_ true 120 : Gran) (8 + i) = 0 := fld_at_apart true (by decide) (by omega)
  have hdata : byteOf (put 128 id 64 ||| at_ true 120 : Gran) (8 + i) = byteOf id i := by
    have hor := fld_or (put 128 id 64) (at_ true 120 : Gran) (8 * (8 + i)) 8
    rw [← byteOf_placed id (o := 8) (by omega)]
    exact hor.trans (by rw [show fld (at_ true 120 : Gran) (8 * (8 + i)) 8 = 0 from hvalid]; exact BitVec.or_zero)
  rw [Memory.mail, putDevid, byte_writeGran (h 0x208 (by decide) (by decide)), hdiv, hmod, hmask i hi, if_pos ⟨rfl, rfl⟩, hdata]

theorem mailClean_putDevid {c : BitVec 8} {m : Mach} (h : MailClean c m) (id : BitVec 40) : MailClean c (putDevid c id true m) :=
  mailClean_writeGran h (by decide) (by decide)

/-! ### No answer (R291) -/

theorem hartTimeout_late {c : BitVec 8} {m : Mach} (hx : isHart (m.chans.get c) = true) (hst : (m.chans.get c).hart.state = 3)
    (hwait : (m.chans.get c).hart.idWait = false) (hlate : (m.chans.get c).hart.txEnd + 31232000 ≤ m.clk) :
    hartTimeout c m = hartFailed c 5 m := by
  have hst' : (m.chans.get c).hart.state = 3#3 := hst
  have hidle : hartWaits c m = m := hartWaits_of_not_sending (by rw [hst]; decide)
  simp only [hartTimeout, hidle, hx, hst', hwait, hlate, decide_true, Bool.not_true, Bool.or_self, Bool.false_eq_true, if_false,
    if_true]
  rfl

/-! ### The identity sequence (R294) -/

theorem idSend_due {c : BitVec 8} {m : Mach} (hx : isHart (m.chans.get c) = true) (hrun : (m.chans.get c).hart.idRun = true)
    (hwait : (m.chans.get c).hart.idWait = false) (hnext : (m.chans.get c).hart.idNext ≤ m.clk)
    (hst : (m.chans.get c).hart.state = 0) (hq : lineQuiet m (m.chans.get c).hart = true) : idSend c m
      = send (.hart c [0x02, 0x80, 0x00, 0x00]) (turnHart c (fun h => { h with
          idWait := true, idTries := h.idTries + 1, txEnd := m.clk + hartChars 10 }) m) := by
  have hst' : (m.chans.get c).hart.state = 0#3 := hst
  simp only [idSend, hx, hrun, hwait, hnext, hst', hq]
  rfl

end Sys2Proof.Machine
end

section
/-! PROOFS. The clauses of O43. -/

namespace Sys2Proof.Machine

open Sys2Proof

set_option Elab.async false -- one proof at a time: the threads of many at once exceed the memory of a check

/-- The clock of the end of a request of `n` data bytes on the wire (R291, R293). -/
theorem hartChars_request (n : Nat) : hartChars (5 + n + 1) = (6 + n) * 11 * 102400000 / 1200 := by
  rw [hartChars, show 5 + n + 1 = 6 + n by omega]

/-- A request taken: GO is cleared, and the transaction is queued, or ended for its length, unless one runs (R293). -/
theorem hartGo_takes {c : BitVec 8} {m : Mach} (hx : isHart (m.chans.get c) = true) (h : MailClean c m)
    (hgo : (par m c 0x200).getLsbD 0 = true) :
    let x := (m.chans.get c).hart
    let len := (par m c 0x200).toNat / 2 ^ 8 % 2 ^ 8
    let n := hartGo c m
    par n c 0x200 = par m c 0x200 - 1 ∧
      (x.state = 1 ∨ x.state = 2 ∨ x.state = 3 → (n.chans.get c).hart = x) ∧
      (¬(x.state = 1 ∨ x.state = 2 ∨ x.state = 3) →
        (1 ≤ len ∧ len ≤ 240 → (n.chans.get c).hart = { x with state := 1, tries := 0 } ∧ (par n c 0x204).toNat % 8 = 1) ∧
        (len = 0 ∨ 240 < len → (n.chans.get c).hart = { x with state := 6 } ∧ (par n c 0x204).toNat % 8 = 6 ∧
          (n.ints.get (m.owner.get c)).getLsbD 1 = true)) := by
  intro x len n
  have hcleared := mailClean_goCleared h
  have hlen : (fld (par m c 0x200) 8 8 : BitVec 8).toNat = len := toNat_fld ..
  have hzero : (fld (par m c 0x200) 8 8 : BitVec 8) = 0 ↔ len = 0 := fld_eq_zero_iff ..
  have hn : n = _ := hartGo_set hx h hgo
  by_cases hbusy : x.state = 1 ∨ x.state = 2 ∨ x.state = 3
  · replace hn : n = goCleared c m := hn.trans (if_pos hbusy)
    rw [hn]
    exact ⟨par_goCleared h, fun _ => by rw [goCleared_chans], fun hno => absurd hbusy hno⟩
  · replace hn := hn.trans (if_neg hbusy)
    by_cases hbad : len = 0 ∨ 240 < len
    · replace hn : n = endHart c 6 (goCleared c m) := hn.trans (if_pos (by rwa [hzero, hlen]))
      rw [hn]
      refine ⟨?_, fun h1 => absurd h1 hbusy, fun _ => ⟨fun ⟨h1, h240⟩ => absurd hbad (by omega), fun _ => ⟨?_, ?_, ?_⟩⟩⟩
      · rw [endHart_eq, par_pend, par_control_modHart hcleared, par_goCleared h]
      · rw [hart_endHart, goCleared_chans]
      · rw [endHart_eq, par_pend, par_status_modHart hcleared, state_of_word]
        rfl
      · exact told_endHart 6 (goCleared_owner c m)
    · replace hn : n = modHart c (fun h => { h with state := 1, tries := 0 }) (goCleared c m) :=
        hn.trans (if_neg (by rwa [hzero, hlen]))
      rw [hn]
      refine ⟨?_, fun h1 => absurd h1 hbusy, fun _ => ⟨fun _ => ⟨?_, ?_⟩, fun h1 => absurd h1 hbad⟩⟩
      · rw [par_control_modHart hcleared, par_goCleared h]
      · rw [hart_modHart, goCleared_chans]
      · rw [par_status_modHart hcleared, state_of_word]
        rfl

/-- A queued request is sent as it stands in the mailbox, where its length is legal (R293). -/
theorem hartTransmit_acts {c : BitVec 8} {m : Mach} (hx : isHart (m.chans.get c) = true) (h : MailClean c m)
    (hst : (m.chans.get c).hart.state = 1) (hid : (m.chans.get c).hart.idValid = true) (hrun : (m.chans.get c).hart.idRun = false)
    (hq : lineQuiet m (m.chans.get c).hart = true) :
    let x := (m.chans.get c).hart
    let len := (par m c 0x200).toNat / 2 ^ 8 % 2 ^ 8
    let n := hartTransmit c m
    (1 ≤ len → len ≤ 240 → n.outbox = m.outbox ++ [Out.hart c ((range 0x210 len).map fun k => hwRead8 (parAddr c k) m)] ∧
      (n.chans.get c).hart
        = { x with state := 2, tries := x.tries + 1, txEnd := m.clk + (6 + len) * 11 * 102400000 / 1200 }) ∧
    (len = 0 ∨ 240 < len → (n.chans.get c).hart = { x with state := 6 } ∧ (n.ints.get (m.owner.get c)).getLsbD 1 = true ∧
      n.outbox = m.outbox) := by
  intro x len n
  have hlen : (fld (par m c 0x200) 8 8 : BitVec 8).toNat = len := toNat_fld ..
  have hzero : (fld (par m c 0x200) 8 8 : BitVec 8) = 0 ↔ len = 0 := fld_eq_zero_iff ..
  have hn : n = _ := hartTransmit_queued hx h hst hid hrun hq
  refine ⟨fun hpos hmax => ?_, fun hbad => ?_⟩
  · replace hn := hn.trans (if_neg (by rw [hzero, hlen]; omega))
    rw [hlen, hartChars_request] at hn
    have hsame : requestBytes c len m = (range 0x210 len).map fun k => hwRead8 (parAddr c k) m := by
      simp only [requestBytes, range_eq, List.map_map, Function.comp_def, Nat.zero_add]
    rw [hn]
    exact ⟨by rw [send_outbox, modHart_outbox, hsame], by rw [send_chans, hart_modHart]⟩
  · replace hn : n = endHart c 6 m := hn.trans (if_pos (by rwa [hzero, hlen]))
    rw [hn]
    exact ⟨hart_endHart .., told_endHart 6 rfl, endHart_outbox ..⟩

/-- A frame that answers the request is in the mailbox, and ends the transaction (R293). -/
theorem hartFrame_answers {c : BitVec 8} {m : Mach} (hx : isHart (m.chans.get c) = true) (h : MailClean c m)
    (hst : (m.chans.get c).hart.state = 3) (hwait : (m.chans.get c).hart.idWait = false) {frame : List Byte}
    (hlen : frame.length < 256) (id : BitVec 40) :
    let n := hartFrame frame true true id c m
    (n.chans.get c).hart
        = { (m.chans.get c).hart with state := 4, quiet := m.clk, rxLen := BitVec.ofNat 8 frame.length } ∧
      ((range 0x300 frame.length).map fun k => hwRead8 (parAddr c k) n) = frame ∧
      (n.ints.get (m.owner.get c)).getLsbD 1 = true := by
  intro n
  have hended : MailClean c (carrierEnded c m) := mailClean_of_mem h rfl
  obtain ⟨hclean, hbytes⟩ := mail_frameStored hended frame hlen.le
  have hn : n = endHart c 4 (turnHart c (fun h => { h with rxLen := BitVec.ofNat 8 frame.length })
      (frameStored c frame frame.length (carrierEnded c m))) := by
    refine (hartFrame_idle hx (by rw [hst]; decide) frame true true id).trans ?_
    simp [hwait, hst, hlen.le]
  have hturned : MailClean c (turnHart c (fun h => { h with rxLen := BitVec.ofNat 8 frame.length })
      (frameStored c frame frame.length (carrierEnded c m))) := mailClean_of_mem hclean rfl
  have hmail : MailClean c n := by
    rw [hn]
    exact mailClean_of_mem (mailClean_modHart hturned _) (mem_endHart ..)
  refine ⟨?_, List.ext_getElem (by simp [range_eq]) fun i h1 h2 => ?_, ?_⟩
  · rw [hn, hart_endHart, hart_turnHart, frameStored_chans, hart_carrierEnded]
  · simp only [List.getElem_map, range_eq, List.getElem_range]
    rw [hwRead8_mail hmail (by omega) (by omega), hn, mem_endHart, mail_modHart hturned _ (by omega), turnHart_mem,
      hbytes i h2, List.getD_eq_getElem _ _ h2]
  · rw [hn]
    exact told_endHart 4 (frameStored_owner ..)

/-- The answer to command 0 ends the identity sequence, and its address is in the mailbox (R294). -/
theorem hartFrame_identifies {c : BitVec 8} {m : Mach} (hx : isHart (m.chans.get c) = true) (h : MailClean c m)
    (hst : (m.chans.get c).hart.state = 0) (hwait : (m.chans.get c).hart.idWait = true) {frame : List Byte}
    (hlen : frame.length ≤ 256) (id : BitVec 40) :
    let n := hartFrame frame true true id c m
    (n.chans.get c).hart = { (m.chans.get c).hart with quiet := m.clk, idRun := false, idWait := false, idValid := true } ∧
      ((range 0x208 5).map fun k => hwRead8 (parAddr c k) n) = bytesOf id 0 5 := by
  intro n
  have hturned : MailClean c
      (turnHart c (fun h => { h with idRun := false, idWait := false, idValid := true }) (carrierEnded c m)) :=
    mailClean_of_mem h rfl
  have hn : n = putDevid c id true
      (turnHart c (fun h => { h with idRun := false, idWait := false, idValid := true }) (carrierEnded c m)) := by
    refine (hartFrame_idle hx (by rw [hst]; decide) frame true true id).trans ?_
    simp [hwait, hlen]
  refine ⟨?_, List.ext_getElem (by simp [range_eq, length_bytesOf]) fun i h1 h2 => ?_⟩
  · rw [hn, putDevid, writeGran_chans, hart_turnHart, hart_carrierEnded]
  · have hi : i < 5 := by simpa [length_bytesOf] using h2
    simp only [List.getElem_map, range_eq, List.getElem_range]
    rw [hn, hwRead8_mail (mailClean_putDevid hturned id) (by omega) (by omega), mail_putDevid hturned id hi, getElem_bytesOf,
      Nat.zero_add]

/-- A frame that answers the request but is spoilt uses up an attempt (R291, R293). -/
theorem hartFrame_spoilt {c : BitVec 8} {m : Mach} (hx : isHart (m.chans.get c) = true)
    (hst : (m.chans.get c).hart.state = 3) (hwait : (m.chans.get c).hart.idWait = false) (frame : List Byte) (id : BitVec 40) :
    hartFrame frame true false id c m = hartFailed c 6 (carrierEnded c m) :=
  (hartFrame_idle hx (by rw [hst]; decide) frame true false id).trans (by simp [hwait, hst])

/-- A frame that answers nothing of the module's is discarded and counted (R295). -/
theorem hartFrame_foreign {c : BitVec 8} {m : Mach} (hx : isHart (m.chans.get c) = true)
    (hst : (m.chans.get c).hart.state ≠ 2) (frame : List Byte) (good : Bool) (id : BitVec 40) :
    hartFrame frame false good id c m = modHart c (fun h => { h with discard := satInc h.discard }) (carrierEnded c m) :=
  (hartFrame_idle hx hst frame false good id).trans (by simp)

/-- Settles O43: the modem's state decides what each command does, and the mailbox is read back byte by byte. -/
theorem hartTransactions : Obligations.HartTransactions := by
  unfold Obligations.HartTransactions
  intro s c x h ctl len clean isOn hart told quiet sends bytes
  have hmail (hclean : clean) : MailClean c s.m := mailClean_of_granules hclean
  have hmode (hon : isOn) : isHart (s.m.chans.get c) = true := (isHart_iff _).mpr hon
  have hquiet (hq : quiet) : lineQuiet s.m h = true := (lineQuiet_iff _ _).mpr hq
  have hheard := hart_carrierEnded c s.m
  refine ⟨fun hon hclean hgo => ⟨_, rfl, hartGo_takes (hmode hon) (hmail hclean) hgo⟩, fun hon hst hid hrun hq hclean => ?_,
    fun frame id hon hst hwait hclean hlen => ⟨?_, ?_, ?_⟩, fun frame id hon hst hwait hclean hlen =>
      ⟨_, rfl, hartFrame_identifies (hmode hon) (hmail hclean) hst hwait hlen id⟩, fun hon hst hwait hlate => ?_,
    fun hon hrun hwait hnext hst hq => ?_⟩
  · obtain ⟨hsent, hrefused⟩ := hartTransmit_acts (hmode hon) (hmail hclean) hst hid hrun (hquiet hq)
    exact ⟨fun hpos hmax => ⟨_, rfl, hsent hpos hmax⟩, fun hbad => ⟨_, rfl, hrefused hbad⟩⟩
  · exact ⟨_, rfl, hartFrame_answers (hmode hon) (hmail hclean) hst hwait hlen id⟩
  · have hn := hartFrame_spoilt (hmode hon) hst hwait frame id
    have hfailed := hart_hartFailed c 6 (carrierEnded c s.m)
    rw [hheard] at hfailed
    exact ⟨_, congrArg (leaves s) hn, hfailed, fun ht => told_hartFailed 6 rfl (by rw [hheard]; exact ht)⟩
  · have hn := hartFrame_foreign (hmode hon) (ne_of_eq_of_ne hst (by decide)) frame true id
    have hcounted := hart_modHart c (fun h => { h with discard := satInc h.discard }) (carrierEnded c s.m)
    rw [hheard] at hcounted
    exact ⟨_, congrArg (leaves s) hn, hcounted⟩
  · have hn := hartTimeout_late (hmode hon) hst hwait hlate
    exact ⟨_, congrArg (leaves s) hn, hart_hartFailed .., fun ht => told_hartFailed 5 rfl ht⟩
  · have hn := idSend_due (hmode hon) hrun hwait hnext hst (hquiet hq)
    refine ⟨_, congrArg (leaves s) hn, send_outbox .., ?_⟩
    simp only [hart, send_chans, hart_turnHart]
    rfl

end Sys2Proof.Machine
end

section
/-! PROOFS. The references of a die (O42, R282, R300). -/

namespace Sys2Proof.Machine

open Sys2Proof

set_option Elab.async false -- one proof at a time: the threads of many at once exceed the memory of a check

/-! ### A check -/

theorem verdictOf_eq_zero_iff : ∀ p : BitVec 3, verdictOf p = 0 ↔ p = 0 := by decide

/-- A die with one more check counted. -/
def Die.checked (p : BitVec 3) (x : Die) : Die :=
  { x with pattern := p, same := if x.pattern = p then x.same + 1 else 1, allIn := if p = 0 then x.allIn + 1 else 0 }

/-- A die with a verdict reached. -/
def Die.judgedAs (v : BitVec 3) (x : Die) : Die :=
  { x with judged := true, verdict := v, refOk := okBits v, refEvt := if v = 0 then x.refEvt else satInc x.refEvt }

theorem modDie_modDie (d : BitVec 2) (f g : Die → Die) (m : Mach) :
    modDie d g (modDie d f m) = modDie d (fun _ => g (f (m.dies.get d))) m := by
  have hupd : (m.dies.upd d f).upd d g = m.dies.upd d fun _ => g (f (m.dies.get d)) := Tbl.upd_upd ..
  exact congrArg (fun t => { m with dies := t }) hupd

/-- The channels of a die leave their calibration points, and the fault is logged (R282, R308). -/
def referenceFault (d : BitVec 2) (v : BitVec 3) (m : Mach) : Mach :=
  report 0x0501 (0xFF#64 ||| put 64 d 8 ||| put 64 v 16) ((dieChans d).foldl (fun m c => modChan c calReturn m) m)

/-- Verdict `v` is reached: its pattern has been seen three times in a row, and it is the first or a new one, back to all good
after 30 checks in window. -/
def Die.Reaches (v : BitVec 3) (x : Die) : Prop :=
  3 ≤ x.same ∧ (x.judged = false ∨ (x.verdict ≠ v ∧ (v = 0 → 30 ≤ x.allIn)))

theorem not_reaches_iff (v : BitVec 3) (x : Die) : ¬ x.Reaches v ↔
    (!(decide (3 ≤ x.same) && (!x.judged || (if v = 0 then decide (30 ≤ x.allIn) else true))) ||
      (x.judged && x.verdict == v)) = true := by
  rw [Die.Reaches]
  by_cases h3 : 3 ≤ x.same
  · cases x.judged with
    | false => simp [h3]
    | true =>
      by_cases h0 : v = 0#3
      · simp [h3, h0, or_comm, imp_iff_not_or]
      · simp [h3, h0]
  · simp [h3]

theorem referenceCheck_eq (d : BitVec 2) (p : BitVec 3) (m : Mach) : referenceCheck d p m
      = let v := verdictOf p
        let y := (m.dies.get d).checked p
        if (!(decide (3 ≤ y.same) && (!y.judged || (if v = 0 then decide (30 ≤ y.allIn) else true))) ||
            (y.judged && y.verdict == v)) = true then modDie d (fun _ => y) m
        else if v = 0 then modDie d (fun _ => y.judgedAs v) m
        else referenceFault d v (modDie d (fun _ => y.judgedAs v) m) := by
  simp only [referenceCheck, modDie_modDie]
  rfl

section
variable {d : BitVec 2} {p : BitVec 3} {m : Mach}

/-- A check counts, and no more. -/
theorem referenceCheck_counts (h : ¬ ((m.dies.get d).checked p).Reaches (verdictOf p)) :
    referenceCheck d p m = modDie d (fun _ => (m.dies.get d).checked p) m := by
  rw [referenceCheck_eq]
  exact if_pos ((not_reaches_iff ..).mp h)

/-- A verdict is reached. -/
theorem referenceCheck_judges (h : ((m.dies.get d).checked p).Reaches (verdictOf p)) : referenceCheck d p m
      = if verdictOf p = 0 then modDie d (fun _ => ((m.dies.get d).checked p).judgedAs (verdictOf p)) m
        else referenceFault d (verdictOf p) (modDie d (fun _ => ((m.dies.get d).checked p).judgedAs (verdictOf p)) m) := by
  rw [referenceCheck_eq]
  exact if_neg fun hno => (not_reaches_iff ..).mpr hno h

end

/-! ### The fault of a reference (R282) -/

theorem calOn_calReturn (x : Chan) : (calReturn x).calOn = none := by
  unfold calReturn
  split
  · assumption
  · rfl
  · rfl

theorem mem_dieChans {d : BitVec 2} {c : BitVec 8} (h : c.toNat / 64 = d.toNat) : c ∈ dieChans d := by
  rw [dieChans, List.mem_map]
  exact ⟨c.toNat, (mem_range _ _ _).mpr (by omega), by simp⟩

theorem referenceFault_dies (d : BitVec 2) (v : BitVec 3) (m : Mach) : (referenceFault d v m).dies = m.dies := by
  rw [referenceFault, report_dies]
  exact foldl_keeps Mach.dies (fun _ _ => modChan_dies ..) _ _

/-- No path of the die's channels is on a calibration point then. -/
theorem calOn_referenceFault {d : BitVec 2} {c : BitVec 8} (h : c.toNat / 64 = d.toNat) (v : BitVec 3) (m : Mach) :
    ((referenceFault d v m).chans.get c).calOn = none := by
  rw [referenceFault, report_chans]
  refine foldl_reaches (f := fun m c => modChan c calReturn m) (P := fun _ => True)
    (Q := fun n => (n.chans.get c).calOn = none)
    (fun _ _ _ => trivial) (fun n _ => ?_) (fun n k hn => ?_) (mem_dieChans h) trivial
  · rw [modChan_chans, Tbl.get_upd_same, calOn_calReturn]
  · rw [modChan_chans, Tbl.get_upd]
    split
    · exact calOn_calReturn _
    · exact hn

/-- The fault names the die (R434). -/
theorem queue_referenceFault (d : BitVec 2) (v : BitVec 3) {m : Mach} (h : m.faults.queue.length < 64) :
    ∃ f : FaultEvent, (referenceFault d v m).faults.queue = m.faults.queue ++ [f] ∧ f.code = 0x0501 ∧
      f.arg.toNat / 2 ^ 8 % 4 = d.toNat := by
  have hkept : ((dieChans d).foldl (fun m c => modChan c calReturn m) m).faults = m.faults :=
    foldl_keeps Mach.faults (fun _ _ => modChan_faults ..) _ _
  obtain ⟨f, hcode, harg, hq⟩ := queue_report (m := (dieChans d).foldl (fun m c => modChan c calReturn m) m)
    (by rw [hkept]; exact h) 0x0501 (0xFF#64 ||| put 64 d 8 ||| put 64 v 16)
  have hlow : fld (0xFF#64) 8 2 = 0#2 := by decide
  have hdie : fld f.arg 8 2 = d := by
    rw [harg]
    simp (disch := omega) only [fld_or, fld_put_apart, fld_put_same, hlow, BitVec.zero_or, BitVec.or_zero]
  refine ⟨f, by rw [referenceFault, hq, hkept], hcode, ?_⟩
  have hnat := toNat_fieldOf f.arg 8 2
  rw [hdie] at hnat
  exact hnat.symm

/-! ### AFE_STAT (R300) -/

/-- AFE_STATd stands in the system block. -/
theorem blockOf_afeStat : ∀ d : BitVec 2, blockOf (0x8000_0400#36 + put 36 d 2) = some (.sys (0x400 + 4 * d.toNat)) ∧
    sysCode (0x400 + 4 * d.toNat) = .d := by decide

theorem afeStat_die (d : BitVec 2) : BitVec.ofNat 2 ((0x400 + 4 * d.toNat - 0x400) / 4) = d := by
  rw [Nat.add_sub_cancel_left, Nat.mul_div_cancel_left _ (by decide), BitVec.ofNat_toNat, BitVec.setWidth_eq]

theorem sysRead_afeStat (d : BitVec 2) (m : Mach) : sysRead (0x400 + 4 * d.toNat) m = afeStatWord (m.dies.get d) := by
  have hd := d.isLt
  rw [sysRead, if_neg (by omega), if_neg (by omega), if_neg (by omega), if_neg (by omega), if_pos (by omega), afeRead,
    afeStat_die]

theorem sysReadFx_afeStat (d : BitVec 2) (m : Mach) :
    sysReadFx (0x400 + 4 * d.toNat) m = modDie d (fun x => { x with refEvt := 0 }) m := by
  have hd := d.isLt
  rw [sysReadFx, if_neg (by omega), if_neg (by omega), if_neg (by omega), if_neg (by omega), if_pos (by omega), afeStat_die]
  rfl

theorem exec_afeStatRead {s : State} {w : Who} (hm : s.m.live) (hd : w.master ≠ .debug) (d : BitVec 2) : exec (.afeStatRead w d) s
    = leaves s ((modDie d (fun x => { x with refEvt := 0 }) s.m).read (afeStatWord (s.m.dies.get d))) := by
  obtain ⟨hblock, hcode⟩ := blockOf_afeStat d
  have h := busRead_sys hm hd hblock (by rw [hcode]; rfl)
  rw [sysRead_afeStat, sysReadFx_afeStat] at h
  exact congrArg (leaves s) h

theorem afeStatWord_fields (x : Die) : (afeStatWord x).toNat % 2 ^ 4 = x.refOk.toNat ∧
    (afeStatWord x).toNat / 2 ^ 4 % 2 ^ 8 = x.grpOk.toNat ∧ (afeStatWord x).toNat / 2 ^ 16 = x.refEvt.toNat := by
  have hok : fld (afeStatWord x) 0 4 = x.refOk.setWidth 4 := by
    have hput : put 32 x.refOk 0 = put 32 (x.refOk.setWidth 4) 0 := by
      rw [put, put, BitVec.setWidth_setWidth (x := x.refOk) (by decide)]
    rw [afeStatWord, hput]
    simp (disch := omega) only [fld_or, fld_put_apart, fld_put_same, BitVec.or_zero]
  have hgrp : fld (afeStatWord x) 4 8 = x.grpOk := by
    simp (disch := omega) only [afeStatWord, fld_or, fld_put_apart, fld_put_same, BitVec.zero_or, BitVec.or_zero]
  have hevt : fld (afeStatWord x) 16 16 = x.refEvt.setWidth 16 := by
    have hput : put 32 x.refEvt 16 = put 32 (x.refEvt.setWidth 16) 16 := by
      rw [put, put, BitVec.setWidth_setWidth (x := x.refEvt) (by decide)]
    rw [afeStatWord, hput]
    simp (disch := omega) only [fld_or, fld_put_apart, fld_put_same, BitVec.zero_or]
  have h0 := toNat_fld (afeStatWord x) 0 4
  have h4 := toNat_fld (afeStatWord x) 4 8
  have h16 := toNat_fld (afeStatWord x) 16 16
  rw [hok, BitVec.toNat_setWidth] at h0
  rw [hgrp] at h4
  rw [hevt, BitVec.toNat_setWidth] at h16
  have hr := x.refOk.isLt
  have he := x.refEvt.isLt
  have hw := (afeStatWord x).isLt
  omega

/-! ### The clauses on references -/

/-- The pattern of a check, by its pairs. -/
theorem pattern_eq (ac bc ab : Bool) :
    (at_ ac 0 ||| at_ bc 1 ||| at_ ab 2 : BitVec 3) = BitVec.ofBool ab ++ BitVec.ofBool bc ++ BitVec.ofBool ac := by
  revert ac bc ab
  decide

/-- The verdict that a pattern stands for (R282). -/
theorem verdictOf_pattern (ac bc ab : Bool) :
    verdictOf (BitVec.ofBool ab ++ BitVec.ofBool bc ++ BitVec.ofBool ac) = (match ac, bc, ab with
      | false, false, false => 0
      | true, false, true => 1
      | false, true, true => 2
      | true, true, false => 3
      | _, _, _ => 4 : BitVec 3) := by
  revert ac bc ab
  decide

theorem okBits_eq : ∀ v : BitVec 3,
    okBits v = if v = 0 then 7 else if v = 1 then 6 else if v = 2 then 5 else if v = 3 then 3 else 0 := by decide

theorem exec_referenceCheck {s : State} (h : s.m.mode.mode ≠ .dormant) (d : BitVec 2) (ac bc ab : Bool) :
    exec (.referenceCheck d ac bc ab) s
      = leaves s (referenceCheck d (BitVec.ofBool ab ++ BitVec.ofBool bc ++ BitVec.ofBool ac) s.m) := by
  rw [← pattern_eq]
  exact congrArg (leaves s) (if_pos (decide_eq_true h))

end Sys2Proof.Machine
end

section
/-! PROOFS. Calibration of a path, the detectors, and the protection of a switch output (O42, R284, R286, R288, R306, R307). -/

namespace Sys2Proof.Machine

open Sys2Proof

set_option Elab.async false -- one proof at a time: the threads of many at once exceed the memory of a check

/-! ### Calibration -/

/-- A path goes on its calibration points where it is due (R306). -/
theorem calStart_due {isMain : Bool} {c : BitVec 8} {m : Mach} (hx : (m.chans.get c).mode ≠ 0)
    (hoff : (m.chans.get c).calOn = none)
    (hgood : (dieOf m c).verdict = 0)
    (hdue : (if isMain then (m.chans.get c).calNextMain else (m.chans.get c).calNextShadow) ≤ m.clk) : calStart isMain c m
      = modChan c (fun x => { x with
          calOn := some isMain, calPoint := m.clk
          calNextMain := if isMain then
              (if isMain then (m.chans.get c).calNextMain else (m.chans.get c).calNextShadow) + s600 else x.calNextMain
          calNextShadow := if isMain then x.calNextShadow else x.calNextMain + s300 }) m := by
  have hmode : decide ((m.chans.get c).mode = 0#4) = false := decide_eq_false hx
  have hverdict : decide ((dieOf m c).verdict ≠ 0#3) = false := decide_eq_false (not_not.mpr hgood)
  refine if_neg ?_
  rw [hoff, hmode, hverdict, decide_eq_false (Nat.not_lt.mpr hdue)]
  exact Bool.false_ne_true

/-- A path of a channel. -/
def Chan.path (isMain : Bool) (x : Chan) : Path := if isMain then x.main else x.shadow

/-- A path of a channel changed. -/
def Chan.withPath (isMain : Bool) (f : Path → Path) (x : Chan) : Chan :=
  if isMain then { x with main := f x.main } else { x with shadow := f x.shadow }

theorem path_withPath (isMain : Bool) (f : Path → Path) (x : Chan) : (x.withPath isMain f).path isMain = f (x.path isMain) := by
  cases isMain with
  | false => rfl
  | true => rfl

/-- A path that comes back from a calibration point settles, with what it was given (R304, R308). -/
theorem path_calReturn (isMain : Bool) (x : Chan) : ((calReturn x).path isMain).cal = (x.path isMain).cal ∧
    ((calReturn x).path isMain).gain = (x.path isMain).gain ∧ ((calReturn x).path isMain).offset = (x.path isMain).offset := by
  unfold calReturn
  split
  · exact ⟨rfl, rfl, rfl⟩
  · cases isMain with
    | false => exact ⟨rfl, rfl, rfl⟩
    | true => exact ⟨rfl, rfl, rfl⟩
  · cases isMain with
    | false => exact ⟨rfl, rfl, rfl⟩
    | true => exact ⟨rfl, rfl, rfl⟩

/-- A path with a result taken, or turned away for the factory values (R307). -/
def Path.given (ok : Bool) (gain off fg fo : W64) (p : Path) : Path :=
  if ok then { p with gain := wide (narrow gain), offset := wide (narrow off), cal := 1 }
  else { p with gain := fg, offset := fo, cal := 2 }

/-- The gain and the offset that the readings of the two points give (R307), and those of the factory. -/
def Chan.gainFrom (zero full : List (BitVec 4)) (x : Chan) : W64 :=
  div64 (u75 x) (sub64 (calReading full) (calReading zero))
def Chan.offsetFrom (zero full : List (BitVec 4)) (x : Chan) : W64 :=
  mul64 (x.gainFrom zero full ^^^ 0x8000_0000_0000_0000#64) (calReading zero)
def Chan.factoryGain (isMain : Bool) (x : Chan) : W64 := wide (if isMain then x.cfg.mainGain else x.cfg.shadGain)
def Chan.factoryOffset (isMain : Bool) (x : Chan) : W64 := wide (if isMain then x.cfg.mainOff else x.cfg.shadOff)

/-- The result is near enough to the factory's. -/
def Chan.accepts (isMain : Bool) (zero full : List (BitVec 4)) (x : Chan) : Bool :=
  calAccepts (spanOf x) (x.gainFrom zero full) (x.offsetFrom zero full) (x.factoryGain isMain) (x.factoryOffset isMain)

/-- The channel after a calibration. -/
def Chan.calibrated (isMain : Bool) (zero full : List (BitVec 4)) (x : Chan) : Chan :=
  calReturn (x.withPath isMain (Path.given (x.accepts isMain zero full) (x.gainFrom zero full) (x.offsetFrom zero full)
    (x.factoryGain isMain) (x.factoryOffset isMain)))

/-- The path has what it was given. -/
theorem path_calibrated (isMain : Bool) (zero full : List (BitVec 4)) (x : Chan) :
    let p := (x.calibrated isMain zero full).path isMain
    (x.accepts isMain zero full = true →
      p.cal = 1 ∧ p.gain = wide (narrow (x.gainFrom zero full)) ∧ p.offset = wide (narrow (x.offsetFrom zero full))) ∧
    (x.accepts isMain zero full = false → p.cal = 2 ∧ p.gain = x.factoryGain isMain ∧ p.offset = x.factoryOffset isMain) := by
  obtain ⟨hcal, hgain, hoff⟩ := path_calReturn isMain (x.withPath isMain (Path.given (x.accepts isMain zero full)
    (x.gainFrom zero full) (x.offsetFrom zero full) (x.factoryGain isMain) (x.factoryOffset isMain)))
  simp only [Chan.calibrated, hcal, hgain, hoff, path_withPath]
  refine ⟨fun hok => ?_, fun hok => ?_⟩
  · rw [hok]
    exact ⟨rfl, rfl, rfl⟩
  · rw [hok]
    exact ⟨rfl, rfl, rfl⟩

/-- The result of a calibration: the path's gain and offset, and the parameters or the fault (R307). -/
theorem calResult_due {isMain : Bool} {c : BitVec 8} {m : Mach} {zero full : List (BitVec 4)}
    (hon : (m.chans.get c).calOn = some isMain) (hdue : (m.chans.get c).calPoint + 409600 ≤ m.clk) (hzero : zero.length = 20480)
    (hfull : full.length = 20480) : calResult zero full c m
      = let x := m.chans.get c
        let n := modChan c (fun _ => x.calibrated isMain zero full) m
        let o := if isMain then 0x10 else 0x18
        if x.accepts isMain zero full then
          hwWrite32 (parAddr c (o + 4)) (narrow (x.offsetFrom zero full))
            (hwWrite32 (parAddr c o) (narrow (x.gainFrom zero full)) n)
        else report 0x0503 (argCH c ||| at_ (!isMain) 16) n := by
  have hgo : ¬ (decide (m.clk < (m.chans.get c).calPoint + 409600) || decide (zero.length ≠ pointCodes) ||
      decide (full.length ≠ pointCodes)) = true := by
    simp [hdue, hzero, hfull, pointCodes]
  simp only [calResult, hon, if_neg hgo]
  rfl

/-- Two words in a row in the parameters of a channel (R315). -/
theorem par_pair {c : BitVec 8} {m : Mach} {o : Nat} (h : readsClean m (granOf (parAddr c o))) (ho : o % 16 + 8 ≤ 16)
    (hlt : o < 0x3F0) (a b : W32) :
    par (hwWrite32 (parAddr c (o + 4)) b (hwWrite32 (parAddr c o) a m)) c o = a ∧
      par (hwWrite32 (parAddr c (o + 4)) b (hwWrite32 (parAddr c o) a m)) c (o + 4) = b := by
  have h1 := toNat_parAddr c (o := o) (by omega)
  have h2 := toNat_parAddr c (o := o + 4) (by omega)
  have hg : granOf (parAddr c (o + 4)) = granOf (parAddr c o) := by
    rw [granOf_parAddr c (by omega), granOf_parAddr c (by omega)]
    omega
  have hclean : readsClean (hwWrite32 (parAddr c o) a m) (granOf (parAddr c o)) := readsClean_writeGran h h
  have hnext : readsClean (hwWrite32 (parAddr c o) a m) (granOf (parAddr c (o + 4))) := hg ▸ hclean
  constructor
  · rw [par, hwRead32_hwWrite32_apart b hnext (by omega) hclean (by omega) (by omega)]
    exact hwRead32_hwWrite32_same a h (by omega)
  · exact hwRead32_hwWrite32_same b hnext (by omega)

/-! ### Detectors (R288) -/

theorem at_two (b : Bool) (v : Byte) : v ||| at_ b 2 = if b then v ||| 4 else v := by
  cases b with
  | false => exact BitVec.or_zero
  | true => rfl

theorem detectorsRest_iff (railLow : Bool) (x : Chan) : (decide (x.mode = 0#4) || (railLow && drivesT x)) = true ↔
    x.mode = 0 ∨ (railLow = true ∧ drivesT x = true) := by simp

/-- The detectors of a channel that is OFF, or that the field rail drives and that is low, rest (R485). -/
theorem detect_rests {railLow : Bool} {p : Probe} {c : BitVec 8} {m : Mach}
    (h : (m.chans.get c).mode = 0 ∨ (railLow = true ∧ drivesT (m.chans.get c) = true)) : detect railLow p c m = m :=
  if_pos ((detectorsRest_iff ..).mpr h)

/-- A channel after an evaluation: the counts and bits of its detectors, and the cause of an event for one that is set anew. -/
def Chan.detected (o s : Nat × Bool) (x : Chan) : Chan :=
  { x with
    openCnt := o.1, openSet := o.2, shortCnt := s.1, shortSet := s.2
    evtNow := if (o.2 && !x.openSet) || (s.2 && !x.shortSet) then x.evtNow ||| 4 else x.evtNow }

theorem detect_evaluates {railLow : Bool} {p : Probe} {c : BitVec 8} {m : Mach} {x : Chan} (hx : m.chans.get c = x)
    (h : ¬ (x.mode = 0 ∨ (railLow = true ∧ drivesT x = true))) : detect railLow p c m
      = modChan c (Chan.detected (debounce (finds x p).1 x.openCnt x.openSet)
          (debounce (finds x p).2 x.shortCnt x.shortSet)) m := by
  subst hx
  have hrest := fun hno => h ((detectorsRest_iff ..).mp hno)
  simp only [detect, if_neg hrest, at_two]
  rfl

theorem debounce_eq (found : Bool) (n : Nat) (b : Bool) :
    debounce found n b = if found = b then (0, b) else if n + 1 < 3 then (n + 1, b) else (0, found) := by
  rw [debounce]
  split
  · rfl
  · by_cases h : n + 1 < 3
    · rw [if_neg (by omega), if_pos h]
    · rw [if_pos (by omega), if_neg h]

/-! ### Switch outputs (R286) -/

theorem isSwitch_iff (x : Chan) : isSwitch x = true ↔ x.mode = 7 ∨ x.mode = 9 := by simp [isSwitch]

theorem shortOffNow_on {c : BitVec 8} {m : Mach} (hx : isSwitch (m.chans.get c) = true) (hon : isOn (m.chans.get c).drive = true)
    (hoff : (m.chans.get c).shortOff = none) : shortOffNow c m = modChan c (fun x => { x with
      shortOff := some m.clk, shortSet := true, shortCnt := 0
      evtNow := if x.shortSet then x.evtNow else x.evtNow ||| 4 }) m := by
  have hevt (x : Chan) : x.evtNow ||| at_ (!x.shortSet) 2 = if x.shortSet then x.evtNow else x.evtNow ||| 4 := by
    rw [at_two]
    cases x.shortSet with
    | false => rfl
    | true => rfl
  have hgo : (isSwitch (m.chans.get c) && isOn (m.chans.get c).drive && (m.chans.get c).shortOff.isNone) = true := by
    rw [hx, hon, hoff]
    rfl
  simp only [shortOffNow, if_pos hgo, hevt]

theorem shortRetry_due {c : BitVec 8} {m : Mach} {t : Nat} (still : Bool) (hx : isSwitch (m.chans.get c) = true)
    (hon : isOn (m.chans.get c).drive = true) (hoff : (m.chans.get c).shortOff = some t) (hdue : t + 10240000 ≤ m.clk) :
    shortRetry still c m = modChan c (fun x => { x with shortOff := if still then some m.clk else none }) m := by
  rw [shortRetry, hoff]
  exact if_pos (by rw [hx, hon, decide_eq_true hdue]; rfl)

end Sys2Proof.Machine
end

section
/-! PROOFS. The clauses of O42. -/

namespace Sys2Proof.Machine

open Sys2Proof

set_option Elab.async false -- one proof at a time: the threads of many at once exceed the memory of a check

/-- The channel and its parameters after a result that is taken (R307). -/
theorem calResult_taken {isMain : Bool} {c : BitVec 8} {m : Mach} {zero full : List (BitVec 4)} {o : Nat}
    (ho : o = if isMain then 0x10 else 0x18) (hclean : readsClean m (granOf (parAddr c 0x10)))
    (h : calResult zero full c m = hwWrite32 (parAddr c (o + 4)) (narrow ((m.chans.get c).offsetFrom zero full))
      (hwWrite32 (parAddr c o) (narrow ((m.chans.get c).gainFrom zero full))
        (modChan c (fun _ => (m.chans.get c).calibrated isMain zero full) m))) :
    (calResult zero full c m).chans.get c = (m.chans.get c).calibrated isMain zero full ∧
      par (calResult zero full c m) c o = narrow ((m.chans.get c).gainFrom zero full) ∧
      par (calResult zero full c m) c (o + 4) = narrow ((m.chans.get c).offsetFrom zero full) := by
  have ho' : o = 0x10 ∨ o = 0x18 := by rw [ho]; cases isMain <;> simp
  have hg : granOf (parAddr c 0x10) = granOf (parAddr c o) := by
    rw [granOf_parAddr c (o := 0x10) (by decide), granOf_parAddr c (by omega)]
    omega
  have hturned : readsClean (modChan c (fun _ => (m.chans.get c).calibrated isMain zero full) m) (granOf (parAddr c o)) :=
    readsClean_of_mem (hg ▸ hclean) rfl
  rw [h]
  refine ⟨?_, par_pair hturned (by omega) (by omega) _ _⟩
  rw [hwWrite32, writeGran_chans, hwWrite32, writeGran_chans, modChan_chans, Tbl.get_upd_same]

/-- The channel after a result that is turned away: the parameters stand, and the fault is logged (R307). -/
theorem calResult_rejected {isMain : Bool} {c : BitVec 8} {m : Mach} {zero full : List (BitVec 4)} {arg : W64}
    (hlen : m.faults.queue.length < 64) (h : calResult zero full c m
      = report 0x0503 arg (modChan c (fun _ => (m.chans.get c).calibrated isMain zero full) m)) :
    (calResult zero full c m).chans.get c = (m.chans.get c).calibrated isMain zero full ∧
      (calResult zero full c m).mem = m.mem ∧
      ∃ q, (calResult zero full c m).faults.queue = m.faults.queue ++ [q] ∧ q.code = 0x0503 := by
  obtain ⟨q, hcode, -, hqueue⟩ :=
    queue_report (m := modChan c (fun _ => (m.chans.get c).calibrated isMain zero full) m) hlen 0x0503 arg
  rw [h]
  exact ⟨by rw [report_chans, modChan_chans, Tbl.get_upd_same], report_mem .., q, hqueue, hcode⟩

/-- A check's three outcomes: it counts, all good is reached, a reference fails (R282). -/
theorem referenceCheck_outcomes {d : BitVec 2} {p : BitVec 3} {m : Mach} :
    let x := m.dies.get d
    let v := verdictOf p
    let y := x.checked p
    (y.same < 3 ∨ (x.judged = true ∧ x.verdict = v) ∨ (x.judged = true ∧ v = 0 ∧ y.allIn < 30) →
      referenceCheck d p m = modDie d (fun _ => y) m) ∧
    (3 ≤ y.same → v = 0 → x.judged = false ∨ (x.verdict ≠ 0 ∧ 30 ≤ y.allIn) →
      referenceCheck d p m = modDie d (fun _ => y.judgedAs 0) m) ∧
    (3 ≤ y.same → v ≠ 0 → x.judged = false ∨ x.verdict ≠ v →
      referenceCheck d p m = referenceFault d v (modDie d (fun _ => y.judgedAs v) m)) := by
  intro x v y
  refine ⟨fun h => referenceCheck_counts ?_, fun h3 h0 h => ?_, fun h3 h0 h => ?_⟩
  · rintro ⟨h3, hnew⟩
    rcases h with h | ⟨hj, hv⟩ | ⟨hj, h0, hfew⟩
    · exact absurd h3 (Nat.not_le.mpr h)
    · rcases hnew with hn | ⟨hn, -⟩
      · exact absurd (hj.symm.trans hn) nofun
      · exact hn hv
    · rcases hnew with hn | ⟨-, hn⟩
      · exact absurd (hj.symm.trans hn) nofun
      · exact absurd (hn h0) (Nat.not_le.mpr hfew)
  · have hreached : y.Reaches v := ⟨h3, h.imp_right fun ⟨hv, h30⟩ => ⟨fun hv' => hv (hv'.trans h0), fun _ => h30⟩⟩
    have hn := (referenceCheck_judges hreached).trans (if_pos h0)
    exact hn.trans (congrArg (fun v => modDie d (fun _ => y.judgedAs v) m) h0)
  · exact (referenceCheck_judges ⟨h3, h.imp_right fun hv => ⟨hv, fun h => absurd h h0⟩⟩).trans (if_neg h0)

/-- Settles O42: a die's checks by their three outcomes, a path by its calibration's result, a detector and a switch output by the
one change that each command makes. -/
theorem analogueChecks : Obligations.AnalogueChecks := by
  unfold Obligations.AnalogueChecks
  refine ⟨fun s d ac bc ab => ?_, fun s c => ?_⟩
  · intro x p v ok n k y run
    have hv : verdictOf p = v := verdictOf_pattern ac bc ab
    have hok : okBits v = ok := okBits_eq v
    have hy : x.checked p = y := by
      have hk : (if p = 0 then x.allIn + 1 else 0) = k := if_congr (by rw [← verdictOf_eq_zero_iff, hv]) rfl rfl
      rw [Die.checked, hk]
    obtain ⟨hcounts, hgood, hfails⟩ := referenceCheck_outcomes (d := d) (p := p) (m := s.m)
    rw [hv, hy] at hcounts hgood hfails
    have hrun (hmode : s.m.mode.mode ≠ .dormant) : run = leaves s (referenceCheck d p s.m) := exec_referenceCheck hmode d ac bc ab
    refine ⟨fun hmode h => (hrun hmode).trans (congrArg (leaves s) (hcounts h)),
      fun hmode h3 h0 h => (hrun hmode).trans (congrArg (leaves s) (hgood h3 h0 h)), fun ⟨hmode, hlen⟩ h3 h0 h => ?_,
      fun w hm hd => ⟨_, exec_afeStatRead hm hd d, afeStatWord_fields x⟩⟩
    obtain ⟨f, hq, hcode, harg⟩ := queue_referenceFault d v (m := modDie d (fun _ => y.judgedAs v) s.m) hlen
    refine ⟨_, f, (hrun hmode).trans (congrArg (leaves s) (hfails h3 h0 h)), ?_, hq, hcode, harg,
      fun c hc => calOn_referenceFault hc v _⟩
    have hdie : ((referenceFault d v (modDie d (fun _ => y.judgedAs v) s.m)).dies.get d) = y.judgedAs v := by
      rw [referenceFault_dies, modDie_dies, Tbl.get_upd_same]
    rw [hdie, Die.judgedAs, hok, if_neg h0]
  · intro x becomes
    refine ⟨fun hx hoff hgood => ⟨fun hdue => ?_, fun hdue => ?_⟩, ?_, fun p => ?_,
      fun hx hon => ⟨fun hoff => ?_, fun still t hoff hdue => ?_⟩⟩
    · exact congrArg (leaves s) (calStart_due (isMain := true) hx hoff hgood hdue)
    · exact congrArg (leaves s) (calStart_due (isMain := false) hx hoff hgood hdue)
    · intro zero full isMain hon hdue hzero hfull hclean hroom z gain off fg fo near o
      obtain ⟨-, hlen⟩ := hroom
      have hresult := calResult_due hon hdue hzero hfull
      obtain ⟨htaken, hrefused⟩ := path_calibrated isMain zero full x
      have hnear : near = x.accepts isMain zero full := rfl
      cases hok : x.accepts isMain zero full with
      | true =>
        obtain ⟨hcal, hpgain, hpoff⟩ := htaken hok
        obtain ⟨hchan, hgain, hoff⟩ := calResult_taken (o := o) rfl hclean (hresult.trans (if_pos hok))
        have hpath := congrArg (Chan.path isMain) hchan
        refine ⟨_, rfl, (congrArg Chan.calOn hchan).trans (calOn_calReturn _), ?_⟩
        intro path
        rw [if_pos (hnear.trans hok)]
        exact ⟨(congrArg Path.cal hpath).trans hcal, (congrArg Path.gain hpath).trans hpgain,
          (congrArg Path.offset hpath).trans hpoff, hgain, hoff⟩
      | false =>
        obtain ⟨hcal, hpgain, hpoff⟩ := hrefused hok
        obtain ⟨hchan, hmem, hqueue⟩ :=
          calResult_rejected hlen (hresult.trans (if_neg (by rw [hok]; exact Bool.false_ne_true)))
        have hpath := congrArg (Chan.path isMain) hchan
        refine ⟨_, rfl, (congrArg Chan.calOn hchan).trans (calOn_calReturn _), ?_⟩
        intro path
        rw [if_neg (by rw [hnear, hok]; exact Bool.false_ne_true)]
        exact ⟨(congrArg Path.cal hpath).trans hcal, (congrArg Path.gain hpath).trans hpgain,
          (congrArg Path.offset hpath).trans hpoff, hmem, hqueue⟩
    · intro rests seen o h new
      have ho : debounce (finds x p).1 x.openCnt x.openSet = o := debounce_eq ..
      have hh : debounce (finds x p).2 x.shortCnt x.shortSet = h := debounce_eq ..
      refine ⟨fun hrests => congrArg (leaves s) (detect_rests hrests), fun hrests => ?_⟩
      have hn := detect_evaluates (p := p) (x := x) rfl hrests
      rw [ho, hh] at hn
      exact congrArg (leaves s) hn
    · exact congrArg (leaves s) (shortOffNow_on ((isSwitch_iff x).mpr hx) hon hoff)
    · exact congrArg (leaves s) (shortRetry_due still ((isSwitch_iff x).mpr hx) hon hoff hdue)

end Sys2Proof.Machine
end
